-- ==== Sys2Proof/Word.lean ====
section
/-! DEFINITION. The words of the machine: a register is 32 bits (R12), memory is addressed by bytes (R11). -/
namespace Sys2Proof

/-- A control-window register, little-endian, 32 bits wide (R12). -/
abbrev Word := BitVec 32

/-- One byte of any memory. -/
abbrev Byte := BitVec 8

/-- A SHA-512 digest (R46). -/
abbrev Digest := BitVec 512

end Sys2Proof
end

