-- ==== Sys2Proof/Syntax.lean ====
section
/-! DEFINITION. The commands of the block: one constructor of `Instr` for each row of the table of steps. A command is a
write or read of a register, a step of one of the device's engines, a message on a port, an event at a pin, or an NVMe,
NVMe-MI or SPDM request. The table gives no operands, so the operands are the model's (log entry 1): which unit takes
the step, what arrives from outside, and, where the manual leaves a choice to the hardware, which choice was made. -/
namespace Sys2Proof

/-- An NVMe command's submission queue (0 is the admin queue) and command identifier (R408, R409). -/
structure CmdTag where
  sq : Nat
  cid : Nat
deriving DecidableEq, Repr

/-- What the SEC-DED check finds on the tile-store words that a step reads (R122): nothing, one flipped bit, or two,
at the byte address of the word. -/
inductive Upset where
  | clean
  | single (addr : Nat)
  | double (addr : Nat)
deriving DecidableEq, Repr

/-- A read of the control window: the offset of the register and the size of the access in bytes (R12). -/
structure ReadAt where
  off : Nat
  size : Nat
deriving DecidableEq, Repr

/-- A step of a tile's sequencer with what the SEC-DED check finds on the words that the step reads (R111, R122). -/
structure TileOp where
  tile : Nat
  upset : Upset
deriving DecidableEq, Repr

/-- The end of a package's hold-up flush, and the units that a second fault of their parity group lost meanwhile (R354, R355). -/
structure HoldupFlush where
  package : Nat
  lost : List Nat := []
deriving DecidableEq, Repr

/-- Whether the CRC-32C of each copy of the selector record passes as standby power comes (R73). -/
structure CopiesRead where
  copyA : Bool
  copyB : Bool
deriving DecidableEq, Repr

/-- What the line code finds on the line that a step reads (R199, R204, R206). -/
inductive LineError where
  | clean
  | corrected
  | uncorrectable
deriving DecidableEq, Repr

/-- The stage of R369 at which a flash read returned its data, stage 5 being unreadable. -/
inductive ReadStage where
  | hard
  | retry (reads entry : Nat)
  | soft
  | rebuilt
  | unreadable
deriving DecidableEq, Repr

/-- One tree entry of a HELLO (R285). -/
structure HelloTree where
  tree : Nat
  level : Nat
  side : Nat
  nchild : Nat
  peerId : Nat
deriving DecidableEq, Repr

/-- A HELLO control message (R285). -/
structure HelloMsg where
  portRole : Nat
  moduleId : Nat
  fabricId : Nat
  armId : Nat
  trees : List HelloTree
deriving DecidableEq, Repr

/-- What the header of a received flit brings beside its place in the stream (R280): the last SEQ that the neighbour has received in order, and
the credits that it returns with their class. -/
structure FlitHead where
  ack : Nat
  cvc : Nat
  credits : Nat
deriving DecidableEq, Repr

/-- The port on which flits arrive in order, and the headers of those flits, the first first; one that is not listed brings no news. -/
structure Rx where
  port : Nat
  heads : List FlitHead := []
deriving DecidableEq, Repr

/-- A packet of the fabric: the header of R297 and its payload. `crcOk` is the result of the packet's CRC-32C. -/
structure Packet where
  tree : Nat
  flags : Nat
  fmt : Nat
  step : Nat
  seg : Nat
  srcModule : Nat
  position : Nat
  fabricId : Nat
  nflags : Nat
  dst : Nat
  payload : List Byte
  crcOk : Bool
deriving DecidableEq, Repr

/-- The readings that the ledger takes at one sample (R427, R436, R495). Power is input power in W, `etaMilli` is the
compute converters' efficiency over the last budget window in thousandths, temperatures are in °C. -/
structure Readings where
  inputW : Nat
  domW : List Nat
  computeOutMw : Nat
  idleOutMw : Nat
  etaMilli : Nat
  inputMv : Nat
  bankMv : Nat
  sensedMv : Nat
  dieC : List Nat
  stackC : List Nat
  packageC : List Nat
  potential : List (Nat × Nat)
  inletC : Nat
  outletC : Nat
  flow : Nat
deriving DecidableEq, Repr

/-- One direction of one lane of a port block (R19, R288). -/
structure LaneId where
  port : Nat
  transmit : Bool
  lane : Nat
deriving DecidableEq, Repr

/-- The place of a NAND block (R364): local channel, die, block. -/
structure BlockId where
  chan : Nat
  die : Nat
  block : Nat
deriving DecidableEq, Repr

/-- How a kernel operand's piece fares at its destination (R196): its data, a read that the line code finds uncorrectable at one of the
piece's lines (R206), or unreadable for another reason. -/
inductive PieceResult where
  | good
  | uncorrectable (line : Nat)
  | failed
deriving DecidableEq, Repr

/-- The transport of an SPDM request (R463). -/
inductive Transport where
  | mctp
  | doe
deriving DecidableEq, Repr

/-- The commands. One constructor per row of the table, in its order. -/
inductive Instr where
  -- the control window
  | registerWrite (off size : Nat) (val : Word)
  | rcCounterRead (off : ReadAt)
  | lowWordRead (off : ReadAt)
  | refclkStop
  | refclkStart
  -- armature loader
  | validate (drain : Bool)
  | stage (drain : Bool)
  | reform (drain : Bool)
  | stageAndReform (drain : Bool)
  | reformToMaquette (drain : Bool)
  | reformToOtherSlot (drain : Bool)
  | validationDone
  | storingDone
  | quiesceDone
  | armQlimitExpiry
  | drainDone
  | commitDone
  | rebindDone (hwFault againFault : Bool)
  -- tiles
  | stream (tile : TileOp)
  | loadw (tile : TileOp)
  | swap (tile : TileOp)
  | vec (tile : TileOp)
  | send (tile : TileOp)
  | sync (tile : TileOp)
  | tileEnd (tile : TileOp)
  | rowStep (tile : Nat) (parityBad : Bool) (upset : Upset)
  | vectorStep (tile : Nat) (upset : Upset)
  | shadowFillDone (tile : Nat) (upset : Upset)
  | sendComplete (tile : Nat) (upset : Upset)
  | syncRelease (tile : Nat)
  | rampStageEnd (tile : Nat)
  | idleGapEnd (tile : Nat)
  | arrayRefillDone (tile : TileOp)
  | tileStoreScrub (tile : Nat) (upset : Upset)
  | watchdogExpiry (tile : Nat)
  | lateAck (tile : Nat)
  | retire (tile : Nat) (key : Nat)
  | histogramClear (tile : Nat) (freeze : Bool) (mode : Nat)
  | freeze (tile : Nat) (on : Bool)
  | histogramMode (tile : Nat) (mode : Nat)
  -- task graphs
  | loadProgram (tag : CmdTag) (slot : Nat) (image : List Byte)
  | programActivationManagement (tag : CmdTag) (slot : Nat) (activate : Bool)
  | memoryRangeSetManagement (tag : CmdTag) (id : Nat) (ranges : List (Nat × Nat))
  | executeProgram (tag : CmdTag) (slot mrs : Nat) (block : List Byte)
  | kernelDispatch
  | partAdmission
  | kernelDeadlineExpiry (run kernel : Nat)
  | runDeadlineExpiry (run : Nat)
  | preemption (cls : Nat)
  | stepBoundary (slot : Nat)
  | grfSeqSel (index : Nat)
  -- memory tiers
  | tierMqTail (index : Nat)
  | tierMqSize (entries : Nat)
  | copy
  | place
  | evict
  | clear
  | moveComplete (index : Nat)
  | directoryLookupDone (piece : Nat)
  | pieceArrival (piece dst : Nat) (result : PieceResult)
  | mvLimitExpiry (piece : Nat)
  | memoryPatrolScrub (board : Bool) (unit pc line : Nat) (found : LineError)
  | pseudoChannelFault (stack pc cause : Nat) (exhausted : Bool)
  | migrationDone (stack pc : Nat)
  | checkerEnable (key : Nat) (en : Bool)
  | writeRaw (key : Nat) (en : Bool)
  | readRaw (key : Nat) (en : Bool)
  | checkerRead (key : Nat) (en : Bool)
  -- scan
  | scnJqTail (index : Nat)
  | scnJqSize (entries : Nat)
  | append
  | delete
  | filter
  | embed
  | jobCommit (index : Nat)
  | slabScan (index slab : Nat) (lost : Bool) (crcBad : Nat)
  | jobComplete (index energyUj : Nat)
  | compaction (region slab : Nat)
  | scnJqCancel (index : Nat)
  -- search
  | srcQqTail (index : Nat)
  | srcQqSize (entries : Nat)
  | query
  | insert
  | indexDelete
  | create
  | centroidScores (index : Nat)
  | raspBatch (package region cluster : Nat) (lost : List Nat)
  | vectorFetch (index package : Nat) (cacheBad lost : Bool)
  | thresholdExchange (index src dst : Nat)
  | queryContextComplete (index package : Nat)
  | queryDeadlineExpiry (index : Nat)
  | srcQqCancel (index : Nat)
  -- fabric
  | trainingDone (port : Nat)
  | hello (port : Rx) (msg : HelloMsg)
  | helloResend (port : Nat)
  | flitDiscard (port : Nat)
  | idle (port ack cvc credits : Nat) (payloadDiffers : Bool)
  | nak (port : Rx) (expected : Nat)
  | replayLimit (port : Nat)
  | laneMap (port : Rx) (mask firstSeq : Nat)
  | tsReq (port : Rx) (t1 t2 : Nat)
  | tsRsp (port : Rx) (t1 t2 t3 t4 : Nat)
  | timeSync
  | window (port : Rx) (tree mode step base : Nat)
  | abortFlit (port : Rx) (tree origin step seg : Nat)
  | depart (port : Rx) (moduleId : Nat)
  | census (port : Rx) (tree count : Nat)
  | mode (port : Rx) (tree flag step : Nat)
  | creditInit (port : Rx) (pool : Nat) (escape : List Nat)
  | peerAck (port : Rx) (result bytes : Nat)
  | grad (port : Rx) (pkt : Packet)
  | racc (port : Rx) (pkt : Packet)
  | param (port : Rx) (pkt : Packet)
  | peerWr (port : Rx) (pkt : Packet)
  | lossOfLock (lane : LaneId)
  | fecErrorLimit (lane : LaneId) (codewords : Nat)
  | laneRetrainDone (lane : LaneId) (ok : Bool)
  | reductionDeadlineExpiry (tree seg : Nat)
  | segmentSum (tree seg : Nat) (residueBad : Bool)
  | post (tree count : Nat)
  | hostAbort (tree : Nat)
  | resume (tree : Nat)
  | hold (tree : Nat)
  | release (tree : Nat)
  | fabTimeSet (hi lo : Word)
  | go (port : Nat)
  -- update unit
  | load (slot : Nat)
  | updateSegment (tree seg : Nat)
  | lrTagCommit (tree : Nat) (step : Word)
  | lrWaitExpiry (tree : Nat)
  | updLogSel (index : Nat)
  -- flash translation
  | writeAdmission (package : Nat)
  | nandProgramDone (package lunit place : Nat) (ok : Bool)
  | journalCommit (package : Nat) (verified : Bool)
  | castWrite (package : Nat)
  | gcBatch (package : Nat) (src : BlockId) (places : List Nat)
  | blockErase (package group : Nat)
  | eraseDone (package : Nat) (blk : BlockId) (ok : Bool)
  | eraseSuspend (package : Nat) (blk : BlockId)
  | powerFailure
  | dirtyListWritten (package : Nat)
  | holdupFlushDone (package : HoldupFlush)
  | sealWritten (package : Nat)
  | journalHeadsLocated (package : Nat)
  | castsLoaded (package : Nat)
  | journalReplayed (package : Nat)
  | dirtyListsReconciled (package : Nat)
  | validCountsRebuilt (package : Nat)
  | packageReady (package ms : Nat)
  | mapLineRebuild (package line : Nat) (castReadable : Bool)
  | writeBufferFlush (package : Nat)
  | castNow (package : Nat)
  | shutdownNotification (package : Nat)
  -- flash media
  | nandReadDone (package lunit : Nat) (stage : ReadStage)
  | retentionPatrol (package : Nat) (blk : BlockId) (refresh : Bool)
  | rawRead (package key : Nat) (stage : ReadStage)
  | readNoecc (package key : Nat) (sensed : List Byte)
  | medBlkSel (package : Nat) (val : Word)
  | dieBusyTimeout (package chan : Nat) (exhausted : Bool)
  | channelTransientFault (package chan cause : Nat) (exhausted : Bool)
  | rebuildGroupDone (package : Nat)
  -- host interface
  | perstAssert
  | perstDeassert (strapLow : Bool)
  | nvmSubsystemReset
  | flr
  | hotReset
  | dlDown
  | linkRetrain
  | controllerDisable
  | controllerEnable (crime : Bool)
  | poisonedTlp (tag : CmdTag)
  | completionTimeout (tag : CmdTag)
  | sqTailDoorbell (sq tail : Nat)
  | cqHeadDoorbell (cq head : Nat)
  | commandFetch (tag : CmdTag) (opcode nsid first count : Nat)
  | identify (tag : CmdTag) (cns nsid : Nat)
  | getFeatures (tag : CmdTag) (fid : Nat)
  | setFeatures (tag : CmdTag) (fid dw11 : Nat) (apst : List (Nat × Nat))
  | getLogPage (tag : CmdTag) (lid lsp nsid : Nat)
  | createIoSubmissionQueue (tag : CmdTag) (qid size cqid : Nat)
  | createIoCompletionQueue (tag : CmdTag) (qid size vector : Nat)
  | deleteIoSubmissionQueue (tag : CmdTag) (qid : Nat)
  | deleteIoCompletionQueue (tag : CmdTag) (qid : Nat)
  | abort (tag target : CmdTag)
  | asynchronousEventRequest (tag : CmdTag)
  | firmwareImageDownload (tag : CmdTag) (offset : Nat) (data : List Byte)
  | firmwareCommit (tag : CmdTag) (slot action : Nat)
  | formatNvm (tag : CmdTag) (nsid ses : Nat)
  | deviceSelfTest (tag : CmdTag) (stc : Nat)
  | read (tag : CmdTag) (nsid slba nlb : Nat)
  | write (tag : CmdTag) (nsid slba : Nat) (data : List Byte)
  | flush (tag : CmdTag) (nsid : Nat)
  | writeZeroes (tag : CmdTag) (nsid slba nlb : Nat) (deallocate : Bool)
  | datasetManagement (tag : CmdTag) (nsid : Nat) (ranges : List (Nat × Nat))
  | memoryRead (tag : CmdTag) (addr len : Nat)
  | memoryWrite (tag : CmdTag) (addr : Nat) (data : List Byte)
  | memoryCopy (tag : CmdTag) (nsid : Nat) (ranges : List (Nat × Nat)) (dst : Nat)
  | apstIdleTimerExpiry (target : Nat)
  | powerStateEntryDone
  | powerStateExitDone
  | readNvmeMiDataStructure (dtyp : Nat)
  | nvmSubsystemHealthStatusPoll (clear : Bool)
  | controllerHealthStatusPoll (clear : Bool)
  | configurationGet (item : Nat)
  | configurationSet (item value : Nat)
  | vpdRead (offset len : Nat)
  | reset
  | getVersion (via : Transport)
  | getCapabilities (via : Transport)
  | negotiateAlgorithms (via : Transport) (asym hash : Nat)
  | getDigests (via : Transport)
  | getCertificate (via : Transport) (slot offset len : Nat)
  | challenge (via : Transport) (nonce : List Byte)
  | getMeasurements (via : Transport) (index : Nat) (nonce : List Byte)
  | unsupportedRequest (via : Transport) (code : Nat)
  -- energy ledger
  | ledgerSample (r : Readings)
  | inputComparatorTrip
  | comparatorHoldEnd
  | huNow
  | huPeriodExpiry
  | huLoadApplied (esrMohm : Nat)
  | huFallTimed (fallUs : Nat)
  | huRecharged (ok : Bool)
  | huRetryTimer
  -- start-up
  | inputRise
  | standbyRegulated
  | otpRead (strapLow : Bool)
  | optionAreaLoaded (copies : CopiesRead)
  | identityChecked (copyMatches : Bool)
  | firmwareVerified
  | firmwareRunning
  | linkDetect
  | configurationReady
  | coreRailsUp
  | stacksTrained
  | tileSelfTestDone (failed : List Nat)
  | armatureSelected (maquetteOk : Bool)
  | coreRebindDone (hwFault againFault : Bool)
  | bootWatchdogExpiry
  | recoveryRestart
  | install
  | glbIdsel (index : Nat)
  | faultWindowLapse (cls unit : Nat)
  | faultTimeSave
  | fwWindowHi (cls : Nat) (val : Word)
  | fwWindowLo (cls : Nat) (val : Word)
  | glbFrecSel (index : Nat)
  -- pins and supplies
  | pwrdisAssert
  | pwrdisDeassert
  | overcurrentShutdown
  | coolantFault
  | coolantRecovered
  | lowFlowTrip
  | identBlink
  | fillerStep (tile : Nat)
  | holdupExhausted (package : Nat)
  | bankCharged
  | gen8NChange (low : Bool)
  | linkUp (gen width : Nat) (flit : Bool)
  | hostReadCompletionError (tag : CmdTag)
  | mctpControlMessage (eid : Nat)
  | optionAreaMoveDone (half : Nat)
  | selfTestSegmentDone (ok : Bool) (tile : Nat)
deriving DecidableEq, Repr

end Sys2Proof
end

