-- ==== Sys2Proof/WellFormed.lean ====
section
/-! DEFINITION. Which commands are well formed: every operand that names a unit, a field or an index lies within the width
that the identifiers of R19 and the register maps give it. -/
namespace Sys2Proof

/-- Every operand of the command lies in its range (R19). -/
def wellFormed : Instr → Bool
  | .registerWrite off size _ => decide (off < 0x4000000) && decide (size ≤ 64)
  | .rcCounterRead r => decide (r.off < 0x4000000) && decide (r.size ≤ 64)
  | .lowWordRead r => decide (r.off < 0x4000000) && decide (r.size ≤ 64)
  | .refclkStop => true
  | .refclkStart => true
  | .validate _ => true
  | .stage _ => true
  | .reform _ => true
  | .stageAndReform _ => true
  | .reformToMaquette _ => true
  | .reformToOtherSlot _ => true
  | .validationDone => true
  | .storingDone => true
  | .quiesceDone => true
  | .armQlimitExpiry => true
  | .drainDone => true
  | .commitDone => true
  | .rebindDone _ _ => true
  | .stream x => decide (x.tile < 1024)
  | .loadw x => decide (x.tile < 1024)
  | .swap x => decide (x.tile < 1024)
  | .vec x => decide (x.tile < 1024)
  | .send x => decide (x.tile < 1024)
  | .sync x => decide (x.tile < 1024)
  | .tileEnd x => decide (x.tile < 1024)
  | .rowStep tile _ _ => decide (tile < 1024)
  | .vectorStep tile _ => decide (tile < 1024)
  | .shadowFillDone tile _ => decide (tile < 1024)
  | .sendComplete tile _ => decide (tile < 1024)
  | .syncRelease tile => decide (tile < 1024)
  | .rampStageEnd tile => decide (tile < 1024)
  | .idleGapEnd tile => decide (tile < 1024)
  | .arrayRefillDone x => decide (x.tile < 1024)
  | .tileStoreScrub tile _ => decide (tile < 1024)
  | .watchdogExpiry tile => decide (tile < 1024)
  | .lateAck tile => decide (tile < 1024)
  | .retire tile _ => decide (tile < 1024)
  | .histogramClear tile _ mode => decide (tile < 1024) && decide (mode < 4)
  | .freeze tile _ => decide (tile < 1024)
  | .histogramMode tile mode => decide (tile < 1024) && decide (mode < 4)
  | .loadProgram tag slot _ => decide (tag.sq ≤ 256 ∧ tag.cid < 65536) && decide (slot < 65536)
  | .programActivationManagement tag slot _ => decide (tag.sq ≤ 256 ∧ tag.cid < 65536) && decide (slot < 65536)
  | .memoryRangeSetManagement tag id _ => decide (tag.sq ≤ 256 ∧ tag.cid < 65536) && decide (id < 65536)
  | .executeProgram tag slot mrs block => decide (tag.sq ≤ 256 ∧ tag.cid < 65536) && decide (slot < 65536) && decide (mrs < 65536) && decide (block.length ≤ 4096)
  | .kernelDispatch => true
  | .partAdmission => true
  | .kernelDeadlineExpiry _ _ => true
  | .runDeadlineExpiry _ => true
  | .preemption cls => decide (cls < 16)
  | .stepBoundary slot => decide (slot < 256)
  | .grfSeqSel index => decide (index < 4096)
  | .tierMqTail index => decide (index < 65536)
  | .tierMqSize _ => true
  | .copy => true
  | .place => true
  | .evict => true
  | .clear => true
  | .moveComplete index => decide (index < 65536)
  | .directoryLookupDone _ => true
  | .pieceArrival _ _ _ => true
  | .mvLimitExpiry _ => true
  | .memoryPatrolScrub _ unit pc _ _ => decide (unit < 20) && decide (pc < 64)
  | .pseudoChannelFault stack pc _ _ => decide (stack < 20) && decide (pc < 64)
  | .migrationDone stack pc => decide (stack < 20) && decide (pc < 64)
  | .checkerEnable _ _ => true
  | .writeRaw _ _ => true
  | .readRaw _ _ => true
  | .checkerRead _ _ => true
  | .scnJqTail index => decide (index < 65536)
  | .scnJqSize _ => true
  | .append => true
  | .delete => true
  | .filter => true
  | .embed => true
  | .jobCommit index => decide (index < 65536)
  | .slabScan index _ _ _ => decide (index < 65536)
  | .jobComplete index _ => decide (index < 65536)
  | .compaction region _ => decide (region < 65536)
  | .scnJqCancel index => decide (index < 65536)
  | .srcQqTail index => decide (index < 65536)
  | .srcQqSize _ => true
  | .query => true
  | .insert => true
  | .indexDelete => true
  | .create => true
  | .centroidScores index => decide (index < 65536)
  | .raspBatch package region cluster _ => decide (package < 4) && decide (region < 65536) && decide (cluster < 2 ^ 32)
  | .vectorFetch index package _ _ => decide (index < 65536) && decide (package < 4)
  | .thresholdExchange index src dst => decide (index < 65536) && decide (src < 4) && decide (dst < 4)
  | .queryContextComplete index package => decide (index < 65536) && decide (package < 4)
  | .queryDeadlineExpiry index => decide (index < 65536)
  | .srcQqCancel index => decide (index < 65536)
  | .trainingDone port => decide (port < 24)
  | .hello port _ => decide (port.port < 24)
  | .helloResend port => decide (port < 24)
  | .flitDiscard port => decide (port < 24)
  | .idle port _ _ _ _ => decide (port < 24)
  | .nak port _ => decide (port.port < 24)
  | .replayLimit port => decide (port < 24)
  | .laneMap port mask _ => decide (port.port < 24) && decide (mask < 256)
  | .tsReq port _ _ => decide (port.port < 24)
  | .tsRsp port _ _ _ _ => decide (port.port < 24)
  | .timeSync => true
  | .window port tree _ _ _ => decide (port.port < 24) && decide (tree < 16)
  | .abortFlit port tree _ _ _ => decide (port.port < 24) && decide (tree < 16)
  | .depart port moduleId => decide (port.port < 24) && decide (moduleId < 8192)
  | .census port tree _ => decide (port.port < 24) && decide (tree < 16)
  | .mode port tree _ _ => decide (port.port < 24) && decide (tree < 16)
  | .creditInit port pool _ => decide (port.port < 24) && decide (pool < 65536)
  | .peerAck port _ _ => decide (port.port < 24)
  | .grad port _ => decide (port.port < 24)
  | .racc port _ => decide (port.port < 24)
  | .param port _ => decide (port.port < 24)
  | .peerWr port _ => decide (port.port < 24)
  | .lossOfLock lane => decide (lane.port < 24 ∧ lane.lane < 8)
  | .fecErrorLimit lane _ => decide (lane.port < 24 ∧ lane.lane < 8)
  | .laneRetrainDone lane _ => decide (lane.port < 24 ∧ lane.lane < 8)
  | .reductionDeadlineExpiry tree _ => decide (tree < 16)
  | .segmentSum tree _ _ => decide (tree < 16)
  | .post tree count => decide (tree < 16) && decide (count < 2 ^ 32)
  | .hostAbort tree => decide (tree < 16)
  | .resume tree => decide (tree < 16)
  | .hold tree => decide (tree < 16)
  | .release tree => decide (tree < 16)
  | .fabTimeSet _ _ => true
  | .go port => decide (port < 16)
  | .load slot => decide (slot < 16)
  | .updateSegment tree _ => decide (tree < 16)
  | .lrTagCommit tree _ => decide (tree < 16)
  | .lrWaitExpiry tree => decide (tree < 16)
  | .updLogSel index => decide (index < 64)
  | .writeAdmission package => decide (package < 4)
  | .nandProgramDone package lunit _ _ => decide (package < 4) && decide (lunit < 2 ^ 32)
  | .journalCommit package _ => decide (package < 4)
  | .castWrite package => decide (package < 4)
  | .gcBatch package src _ => decide (package < 4) && decide (src.chan < 32 ∧ src.die < 10)
  | .blockErase package _ => decide (package < 4)
  | .eraseDone package blk _ => decide (package < 4) && decide (blk.chan < 32 ∧ blk.die < 10)
  | .eraseSuspend package blk => decide (package < 4) && decide (blk.chan < 32 ∧ blk.die < 10)
  | .powerFailure => true
  | .dirtyListWritten package => decide (package < 4)
  | .holdupFlushDone package => decide (package.package < 4)
  | .sealWritten package => decide (package < 4)
  | .journalHeadsLocated package => decide (package < 4)
  | .castsLoaded package => decide (package < 4)
  | .journalReplayed package => decide (package < 4)
  | .dirtyListsReconciled package => decide (package < 4)
  | .validCountsRebuilt package => decide (package < 4)
  | .packageReady package _ => decide (package < 4)
  | .mapLineRebuild package _ _ => decide (package < 4)
  | .writeBufferFlush package => decide (package < 4)
  | .castNow package => decide (package < 4)
  | .shutdownNotification package => decide (package < 4)
  | .nandReadDone package lunit _ => decide (package < 4) && decide (lunit < 2 ^ 32)
  | .retentionPatrol package blk _ => decide (package < 4) && decide (blk.chan < 32 ∧ blk.die < 10)
  | .rawRead package _ _ => decide (package < 4)
  | .readNoecc package _ sensed => decide (package < 4) && decide (sensed.length = 18592)
  | .medBlkSel package _ => decide (package < 4)
  | .dieBusyTimeout package chan _ => decide (package < 4) && decide (chan < 32)
  | .channelTransientFault package chan _ _ => decide (package < 4) && decide (chan < 32)
  | .rebuildGroupDone package => decide (package < 4)
  | .perstAssert => true
  | .perstDeassert _ => true
  | .nvmSubsystemReset => true
  | .flr => true
  | .hotReset => true
  | .dlDown => true
  | .linkRetrain => true
  | .controllerDisable => true
  | .controllerEnable _ => true
  | .poisonedTlp tag => decide (tag.sq ≤ 256 ∧ tag.cid < 65536)
  | .completionTimeout tag => decide (tag.sq ≤ 256 ∧ tag.cid < 65536)
  | .sqTailDoorbell sq tail => decide (sq < 65536) && decide (tail < 65536)
  | .cqHeadDoorbell cq head => decide (cq < 65536) && decide (head < 65536)
  | .commandFetch tag opcode nsid _ _ => decide (tag.sq ≤ 256 ∧ tag.cid < 65536) && decide (opcode < 256) && decide (nsid < 2 ^ 32)
  | .identify tag cns nsid => decide (tag.sq ≤ 256 ∧ tag.cid < 65536) && decide (cns < 256) && decide (nsid < 2 ^ 32)
  | .getFeatures tag fid => decide (tag.sq ≤ 256 ∧ tag.cid < 65536) && decide (fid < 256)
  | .setFeatures tag fid dw11 _ => decide (tag.sq ≤ 256 ∧ tag.cid < 65536) && decide (fid < 256) && decide (dw11 < 2 ^ 32)
  | .getLogPage tag lid lsp nsid => decide (tag.sq ≤ 256 ∧ tag.cid < 65536) && decide (lid < 256) && decide (lsp < 16) && decide (nsid < 2 ^ 32)
  | .createIoSubmissionQueue tag qid _ cqid => decide (tag.sq ≤ 256 ∧ tag.cid < 65536) && decide (qid < 65536) && decide (cqid < 65536)
  | .createIoCompletionQueue tag qid _ _ => decide (tag.sq ≤ 256 ∧ tag.cid < 65536) && decide (qid < 65536)
  | .deleteIoSubmissionQueue tag qid => decide (tag.sq ≤ 256 ∧ tag.cid < 65536) && decide (qid < 65536)
  | .deleteIoCompletionQueue tag qid => decide (tag.sq ≤ 256 ∧ tag.cid < 65536) && decide (qid < 65536)
  | .abort tag target => decide (tag.sq ≤ 256 ∧ tag.cid < 65536) && decide (target.sq ≤ 256 ∧ target.cid < 65536)
  | .asynchronousEventRequest tag => decide (tag.sq ≤ 256 ∧ tag.cid < 65536)
  | .firmwareImageDownload tag _ _ => decide (tag.sq ≤ 256 ∧ tag.cid < 65536)
  | .firmwareCommit tag slot action => decide (tag.sq ≤ 256 ∧ tag.cid < 65536) && decide (slot < 8) && decide (action < 8)
  | .formatNvm tag nsid _ => decide (tag.sq ≤ 256 ∧ tag.cid < 65536) && decide (nsid < 2 ^ 32)
  | .deviceSelfTest tag _ => decide (tag.sq ≤ 256 ∧ tag.cid < 65536)
  | .read tag nsid slba nlb => decide (tag.sq ≤ 256 ∧ tag.cid < 65536) && decide (nsid < 2 ^ 32) && decide (slba < 2 ^ 64) && decide (nlb ≤ 65536)
  | .write tag nsid slba _ => decide (tag.sq ≤ 256 ∧ tag.cid < 65536) && decide (nsid < 2 ^ 32) && decide (slba < 2 ^ 64)
  | .flush tag nsid => decide (tag.sq ≤ 256 ∧ tag.cid < 65536) && decide (nsid < 2 ^ 32)
  | .writeZeroes tag nsid slba nlb _ => decide (tag.sq ≤ 256 ∧ tag.cid < 65536) && decide (nsid < 2 ^ 32) && decide (slba < 2 ^ 64) && decide (nlb ≤ 65536)
  | .datasetManagement tag nsid _ => decide (tag.sq ≤ 256 ∧ tag.cid < 65536) && decide (nsid < 2 ^ 32)
  | .memoryRead tag addr len => decide (tag.sq ≤ 256 ∧ tag.cid < 65536) && decide (addr < 2 ^ 64) && decide (len < 2 ^ 32)
  | .memoryWrite tag addr _ => decide (tag.sq ≤ 256 ∧ tag.cid < 65536) && decide (addr < 2 ^ 64)
  | .memoryCopy tag nsid _ _ => decide (tag.sq ≤ 256 ∧ tag.cid < 65536) && decide (nsid < 2 ^ 32)
  | .apstIdleTimerExpiry target => decide (target < 32)
  | .powerStateEntryDone => true
  | .powerStateExitDone => true
  | .readNvmeMiDataStructure _ => true
  | .nvmSubsystemHealthStatusPoll _ => true
  | .controllerHealthStatusPoll _ => true
  | .configurationGet _ => true
  | .configurationSet _ _ => true
  | .vpdRead _ len => decide (len < 65536)
  | .reset => true
  | .getVersion _ => true
  | .getCapabilities _ => true
  | .negotiateAlgorithms _ _ _ => true
  | .getDigests _ => true
  | .getCertificate _ _ _ len => decide (len < 2 ^ 32)
  | .challenge _ _ => true
  | .getMeasurements _ index _ => decide (index < 65536)
  | .unsupportedRequest _ _ => true
  | .ledgerSample _ => true
  | .inputComparatorTrip => true
  | .comparatorHoldEnd => true
  | .huNow => true
  | .huPeriodExpiry => true
  | .huLoadApplied _ => true
  | .huFallTimed _ => true
  | .huRecharged _ => true
  | .huRetryTimer => true
  | .inputRise => true
  | .standbyRegulated => true
  | .otpRead _ => true
  | .optionAreaLoaded _ => true
  | .identityChecked _ => true
  | .firmwareVerified => true
  | .firmwareRunning => true
  | .linkDetect => true
  | .configurationReady => true
  | .coreRailsUp => true
  | .stacksTrained => true
  | .tileSelfTestDone _ => true
  | .armatureSelected _ => true
  | .coreRebindDone _ _ => true
  | .bootWatchdogExpiry => true
  | .recoveryRestart => true
  | .install => true
  | .glbIdsel index => decide (index < 2048)
  | .faultWindowLapse cls _ => decide (cls < 5)
  | .faultTimeSave => true
  | .fwWindowHi cls _ => decide (cls < 4)
  | .fwWindowLo cls _ => decide (cls < 4)
  | .glbFrecSel index => decide (index < 4096)
  | .pwrdisAssert => true
  | .pwrdisDeassert => true
  | .overcurrentShutdown => true
  | .coolantFault => true
  | .coolantRecovered => true
  | .lowFlowTrip => true
  | .identBlink => true
  | .fillerStep tile => decide (tile < 1024)
  | .holdupExhausted package => decide (package < 4)
  | .bankCharged => true
  | .gen8NChange _ => true
  | .linkUp gen width _ => decide (gen < 8) && decide (width ≤ 8)
  | .hostReadCompletionError tag => decide (tag.sq ≤ 256 ∧ tag.cid < 65536)
  | .mctpControlMessage eid => decide (eid < 256)
  | .optionAreaMoveDone half => decide (half < 2)
  | .selfTestSegmentDone _ tile => decide (tile < 1024)

end Sys2Proof
end

