-- ==== Sys2Proof/Decode.lean ====
section
/-! DEFINITION. The commands that a word spells by the table's bits. The table of steps gives no row any bits, so no word
spells a command (log entry 4). -/
namespace Sys2Proof

/-- A row of the table that gives bits: how many, the fixed bits as mask and value, and the command. -/
abbrev TableRow := Nat × Nat × Nat × Instr

/-- The rows of the table that give bits: none. -/
def tableRows : List TableRow := []

/-- The command that a word of `nbits` bits spells: the first row of that length whose fixed bits match. -/
def decodeTableWord (nbits w : Nat) : Option Instr :=
  (tableRows.find? (fun r => r.1 == nbits && Nat.land w r.2.1 == r.2.2.1)).map (fun r => r.2.2.2)

end Sys2Proof
end

