-- ==== Sys2Proof/Config.lean ====
section
/-! DEFINITION. What an implementation or another standard fixes and this manual does not state as numbers:
constants with no body. Nothing in Lean can compute one of them, so a claim holds whatever they are. -/
namespace Sys2Proof.Config

/-- SHA-512 of a string of bytes (R46, R448, R452, R464). The manual names the function and does not restate it:
log entry 5. -/
opaque sha512 : List Byte → Digest

/-- Whether an RSA-4096 signature with SHA-512 over a string of bytes verifies with a public modulus (exponent
65,537; R46, R453, R460): modulus, signed bytes, signature. Log entry 5. -/
opaque rsaOk : List Byte → List Byte → List Byte → Bool

/-- The boot ROM's digest of Dalanath firmware key `k` (R453, check 2). Log entry 5. -/
opaque romKeyDigest : Nat → Digest

/-- The seven check bytes of the line code of R199 for 64 data bytes and a tag byte: the manual names a Reed-Solomon
code over GF(2^8) and gives neither its field polynomial nor its generator. Log entry 6. -/
opaque lineCheck : BitVec 512 → BitVec 8 → BitVec 56

/-- The data and the tag of the code word of R199 that differs from a stored line in the fewest symbols. Log entry 6. -/
opaque nearestWord : BitVec 576 → BitVec 512 × BitVec 8

/-- Whether a line whose stored symbols differ from its last encoded word in five symbols or more is read as
uncorrectable: R199 says such errors lie outside the code's guarantee. A free value of the stored bytes and a fresh
counter. Log entry 6. -/
opaque beyondCodeDetected : BitVec 576 → Nat → Bool

/-- The data that a read returns when the code is beyond its guarantee and detects nothing (R199). Log entry 6. -/
opaque beyondCodeData : BitVec 576 → Nat → BitVec 512

/-- The scores of the tokens, token 0 first, that a model gives after a prompt and the tokens generated so far (R176): the ARM_ID, the bytes of
the model, the prompt. The manual does not say where the scores lie. Log entry 7. -/
opaque scores : Nat → List Byte → List Byte → List Nat → List Nat

/-- The number that the counter-based generator draws for a seed and the position of the token being generated (R176). Log entry 7. -/
opaque randomNumber : Nat → Nat → Nat

/-- The token that sampling takes from scores with the sampling fields of R170 and a random number (R176). Log entry 7. -/
opaque sampledToken : List Nat → Nat → Nat → Nat

/-- A byte of a kernel's outputs (R161): the ARM_ID, the graph's tile programs, the kernel, its numeric settings, what its inputs held at its
dispatch, the work list of the step it belongs to, and the byte's place in the outputs. Log entry 15. -/
opaque outputByte : Nat → List Byte → Nat → List Nat → List Byte → List (Nat × Nat × Nat) → Nat → Byte

/-- The element of a kernel's bias operand that belongs to a column of a block, where the kernel has several (R155): part, the block's weight
address in units of 64 bytes, column. Log entry 110. -/
opaque biasColumn : Nat → Nat → Nat → Nat

/-- Tokens that the router gives an expert in a step (R175): the manual gives its output no format. The bytes of the router kernel's outputs
and the expert. Log entry 14. -/
opaque expertTokens : List Byte → Nat → Nat

/-- What a line of the stack granules that the device reserves holds (R145): a number whose remainder by 4 says which table and whose quotient
says which slot or entry of it. Log entry 128. -/
opaque reservedUse : Nat → Nat

/-- What a line of a package's BM_SCAN or BM_VCACHE partition holds (R239, R207): a number whose remainder by 4 says which kind of contents, and
whose quotient which of them. Log entry 132. -/
opaque boardUse : Nat → Nat

/-- The bytes of a request on an internal port, at most one flit of them (R279, R319): the manual gives MEM packets no layout. The address and the
length that it asks for, and whether a copy of the home is asked. Log entry 138. -/
opaque memRequest : Nat → Nat → Bool → List Byte

/-- A byte of the PRBS31 sequence, by its place in the sequence (R317): the manual names the sequence and does not give its start. Log entry
139. -/
opaque prbs31 : Nat → Byte

/-- Whether a member is not its pair's primary (R297, R301): its tree, its MODULE_ID, its partner's. The parent's CHILD order decides it, which the
member does not hold. Log entry 140. -/
opaque pairBackup : Nat → Nat → Nat → Bool

/-- A byte that the manual leaves unspecified (R162, R241, R274): a fresh value each time. Log entry 8. -/
opaque freeByte : Nat → Byte

/-- A word that the manual leaves unspecified: a fresh value each time. Log entry 8. -/
opaque freeWord : Nat → Word

/-- A choice between two outcomes that the manual allows and does not decide: a fresh value each time. Log entry 8. -/
opaque freeBool : Nat → Bool

/-- A signature made by the security unit's private key (R463), which never leaves it. Log entry 5. -/
opaque deviceSignature : List Byte → List Byte

/-- The certificate chain of slot 0 (R463), held in OTP. Log entry 5. -/
opaque certificateChain : List Byte

/-- SHA-512 of the identity page, which OTP holds (R448, R451): the page's vendor, date, part number and signature are not given. Log
entry 5. -/
opaque identityDigest : Digest

/-- DIGEST of the maquette's image (R67, R464): its bytes are not given. Log entry 5. -/
opaque maquetteDigest : Digest

/-- A byte of the vital product data (R423), whose contents are not given. Log entry 8. -/
opaque vpdByte : Nat → Byte

/-- SHA-512 of the boot ROM, measurement 1 (R464). Log entry 5. -/
opaque bootRomDigest : Digest

end Sys2Proof.Config
end

