-- ==== Sys2Proof/Machine/Sparse.lean ====
section
/-! DEFINITION. Sparse data by key: a list of key and value pairs in one canonical form, keys strictly rising and no
entry equal to what an unlisted key reads as. Every memory and register file of the state is held so. -/
namespace Sys2Proof.Machine

/-- A sparse map from numbers: what an unlisted key reads as is the first argument of each operation. -/
abbrev Sparse (β : Type) := List (Nat × β)

/-- The value at a key. -/
def Sparse.get {β : Type} (d : β) : Sparse β → Nat → β
  | [], _ => d
  | (k', v) :: t, k => if k' = k then v else Sparse.get d t k

/-- Puts a pair where the rising order of keys wants it. -/
def Sparse.place {β : Type} (k : Nat) (v : β) : Sparse β → Sparse β
  | [] => [(k, v)]
  | (k', v') :: t => if k < k' then (k, v) :: (k', v') :: t else (k', v') :: Sparse.place k v t

/-- The map without a key. -/
def Sparse.drop {β : Type} (k : Nat) : Sparse β → Sparse β
  | [] => []
  | (k', v') :: t => if k' = k then Sparse.drop k t else (k', v') :: Sparse.drop k t

/-- Writes a value at a key. Writing what an unlisted key reads as removes the entry. -/
def Sparse.set {β : Type} [DecidableEq β] (d : β) (m : Sparse β) (k : Nat) (v : β) : Sparse β :=
  if v = d then Sparse.drop k m else Sparse.place k v (Sparse.drop k m)

/-- The keys are above a bound and strictly rising, and no value is the default. -/
def Sparse.wfFrom {β : Type} [DecidableEq β] (d : β) : Nat → Sparse β → Bool
  | _, [] => true
  | lo, (k, v) :: t => decide (lo ≤ k) && decide (v ≠ d) && Sparse.wfFrom d (k + 1) t

/-- The canonical form. -/
def Sparse.wf {β : Type} [DecidableEq β] (d : β) (m : Sparse β) : Bool := Sparse.wfFrom d 0 m

/-- A byte memory: unlisted addresses read as zero. -/
abbrev Memory := Sparse Byte

/-- One byte of a memory. -/
def Memory.byte (m : Memory) (a : Nat) : Byte := Sparse.get 0 m a

/-- Writes one byte. -/
def Memory.setByte (m : Memory) (a : Nat) (b : Byte) : Memory := Sparse.set 0 m a b

/-- The canonical form of a memory. -/
def Memory.wf (m : Memory) : Bool := Sparse.wf (0 : Byte) m

/-- `n` bytes from an address. -/
def Memory.bytes (m : Memory) (a : Nat) : Nat → List Byte
  | 0 => []
  | n + 1 => Memory.byte m a :: Memory.bytes m (a + 1) n

/-- Writes bytes from an address upward. -/
def Memory.setBytes (m : Memory) : Nat → List Byte → Memory
  | _, [] => m
  | a, b :: t => Memory.setBytes (Memory.setByte m a b) (a + 1) t

/-- A little-endian number of `n` bytes (R12, R85). -/
def Memory.nat (m : Memory) (a : Nat) : Nat → Nat
  | 0 => 0
  | n + 1 => (Memory.byte m a).toNat + 256 * Memory.nat m (a + 1) n

/-- A little-endian number from a list of bytes. -/
def leNat : List Byte → Nat
  | [] => 0
  | b :: t => b.toNat + 256 * leNat t

/-- The `n` little-endian bytes of a number. -/
def leBytes : Nat → Nat → List Byte
  | 0, _ => []
  | n + 1, v => BitVec.ofNat 8 v :: leBytes n (v / 256)

/-- The little-endian number at bytes `off` to `off + n - 1` of a list. -/
def fieldAt (l : List Byte) (off n : Nat) : Nat := leNat ((l.drop off).take n)

/-- Bits `[hi:lo]` of a number. -/
def bitsOf (v hi lo : Nat) : Nat := (v / 2 ^ lo) % 2 ^ (hi + 1 - lo)

/-- Bit `i` of a number. -/
def bitOf (v i : Nat) : Bool := (v / 2 ^ i) % 2 = 1

/-- One as a number where a condition holds. -/
def one (b : Bool) : Nat := if b then 1 else 0

/-- Sum of a list. -/
def sumNat : List Nat → Nat
  | [] => 0
  | n :: t => n + sumNat t

/-- ⌈a ÷ b⌉. -/
def ceilDiv (a b : Nat) : Nat := (a + b - 1) / b

/-- Replaces entry `i` of a list. -/
def setAt {β : Type} : List β → Nat → β → List β
  | [], _, _ => []
  | _ :: t, 0, v => v :: t
  | h :: t, i + 1, v => h :: setAt t i v

/-- Changes entry `i` of a list. -/
def modAt {β : Type} (f : β → β) : List β → Nat → List β
  | [], _ => []
  | h :: t, 0 => f h :: t
  | h :: t, i + 1 => h :: modAt f t i

/-- Changes every entry that meets a condition. -/
def updateWhere {β : Type} (p : β → Bool) (f : β → β) : List β → List β
  | [] => []
  | h :: t => (if p h then f h else h) :: updateWhere p f t

end Sys2Proof.Machine
end

