-- ==== Sys2Proof/Machine/State.lean ====
section
/-! DEFINITION. The state of the module as plain data, and the state right after reset. -/
namespace Sys2Proof.Machine

/-- Which build the module is (R1, R2): storage packages and external ports fitted. Fixed at final test. -/
structure Build where
  sp : Nat := 4
  xp : Nat := 16
deriving DecidableEq, Repr

/-! ## Armature images (02_armature.md) -/

/-- A region record of the FLASH section (R53). -/
structure Region where
  type : Nat
  id : Nat
  egrp : Nat
  spMask : Nat
  sizeGib : Nat
  flags : Nat
  param : Nat
deriving DecidableEq, Repr

/-- A tree record of the FABRIC section (R57). -/
structure TreeRec where
  tree : Nat
  root : Bool
  parent : Nat
  nchild : Nat
  children : List Nat
  level : Nat
  deadline : Nat
  policy : Nat
  updProg : Nat
  segFirst : Nat
  segCount : Nat
  peerId : Nat
deriving DecidableEq, Repr

/-- The board-memory partition of one package (R50), in granules. -/
structure BoardPart where
  map : Nat
  wbuf : Nat
  vcache : Nat
  scan : Nat
  slm : Nat
deriving DecidableEq, Repr

/-- A decoded armature: what its nine sections say (R43 to R65). -/
structure Armature where
  armId : Nat
  role : Nat
  reqSp : Nat
  reqXp : Nat
  fwMin : Nat
  flags : Nat
  mins : List Nat
  roles : List Nat
  stkSlm : Nat
  stkWeight : Nat
  stkWork : Nat
  stkIlv : Nat
  board : List BoardPart
  egrpCount : Nat
  rrLimit : List Nat
  wlSpread : List Nat
  regions : List Region
  fabricId : Nat
  moduleId : Nat
  portRole : List Nat
  trees : List TreeRec
  totalW : Nat
  domW : List Nat
  vminMv : Nat
  vmaxMv : Nat
  group : Nat
  outRound : Nat
  fp8Ovf : Nat
  gradWire : Nat
  faultWindow : List Nat
  faultRetry : List Nat
  gen8 : Bool
  honorStrap : Bool
  lockMask : Nat
  digest : Digest
deriving DecidableEq, Repr

/-- What the selector record names (R73). -/
inductive Selected where
  | slotA
  | slotB
  | maquette
deriving DecidableEq, Repr

/-- A copy of the selector record (R73): its sequence number, what it names, and whether its CRC-32C passes. -/
structure SelCopy where
  seq : Nat := 0
  names : Selected := .maquette
  crcOk : Bool := true
deriving DecidableEq, Repr

/-- A user slot of the option area (R72). -/
structure ArmSlot where
  valid : Bool := false
  seq : Nat := 0
  image : List Byte := []
deriving DecidableEq, Repr

/-! ## What survives a loss of power: the option area and OTP (12_media.md, 15_start_identity.md) -/

/-- A firmware image as the checks of R453 see it. -/
structure FwImage where
  series : Nat := 3
  revision : Nat := 0
  svn : Nat := 0
  keyId : Nat := 0
  revoke : Nat := 0
  formOk : Bool := true
  keyOk : Bool := true
  digestOk : Bool := true
  sigOk : Bool := true
  digest : Digest := 0
deriving DecidableEq, Repr

/-- An entry of the fault log (R485). -/
structure FaultRec where
  event : Nat := 0
  time : Nat := 0
  cls : Nat := 0
  kind : Nat := 0
  cause : Nat := 0
  unit : Nat := 0
  elapsed : Nat := 0
deriving DecidableEq, Repr

/-- An entry of the power-loss ledger (R363) or of the media loss log (R386). -/
structure LossRec where
  event : Nat
  cause : Nat
  flags : Nat
  regionType : Nat
  regionId : Nat
  block : Nat
  count : Nat
  package : Nat
  chanA : Nat
  chanB : Nat
  stamp : Nat
deriving DecidableEq, Repr

/-- A log with a header (R363, R386). -/
structure LossLog where
  entries : List LossRec := []
  events : Nat := 0
  blocks : Nat := 0
  overflow : Bool := false
deriving DecidableEq, Repr

/-- A resource's last transient fault: class, unit, powered time at the fault, and whether its window has lapsed (R479). -/
structure FaultAge where
  cls : Nat
  unit : Nat
  at_ : Nat
  lapsed : Bool := false
deriving DecidableEq, Repr

/-- The owner record in force (R460). -/
structure Owner where
  modulus : List Byte := []
  policy : Nat := 0
  seq : Nat := 0
  bytes : List Byte := []
deriving DecidableEq, Repr

/-- What the option area and OTP hold. `selA` and `selB` are the selector's copies (R73), and `tickedTicks` the ticks of TB counted since
manufacture, as last saved. -/
structure Nv where
  pwron : Nat := 0
  poweredTicks : Nat := 0
  tickedTicks : Nat := 0
  selA : SelCopy := {}
  selB : SelCopy := {}
  slotA : ArmSlot := {}
  slotB : ArmSlot := {}
  maquetteOk : Bool := true
  layout : List Region := []
  layoutEgrps : Nat := 1
  layoutRr : List Nat := [40000, 0, 0, 0, 0, 0, 0, 0]
  layoutWl : List Nat := [200, 0, 0, 0, 0, 0, 0, 0]
  retiredTiles : List Nat := []
  fencedTiles : List Nat := []
  retiredPcs : List Nat := []
  fencedPcs : List Nat := []
  retiredLanes : List Nat := []
  retiredAdders : List Nat := []
  retiredChans : List Nat := []
  faultAges : List FaultAge := []
  ftTrans : List Nat := [0, 0, 0, 0, 0]
  ftPerm : List Nat := [0, 0, 0, 0, 0]
  intr : Nat := 0
  faultLog : Sparse FaultRec := []
  frecHead : Nat := 0
  ledger : LossLog := {}
  lossLog : LossLog := {}
  fw1 : Option FwImage := some {}
  fw2 : Option FwImage := none
  fwActive : Nat := 1
  fwPending : Nat := 0
  svnMin : Nat := 0
  revokedKeys : Nat := 0
  owner : Owner := {}
  stepping : Nat := 0
  serial : List Byte := []
  idWords : Sparse Nat := []
  optHome : List (Option Nat) := [some 0, some 16]
  optMoves : List Nat := [0, 0]
  optMoving : List Bool := [false, false]
deriving DecidableEq, Repr

/-! ## Flash: what one storage package keeps (11_translation.md, 12_media.md) -/

/-- A logical unit's data: 16 KiB, unlisted bytes zero. -/
abbrev UnitData := Memory

/-- A programmed unit with its footer (R343). -/
structure NandUnit where
  lunit : Nat
  kind : Nat
  lostMask : Nat
  wseq : Nat
  srcSeq : Nat
  data : UnitData
deriving DecidableEq, Repr

/-- A dirty unit of the write buffer (R351). `programmed` names the place of a finished program whose journal record
has not committed. -/
structure DirtyUnit where
  lunit : Nat
  data : UnitData
  lostMask : Nat := 0
  programmed : Option Nat := none
deriving DecidableEq, Repr

/-- A record of the page being gathered or of a committed journal page (R344). -/
structure JRec where
  type : Nat
  lunit : Nat
  new : Nat := 0
  old : Nat := 0
  clean : Bool := false
deriving DecidableEq, Repr

/-- A committed journal page (R344). -/
structure JPage where
  wseq : Nat
  recs : List JRec
deriving DecidableEq, Repr

/-- A NAND block (R364, R371, R374). `state` is coded as MED_BLK_DATA.STATE; `refresh` and `retention` queue it for
relocation, `source` marks the source of a batch, `releasing` a RELEASE record that has not committed; `savedReads` is the read
count that the last cast holds. -/
structure Blk where
  state : Nat := 0
  slc : Bool := false
  erases : Nat := 0
  reads : Nat := 0
  retry : Nat := 0
  suspends : Nat := 0
  refresh : Bool := false
  retention : Bool := false
  source : Bool := false
  releasing : Bool := false
  writtenAt : Nat := 0
  savedReads : Nat := 0
deriving DecidableEq, Repr

/-- A stripe group (R367). -/
structure Group where
  id : Nat
  half : Nat
  egrp : Nat
  slc : Bool
  members : List Nat
  closed : Bool := false
  released : List Nat := []
deriving DecidableEq, Repr

/-- A checkpoint segment of the map (R345). -/
structure Cast where
  start : Nat := 0
  atMs : Nat := 0
  changed : Bool := false
  written : Bool := false
deriving DecidableEq, Repr

/-- Why a package runs the sequence of R354. -/
inductive FlushStep where
  | none
  | listing
  | flushing
  | sealing
  | done
deriving DecidableEq, Repr

/-- One storage package: its flash, its map and its write buffer. `dirtyList` holds the units of the newest dirty list that
no hold-up block holds, `stripeLost` those of them whose parity group had a second fault (R355), `heldFlushed` those that hold-up blocks hold, `orphans` the copies of a batch whose page was lost,
`recoveredLost` the units that a recovery set LOST and that the ledger does not list yet, `recovery` the last step of recovery
that has ended, 6 once the package is ready. -/
structure Package where
  map : Sparse Nat := []
  nand : Sparse (Option NandUnit) := []
  blocks : Sparse Blk := []
  groups : List Group := []
  wseq : Nat := 0
  jseq : Nat := 0
  page : List JRec := []
  journal : List JPage := []
  casts : Sparse Cast := []
  castTurn : Nat := 0
  wbuf : List DirtyUnit := []
  dirtyList : List Nat := []
  heldFlushed : List DirtyUnit := []
  stripeLost : List Nat := []
  flush : FlushStep := .none
  exposedAtLoss : Bool := false
  sealClean : Bool := true
  recovery : Nat := 0
  recoveredLost : List Nat := []
  rebuildChan : Option Nat := none
  rebuildLeft : List Nat := []
  stage : List Nat := [0, 0, 0, 0, 0, 0, 0, 0]
  halfStage : List Nat := [0, 0]
  hostBytes : List Nat := [0, 0, 0, 0, 0, 0, 0, 0]
  refreshBytes : List Nat := [0, 0, 0, 0, 0, 0, 0, 0]
  gcBytes : List Nat := [0, 0, 0, 0, 0, 0, 0, 0]
  recent : List (Nat × Nat × Bool × Nat) := []
  ratioFormed : List Nat := List.replicate 8 0xFFFFFFFF
  flushing : List Nat := []
  closing : Bool := false
  unreachNoted : Bool := false
  orphans : List (Nat × Nat) := []
deriving DecidableEq, Repr

/-! ## Corpora and indexes held on flash (07_scan.md, 08_search.md) -/

/-- A record of a slab region (R216). -/
structure Record where
  region : Nat
  slab : Nat
  rid : Nat
  epoch : Nat
  len : Nat
  fixed : List Byte
  vars : List (List Byte)
  raw : List Byte
  at_ : Nat := 0
deriving DecidableEq, Repr

/-- A tombstone (R221, R269): the package whose table holds it, the region's type and ID, the RID and its epoch. -/
structure Tomb where
  package : Nat
  rtype : Nat
  region : Nat
  rid : Nat
  epoch : Nat
deriving DecidableEq, Repr

/-- A list entry of an index with its vector (R249, R250). -/
structure Entry where
  rid : Nat
  epoch : Nat
  cluster : Nat
  rho : Word
  n2 : Word
  vslot : Nat
  code : List Nat
  vector : List Word
  slab : Nat := 0
  pos : Nat := 0
deriving DecidableEq, Repr

/-- A list slab or a vector slab of an index (R248): its number in the region, its cluster, and the number of a vector slab among those of its
cluster. -/
structure IndexSlab where
  slab : Nat
  cluster : Nat
  vec : Option Nat
deriving DecidableEq, Repr

/-- An index region's contents (R248, R251). -/
structure Index where
  rtype : Nat
  id : Nat
  created : Bool := false
  centroids : List (List Word) := []
  codebooks : List (List (List Word)) := []
  entries : List Entry := []
  radius : List Word := []
  nmin : List Word := []
  slabs : List IndexSlab := []
deriving DecidableEq, Repr

/-- The corpora of the whole device. `lostNoted` names what could not be read and is on record as an interrupting fault (R483): a
region's type and ID with a slab number. -/
structure Corpus where
  records : List Record := []
  tombs : List Tomb := []
  nextRid : Sparse Nat := []
  openSlab : Sparse Nat := []
  indexes : List Index := []
  epoch : Nat := 0
  nextEpoch : Nat := 1
  settled : List Nat := []
  lostNoted : List (Nat × Nat × Nat) := []
deriving DecidableEq, Repr

/-! ## Power and start-up (15_start_identity.md, 17_connectors.md) -/

/-- Why the power-failure sequence runs (R354, R437, R488, R491). -/
inductive DownCause where
  | inputLost
  | pwrdis
  | trip
  | overcurrent
deriving DecidableEq, Repr

/-- Pins, supplies and the stages of start-up. -/
structure Power where
  input : Bool := false
  refclk : Bool := false
  perst : Bool := true
  pwrdis : Bool := false
  strapNow : Bool := false
  strapTaken : Bool := false
  standby : Nat := 0
  core : Nat := 0
  linkDetect : Bool := false
  configReady : Bool := false
  railsUp : Bool := false
  trip : Bool := false
  recovery : Bool := false
  down : Option DownCause := none
  overcurrent : Bool := false
  owesFlush : Bool := false
  fwSlot : Nat := 0
  coreStart : Nat := 0
  identLit : Bool := false
  bankFull : Bool := false
  restartPending : Bool := false
deriving DecidableEq, Repr

/-! ## Armature loader (02_armature.md) -/

/-- The loader: the settings in force, the slots that are staged, the command under way (0 none), its quiesce rule, the image that it takes
and what it will put in force, and the TB times at which the quiesce began and ARM_QLIMIT expired (R75 to R77). -/
structure Loader where
  settings : Armature
  inForce : Bool := false
  source : Selected := .maquette
  stagedA : Bool := false
  stagedB : Bool := false
  cmd : Nat := 0
  drain : Bool := false
  target : Option Selected := none
  next : Option Armature := none
  image : List Byte := []
  quiesceAt : Nat := 0
  expiredAt : Option Nat := none
deriving DecidableEq, Repr

/-! ## Tiles (03_numbers.md, 04_tile.md) -/

/-- One output column of a weight block: the weight codes and the bytes of its scale blocks (R87, R108). -/
structure Column where
  weights : List Nat
  scales : List Byte
deriving DecidableEq, Repr

/-- A block held by an array (R108, R116). -/
structure WBlock where
  wfmt : Nat
  afmt : Nat
  k : Nat
  group : Nat
  scaled : Bool
  wAddr : Nat
  sAddr : Nat
  columns : List Column
deriving DecidableEq, Repr

/-- The accumulators of one output element (R92, R94): group, super-group and output, each empty at first. -/
structure Accum where
  grp : Option Word := none
  sup : Option Word := none
  out : Option Word := none
deriving DecidableEq, Repr

/-- A STREAM under way (R112). -/
structure StreamSt where
  rows : Nat
  inAddr : Nat
  inStride : Nat
  outAddr : Nat
  outStride : Nat
  accAddr : Nat
  outFmt : Nat
  accMode : Nat
  hist : Bool
  row : Nat := 0
  slice : Nat := 0
  accs : List Accum := []
  firstAcc : List (List Word) := []
  at_ : Nat := 0
deriving DecidableEq, Repr

/-- A VEC under way (R117). -/
structure VecSt where
  func : Nat
  n : Nat
  aAddr : Nat
  bAddr : Nat
  cAddr : Nat
  dAddr : Nat
  inFmt : Nat
  outFmt : Nat
  hist : Bool
  step : Nat := 0
  at_ : Nat := 0
deriving DecidableEq, Repr

/-- A SEND under way (R117). -/
structure SendSt where
  dest : Nat
  srcAddr : Nat
  dstAddr : Nat
  len : Nat
  at_ : Nat := 0
deriving DecidableEq, Repr

/-- A kernel part (R150, R159): the run, the kernel, the part's number, the expert it serves with its tokens (R175), the TB time of its
dispatch (R163), and whether its weights were sent for before it was queued (R175, R191). -/
structure PartRef where
  run : Nat
  kernel : Nat
  part : Nat
  expert : Option Nat := none
  tokens : Nat := 0
  at_ : Nat := 0
  moved : Bool := false
deriving DecidableEq, Repr

/-- The part that a tile runs: where its program stands (byte addresses), its numeric settings, its SYNCs, its row steps,
its retries with the fault that opened the occurrence (R134, R479), the ranges that SENDs delivered to it, and its bias. -/
structure Part where
  ref : PartRef
  pc : Nat
  start : Nat
  outRound : Nat
  fp8Ovf : Nat
  syncs0 : Nat := 0
  syncs1 : Nat := 0
  rowSteps : Nat := 0
  attempts : Nat := 0
  occurrence : Option FaultRec := none
  fromSend : List (Nat × Nat) := []
  bias : List Word := []
deriving DecidableEq, Repr

/-- Where the array stands in its ramp (R126): duty 0, a stage of ramp-up or ramp-down with its duty in quarters, full
duty, or the gap after a STREAM. -/
inductive Ramp where
  | rest
  | up (quarters : Nat)
  | full
  | gap
  | down (quarters : Nat)
deriving DecidableEq, Repr

/-- One tile, but for its store and its registers. `steps` counts the steps issued in the present ramp stage or gap, whose
length is `stageLen` or `gapLen`; `badWords` are the words that a scrub or a read found uncorrectable (R122, R123), and `scrubAt` is the
64-byte unit that the patrol scrubber reads next; `lateOps` counts operations whose watchdog expired and whose acknowledgement has not come
(R133); `fillAt`, `swapAt` and `syncAt`, like `at_` of a STREAM, a VEC and a SEND, are the TB times from which the watchdog times the fill,
the SWAP and the delivery of a SYNC's event (R132); `stepsAtSample` is TIL_STEPS at the last sample (R130), and `endedAt` the TB time of the
last END (R137). -/
structure Tile where
  loaded : Option WBlock := none
  shadow : Option WBlock := none
  filling : Option WBlock := none
  part : Option Part := none
  queue : List PartRef := []
  stream : Option StreamSt := none
  vec : Option VecSt := none
  sends : List SendSt := []
  swapWait : Bool := false
  loadWait : Bool := false
  syncWait : Option Nat := none
  ramp : Ramp := .rest
  steps : Nat := 0
  stageLen : Nat := 0
  gapLen : Nat := 0
  refill : Bool := false
  fillAt : Nat := 0
  swapAt : Nat := 0
  syncAt : Option Nat := none
  lateOps : Nat := 0
  badWords : List Nat := []
  scrubAt : Nat := 0
  withheld : Bool := false
  windowOpen : Bool := false
  stepsAtSample : Nat := 0
  endedAt : Option Nat := none
deriving DecidableEq, Repr

/-! ## Graph engine (05_task_graphs.md) -/

/-- An operand record (R151). -/
structure Opnd where
  addr : Nat
  len : Nat
  use : Nat
  hint : Nat
deriving DecidableEq, Repr

/-- A placement entry (R152). -/
structure Placement where
  tile : Nat
  progUnit : Nat
  progAt : Nat
  progBytes : Nat
deriving DecidableEq, Repr

/-- A kernel table entry with its lists (R150, R153). -/
structure Kernel where
  role : Nat
  kflags : Nat
  wfmt : Nat
  afmt : Nat
  group : Nat
  outRound : Nat
  fp8Ovf : Nat
  prefetch : Nat
  places : List Placement
  preds : List Nat
  energyUj : Nat
  steps : Nat
  deadline : Nat
  opnds : List Opnd
deriving DecidableEq, Repr

/-- The serving block (R169). -/
structure Serving where
  maxTokens : Nat
  prefillChunk : Nat
  pageTokens : Nat
  router : Nat
  expertCount : Nat
  expertTable : Nat
deriving DecidableEq, Repr

/-- A loaded graph (R149) with the refinement factor of each kernel in 8.8 fixed point (R432). -/
structure Graph where
  flags : Nat
  cls : Nat
  armId : Nat
  deadline : Nat
  len : Nat
  kernels : List Kernel
  programs : List Byte
  serving : Option Serving
  factors : List Nat
deriving DecidableEq, Repr

/-- One kernel of a run: its status (254 waiting, 255 dispatched, otherwise a code of R180) and its record (R179); energy
is kept in nJ, as input and as output brought to nominal (R432). `ended` holds, for each part that has ended, its expert with how often it
reached SYNC 0 and SYNC 1 (R154), `moved` the parts whose weights were sent for before the dispatch, with their tiles (R191), and `inputs`
what the kernel's inputs held at its dispatch (R161). -/
structure KernelRun where
  status : Nat := 254
  nflags : Nat := 0
  retries : Nat := 0
  subst : Nat := 0
  first : Nat := 0
  last : Nat := 0
  tileUs : Nat := 0
  inNj : Nat := 0
  outNomNj : Nat := 0
  rowSteps : Nat := 0
  stallTier : Nat := 0
  partsLeft : Nat := 0
  ended : List (Option Nat × Nat × Nat) := []
  moved : List (Nat × Nat) := []
  inputs : List Byte := []
deriving DecidableEq, Repr

/-- A run of a graph, or the step of a serving slot. `resTicks` counts the ticks of reserved tiles of its graph that make no whole microsecond
yet (R163). -/
structure Run where
  id : Nat
  slot : Nat
  mrs : Nat
  tag : Option CmdTag
  job : Option Nat := none
  serving : Bool := false
  recAddr : Nat := 0
  runTag : Nat := 0
  start : Nat := 0
  kernels : List KernelRun
  waitShare : Nat := 0
  waitEnergy : Nat := 0
  waitTier : Nat := 0
  restream : Nat := 0
  restreamBytes : Nat := 0
  preempts : Nat := 0
  tileUs : Nat := 0
  resTicks : Nat := 0
  timedOut : Bool := false
  cancelled : Nat := 0
  experts : List (Nat × Nat) := []
deriving DecidableEq, Repr

/-- An Execute Program that waits for its slot (R146). -/
structure WaitingRun where
  tag : Option CmdTag
  job : Option Nat
  slot : Nat
  mrs : Nat
  block : List Byte
deriving DecidableEq, Repr

/-- A sequence table entry (R172) with what its run block named: `promptAt` is the address of its prompt, `prompt` the bytes of it that steps
have taken so far, and `made` the tokens generated (R170, R176). `order` is the admission ordinal before it wraps (R173). -/
structure Seq where
  state : Nat := 0
  endReason : Nat := 0
  slot : Nat := 0
  cls : Nat := 0
  order : Nat := 0
  seqTag : Nat := 0
  promptLen : Nat := 0
  pos : Nat := 0
  gen : Nat := 0
  maxNew : Nat := 0
  lastStep : Nat := 0
  head : Nat := 0
  kvPages : Nat := 0
  stopToken : Nat := 0
  seed : Nat := 0
  sample : Nat := 0
  tag : Option CmdTag := none
  ring : Nat := 0
  ringLen : Nat := 0
  cancelled : Bool := false
  status : Nat := 0
  mrs : Nat := 0
  postWait : Bool := false
  promptAt : Nat := 0
  prompt : List Byte := []
  made : List Nat := []
deriving DecidableEq, Repr

/-- A resident kernel's reservation on a tile (R156, R165): the part, and the expert, whose weights the tile holds. -/
structure Resident where
  slot : Nat
  kernel : Nat
  part : Nat
  expert : Option Nat := none
  tile : Nat
  loaded : Bool := true
  restream : Bool := false
deriving DecidableEq, Repr

/-- An expert whose weights were neither in the tile store nor in the stacks at its kernel's dispatch: its parts are queued once its
movements complete (R175). `tiles` are the tiles that the parts' weights go to. -/
structure FarExpert where
  run : Nat
  kernel : Nat
  expert : Nat
  tokens : Nat
  tiles : List Nat
deriving DecidableEq, Repr

/-- The graph engine. `kernelWait` counts the ticks that a ready kernel, keyed by run × 65,536 + kernel, has waited on reserved ranges (R166),
`tokens` the kernels that a holder's kernel has gone before since they waited long enough (R167), and `useTicks` the ticks of a class's
reserved tiles that make no whole microsecond yet (R163). -/
structure GraphEngine where
  slots : Sparse (Option Graph) := []
  active : List Nat := []
  sets : Sparse (List (Nat × Nat)) := []
  runs : List Run := []
  waiting : List WaitingRun := []
  nextRun : Nat := 1
  seqs : Sparse Seq := []
  seqWaiting : List WaitingRun := []
  nextOrder : Nat := 0
  subst : List (Nat × Nat) := []
  admitQueue : List (Nat × PartRef) := []
  firstDecode : Sparse Nat := []
  stepNo : Nat := 0
  residents : List Resident := []
  kernelWait : Sparse Nat := []
  tokens : List (Nat × Nat) := []
  farExperts : List FarExpert := []
  useTicks : Sparse Nat := []
  workLists : Sparse (List (Nat × Nat × Nat)) := []
deriving DecidableEq, Repr

/-! ## Memory tiers (06_tiers.md) -/

/-- A placement directory entry (R184). Addresses are those of R147, selector included. -/
structure DirEntry where
  home : Nat
  copy : Nat
  len : Nat
deriving DecidableEq, Repr

/-- A started move of the ring (R193): `moved` bytes of a COPY are done where the write buffers hold up the rest (R351), and `failed` says that a
chunk of them could not be moved. -/
structure Move where
  index : Nat
  op : Nat
  src : Nat
  dst : Nat
  len : Nat
  status : Option Nat := none
  moved : Nat := 0
  failed : Bool := false
deriving DecidableEq, Repr

/-- A 4 KiB movement piece of a kernel operand (R191): its window or model address under R147, its offset within the operand, the operand's
USE, the expert whose weights it carries, the movement engine of its tile's die that takes it (0 to 31), and the TB time of its issue. `cause`
is the priority of R195; `expiredAt` the TB time of its expiry under R197; `port` the internal port on which its request is out (R319). -/
structure Piece where
  id : Nat
  run : Nat
  kernel : Nat
  part : Nat
  tile : Nat
  addr : Nat
  len : Nat
  offset : Nat
  use : Nat
  hint : Nat
  expert : Option Nat := none
  engine : Nat := 0
  at_ : Nat := 0
  looked : Bool := false
  viaCopy : Bool := false
  reissued : Bool := false
  restream : Bool := false
  cause : Nat := 4
  expiredAt : Option Nat := none
  port : Option Nat := none
deriving DecidableEq, Repr

/-- The memories behind the device (R199, R201). Bytes are keyed by window address (R182), tags and raw lines by the window
address of the line divided by 64, generations by the granule's; a raw line is one that the checker wrote without
encoding (R211). `remembered` is newest first, `poisons` holds the pseudo-channel and powered time of lines
poisoned, `reached` the poisoned lines whose fault a requester has met (R483), and `sweeps` the line that the patrol scrub reads next in
each pseudo-channel and package (R205). -/
structure Dram where
  bytes : Memory := []
  tags : Sparse Byte := []
  raws : Sparse (Option (BitVec 576)) := []
  gens : Sparse Nat := []
  remembered : List Nat := []
  poisons : List (Nat × Nat) := []
  reached : List Nat := []
  sweeps : Sparse Nat := []
deriving DecidableEq, Repr

/-- Movement: directory, move ring and pieces. -/
structure Mover where
  dir : List DirEntry := []
  moves : List Move := []
  pieces : List Piece := []
  nextPiece : Nat := 1
  migrating : List Nat := []
deriving DecidableEq, Repr

/-! ## Scan jobs (07_scan.md) -/

/-- A job of the ring (R223, R224). -/
structure Job where
  index : Nat
  op : Nat
  region : Nat
  form : Nat
  slot : Nat
  var : Nat
  mrs : Nat
  limit : Nat
  len2 : Nat
  prog : List Byte
  hasProg : Bool
  bloom : List Byte
  dst : Nat
  ridLo : Nat
  ridHi : Nat
  epoch : Nat
  start : Nat
  slabsLeft : List Nat := []
  matched : List Nat := []
  lost : Nat := 0
  bytesScanned : Nat := 0
  returned : Nat := 0
  notVisible : Nat := 0
  ridFirst : Nat := 0
  count : Nat := 0
  batch : List Nat := []
  cancelled : Bool := false
  status : Option Nat := none
  pending : List Record := []
  batchStatus : Option Nat := none
  nextBatch : List Nat := []
  output : Option (List Byte) := none
  vecLen : Nat := 0
  pendingEntries : List Entry := []
  pendingSlabs : List IndexSlab := []
  batchEpoch : Option Nat := none
  entered : Nat := 0
  energyPj : Nat := 0
  done : Bool := false
deriving DecidableEq, Repr

/-- The scan side of the device. -/
structure Scanner where
  jobs : List Job := []
  cancelled : List Nat := []
  rebuilding : List (Nat × Nat) := []
deriving DecidableEq, Repr

/-! ## Vector search (08_search.md) -/

/-- A list entry that a query has bounded (R257): its RID and place, bounds of its merit, and its exact merit and score
once polished. -/
structure Candidate where
  rid : Nat
  epoch : Nat
  package : Nat
  cluster : Nat
  vslot : Nat
  vector : List Word
  upper : Word
  lower : Word
  admitted : Bool
  polished : Option Word := none
  score : Word := 0
deriving DecidableEq, Repr

/-- One package's share of a query (R263). -/
structure Context where
  package : Nat
  clusters : List (Nat × Word)
  threshold : Option Word := none
  scored : Bool := false
  asked : Nat := 0
  raspDone : Bool := false
  complete : Bool := false
deriving DecidableEq, Repr

/-- A descriptor of the query ring under way (R271, R272). -/
structure Query where
  index : Nat
  op : Nat
  rtype : Nat
  region : Nat
  k : Nat
  candMax : Nat
  deadline : Nat
  dst : Nat
  epoch : Nat
  start : Nat
  vector : List Word := []
  q2 : Word := 0
  q2l : Word := 0
  qn : Word := 0
  scores : List (Word × Word) := []
  contexts : List Context := []
  cands : List Candidate := []
  clustersScanned : Nat := 0
  rasped : Nat := 0
  candidates : Nat := 0
  polishedCount : Nat := 0
  early : Nat := 0
  vcMiss : Nat := 0
  notVisible : Nat := 0
  lost : Nat := 0
  lostUnits : List Nat := []
  pendingEntries : List Entry := []
  pendingSlabs : List IndexSlab := []
  entered : Nat := 0
  pendingTombs : List Tomb := []
  pendingIndex : Option Index := none
  status : Option Nat := none
  done : Bool := false
deriving DecidableEq, Repr

/-- A vector that a package's BM_VCACHE partition holds (R265): its index, its place, and its bytes. -/
structure CachedVec where
  package : Nat
  rtype : Nat
  region : Nat
  cluster : Nat
  vslot : Nat
  len : Nat
deriving DecidableEq, Repr

/-- The search side of the device: the descriptors under way, the ring entries cancelled before their turn, the count of the requests that
contexts have made, and the vector caches, most recently used vector first. -/
structure Searcher where
  queries : List Query := []
  cancelled : List Nat := []
  asks : Nat := 0
  cache : List CachedVec := []
deriving DecidableEq, Repr

/-! ## Fabric (09_fabric.md) -/

/-- A flit that a port sends, but for the ACK, which is that of the time at which it leaves (R280). -/
structure Flit where
  ftype : Nat
  vc : Nat := 0
  seq : Nat := 0
  cvc : Nat := 14
  credits : Nat := 0
  payload : List Byte := []
deriving DecidableEq, Repr

/-- A port block's link state, beside its registers (R279 to R290). `retrain` holds each retraining lane (direction × 8 + lane,
transmit 0) with its failed attempts and its occurrence. `replay` is the replay buffer, oldest first, and `replays` the times that its oldest flit
was replayed without an ACK. `pool` and `escape` are the credits held; `rxPool` and `rxEscape` those that the neighbour holds as far as this end
knows; `owed` what is to be returned, by class, and `ackOwed` whether a flit has come since the last ACK left. `map` is the neighbour's LANE_MAP
in force and `mapsNext` those that await their first SEQ. `ctrlQueue` holds the control flits that wait for room in the replay buffer, `txQueue`
the packets that wait for room or credits with their class, and `prbs` how much of the test sequence has left (R317). -/
structure Port where
  helloGot : Option HelloMsg := none
  departed : Bool := false
  retrain : List (Nat × Nat × FaultRec) := []
  rxSeq : Nat := 0
  txSeq : Nat := 0
  replay : List Flit := []
  replays : Nat := 0
  pool : Nat := 0
  escape : List Nat := []
  rxPool : Nat := 0
  rxEscape : List Nat := []
  owed : List (Nat × Nat) := []
  ackOwed : Bool := false
  map : Nat := 255
  mapsNext : List (Nat × Nat) := []
  ctrlQueue : List Flit := []
  txQueue : List (Nat × List Flit) := []
  prbs : Nat := 0
  census : List (Nat × Nat) := []
deriving DecidableEq, Repr

/-- A position of a segment (R298): awaited, held as copies of the primary and the backup with their NFLAGS and DROPPED flag,
taken, or resolved as absent. `taken` is the copy in use. -/
structure Pos where
  primary : Option (List Word × Nat × Bool) := none
  backup : Option (List Word × Nat × Bool) := none
  taken : Option (List Word × Nat × Bool) := none
  dropped : Bool := false
deriving DecidableEq, Repr

/-- A segment being reduced at this node: its positions (the first is the node's own, then one for each CHILD entry), and under
remote accumulate the positions heard with their senders, whether the node's own is in the sum, and the sum so far with its
NFLAGS and, in bit 8, DROPPED (R314). -/
structure Seg where
  seg : Nat
  positions : List Pos := []
  expired : Bool := false
  raHeard : List (Nat × Nat) := []
  raOwn : Bool := false
  raSum : Option (List Word) := none
  raFlags : Nat := 0
deriving DecidableEq, Repr

/-- A tree's state beside its registers. `starts` holds the TB time at which a segment's deadline started (R304), `finished` lists the segments
complete at this node, `params` those whose PARAM has come, `missed` the positions whose primary missed a deadline in this step, and `absent`
those that have expired without a partner, each with its segment (R308); `raAbsent` holds how many the root missed under remote accumulate, with
the segment. `raPorts` are the child ports from which MODE told of a retired adder (R313), `raPairs` the positions known to be filled by a pair,
`raWaiting` the packets that wait for the parent's window (R296). `lrWaitAt` is the TB time at which a wait under R333 began, `lrExpired` the TB
time and the step of its expiry, and `sums` the sums that the update unit has not taken: segment, elements, NFLAGS, FLAGS. -/
structure Tree where
  base : Nat := 0
  segs : List Seg := []
  posted : List Nat := []
  starts : Sparse (Option Nat) := []
  finished : List Nat := []
  params : List Nat := []
  sent : Bool := false
  holdAsked : Bool := false
  stepDropped : Bool := false
  stepRa : Bool := false
  stepNflags : Nat := 0
  missed : List Nat := []
  absent : List (Nat × Nat) := []
  raPorts : List Nat := []
  raPairs : List Nat := []
  raAbsent : List (Nat × Nat) := []
  raWaiting : List Packet := []
  abortedStep : Nat := 0
  lrWaitAt : Nat := 0
  lrExpired : Option (Nat × Nat) := none
  sums : List (Nat × List Word × Nat × Nat) := []
  parentBase : Nat := 0
  parentStep : Nat := 0
  parentMode : Nat := 0
  parentKnown : Bool := false
deriving DecidableEq, Repr

/-- The fabric side: ports, trees, fabric time with what is left of a slew and of a hold (R292), the run of close exchanges
(R293), the peer transfer's bytes, and the root's step log (R337). -/
structure Fabric where
  ports : Sparse Port := []
  trees : Sparse Tree := []
  ft : Nat := 0
  ftSlew : Int := 0
  ftHold : Nat := 0
  lockRun : Nat := 0
  peerSent : Nat := 0
  peerAcked : Nat := 0
  peerPort : Nat := 0
  stepLog : Sparse (List Byte) := []
deriving DecidableEq, Repr

/-! ## Host interface (13_host.md) -/

/-- A submission queue (R408). -/
structure SubQueue where
  id : Nat
  size : Nat
  cq : Nat
  tail : Nat := 0
  fetched : Nat := 0
deriving DecidableEq, Repr

/-- A completion queue (R408): `used` entries hold completions the host has not consumed. -/
structure CompQueue where
  id : Nat
  size : Nat
  vector : Nat
  tail : Nat := 0
  head : Nat := 0
deriving DecidableEq, Repr

/-- A fetched command's context (R409, R411). -/
structure Ctx where
  tag : CmdTag
  opcode : Nat
  nsid : Nat
  first : Nat
  count : Nat
  admitted : Bool := true
deriving DecidableEq, Repr

/-- A completion (R408): status code type, status code, do-not-retry, dword 0. -/
structure Cqe where
  tag : CmdTag
  sct : Nat
  sc : Nat
  dnr : Nat
  dw0 : Nat
deriving DecidableEq, Repr

/-- An asynchronous event (R407). -/
structure Event where
  type : Nat
  info : Nat
  log : Nat
deriving DecidableEq, Repr

/-- An NVM command waiting for its package or its flush (R356, R414). -/
structure Held where
  tag : CmdTag
  kind : Nat
  nsid : Nat
  slba : Nat
  nlb : Nat
  data : List Byte := []
  ranges : List (Nat × Nat) := []
  dst : Nat := 0
deriving DecidableEq, Repr

/-- The NVMe controller and its queues. `psTarget` is the state that an entry under way leads to, `psWant` one that the host asked for
and that waits for the device to be idle, `wake` a submission that came during an entry (R419, R420); `selfTestFail` the first
segment of a self-test that failed, and `selfTestTile` the tile that it tests, which no part starts on (R465). -/
structure HostIf where
  enabled : Bool := false
  crime : Bool := false
  ready : Bool := false
  shst : Nat := 0
  sqs : List SubQueue := []
  cqs : List CompQueue := []
  ctxs : List Ctx := []
  waitingCqes : List Cqe := []
  aers : List CmdTag := []
  events : List Event := []
  features : Sparse Nat := []
  apst : List (Nat × Nat) := []
  errors : List (CmdTag × Nat × Nat × Nat) := []
  changedNs : List Nat := []
  held : List Held := []
  fwStage : Memory := []
  fwStageLen : Nat := 0
  selfTest : Nat := 0
  selfTestSeg : Nat := 0
  selfTestTile : Option Nat := none
  selfTestLog : List (Nat × Nat × Nat) := []
  exiting : Bool := false
  retraining : Bool := false
  critical : Nat := 0
  healthChange : Bool := false
  mtu : Nat := 64
  psTarget : Nat := 0
  psWant : Option Nat := none
  wake : Bool := false
  selfTestFail : Nat := 0
deriving DecidableEq, Repr

/-! ## Energy ledger (14_energy.md) -/

/-- The ledger: the budgets in force, the samples of the budget window, what is left of a mJ in each energy counter (in tenths),
the last sample's readings with the projection of the parts that then ran (R429), the thermal ceiling (0 where there is none) and
its history (R436), the steps counted for each kernel since the last sample (R432), and the hold-up measurement: its step (0 none,
1 substitute applied, 2 load applied, 3 charging again), the last C_meas, whether one has ended since power-on, the TB time at
which E_u was found at or below E_res, and whether a retry is due (R438 to R440, R510). `cool` says that every sensor read below
85 °C at the last sample, `coolantOk` that the coolant was within R493, and `coolBad` is the cause bit of R495. -/
structure Ledger where
  budgets : List Nat := [0, 0, 0, 0, 0, 0, 0]
  windowIn : List Nat := []
  windowDom : List (List Nat) := [[], [], [], [], [], [], []]
  inRem : Nat := 0
  domRem : List Nat := [0, 0, 0, 0, 0, 0, 0]
  etaMilli : Nat := 1000
  sampleIn : Nat := 0
  sampleCompute : Nat := 0
  projAtSample : Nat := 0
  ceilingMv : Nat := 0
  dieWarm : Bool := false
  coolRun : Nat := 0
  holdEmpty : Bool := false
  stopAdmission : Bool := false
  dieHot : List Bool := [false, false, false, false, false, false, false, false]
  stackHot : List Bool := []
  packageHot : List Bool := [false, false, false, false]
  sampledSteps : Sparse Nat := []
  huStep : Nat := 0
  huCapUf : Nat := 0
  huFallUs : Nat := 0
  huEsr : Nat := 0
  huRetry : Bool := false
  huFirst : Bool := false
  huZeroSince : Option Nat := none
  cool : Bool := true
  coolantOk : Bool := true
  coolBad : Bool := false
deriving DecidableEq, Repr

/-! ## The security unit's responder (15_start_identity.md) -/

/-- One transport's connection state (R463): version seen, capabilities seen, the selected algorithms. -/
structure Spdm where
  version : Bool := false
  caps : Bool := false
  asym : Nat := 0
  hash : Nat := 0
deriving DecidableEq, Repr

/-- The security unit. `standbyTb` counts the periods of the standby timebase since standby power came, and `standbyPhase` is the part of a
period that has passed while TB runs, in units of which 10^8 make one period (R10). -/
structure Security where
  standbyTb : Nat := 0
  standbyPhase : Nat := 0
  mctp : Spdm := {}
  doe : Spdm := {}
  fwHi : Sparse (Option Word) := []
deriving DecidableEq, Repr

/-! ## Fault windows (16_contention.md) -/

/-- What the fault rule of R479 counts with: the powered time of R506, each resource's last transient fault, and the
entries of KIND 1 that are not yet in the fault log (R485). `ticked` is the part of the powered time in which TB advanced, on which every
interval counts that R10 does not list. Saved to the option area every 60 s. -/
structure Faults where
  powered : Nat := 0
  ticked : Nat := 0
  ages : List FaultAge := []
  unsaved : List FaultRec := []
deriving DecidableEq, Repr

/-! ## What the module gives to the outside -/

/-- A thing that leaves the module: a completion or data to the host, a message or packet on a port, an answer on the
sideband. -/
inductive Out where
  | cqe (c : Cqe)
  | data (tag : CmdTag) (bytes : List Byte)
  | computeReport (tag : CmdTag) (engines slots : Nat)
  | flit (port lane : Nat) (bytes : List Byte)
  | mi (status : Nat) (bytes : List Byte)
  | mctp (bytes : List Nat)
  | spdm (via : Transport) (code : Nat) (bytes : List Byte)
deriving DecidableEq, Repr

/-- The state of the module. -/
structure State where
  build : Build := {}
  nv : Nv := {}
  packages : List Package := [{}, {}, {}, {}]
  corpus : Corpus := {}
  power : Power := {}
  tb : Nat := 0
  regs : Sparse Word := []
  latch : Sparse (Option Word) := []
  readData : Word := 0
  loader : Loader
  tiles : Sparse Tile := []
  store : Memory := []
  dram : Dram := {}
  grf : GraphEngine := {}
  mover : Mover := {}
  scan : Scanner := {}
  search : Searcher := {}
  fabric : Fabric := {}
  host : HostIf := {}
  ledger : Ledger := {}
  sec : Security := {}
  faults : Faults := {}
  fresh : Nat := 0
  out : List Out := []
  pending : List Instr := []
deriving DecidableEq, Repr

/-- Why a step stops with a fault. -/
inductive Fault where
  /-- A command names a unit or an index that the module does not have (R19: units are named by the identifiers of its
  table and by no others). Raised by every meaning that takes a unit's number. Safe: nothing is claimed of such a
  command. -/
  | noSuchUnit
deriving DecidableEq, Repr

/-- Why a step has no meaning. -/
inductive Refusal where
  /-- The command of this name has no meaning in the model yet. Raised by the dispatch alone. Safe: nothing is claimed
  of it. -/
  | notModelled (mnemonic : String)
deriving DecidableEq, Repr

/-- The factory's flash layout (R55): one NVM namespace, NSID 1, in endurance group 1, on every fitted package, with
DISCARD set. -/
def factoryRegion (spMask : Nat) : Region :=
  { type := 1, id := 1, egrp := 1, spMask := spMask, sizeGib := 59604, flags := 1, param := 0 }

/-- The settings that the maquette gives (R68), with the layout that the layout record holds (R69). -/
def maquetteSettings (sp : Nat) (layout : List Region) : Armature :=
  { armId := 0, role := 1, reqSp := 1, reqXp := 0, fwMin := 3, flags := 0, mins := [0, 0, 0, 0]
    roles := List.replicate 1024 1
    stkSlm := 4096, stkWeight := 8192, stkWork := 6732, stkIlv := 0
    board := (List.replicate sp { map := 233, wbuf := 64, vcache := 0, scan := 64, slm := 11083 }) ++
             List.replicate (4 - sp) { map := 0, wbuf := 0, vcache := 0, scan := 0, slm := 0 }
    egrpCount := 1, rrLimit := [40000, 0, 0, 0, 0, 0, 0, 0], wlSpread := [200, 0, 0, 0, 0, 0, 0, 0]
    regions := layout
    fabricId := 0, moduleId := 0, portRole := List.replicate 16 0, trees := []
    totalW := 3000
    domW := [1400, 1000, 260] ++ List.replicate sp 120 ++ List.replicate (4 - sp) 0
    vminMv := 600, vmaxMv := 850
    group := 2, outRound := 0, fp8Ovf := 0, gradWire := 0
    faultWindow := [8640000000000, 360000000000, 60000000000, 360000000000]
    faultRetry := [3, 3, 3, 3]
    gen8 := false, honorStrap := true, lockMask := 0, digest := 0 }

/-- The module right after reset: as it leaves the factory (R55, R73, R460), an SPL-9830-S4-O16 with no input power,
PERST# held low by its pull-down (R487), and every register at its Reset value. Log entries 2 and 3. -/
def State.reset : State :=
  { nv := { layout := [factoryRegion 15] }
    loader := { settings := maquetteSettings 4 [factoryRegion 15] } }

end Sys2Proof.Machine
end

