-- ==== Sys2Proof/Machine/RegMap.lean ====
section
/-! DEFINITION. The control window (R37): which register lies at each offset, what software may do to each of its bits
(R13), and the value of its Reset column (R18). -/
namespace Sys2Proof.Machine

/-- One line of a chapter's register map: `count` registers, `stride` apart, from `base`. `rw` and `w1c` mask the bits of
those access codes, `rc` marks a counter that a read clears, `low64` the low word of a 64-bit counter (R17), `acts` a
register with write-only bits that act. `dflt` is the Reset column; an entry that is not a number there ("arm", "from
option area") is 0 here, and the load that the manual names writes it. -/
structure RegRow where
  base : Nat
  stride : Nat := 4
  count : Nat := 1
  rw : Nat := 0
  w1c : Nat := 0
  rc : Bool := false
  low64 : Bool := false
  acts : Bool := false
  dflt : Nat := 0
deriving DecidableEq, Repr

/-- All 32 bits. -/
def allBits : Nat := 0xFFFFFFFF

/-- The GLB region (R40, and the tables of chapters 15, 16 and 17). -/
def glbRows : List RegRow :=
  [ { base := 0x0, dflt := 0x98300900 }, { base := 0x4 }, { base := 0x8, dflt := 0x400 }, { base := 0xC, rc := true },
    { base := 0x20, rw := 0x3 }, { base := 0x40 }, { base := 0x44 }, { base := 0x48, w1c := 0x40000000 },
    { base := 0x4C }, { base := 0x50 }, { base := 0x54, rw := 0x7FF, acts := true }, { base := 0x58, count := 2 },
    { base := 0x60, count := 2, rw := allBits }, { base := 0x68, acts := true }, { base := 0x6C, w1c := 0x80000000 },
    { base := 0x70 }, { base := 0x74 }, { base := 0x80, count := 8, rw := allBits, acts := true },
    { base := 0xA0, count := 4, rw := 0xF }, { base := 0xB0, count := 5 }, { base := 0xD0, count := 5 },
    { base := 0xF0, count := 2 }, { base := 0xF8, rc := true }, { base := 0x100 },
    { base := 0x104, rw := 0xFFF, acts := true }, { base := 0x110, count := 8 } ]

/-- The LED region (14_energy.md, and LED_COOLANT of chapter 17). -/
def ledRows : List RegRow :=
  [ { base := 0x10000, dflt := 0x40000000 }, { base := 0x10004, rw := 1, acts := true }, { base := 0x10008, w1c := 0x7F },
    { base := 0x1000C, rw := 0xFFF }, { base := 0x10010, rw := 0x03FF03FF }, { base := 0x10014, rw := 0x3FF, dflt := 0x2EE },
    { base := 0x10018, count := 5 }, { base := 0x1002C, rw := 0xFF, dflt := 0x18 }, { base := 0x10030, count := 3 },
    { base := 0x10040, low64 := true }, { base := 0x10044 }, { base := 0x10048, count := 4, rc := true },
    { base := 0x10058 }, { base := 0x10100, stride := 16, count := 7, rw := 0xFFF },
    { base := 0x10104, stride := 16, count := 7 }, { base := 0x10108, stride := 16, count := 7, low64 := true },
    { base := 0x1010C, stride := 16, count := 7 } ]

/-- The ARM region (02_armature.md). -/
def armRows : List RegRow :=
  [ { base := 0x20000, acts := true }, { base := 0x20004, w1c := 0xF00 }, { base := 0x20008 },
    { base := 0x2000C, count := 2, rw := allBits }, { base := 0x20014, rw := 0x1FFFFFF }, { base := 0x20018, count := 4 },
    { base := 0x20028, rw := allBits, dflt := 0x0BEBC200 }, { base := 0x2002C }, { base := 0x20030, rc := true } ]

/-- The GRF region (05_task_graphs.md). -/
def grfRows : List RegRow :=
  [ { base := 0x30000, count := 3 }, { base := 0x30010, low64 := true }, { base := 0x30014 }, { base := 0x30018, rc := true },
    { base := 0x30020, low64 := true }, { base := 0x30024 }, { base := 0x30030, rw := 0xFFF, acts := true },
    { base := 0x30040, count := 16 }, { base := 0x30100, count := 16, rw := 0xFF, dflt := 0x10 },
    { base := 0x30140, count := 16, rw := allBits }, { base := 0x30200, stride := 8, count := 16, low64 := true },
    { base := 0x30204, stride := 8, count := 16 } ]

/-- The TIER region (06_tiers.md). -/
def tierRows : List RegRow :=
  [ { base := 0x40000 }, { base := 0x40004, rw := allBits }, { base := 0x40008, count := 2, rw := allBits },
    { base := 0x40010, rw := 0x1FFFF, acts := true }, { base := 0x40014, rw := 0xFFFF, acts := true },
    { base := 0x40018, count := 2 }, { base := 0x40040, count := 9, rc := true }, { base := 0x40080, count := 3, rc := true },
    { base := 0x400A0, count := 5, rc := true }, { base := 0x400C0, w1c := 0x40000000 }, { base := 0x400C4, count := 2 },
    { base := 0x40100, count := 40 }, { base := 0x40200, rw := 1, acts := true }, { base := 0x40204, rw := 0x9F3F0000 },
    { base := 0x40208, count := 4, rw := allBits }, { base := 0x40218, w1c := 0x80000000 },
    { base := 0x4021C, count := 2, rc := true }, { base := 0x40240, count := 16, rw := allBits } ]

/-- The FAB region (09_fabric.md). -/
def fabRows : List RegRow :=
  [ { base := 0x50000 }, { base := 0x50004, w1c := allBits }, { base := 0x50008, low64 := true }, { base := 0x5000C },
    { base := 0x50010, count := 2, acts := true }, { base := 0x50020, count := 6, rc := true },
    { base := 0x50100, stride := 32, count := 24 }, { base := 0x50104, stride := 32, count := 24 },
    { base := 0x50108, stride := 32, count := 24, rc := true }, { base := 0x5010C, stride := 32, count := 24, rc := true },
    { base := 0x50110, stride := 32, count := 24, rc := true }, { base := 0x50114, stride := 32, count := 24 },
    { base := 0x50118, stride := 32, count := 24, rc := true }, { base := 0x5011C, stride := 32, count := 24, rc := true },
    { base := 0x50400, stride := 64, count := 16 },
    { base := 0x50404, stride := 64, count := 16, rw := 0xF00, acts := true, dflt := 0xA00 },
    { base := 0x50408, stride := 64, count := 16, rw := allBits }, { base := 0x5040C, stride := 64, count := 16, rw := allBits },
    { base := 0x50410, stride := 64, count := 16, rw := 1 }, { base := 0x50414, stride := 64, count := 16, rw := allBits },
    { base := 0x50418, stride := 64, count := 16, rw := allBits }, { base := 0x5041C, stride := 64, count := 16, rw := allBits },
    { base := 0x50420, stride := 64, count := 16, acts := true }, { base := 0x50424, stride := 64, count := 16 },
    { base := 0x50428, stride := 64, count := 16, rc := true }, { base := 0x5042C, stride := 64, count := 16, rc := true },
    { base := 0x50430, stride := 64, count := 16, rc := true }, { base := 0x50434, stride := 64, count := 16 },
    { base := 0x50438, stride := 64, count := 16 }, { base := 0x5043C, stride := 64, count := 16 },
    { base := 0x50800, count := 5, rw := allBits }, { base := 0x50814, rw := 0xF, acts := true },
    { base := 0x50818, w1c := 0x80000000 }, { base := 0x5081C, count := 3, rw := allBits } ]

/-- The UPD region (10_update.md). -/
def updRows : List RegRow :=
  [ { base := 0x60000 }, { base := 0x60004, rw := 0xF, w1c := 0x80000000, acts := true }, { base := 0x60008 },
    { base := 0x60010, low64 := true }, { base := 0x60014 }, { base := 0x60018, count := 2, rc := true }, { base := 0x60020 },
    { base := 0x60024, rw := 0x3F, acts := true }, { base := 0x60030, count := 4 }, { base := 0x60100, count := 32, rw := allBits },
    { base := 0x60200, count := 512 }, { base := 0x60C00, stride := 64, count := 16 },
    { base := 0x60C04, stride := 64, count := 16, rw := 1 }, { base := 0x60C08, stride := 64, count := 16, rw := allBits },
    { base := 0x60C0C, stride := 64, count := 16, rw := allBits, acts := true }, { base := 0x60C10, stride := 64, count := 16 },
    { base := 0x60C14, stride := 64, count := 16 },
    { base := 0x60C18, stride := 64, count := 16, rw := allBits, dflt := 0x186A0 },
    { base := 0x60C1C, stride := 64, count := 16, rw := allBits }, { base := 0x60C20, stride := 64, count := 16, rw := allBits },
    { base := 0x60C24, stride := 64, count := 16, rw := allBits }, { base := 0x60C28, stride := 64, count := 16, rw := allBits },
    { base := 0x60C2C, stride := 64, count := 16, rw := allBits }, { base := 0x60C30, stride := 64, count := 16, rw := allBits },
    { base := 0x60C34, stride := 64, count := 16, rw := allBits }, { base := 0x60C38, stride := 64, count := 16 },
    { base := 0x60C3C, stride := 64, count := 16 } ]

/-- The HST region (13_host.md). -/
def hstRows : List RegRow :=
  [ { base := 0x70000, count := 2 }, { base := 0x70008, rc := true }, { base := 0x70010 }, { base := 0x70014, dflt := 2000 },
    { base := 0x70018, dflt := 1200 }, { base := 0x7001C, dflt := 450 }, { base := 0x70020, dflt := 80 },
    { base := 0x70030, count := 5, rc := true }, { base := 0x70044 } ]

/-- The four sub-blocks of a storage package, offsets from the package's base (chapters 7, 8, 11, 12). -/
def packageRows : List RegRow :=
  [ { base := 0x0, dflt := 0x2000 }, { base := 0x4, rw := 0xFF0F, dflt := 0x1908 }, { base := 0x8, low64 := true },
    { base := 0xC }, { base := 0x10, count := 2, rw := allBits }, { base := 0x18, rw := 0x1FFFF, acts := true },
    { base := 0x1C, rw := 0xFFFF, acts := true }, { base := 0x20 }, { base := 0x24, acts := true }, { base := 0x28 },
    { base := 0x30, low64 := true }, { base := 0x34 }, { base := 0x38, low64 := true }, { base := 0x3C },
    { base := 0x40, count := 5, rc := true }, { base := 0x54 }, { base := 0x58, rc := true },
    { base := 0x10000 }, { base := 0x10004, rw := 0xF007F, dflt := 0x40 }, { base := 0x10010, count := 2, rw := allBits },
    { base := 0x10018, rw := 0x1FFFF, acts := true }, { base := 0x1001C, rw := 0xFFFF, acts := true }, { base := 0x10020 },
    { base := 0x10024, acts := true }, { base := 0x10028 }, { base := 0x1002C, rc := true },
    { base := 0x10030, stride := 8, count := 3, low64 := true }, { base := 0x10034, stride := 8, count := 3 },
    { base := 0x10048, count := 4, rc := true },
    { base := 0x20000 }, { base := 0x20004, rw := 0xFF, acts := true, dflt := 0x64 },
    { base := 0x20008, rw := allBits, dflt := 0xEA60 }, { base := 0x2000C, count := 4 }, { base := 0x20020, low64 := true },
    { base := 0x20024 }, { base := 0x20028 }, { base := 0x20030, count := 7, rc := true }, { base := 0x2004C, count := 2 },
    { base := 0x20058, low64 := true }, { base := 0x2005C },
    { base := 0x30000 }, { base := 0x30004, rw := 0xF01F, dflt := 0x8007 }, { base := 0x30008 }, { base := 0x3000C },
    { base := 0x30010, count := 8, rw := 0x3FFFF }, { base := 0x30030, count := 8, rw := 0x7FF },
    { base := 0x30050, rw := 0x1F0F1FFF, acts := true }, { base := 0x30054, count := 2 }, { base := 0x30060, acts := true },
    { base := 0x30064, rw := 0x1F0F1FFF }, { base := 0x30068, rw := 0xFFF }, { base := 0x3006C, count := 2, rw := allBits },
    { base := 0x30074, w1c := 0x80000000 }, { base := 0x30080, count := 12, rc := true }, { base := 0x300C0 } ]

/-- A tile's 4 KiB block, offsets from its base (04_tile.md). -/
def tileRows : List RegRow :=
  [ { base := 0x0 }, { base := 0x4, acts := true }, { base := 0x8, count := 3 }, { base := 0x14, rw := 0x0FFF0FFF, dflt := 0x400100 },
    { base := 0x18, rw := allBits, dflt := 0x2710 }, { base := 0x20, stride := 8, count := 3, low64 := true },
    { base := 0x24, stride := 8, count := 3 }, { base := 0x40, count := 5, rc := true }, { base := 0x60, count := 2, rc := true },
    { base := 0x68, w1c := 0x80000000 }, { base := 0x6C, rc := true }, { base := 0x70 }, { base := 0x74, rc := true },
    { base := 0x80, rw := 0x103, acts := true, dflt := 1 }, { base := 0x84 }, { base := 0x100, count := 68 } ]

/-- Whether a row holds the register at an offset. -/
def RegRow.has (r : RegRow) (off : Nat) : Bool :=
  decide (r.base ≤ off) && decide ((off - r.base) % r.stride = 0) && decide ((off - r.base) / r.stride < r.count)

/-- The base of tile `t`'s block (R37). -/
def tileBase (t : Nat) : Nat := 0x01000000 + t * 0x1000

/-- The base of SP`n`'s block (R37). -/
def packageBase (n : Nat) : Nat := 0x00100000 + n * 0x00040000

/-- Offsets of SCN and SRC that exist in SP0 only (R223, R271). -/
def sp0Only (rel : Nat) : Bool :=
  (decide (0x10 ≤ rel) && decide (rel ≤ 0x2C)) || (decide (0x10010 ≤ rel) && decide (rel ≤ 0x1002C))

/-- The row of the register at an offset of BAR2, or none where the offset is reserved (R38). -/
def regRow (off : Nat) : Option RegRow :=
  if off < 0x10000 then glbRows.find? (·.has off)
  else if off < 0x20000 then ledRows.find? (·.has off)
  else if off < 0x30000 then armRows.find? (·.has off)
  else if off < 0x40000 then grfRows.find? (·.has off)
  else if off < 0x50000 then tierRows.find? (·.has off)
  else if off < 0x60000 then fabRows.find? (·.has off)
  else if off < 0x70000 then updRows.find? (·.has off)
  else if off < 0x80000 then hstRows.find? (·.has off)
  else if off < 0x100000 then none
  else if off < 0x200000 then
    (if sp0Only ((off - 0x100000) % 0x40000) && decide (0x140000 ≤ off) then none
     else packageRows.find? (·.has ((off - 0x100000) % 0x40000)))
  else if off < 0x1000000 then none
  else if off < 0x1400000 then tileRows.find? (·.has ((off - 0x1000000) % 0x1000))
  else none

/-- The Reset column of the register at an offset (R18). -/
def regDefault (off : Nat) : Word :=
  match regRow off with
  | some r => BitVec.ofNat 32 r.dflt
  | none => 0

/-- Whether an offset lies in the region of a unit that the build does not fit (R2, R3). -/
def unfittedOffset (b : Build) (off : Nat) : Bool :=
  (decide (0x100000 ≤ off) && decide (off < 0x200000) && decide (b.sp ≤ (off - 0x100000) / 0x40000)) ||
  (decide (0x10130 ≤ off) && decide (off < 0x10170) && decide (b.sp ≤ (off - 0x10130) / 16)) ||
  (decide (0x50100 ≤ off) && decide (off < 0x50300) && decide (b.xp ≤ (off - 0x50100) / 32)) ||
  (decide (0x50300 ≤ off) && decide (off < 0x50400) && decide (2 * b.sp ≤ (off - 0x50300) / 32))

/-! ## Names of registers

An indexed register takes its index modulo the number of such registers, so that no index names a register of another region. -/

def GLB_ID : Nat := 0x0
def GLB_BUILD : Nat := 0x4
def GLB_CORE : Nat := 0x8
def GLB_ACC_ERR : Nat := 0xC
def GLB_PANEL : Nat := 0x20
def GLB_FW : Nat := 0x40
def GLB_FW_REV : Nat := 0x44
def GLB_BOOT : Nat := 0x48
def GLB_PWRON : Nat := 0x4C
def GLB_START : Nat := 0x50
def GLB_IDSEL : Nat := 0x54
def GLB_IDWORD : Nat := 0x58
def GLB_OWN_SRC : Nat := 0x60
def GLB_OWN_CTRL : Nat := 0x68
def GLB_OWN_STAT : Nat := 0x6C
def GLB_OWN_SEQ : Nat := 0x70
def GLB_SVN_MIN : Nat := 0x74
def GLB_FW_WINDOW (c : Nat) : Nat := 0x80 + 8 * (c % 4)
def GLB_FW_RETRY (c : Nat) : Nat := 0xA0 + 4 * (c % 4)
def GLB_FT_TRANS (c : Nat) : Nat := 0xB0 + 4 * (c % 8)
def GLB_FT_PERM (c : Nat) : Nat := 0xD0 + 4 * (c % 8)
def GLB_INTR : Nat := 0xF0
def GLB_HOURS : Nat := 0xF4
def GLB_ARB_LONG : Nat := 0xF8
def GLB_FREC_HEAD : Nat := 0x100
def GLB_FREC_SEL : Nat := 0x104
def GLB_FREC_DATA : Nat := 0x110
def LED_STAT : Nat := 0x10000
def LED_CTRL : Nat := 0x10004
def LED_EVENT : Nat := 0x10008
def LED_BUDGET : Nat := 0x1000C
def LED_VLIMIT : Nat := 0x10010
def LED_VSET : Nat := 0x10014
def LED_VNOW : Nat := 0x10018
def LED_PWR : Nat := 0x1001C
def LED_VIN : Nat := 0x10020
def LED_TEMP0 : Nat := 0x10024
def LED_TEMP1 : Nat := 0x10028
def LED_HU_PERIOD : Nat := 0x1002C
def LED_HU_ENERGY : Nat := 0x10030
def LED_HU_CAP : Nat := 0x10034
def LED_HU_ESR : Nat := 0x10038
def LED_ENERGY : Nat := 0x10040
def LED_ADMIT_WAIT : Nat := 0x10048
def LED_OVERSHOOT : Nat := 0x1004C
def LED_NEVER : Nat := 0x10050
def LED_THERM_TICKS : Nat := 0x10054
def LED_COOLANT : Nat := 0x10058
def LED_DOM_BUDGET (d : Nat) : Nat := 0x10100 + 16 * (d % 8)
def LED_DOM_PWR (d : Nat) : Nat := 0x10104 + 16 * (d % 8)
def LED_DOM_ENERGY (d : Nat) : Nat := 0x10108 + 16 * (d % 8)
def ARM_CTRL : Nat := 0x20000
def ARM_STAT : Nat := 0x20004
def ARM_DETAIL : Nat := 0x20008
def ARM_SRC : Nat := 0x2000C
def ARM_SRC_LEN : Nat := 0x20014
def ARM_ACTIVE : Nat := 0x20018
def ARM_SLOT_A : Nat := 0x20020
def ARM_SLOT_B : Nat := 0x20024
def ARM_QLIMIT : Nat := 0x20028
def ARM_LOCK : Nat := 0x2002C
def ARM_REFORMS : Nat := 0x20030
def GRF_STAT : Nat := 0x30000
def GRF_LOAD_ERR : Nat := 0x30004
def GRF_SEQ_STAT : Nat := 0x30008
def GRF_STEPS : Nat := 0x30010
def GRF_PREEMPTS : Nat := 0x30018
def GRF_RESTREAM : Nat := 0x30020
def GRF_SEQ_SEL : Nat := 0x30030
def GRF_SEQ_DATA : Nat := 0x30040
def GRF_CLASS_CTRL (n : Nat) : Nat := 0x30100 + 4 * (n % 16)
def GRF_CLASS_WAIT (n : Nat) : Nat := 0x30140 + 4 * (n % 16)
def GRF_CLASS_USE (n : Nat) : Nat := 0x30200 + 8 * (n % 16)
def TIER_STAT : Nat := 0x40000
def TIER_MV_LIMIT : Nat := 0x40004
def TIER_MQ_BASE : Nat := 0x40008
def TIER_MQ_SIZE : Nat := 0x40010
def TIER_MQ_TAIL : Nat := 0x40014
def TIER_MQ_HEAD : Nat := 0x40018
def TIER_DIR_STAT : Nat := 0x4001C
def TIER_STALL (c : Nat) : Nat := 0x40040 + 4 * (c % 16)
def TIER_HINT_MISS : Nat := 0x40080
def TIER_LATE : Nat := 0x40084
def TIER_DIR_INVAL : Nat := 0x40088
def TIER_CE_STK : Nat := 0x400A0
def TIER_UE_STK : Nat := 0x400A4
def TIER_CE_BM : Nat := 0x400A8
def TIER_UE_BM : Nat := 0x400AC
def TIER_PC_TRANSIENT : Nat := 0x400B0
def TIER_UE_LOC : Nat := 0x400C0
def TIER_UE_LINE : Nat := 0x400C4
def TIER_PC_RET (s : Nat) : Nat := 0x40100 + 8 * (s % 32)
def TIER_CHK_CTRL : Nat := 0x40200
def TIER_CHK_LOC : Nat := 0x40204
def TIER_CHK_LINE : Nat := 0x40208
def TIER_CHK_CODE : Nat := 0x40210
def TIER_CHK_STAT : Nat := 0x40218
def TIER_INJ_CE : Nat := 0x4021C
def TIER_INJ_UE : Nat := 0x40220
def TIER_CHK_DATA : Nat := 0x40240
def FAB_STAT : Nat := 0x50000
def FAB_EVENT : Nat := 0x50004
def FAB_TIME : Nat := 0x50008
def FAB_TIME_SET : Nat := 0x50010
def FAB_LATE : Nat := 0x50020
def FAB_STALE : Nat := 0x50024
def FAB_PAIR_MISMATCH : Nat := 0x50028
def FAB_ESC_USED : Nat := 0x5002C
def FAB_DUP_POST : Nat := 0x50030
def FAB_ADDER_ERR : Nat := 0x50034
def portReg (p k : Nat) : Nat := 0x50100 + 32 * (p % 24) + k % 32
def treeReg (t k : Nat) : Nat := 0x50400 + 64 * (t % 16) + k % 64
def FAB_PEER_SRC : Nat := 0x50800
def FAB_PEER_DST : Nat := 0x50808
def FAB_PEER_LEN : Nat := 0x50810
def FAB_PEER_CTRL : Nat := 0x50814
def FAB_PEER_STAT : Nat := 0x50818
def FAB_PEER_WIN : Nat := 0x5081C
def FAB_PEER_WIN_LEN : Nat := 0x50824
def UPD_STAT : Nat := 0x60000
def UPD_PROG_CTRL : Nat := 0x60004
def UPD_PROG_VALID : Nat := 0x60008
def UPD_SEGMENTS : Nat := 0x60010
def UPD_STALE : Nat := 0x60018
def UPD_LATE_LR : Nat := 0x6001C
def UPD_LOG_HEAD : Nat := 0x60020
def UPD_LOG_SEL : Nat := 0x60024
def UPD_LOG_DATA : Nat := 0x60030
def UPD_PSTAGE (w : Nat) : Nat := 0x60100 + 4 * (w % 32)
def UPD_SLOT (n w : Nat) : Nat := 0x60200 + 0x80 * (n % 16) + 4 * (w % 32)
def updReg (t k : Nat) : Nat := 0x60C00 + 64 * (t % 16) + k % 64
def HST_LINK : Nat := 0x70000
def HST_PS : Nat := 0x70004
def HST_PS_WAKES : Nat := 0x70008
def HST_PS_CAP (n : Nat) : Nat := 0x70010 + 4 * (n % 8)
def HST_RETRAINS : Nat := 0x70030
def HST_LINK_DOWN : Nat := 0x70034
def HST_XFER_ERR : Nat := 0x70038
def HST_CQ_WAIT : Nat := 0x7003C
def HST_FETCH_HELD : Nat := 0x70040
def HST_MI_STAT : Nat := 0x70044
def scnReg (n k : Nat) : Nat := packageBase (n % 4) + k % 0x10000
def srcReg (n k : Nat) : Nat := packageBase (n % 4) + 0x10000 + k % 0x10000
def ftlReg (n k : Nat) : Nat := packageBase (n % 4) + 0x20000 + k % 0x10000
def medReg (n k : Nat) : Nat := packageBase (n % 4) + 0x30000 + k % 0x10000
def tilReg (t k : Nat) : Nat := tileBase (t % 1024) + k % 0x1000

end Sys2Proof.Machine
end

