-- ==== Sys2Proof/Machine/Ops.lean ====
section
/-! DEFINITION. The operations that every family of commands shares: the registers and their counters, what leaves the
module, completions and asynchronous events, and the rule of transient and permanent faults with its log. -/
namespace Sys2Proof.Machine

/-- A command's outcome: the state that its effect leaves, or a fault where an operand names something that the module
does not have (R19). -/
def ok (b : Bool) (s : State) : Host.Outcome State Fault Refusal := if b then .next s else .fault .noSuchUnit

/-! ## Registers -/

/-- The register at an offset of BAR2 as the device holds it; a register of which nothing is stored holds its Reset
value (R18). -/
def reg (s : State) (off : Nat) : Word := Sparse.get (regDefault off) s.regs off

/-- Stores a register whole. -/
def setReg (s : State) (off : Nat) (v : Word) : State := { s with regs := Sparse.set (regDefault off) s.regs off v }

/-- A register as a number. -/
def regNat (s : State) (off : Nat) : Nat := (reg s off).toNat

/-- Stores the low 32 bits of a number in a register. -/
def setNat (s : State) (off v : Nat) : State := setReg s off (BitVec.ofNat 32 v)

/-- Field `[hi:lo]` of a register. -/
def fld (s : State) (off hi lo : Nat) : Nat := bitsOf (regNat s off) hi lo

/-- A word with field `[hi:lo]` replaced. -/
def putField (w hi lo v : Nat) : Nat :=
  w - bitsOf w hi lo * 2 ^ lo + (v % 2 ^ (hi + 1 - lo)) * 2 ^ lo

/-- Stores field `[hi:lo]` of a register; its other bits stay. -/
def setFld (s : State) (off hi lo v : Nat) : State := setNat s off (putField (regNat s off) hi lo v)

/-- Bit `i` of a register. -/
def rbit (s : State) (off i : Nat) : Bool := bitOf (regNat s off) i

/-- Stores bit `i` of a register. -/
def setBit (s : State) (off i : Nat) (b : Bool) : State := setFld s off i i (one b)

/-- A 32-bit counter of the option area one higher, or as it is at its top (R17). -/
def satInc (n : Nat) : Nat := if n < allBits then n + 1 else n

/-- Adds to a 32-bit counter, which saturates (R17). -/
def bumpBy (s : State) (off n : Nat) : State := setNat s off (min (regNat s off + n) allBits)

/-- Counts one event in a 32-bit counter (R17). -/
def bump (s : State) (off : Nat) : State := bumpBy s off 1

/-- Adds to a counter that lies in a field and saturates there. -/
def bumpFld (s : State) (off hi lo n : Nat) : State :=
  setFld s off hi lo (min (fld s off hi lo + n) (2 ^ (hi + 1 - lo) - 1))

/-- The 64-bit counter whose low word lies at an offset (R17). -/
def nat64 (s : State) (off : Nat) : Nat := regNat s off + 2 ^ 32 * regNat s (off + 4)

/-- Stores a 64-bit counter, low word first. -/
def set64 (s : State) (off v : Nat) : State := setNat (setNat s off v) (off + 4) (v / 2 ^ 32)

/-- Adds to a 64-bit counter. -/
def add64 (s : State) (off n : Nat) : State := set64 s off (nat64 s off + n)

/-- Counts a refused access (R12, R38, R39, R18). -/
def accErr (s : State) : State := bump s GLB_ACC_ERR

/-- Applies a state change for every entry of a list, in order. -/
def foldState {β : Type} (f : State → β → State) : State → List β → State
  | s, [] => s
  | s, b :: t => foldState f (f s b) t

/-- Stores a list of words at offsets 4 apart. -/
def setWords (s : State) (off : Nat) : List Nat → State
  | [] => s
  | v :: t => setWords (setNat s off v) (off + 4) t

/-- Whether a port block of the FAB map is fitted: 0 to 15 for XP0 to XP15, 16 to 23 for IP0 to IP7 (R2, R25, R26). -/
def portFitted (b : Build) (p : Nat) : Bool :=
  if p < 16 then decide (p < b.xp) else decide (p < 16 + 2 * b.sp)

/-! ## What leaves the module -/

/-- Gives something to the outside. -/
def emit (s : State) (o : Out) : State := { s with out := s.out ++ [o] }

/-- A fresh number: the counter that free values are drawn with (log entry 8). -/
def fresh (s : State) : Nat := s.fresh

/-- Takes a fresh number. -/
def draw (s : State) : State := { s with fresh := s.fresh + 1 }

/-- The completion queue that a command's submission queue is bound to (R408). -/
def cqOf (s : State) (sq : Nat) : Option CompQueue :=
  match s.host.sqs.find? (fun q => q.id == sq) with
  | none => none
  | some q => s.host.cqs.find? (fun c => c.id == q.cq)

/-- Whether a completion queue has no free entry (R410). -/
def cqFull (c : CompQueue) : Bool := decide ((c.tail + 1) % c.size = c.head)

/-- Advances a completion queue's tail. -/
def cqAdvance (h : HostIf) (id : Nat) : HostIf :=
  { h with cqs := updateWhere (fun c => c.id == id) (fun c => { c with tail := (c.tail + 1) % c.size }) h.cqs }

/-- Whether a completion can be posted now: the link is not retraining, and its queue has a free entry (R394, R410). A command
whose queue the model does not hold posts straight to the outside (log entry 9). -/
def canPostTo (s : State) (sq : Nat) : Bool := !s.host.retraining && (match cqOf s sq with | none => true | some c => !cqFull c)

/-- Posts a completion: into a free entry of its queue, or it waits and its command keeps its context (R394, R410). -/
def post (s : State) (c : Cqe) : State :=
  if canPostTo s c.tag.sq then
    let h := { s.host with ctxs := s.host.ctxs.filter (fun x => x.tag != c.tag) }
    emit { s with host := match cqOf s c.tag.sq with | none => h | some q => cqAdvance h q.id } (.cqe c)
  else { s with host := { s.host with waitingCqes := s.host.waitingCqes ++ [c] } }

/-- Posts the waiting completions of a completion queue for as long as it has free entries (R410). -/
def postWaiting : Nat → State → State
  | 0, s => s
  | n + 1, s =>
    match s.host.waitingCqes.find? (fun c => canPostTo s c.tag.sq) with
    | none => s
    | some c => postWaiting n (post { s with host := { s.host with waitingCqes := s.host.waitingCqes.erase c } } c)

/-- Completes a command with success. -/
def complete (s : State) (tag : CmdTag) (dw0 : Nat) : State := post s { tag := tag, sct := 0, sc := 0, dnr := 0, dw0 := dw0 }

/-- Adds an entry to the Error Information log page, of 256 entries, newest first (R405, R415). -/
def logError (s : State) (tag : CmdTag) (sct sc lba : Nat) : State :=
  { s with host := { s.host with errors := ((tag, sct, sc, lba) :: s.host.errors).take 256 } }

/-- Fails a command that adds an Error Information entry (R415). -/
def failAt (s : State) (tag : CmdTag) (sct sc dnr lba : Nat) : State :=
  post (logError s tag sct sc lba) { tag := tag, sct := sct, sc := sc, dnr := dnr, dw0 := 0 }

/-- Fails a command at no particular block. -/
def fail (s : State) (tag : CmdTag) (sct sc dnr : Nat) : State := failAt s tag sct sc dnr 0

/-- Ends a command with a status that adds no Error Information entry: Command Abort Requested and Command Interrupted
(R415). -/
def endQuiet (s : State) (tag : CmdTag) (sct sc dnr : Nat) : State :=
  post s { tag := tag, sct := sct, sc := sc, dnr := dnr, dw0 := 0 }

/-- Fails a command that an operation had, where it had one. -/
def failOpt (s : State) (tag : Option CmdTag) (sct sc dnr : Nat) : State :=
  match tag with
  | none => s
  | some t => fail s t sct sc dnr

/-- Completes an Asynchronous Event Request with an event, or keeps the event until the host sends one: dword 0 holds the
type, the information and the log page (R407). -/
def raiseEvent (s : State) (type info log : Nat) : State :=
  match s.host.aers with
  | [] => { s with host := { s.host with events := s.host.events ++ [{ type := type, info := info, log := log }] } }
  | t :: ts => complete { s with host := { s.host with aers := ts } } t (type + 256 * info + 65536 * log)

/-- A Notice of the device's own (R407). -/
def notice (s : State) (info log : Nat) : State := raiseEvent s 2 info log

/-- Latches a health status change, which asserts ALERT# (R423). -/
def healthChanged (s : State) : State :=
  setBit { s with host := { s.host with healthChange := true } } HST_MI_STAT 31 true

/-! ## Faults (R478 to R485) -/

/-- An occurrence's record in the fault log: each new entry overwrites the oldest of 4,096 (R485). -/
def logFault (s : State) (r : FaultRec) : State :=
  setNat { s with nv := { s.nv with faultLog := Sparse.set {} s.nv.faultLog (s.nv.frecHead % 4096) r
                                    frecHead := (s.nv.frecHead + 1) % 2 ^ 32 } }
    GLB_FREC_HEAD ((s.nv.frecHead + 1) % 2 ^ 32)

/-- Records an interrupting fault once, with KIND 4, and counts it once in GLB_INTR (R483). -/
def interrupting (s : State) (cause unit : Nat) : State :=
  let s := logFault s { event := s.nv.pwron, time := s.tb, cls := 5, kind := 4, cause := cause, unit := unit
                        elapsed := allBits }
  setNat { s with nv := { s.nv with intr := satInc s.nv.intr } } GLB_INTR (satInc s.nv.intr)

/-- The WINDOW in force for a class, in TB ticks: adders take the optical-lane record (R478, R479). -/
def windowOf (s : State) (cls : Nat) : Nat := nat64 s (GLB_FW_WINDOW (if cls = 4 then 2 else cls))

/-- The RETRY in force for a class. -/
def retryOf (s : State) (cls : Nat) : Nat := fld s (GLB_FW_RETRY (if cls = 4 then 2 else cls)) 3 0

/-- A resource's last transient fault on record. -/
def ageOf (s : State) (cls unit : Nat) : Option FaultAge :=
  s.faults.ages.find? (fun a => a.cls == cls && a.unit == unit)

/-- Powered time since a resource's last transient fault (R479). -/
def elapsedOf (s : State) (a : FaultAge) : Nat := s.faults.powered - a.at_

/-- ELAPSED of R485, in ms. -/
def elapsedMs (s : State) (cls unit : Nat) : Nat :=
  match ageOf s cls unit with
  | none => allBits
  | some a => min (elapsedOf s a / 100000) allBits

/-- Whether a new transient fault of a resource falls within its window: below WINDOW, or at its very end where the
window's lapse has not come first (R479, R480). -/
def withinWindow (s : State) (cls unit : Nat) : Bool :=
  match ageOf s cls unit with
  | none => false
  | some a => decide (elapsedOf s a < windowOf s cls) || (decide (elapsedOf s a = windowOf s cls) && !a.lapsed)

/-- Whether an occurrence is permanent: its retries all failed, or it falls within the window (R479). -/
def judgedPermanent (s : State) (cls unit : Nat) (exhausted : Bool) : Bool := exhausted || withinWindow s cls unit

/-- The fault-log entry of an occurrence as it stands now. -/
def faultRec (s : State) (cls kind cause unit : Nat) : FaultRec :=
  { event := s.nv.pwron, time := s.tb, cls := cls, kind := kind, cause := cause, unit := unit, elapsed := elapsedMs s cls unit }

/-- An occurrence that stays transient: it counts in GLB_FT_TRANS, it becomes the resource's last transient fault, and its
entry of KIND 1 is written with the next save (R479, R485). -/
def transientFault (s : State) (cls cause unit : Nat) : State :=
  let r := faultRec s cls 1 cause unit
  let a : FaultAge := { cls := cls, unit := unit, at_ := s.faults.powered }
  let ages := a :: s.faults.ages.filter (fun x => !(x.cls == cls && x.unit == unit))
  bump { s with faults := { s.faults with ages := ages, unsaved := s.faults.unsaved ++ [r] } } (GLB_FT_TRANS cls)

/-- A permanent fault counts in GLB_FT_PERM (R485); the entry of its kind and the asynchronous event follow in
`retired` once the resource is out of use (R481). -/
def permanentFault (s : State) (cls : Nat) : State :=
  let n := min (s.nv.ftPerm.getD cls 0 + 1) allBits
  setNat { s with nv := { s.nv with ftPerm := setAt s.nv.ftPerm cls n } } (GLB_FT_PERM cls) n

/-- The last two steps of R481: the fault log receives the entry and the event C4h is sent. -/
def retired (s : State) (r : FaultRec) : State := notice (logFault s r) 0xC4 0

/-- Writes the entries and times of R479 and the powered time of R506 to the option area. -/
def saveFaultTimes (s : State) : State :=
  let s := foldState logFault { s with faults := { s.faults with unsaved := [] } } s.faults.unsaved
  { s with nv := { s.nv with faultAges := s.faults.ages, poweredTicks := s.faults.powered, tickedTicks := s.faults.ticked
                             ftTrans := [0, 1, 2, 3, 4].map (fun c => regNat s (GLB_FT_TRANS c)) } }

/-! ## Intervals of registers (R8, R9) -/

/-- Whether an interval of `n` ticks that began at TB time `start` has passed: 0 is no timeout, and none expires while TB is stopped. -/
def expired (s : State) (start n : Nat) : Bool := n != 0 && s.power.refclk && decide (start + n ≤ s.tb)

/-! ## Settings and packages -/

/-- GLB_HOURS: the powered time in whole hours, rounded down (R506); an hour is 3.6 × 10^11 ticks. -/
def showHours (s : State) : State := setNat s GLB_HOURS (s.faults.powered / 360000000000)

/-- The settings in force (R18: "arm" registers are loaded from them). -/
def settings (s : State) : Armature := s.loader.settings

/-- The package's record. -/
def pkg (s : State) (p : Nat) : Package := s.packages.getD p {}

/-- Stores a package's record. -/
def setPkg (s : State) (p : Nat) (x : Package) : State := { s with packages := setAt s.packages p x }

/-- Whether a package is fitted (R2). -/
def fitted (s : State) (p : Nat) : Bool := decide (p < s.build.sp)

/-- Runs a state change only for a fitted package. -/
def onPkg (s : State) (p : Nat) (t : State) : State := if fitted s p then t else s

end Sys2Proof.Machine
end

