-- ==== Sys2Proof/Machine/Dram.lean ====
section
/-! DEFINITION. Stacks and board memory: address windows, the interleave, lines with their tags, the line code's outcomes,
poison, generations and pseudo-channel faults (06_tiers.md). -/
namespace Sys2Proof.Machine

/-! ## Windows (R182, R183, R504) -/

/-- The 64 MiB granule. -/
def granule : Nat := 0x4000000

/-- Base of the weight cache. -/
def weightBase : Nat := 0x020000000000

/-- Base of board Subsystem Local Memory of package 0; packages lie `boardStride` apart. -/
def boardBase : Nat := 0x040000000000

/-- Distance of the board windows. -/
def boardStride : Nat := 0x020000000000

/-- A window of R182. -/
inductive Window where
  | stack
  | weight
  | board (n : Nat)
deriving DecidableEq, Repr

/-- The window that a window address lies in, by its base, or none. -/
def windowAt (wa : Nat) : Option Window :=
  if wa < weightBase then some .stack
  else if wa < boardBase then some .weight
  else if wa < boardBase + 4 * boardStride then some (.board ((wa - boardBase) / boardStride))
  else none

/-- A window's base. -/
def windowStart : Window → Nat
  | .stack => 0
  | .weight => weightBase
  | .board n => boardBase + n * boardStride

/-- A package's board partition in the settings in force. -/
def boardPart (a : Armature) (n : Nat) : BoardPart := a.board.getD n { map := 0, wbuf := 0, vcache := 0, scan := 0, slm := 0 }

/-- A window's length in bytes under the settings in force (R182). -/
def windowLen (a : Armature) : Window → Nat
  | .stack => a.stkSlm * granule
  | .weight => a.stkWeight * granule
  | .board n => (boardPart a n).slm * granule

/-- Whether `len` bytes from a window address lie in one window. -/
def mapped (a : Armature) (wa len : Nat) : Bool :=
  match windowAt wa with
  | none => false
  | some w => decide (wa + len ≤ windowStart w + windowLen a w)

/-- Whether an address range lies in the stack SLM or a board SLM window, which the memory namespace presents (R182, R402). -/
def mappedSlm (a : Armature) (wa len : Nat) : Bool :=
  mapped a wa len && decide (windowAt wa ≠ some .weight)

/-- Whether an address range lies in the stack SLM window. -/
def mappedStack (a : Armature) (wa len : Nat) : Bool := mapped a wa len && decide (windowAt wa = some .stack)

/-- Bits [63:56] of an address under R147. -/
def selector (a : Nat) : Nat := a / 2 ^ 56

/-- Bits [55:0] of an address under R147. -/
def within (a : Nat) : Nat := a % 2 ^ 56

/-- The interleave length L of R183, in bytes. -/
def ilvLen (a : Armature) : Nat := if a.stkIlv % 2 = 0 then 256 else 4096

/-- Whether the interleave set is one die's pseudo-channels (modes 2 and 3). -/
def ilvLocal (a : Armature) : Bool := decide (2 ≤ a.stkIlv)

/-- The size P of the interleave set. -/
def ilvSize (a : Armature) : Nat := if ilvLocal a then 160 else 1280

/-- The pseudo-channel at a place of die `d`'s set, as stack × 64 + pseudo-channel (R24, R183). -/
def diePc (d pos : Nat) : Nat :=
  if pos < 128 then 2 * d * 64 + pos else (16 + d / 2) * 64 + (d % 2) * 32 + (pos - 128)

/-- The die whose set a pseudo-channel belongs to (R24). -/
def pcDie (p : Nat) : Nat := if p < 1024 then p / 128 else 2 * ((p / 64) - 16) + (p % 64) / 32

/-- A pseudo-channel's place in its die's set. -/
def pcPlace (p : Nat) : Nat := if p < 1024 then p % 128 else 128 + p % 32

/-- The pseudo-channel of a line of a stack window, at an offset in the window (R183). -/
def pcAt (a : Armature) (off : Nat) : Nat :=
  let x := off / ilvLen a
  if ilvLocal a then diePc (off / granule % 8) (x % 160) else x % 1280

/-- Interleave lengths below number `y` of a window that fall on place `c` of a set of `n`: those whose number leaves the remainder `c`. -/
def countAt (n c y : Nat) : Nat := (y + (n - 1) - c) / n

/-- Interleave lengths of granule `g` of a window that fall on a place of its die's set (R183, modes 2 and 3). -/
def granuleShare (a : Armature) (c g : Nat) : Nat :=
  let m := granule / ilvLen a
  countAt 160 c ((g + 1) * m) - countAt 160 c (g * m)

/-- Interleave lengths of the first `n` granules of a window that fall on a place of die `d`'s set. -/
def dieShare (a : Armature) (d c n : Nat) : Nat := sumNat ((List.range ((n + 7 - d) / 8)).map (fun i => granuleShare a c (8 * i + d)))

/-- Lines of a window of `len` bytes that a pseudo-channel takes. -/
def pcShare (a : Armature) (p len : Nat) : Nat :=
  (if ilvLocal a then dieShare a (pcDie p) (pcPlace p) (len / granule) else countAt 1280 p (len / ilvLen a)) * (ilvLen a / 64)

/-- The interleave lengths of a window that come before one on the same pseudo-channel. -/
def lengthsBefore (a : Armature) (off : Nat) : Nat :=
  let x := off / ilvLen a
  if ilvLocal a then
    let g := off / granule
    let c := x % 160
    dieShare a (g % 8) c g + (countAt 160 c x - countAt 160 c (g * (granule / ilvLen a)))
  else x / 1280

/-- The line index within its pseudo-channel of a line of a stack window (log entry 10: the manual does not give the order of the windows
there; the stack window comes first, then the weight cache, in the order of R50). -/
def lineIndex (a : Armature) (wa : Nat) : Nat :=
  let local_ (off : Nat) : Nat := lengthsBefore a off * (ilvLen a / 64) + off % ilvLen a / 64
  match windowAt wa with
  | some .stack => local_ wa
  | some .weight => pcShare a (pcAt a (wa - weightBase)) (windowLen a .stack) + local_ (wa - weightBase)
  | _ => 0

/-- The granule of die `d` in which interleave length `j` of a place lies, with the number of that length in the granule, from the die's granule
number `i`; at most `n` granules. -/
def findGranule (a : Armature) (d c : Nat) : Nat → Nat → Nat → Option (Nat × Nat)
  | 0, _, _ => none
  | n + 1, i, j =>
    let k := granuleShare a c (8 * i + d)
    if j < k then some (8 * i + d, j) else findGranule a d c n (i + 1) (j - k)

/-- The window offset of interleave length `j` of a pseudo-channel. -/
def lengthAt (a : Armature) (p j granules : Nat) : Option Nat :=
  if ilvLocal a then
    match findGranule a (pcDie p) (pcPlace p) (granules / 8 + 1) 0 j with
    | none => none
    | some (g, k) =>
      let m := g * (granule / ilvLen a)
      some ((m + (pcPlace p + 160 - m % 160) % 160 + 160 * k) * ilvLen a)
  else some ((j * 1280 + p) * ilvLen a)

/-- The window address of a pseudo-channel's line, the inverse of `lineIndex`; none where no window holds it. -/
def lineOfPc (a : Armature) (p idx : Nat) : Option Nat :=
  let per := ilvLen a / 64
  let good (base i len : Nat) : Option Nat :=
    match lengthAt a p (i / per) (len / granule) with
    | none => none
    | some o => let off := o + i % per * 64; if off < len ∧ pcAt a off = p then some (base + off) else none
  let share := pcShare a p (windowLen a .stack)
  if idx < share then good 0 idx (windowLen a .stack)
  else good weightBase (idx - share) (windowLen a .weight)

/-! ## Pseudo-channel faults (R208 to R210) -/

/-- Pseudo-channels retired in a stack. -/
def retiredInStack (s : State) (stack : Nat) : Nat := (s.nv.retiredPcs.filter (fun p => p / 64 == stack)).length

/-- Shows retired and fenced pseudo-channels in TIER_PC_RET and TIER_STAT. -/
def showPcs (s : State) : State :=
  let mark (s : State) (p : Nat) : State := setBit s (TIER_PC_RET (p / 64) + 4 * (p % 64 / 32)) (p % 32) true
  let s := foldState mark (foldState mark s s.nv.retiredPcs) s.nv.fencedPcs
  let s := setFld s TIER_STAT 6 0 s.nv.retiredPcs.length
  setBit s TIER_STAT 31 (!s.nv.fencedPcs.isEmpty)

/-- Retires a pseudo-channel and starts its migration (R209), or fences it where its stack has retired four (R210). -/
def retirePc (s : State) (p cause : Nat) : State :=
  if s.nv.retiredPcs.contains p || s.nv.fencedPcs.contains p then s
  else
    let fence := decide (4 ≤ retiredInStack s (p / 64))
    let r := faultRec s 1 (if fence then 3 else 2) cause p
    let s := permanentFault s 1
    let s :=
      if fence then { s with nv := { s.nv with fencedPcs := s.nv.fencedPcs ++ [p] } }
      else
        let s := { s with nv := { s.nv with retiredPcs := s.nv.retiredPcs ++ [p] }
                          mover := { s.mover with migrating := s.mover.migrating ++ [p] } }
        setBit s TIER_STAT 30 true
    retired (showPcs s) r

/-- A transient fault of a pseudo-channel, which may be judged permanent (R208). -/
def pcFault (s : State) (p cause : Nat) (exhausted : Bool) : State :=
  let s := bump s TIER_PC_TRANSIENT
  if judgedPermanent s 1 p exhausted then retirePc s p cause else transientFault s 1 cause p

/-! ## Lines (R199 to R207, R212) -/

/-- A line's key: its window address divided by 64. -/
def lineKey (wa : Nat) : Nat := wa / 64

/-- A line's tag byte (R200); a line never written holds VALID 0. -/
def tagOf (s : State) (line : Nat) : Byte := Sparse.get 0 s.dram.tags line

/-- The generation of a line's granule, of six bits (R201). -/
def genOf (s : State) (line : Nat) : Nat := Sparse.get 0 s.dram.gens (line * 64 / granule) % 64

/-- Whether a line reads as zero: VALID 0, or a generation that is not its granule's (R201). -/
def readsZero (s : State) (line : Nat) : Bool :=
  !bitOf (tagOf s line).toNat 7 || bitsOf (tagOf s line).toNat 6 1 != genOf s line

/-- Whether a line holds poison that a read would see (R206). -/
def poisoned (s : State) (line : Nat) : Bool := !readsZero s line && bitOf (tagOf s line).toNat 0

/-- A tag byte with VALID 1 and the granule's current generation. -/
def freshTag (s : State) (line : Nat) (poison : Bool) : Byte := BitVec.ofNat 8 (128 + 2 * genOf s line + one poison)

/-- Where the model keys the lines of board memory that no window shows: the partitions other than board SLM (log entry 19). -/
def hiddenBoard (n idx : Nat) : Nat := 2 ^ 54 + n * 2 ^ 40 + idx * 64

/-- Where the model keys the lines of a pseudo-channel that no window shows: working memory (log entry 19). -/
def hiddenStack (p idx : Nat) : Nat := 2 ^ 55 + p * 2 ^ 40 + idx * 64

/-- Whether a line lies on board memory. -/
def onBoard (line : Nat) : Bool := decide (boardBase ≤ line * 64) && decide (line * 64 < 2 ^ 55)

/-- The package that holds a board line. -/
def boardPkg (line : Nat) : Nat :=
  if line * 64 < 2 ^ 54 then (line * 64 - boardBase) / boardStride else (line * 64 - 2 ^ 54) / 2 ^ 40

/-- The pseudo-channel that holds a stack line. -/
def pcOfLine (s : State) (line : Nat) : Nat :=
  if 2 ^ 55 ≤ line * 64 then (line * 64 - 2 ^ 55) / 2 ^ 40
  else pcAt (settings s) (if line * 64 < weightBase then line * 64 else line * 64 - weightBase)

/-- The partitions of a package's board memory as they follow one another, each with its first granule and its size: translation map, write
buffer, vector cache, scan buffers, board SLM, in the order of R50 (log entry 19). -/
def boardParts (a : Armature) (n : Nat) : List (Nat × Nat) :=
  let b := boardPart a n
  [(0, b.map), (b.map, b.wbuf), (b.map + b.wbuf, b.vcache), (b.map + b.wbuf + b.vcache, b.scan), (b.map + b.wbuf + b.vcache + b.scan, b.slm)]

/-- The first line of a package's board SLM within the package. -/
def slmLine (a : Armature) (n : Nat) : Nat :=
  let b := boardPart a n
  (b.map + b.wbuf + b.vcache + b.scan) * (granule / 64)

/-- The line index within its pseudo-channel or package. -/
def lineNumber (s : State) (line : Nat) : Nat :=
  if 2 ^ 54 ≤ line * 64 then line * 64 % 2 ^ 40 / 64
  else if onBoard line then slmLine (settings s) (boardPkg line) + (line * 64 - boardBase) % boardStride / 64
  else lineIndex (settings s) (line * 64)

/-- The line that TIER_CHK_LOC and TIER_CHK_LINE name, or that the scrubber meets: 12 × 10^9 lines to a package's board memory
and 15,625,000 to a pseudo-channel (R198); none outside them (log entry 19). -/
def lineAt (s : State) (board : Bool) (unit pc idx : Nat) : Option Nat :=
  if board then
    if unit < s.build.sp ∧ idx < 12000000000 then
      let lo := slmLine (settings s) unit
      some ((if lo ≤ idx ∧ (idx - lo) * 64 < windowLen (settings s) (.board unit) then boardBase + unit * boardStride + (idx - lo) * 64
             else hiddenBoard unit idx) / 64)
    else none
  else if unit < 20 ∧ pc < 64 ∧ idx < 15625000 then
    match lineOfPc (settings s) (unit * 64 + pc) idx with
    | some wa => some (wa / 64)
    | none => some (hiddenStack (unit * 64 + pc) idx / 64)
  else none

/-- Whether a line lies on a fenced pseudo-channel, whose lines return bus errors (R210). -/
def lineFenced (s : State) (line : Nat) : Bool := !onBoard line && s.nv.fencedPcs.contains (pcOfLine s line)

/-- Whether a package can be reached: one of its internal ports is up (R26, R319). -/
def reachable (s : State) (p : Nat) : Bool :=
  decide (fld s (portReg (16 + 2 * p) 0) 31 28 = 3) || decide (fld s (portReg (17 + 2 * p) 0) 31 28 = 3)

/-- Whether the tier of a line is unreachable: a fenced pseudo-channel, or board memory of a package both of whose internal ports are down
(R196). -/
def lineOut (s : State) (line : Nat) : Bool := lineFenced s line || (onBoard line && !reachable s (boardPkg line))

/-- Whether the checker remembers a line (R212). -/
def remembered (s : State) (line : Nat) : Bool := s.dram.remembered.contains line

/-- Forgets a line of the checker: a write through another path replaces it (R212). -/
def forget (d : Dram) (line : Nat) : Dram :=
  { d with remembered := d.remembered.filter (fun l => l != line), raws := Sparse.set none d.raws line none }

/-- Stores a line's 64 bytes under a tag, by a path other than WRITE_RAW. -/
def putLine (s : State) (line : Nat) (data : List Byte) (tag : Byte) : State :=
  { s with dram := forget { s.dram with bytes := Memory.setBytes s.dram.bytes (line * 64) (data.take 64)
                                        tags := Sparse.set 0 s.dram.tags line tag } line }

/-- Writes a whole line: VALID 1 and the current generation, which clears poison (R201, R206). -/
def writeLine (s : State) (line : Nat) (data : List Byte) : State :=
  let s := putLine s line data (freshTag s line false)
  if s.dram.reached.isEmpty then s else { s with dram := { s.dram with reached := s.dram.reached.filter (fun l => l != line) } }

/-- Writes a line as poisoned: zero data, VALID 1, the current generation, POISON 1 (R206). -/
def writePoison (s : State) (line : Nat) : State := putLine s line (List.replicate 64 0) (freshTag s line true)

/-- Counts a corrected line (R204), in the injection counter where the checker remembers it (R212). -/
def countCorrected (s : State) (line : Nat) : State :=
  if remembered s line then bump s TIER_INJ_CE
  else bump s (if onBoard line then TIER_CE_BM else TIER_CE_STK)

/-- Notes a poisoned line of a pseudo-channel, and the transient fault that 64 of them within WINDOW make (R208). -/
def notePoison (s : State) (line : Nat) : State :=
  if onBoard line then s
  else
    let p := pcOfLine s line
    let all := (p, s.faults.powered) :: s.dram.poisons
    let near := all.filter (fun x => x.1 == p && decide (s.faults.powered - x.2 < windowOf s 1))
    if 64 ≤ near.length then
      pcFault { s with dram := { s.dram with poisons := all.filter (fun x => x.1 != p) } } p 3 false
    else { s with dram := { s.dram with poisons := all } }

/-- Counts an uncorrectable line, records where it is and rewrites it poisoned (R206); an injected error counts apart and
never toward R208 (R212). -/
def poisonLine (s : State) (line : Nat) : State :=
  let injected := remembered s line
  let s :=
    if injected then bump s TIER_INJ_UE
    else bump s (if onBoard line then TIER_UE_BM else TIER_UE_STK)
  let p := pcOfLine s line
  let loc :=
    if onBoard line then 2 ^ 31 + 2 ^ 30 + boardPkg line * 2 ^ 24
    else 2 ^ 30 + p / 64 * 2 ^ 24 + p % 64 * 2 ^ 16
  let s := set64 (setNat s TIER_UE_LOC loc) TIER_UE_LINE (lineNumber s line)
  let s := writePoison s line
  if injected then s else notePoison s line

/-- A line's 64 stored data bytes. -/
def lineBytes (s : State) (line : Nat) : List Byte := Memory.bytes s.dram.bytes (line * 64) 64

/-- 64 bytes as one number. -/
def lineWord (l : List Byte) : BitVec 512 := BitVec.ofNat 512 (leNat l)

/-- The 72 stored symbols of an encoded line: data, tag byte, check bytes (R199). -/
def encoded (data : List Byte) (tag : Byte) : BitVec 576 :=
  BitVec.ofNat 576 (leNat (data.take 64) + 2 ^ 512 * tag.toNat +
    2 ^ 520 * (Config.lineCheck (lineWord (data.take 64)) tag).toNat)

/-- Symbols in which two stored lines differ. -/
def symbolErrors (a b : BitVec 576) : Nat → Nat
  | 0 => 0
  | n + 1 => symbolErrors a b n + one (bitsOf a.toNat (8 * n + 7) (8 * n) != bitsOf b.toNat (8 * n + 7) (8 * n))

/-- The stored line as the checker reads it raw. -/
def rawLine (s : State) (line : Nat) : BitVec 576 :=
  match Sparse.get none s.dram.raws line with
  | some r => r
  | none => encoded (lineBytes s line) (tagOf s line)

/-- What the line code makes of a raw line: 0 clean, 1 corrected, 2 uncorrectable (R199, R204, R206). The state after it
holds the line's content in ordinary form. A line within 3 symbols of a code word is corrected to it: the word of the line's own earlier content
is tried first, then the nearest one; at 4 symbols the error is detected. Beyond that the manual guarantees nothing (log entry 6). -/
def settle (s : State) (line : Nat) : State × Nat :=
  match Sparse.get none s.dram.raws line with
  | none => (s, 0)
  | some r =>
    let data := leBytes 64 r.toNat
    let tag : Byte := BitVec.ofNat 8 (r.toNat / 2 ^ 512)
    let chk : BitVec 56 := BitVec.ofNat 56 (r.toNat / 2 ^ 520)
    let keep (s : State) (data : List Byte) : State :=
      { s with dram := { s.dram with raws := Sparse.set none s.dram.raws line none
                                     bytes := Memory.setBytes s.dram.bytes (line * 64) data
                                     tags := Sparse.set 0 s.dram.tags line tag } }
    if Config.lineCheck (lineWord data) tag = chk then (keep s data, 0)
    else
      let d := symbolErrors r (encoded (lineBytes s line) (tagOf s line)) 72
      let w := Config.nearestWord r
      let near := symbolErrors r (encoded (leBytes 64 w.1.toNat) w.2) 72
      if d ≤ 3 then
        let s := countCorrected s line
        ({ s with dram := forget s.dram line }, 1)
      else if near ≤ 3 then
        let s := countCorrected s line
        ({ s with dram := forget { s.dram with bytes := Memory.setBytes s.dram.bytes (line * 64) (leBytes 64 w.1.toNat)
                                               tags := Sparse.set 0 s.dram.tags line w.2 } line }, 1)
      else if d = 4 ∨ near = 4 then (poisonLine s line, 2)
      else
        let f := s.fresh
        let s := draw s
        if Config.beyondCodeDetected r f then (poisonLine s line, 2)
        else (keep s (leBytes 64 (Config.beyondCodeData r f).toNat), 0)

/-- Reads a line: its data, or a bus error (R196, R201, R204, R206, R210). -/
def readLine (s : State) (line : Nat) : State × Option (List Byte) :=
  if lineOut s line then (s, none)
  else
    let t := (settle s line).1
    if poisoned t line then (t, none)
    else if readsZero t line then (t, some (List.replicate 64 0))
    else (t, some (lineBytes t line))

/-- Reads the lines of a range one after another, stopping at a bus error. -/
def readLines : Nat → State → Nat → State × Option (List Byte)
  | 0, s, _ => (s, some [])
  | n + 1, s, line =>
    match readLine s line with
    | (t, none) => (t, none)
    | (t, some l) =>
      match readLines n t (line + 1) with
      | (u, none) => (u, none)
      | (u, some r) => (u, some (l ++ r))

/-- Lines that a byte range touches. -/
def linesOf (wa len : Nat) : Nat := if len = 0 then 0 else (wa + len - 1) / 64 - wa / 64 + 1

/-- Reads a range of a window: its bytes, or a bus error (R189, R206). -/
def readRange (s : State) (wa len : Nat) : State × Option (List Byte) :=
  match readLines (linesOf wa len) s (wa / 64) with
  | (t, none) => (t, none)
  | (t, some l) => (t, some ((l.drop (wa % 64)).take len))

/-- Records the interrupting fault behind a range that could not be read: an uncorrectable line, once, however many requesters meet
it (R482, R483). -/
def reachUe (s : State) (wa len : Nat) : State :=
  match (List.range (linesOf wa len)).find? (fun i => poisoned s (wa / 64 + i) || lineOut s (wa / 64 + i)) with
  | none => s
  | some i =>
    let l := wa / 64 + i
    if s.dram.reached.contains l then s
    else interrupting { s with dram := { s.dram with reached := l :: s.dram.reached } } 3 (if onBoard l then allBits else pcOfLine s l)

/-- Bytes as a read would give them, poison as zeros, with no effect: for checks on stored images. -/
def peekByte (s : State) (wa : Nat) : Byte :=
  if readsZero s (wa / 64) then 0 else Memory.byte s.dram.bytes wa

/-- The little-endian number that a read of `n` bytes would give. -/
def peek (s : State) (wa : Nat) : Nat → Nat
  | 0 => 0
  | n + 1 => (peekByte s wa).toNat + 256 * peek s (wa + 1) n

/-- The bytes that a read would give. -/
def peekBytes (s : State) (wa : Nat) : Nat → List Byte
  | 0 => []
  | n + 1 => peekByte s wa :: peekBytes s (wa + 1) n

/-- Replaces bytes `lo` onward of a line's data. -/
def spliceLine (old : List Byte) (lo : Nat) (new : List Byte) : List Byte :=
  old.take lo ++ new ++ old.drop (lo + new.length)

/-- Writes part of a line, or all of it. A part merges with what the line reads as; a poisoned line refuses a part with a
bus error and stays poisoned (R201, R206). -/
def writePart (s : State) (line lo : Nat) (new : List Byte) : State × Bool :=
  if lineOut s line then (s, false)
  else if new.length = 64 then (writeLine s line new, true)
  else
    match readLine s line with
    | (t, none) => (t, false)
    | (t, some old) => (writeLine t line (spliceLine old lo new), true)

/-- Writes bytes over up to `n` lines, stopping at a bus error. -/
def writeParts : Nat → State → Nat → List Byte → State × Bool
  | 0, s, _, _ => (s, true)
  | n + 1, s, wa, data =>
    let k := 64 - wa % 64
    match writePart s (wa / 64) (wa % 64) (data.take k) with
    | (t, false) => (t, false)
    | (t, true) => writeParts n t (wa + k) (data.drop k)

/-- Writes a range of a window: whether no line refused it. -/
def writeRange (s : State) (wa : Nat) (data : List Byte) : State × Bool :=
  if data.isEmpty then (s, true) else writeParts (linesOf wa data.length) s wa data

/-- Writes a range, whatever its lines answer. -/
def writeRange' (s : State) (wa : Nat) (data : List Byte) : State := (writeRange s wa data).1


/-- Writes VALID 0 into every line for which a condition on its number holds (R202, R203). -/
def initLines (s : State) (p : Nat → Bool) : State :=
  { s with dram := { s.dram with tags := s.dram.tags.filter (fun t => !p t.1)
                                 raws := s.dram.raws.filter (fun t => !p t.1)
                                 remembered := s.dram.remembered.filter (fun l => !p l) } }

/-- Clears a granule: its generation rises by one modulo 64; before it would come back to 0, every line takes VALID 0
(R202). -/
def clearGranule (s : State) (g : Nat) : State :=
  let v := Sparse.get 0 s.dram.gens g
  let s := if v = 63 then initLines s (fun l => l / (granule / 64) == g) else s
  { s with dram := { s.dram with gens := Sparse.set 0 s.dram.gens g ((v + 1) % 64) } }

/-- Clears `n` granules from a window address. -/
def clearGranules : Nat → State → Nat → State
  | 0, s, _ => s
  | n + 1, s, g => clearGranules n (clearGranule s g) (g + 1)
/-! ## The placement directory as a write meets it (R185, R188) -/

/-- Whether two ranges share a byte. -/
def overlaps (a la b lb : Nat) : Bool := decide (a < b + lb) && decide (b < a + la)

/-- An address with selector 0xFF (R147). -/
def slmAddr (wa : Nat) : Nat := 0xFF * 2 ^ 56 + wa

/-- Whether a write touches a directory copy through its window (R188). -/
def touchesCopy (s : State) (a len : Nat) : Bool := s.mover.dir.any (fun e => overlaps a len e.copy e.len)

/-- Shows the directory's size. -/
def showDir (s : State) : State := setNat s TIER_DIR_STAT s.mover.dir.length

/-- Removes every entry whose home a write touches, before the write is applied, and counts each (R188). -/
def invalidate (s : State) (a len : Nat) : State :=
  let hit := s.mover.dir.filter (fun e => overlaps a len e.home e.len)
  if hit.isEmpty then s
  else
    showDir (bumpBy { s with mover := { s.mover with dir := s.mover.dir.filter (fun e => !overlaps a len e.home e.len) } }
      TIER_DIR_INVAL hit.length)

/-- Writes Subsystem Local Memory through its window, after the directory; a write to a copy range is refused (R188). -/
def slmWrite (s : State) (wa : Nat) (data : List Byte) : State × Bool :=
  if touchesCopy s (slmAddr wa) data.length then (s, false)
  else writeRange (invalidate s (slmAddr wa) data.length) wa data

/-- Whether an address lies in a window that meets a condition. -/
def inWindow (a : Nat) (p : Window → Bool) : Bool :=
  selector a == 0xFF && (match windowAt (within a) with | some w => p w | none => false)

/-- Whether a window is board SLM. -/
def isBoard : Window → Bool
  | .board _ => true
  | _ => false

/-- Whether a window is the weight cache. -/
def isWeight : Window → Bool
  | .weight => true
  | _ => false

/-- The entry that covers a range whole (R187). -/
def coverOf (s : State) (a len : Nat) : Option DirEntry :=
  s.mover.dir.find? (fun e => decide (e.home ≤ a) && decide (a + len ≤ e.home + e.len))

/-- The HINT code of the tier that an address lies in: 2 a stack or the weight cache, 3 board memory, 4 flash (R151). -/
def tierOf (a : Nat) : Nat := if selector a = 0xFD then 4 else if inWindow a isBoard then 3 else 2

/-- Whether every line of a range takes a write: none is fenced, and a line written in part is not poisoned. -/
def acceptsWrite (s : State) (wa len : Nat) : Nat → Bool
  | 0 => true
  | n + 1 =>
    let line := wa / 64 + n
    let whole := decide (wa ≤ line * 64) && decide (line * 64 + 64 ≤ wa + len)
    !lineOut s line && (whole || !poisoned s line) && acceptsWrite s wa len n

end Sys2Proof.Machine
end

