-- ==== Sys2Proof/Machine/Flash.lean ====
section
/-! DEFINITION. Flash as every requester meets it: logical units and their homes, the map, the write buffer and its covered
watermark, the journal, blocks and stripe groups (11_translation.md, 12_media.md). -/
namespace Sys2Proof.Machine

/-! ## Logical units (R338, R339) -/

/-- The map entry of a unit never written (R341). -/
def entryUnmapped : Nat := 0xFFFFFFFF

/-- The map entry of a lost unit (R341). -/
def entryLost : Nat := 0xFFFFFFFE

/-- Packages of an SP_MASK, in ascending order. -/
def packagesOf (mask : Nat) : List Nat := [0, 1, 2, 3].filter (fun n => bitOf mask n)

/-- The region of a type and ID in the layout record (R54, R55). -/
def findRegion (s : State) (type id : Nat) : Option Region := s.nv.layout.find? (fun r => r.type == type && r.id == id)

/-- Units that a package gives to the regions before one (R338). -/
def unitsBefore (p : Nat) (r : Region) : List Region → Nat
  | [] => 0
  | q :: t => if q.type = r.type ∧ q.id = r.id then 0
              else (if bitOf q.spMask p then q.sizeGib * 65536 else 0) + unitsBefore p r t

/-- Whether a region holds slabs: record slabs, or the list and vector slabs of an index (R213, R247). -/
def slabRegion (r : Region) : Bool := r.type == 2 || r.type == 3 || r.type == 4

/-- Channels of a region (R214). -/
def regionChans (r : Region) : Nat := 32 * (packagesOf r.spMask).length

/-- The home channel of slab or cluster `c`, of the device's 128: the (c mod C)-th of its region's channels (R214, R248). -/
def homeChan (r : Region) (c : Nat) : Nat :=
  let i := c % max 1 (regionChans r)
  (packagesOf r.spMask).getD (i / 32) 0 * 32 + i % 32

/-- The package whose channel is the home of slab or cluster `c`. -/
def homePkg (r : Region) (c : Nat) : Nat := homeChan r c / 32

/-- The package and package unit of unit `u` of a region (R339). The 64 units of a slab are package units of its home channel's half; which of
them they are is not stated (log entry 130). -/
def homeOf (s : State) (r : Region) (u : Nat) : Nat × Nat :=
  if slabRegion r then
    let ch := homeChan r (u / 64)
    let row := u / 64 / max 1 (regionChans r)
    (ch / 32, unitsBefore (ch / 32) r s.nv.layout + ((row * 16 + ch % 16) * 64 + u % 64) * 2 + ch % 32 / 16)
  else
    let ps := packagesOf r.spMask
    let p := ps.getD (u % ps.length) 0
    (p, unitsBefore p r s.nv.layout + u / ps.length)

/-- The region's unit at place `v` of a package's share of it: `homeOf` read backwards. -/
def unitFrom (r : Region) (p v : Nat) : Nat :=
  let ps := packagesOf r.spMask
  let at_ := (ps.takeWhile (fun q => q != p)).length
  if slabRegion r then
    (v / 2048 * regionChans r + at_ * 32 + v % 2 * 16 + v / 128 % 16) * 64 + v / 2 % 64
  else v * ps.length + at_

/-- Logical blocks of a region: SIZE_GIB × packages × 262,144 (R401). -/
def regionBlocks (r : Region) : Nat := r.sizeGib * (packagesOf r.spMask).length * 262144

/-- The region and region unit that a package unit belongs to. -/
def regionOf (p u : Nat) : List Region → Nat → Option (Region × Nat)
  | [], _ => none
  | r :: t, base =>
    let n := if bitOf r.spMask p then r.sizeGib * 65536 else 0
    if u < base + n then some (r, unitFrom r p (u - base)) else regionOf p u t (base + n)

/-- The channel that serves another's units: itself while it is live, otherwise the next live one of its half (R240, R276). -/
def engineOf (s : State) (ch : Nat) : Nat :=
  if s.nv.retiredChans.contains ch then
    ((List.range 15).map (fun i => ch / 16 * 16 + (ch + 1 + i) % 16)).find? (fun c => !s.nv.retiredChans.contains c) |>.getD ch
  else ch

/-- Whether a unit may lie on a local channel of its package: one of a slab stays on its home channel, or on the channel that serves it once
that is retired (R214, R248, R339). -/
def onHome (s : State) (p u chan : Nat) : Bool :=
  match regionOf p u s.nv.layout 0 with
  | some (r, ru) => !slabRegion r || engineOf s (homeChan r (ru / 64)) == p * 32 + chan
  | none => true

/-- The endurance group of a package unit, 0 for group 1 (R52). -/
def groupOfUnit (s : State) (p u : Nat) : Nat :=
  match regionOf p u s.nv.layout 0 with
  | none => 0
  | some (r, _) => r.egrp - 1

/-! ## Places (R341, R364) -/

/-- The key of a unit's place: its home half and the map entry. -/
def placeKey (u e : Nat) : Nat := u % 2 * 2 ^ 32 + e

/-- Units of a die. -/
def dieUnits : Nat := 15625000

/-- The local channel of a place. -/
def placeChan (key : Nat) : Nat := key / 2 ^ 32 * 16 + key % 2 ^ 32 / 2 ^ 28

/-- A block's key. -/
def blkKey (chan die block : Nat) : Nat := (chan * 10 + die) * 6250 + block

/-- The block of a place. -/
def placeBlk (key : Nat) : Nat :=
  let u := key % 2 ^ 28
  blkKey (placeChan key) (u / dieUnits) (u % dieUnits / 2500)

/-- A block's key from its name. -/
def blkOf (b : BlockId) : Nat := blkKey b.chan b.die b.block

/-- Whether a place lies in the geometry: [27:0] below 156,250,000 (R341). -/
def placeOk (e : Nat) : Bool := decide (e < 2 ^ 32) && decide (e % 2 ^ 28 < 156250000)

/-- Whether a block's name lies in the geometry of R364. -/
def blkOk (b : BlockId) : Bool := decide (b.chan < 32) && decide (b.die < 10) && decide (b.block < 6250)

/-- A block's record. -/
def blk (x : Package) (key : Nat) : Blk := Sparse.get {} x.blocks key

/-- Stores a block's record. -/
def setBlk (x : Package) (key : Nat) (b : Blk) : Package := { x with blocks := Sparse.set {} x.blocks key b }

/-- A unit's map entry. -/
def mapGet (x : Package) (u : Nat) : Nat := Sparse.get entryUnmapped x.map u

/-- The units whose map entry lies in a block: its committed valid units (R348). -/
def validUnits (x : Package) (key : Nat) : List (Nat × Nat) :=
  x.map.filter (fun m => m.2 != entryLost && placeBlk (placeKey m.1 m.2) == key)

/-- The group that a block belongs to: the blocks of one number of one die of every live channel of a half (log entry 12). -/
def groupOfBlk (key : Nat) : Nat := key / 62500 / 16 * 62500 + key % 62500

/-- The live channels of a half (R367). -/
def liveChans (s : State) (p half : Nat) : List Nat :=
  (List.range 16).filterMap (fun c =>
    if s.nv.retiredChans.contains (p * 32 + half * 16 + c) then none else some (half * 16 + c))

/-- Live channels of a package. -/
def liveCount (s : State) (p : Nat) : Nat := (liveChans s p 0).length + (liveChans s p 1).length

/-- Whether a block belongs to a copy of the option area: the locked records stay in blocks 0 to 7 of D0 of FC000 and of FC016, and a home takes
the blocks from 8 to 127 (R387, R389). -/
def isOptBlk (s : State) (p key : Nat) : Bool :=
  decide (p = 0) && decide (key % 62500 < 128) &&
    (if key % 62500 < 8 then key / 62500 == 0 || key / 62500 == 16 else s.nv.optHome.any (fun h => h == some (key / 62500)))

/-- The blocks of one number of one die on every live channel of a half, without those of the option area (R367, R387; log entry 12). -/
def groupBlks (s : State) (p key : Nat) : List Nat :=
  ((liveChans s p (key / 62500 / 16)).map (fun c => c * 62500 + key % 62500)).filter (fun k => !isOptBlk s p k)

/-- Opens a block for programs, and forms its stripe group where it has none (R367). -/
def openBlk (s : State) (p key egrp : Nat) (slc : Bool) : State :=
  let x := pkg s p
  let b := blk x key
  if b.state = 0 then
    let x := setBlk x key { b with state := 1, slc := slc, source := false, releasing := false, writtenAt := s.faults.powered }
    let g := groupOfBlk key
    if x.groups.any (fun y => y.id == g) then setPkg s p x
    else setPkg s p { x with groups := x.groups ++ [{ id := g, half := key / 62500 / 16, egrp := egrp, slc := slc
                                                      members := groupBlks s p key }] }
  else s

/-! ## Reading a unit (R342) -/

/-- A unit's newest data and the blocks of it that are lost (R341 to R343). -/
def unitNow (s : State) (p u : Nat) : UnitData × Nat :=
  let x := pkg s p
  match x.wbuf.reverse.find? (fun d => d.lunit == u) with
  | some d => (d.data, d.lostMask)
  | none =>
    match x.heldFlushed.reverse.find? (fun d => d.lunit == u) with
    | some d => (d.data, d.lostMask)
    | none =>
      let e := mapGet x u
      if e = entryUnmapped ∨ x.page.any (fun r => r.type == 7 && r.lunit == u) then ([], 0)
      else if e = entryLost then ([], 15)
      else
        match Sparse.get none x.nand (placeKey u e) with
        | none => ([], 15)
        | some n => (n.data, n.lostMask)

/-- The package, package unit and block within it of logical block `b` of a region. -/
def blockHome (s : State) (r : Region) (b : Nat) : Nat × Nat × Nat :=
  let h := homeOf s r (b / 4)
  (h.1, h.2, b % 4)

/-- Whether a logical block reads as lost. -/
def blockLost (s : State) (r : Region) (b : Nat) : Bool :=
  let h := blockHome s r b
  bitOf (unitNow s h.1 h.2.1).2 h.2.2

/-- The bytes of a logical block. -/
def blockBytes (s : State) (r : Region) (b : Nat) : List Byte :=
  let h := blockHome s r b
  Memory.bytes (unitNow s h.1 h.2.1).1 (h.2.2 * 4096) 4096

/-- The first lost block of `n` from block `b`. -/
def firstLost (s : State) (r : Region) (b : Nat) : Nat → Option Nat
  | 0 => none
  | n + 1 => if blockLost s r b then some b else firstLost s r (b + 1) n

/-- The bytes of `n` blocks. -/
def blocksBytes (s : State) (r : Region) (b : Nat) : Nat → List Byte
  | 0 => []
  | n + 1 => blockBytes s r b ++ blocksBytes s r (b + 1) n

/-- Records the interrupting fault of an unreachable package, once until it is reachable again (R482, R483). -/
def noteUnreachable (s : State) (p : Nat) : State :=
  if (pkg s p).unreachNoted then s else interrupting (setPkg s p { pkg s p with unreachNoted := true }) 5 p

/-- Whether a package has completed the steps of R356. -/
def pkgReady (s : State) (p : Nat) : Bool := rbit s (ftlReg p 0) 31

/-! ## The write buffer (R351 to R353) -/

/-- E_u in mJ as R352 takes it: the measured value, or the substitute of R439 while a measurement runs. -/
def euNow (s : State) : Nat :=
  if rbit s LED_STAT 29 then min (regNat s LED_HU_ENERGY) (s.ledger.huCapUf * 4559 * 1701 / 10000000) else regNat s LED_HU_ENERGY

/-- E_res in mJ (R352). -/
def eRes : Nat := 48000

/-- The covered watermark of a package, in units (R352). -/
def watermark (s : State) (p : Nat) : Nat :=
  let live := min (liveCount s p) 28
  let pct := fld s (ftlReg p 4) 7 0
  let cap := (boardPart (settings s) p).wbuf * granule * pct / (100 * 16384)
  let en := (euNow s - eRes) * 10000000 * live * pct / (24 * s.build.sp * 28 * 100 * 16384)
  min cap en

/-- Dirty units of a package (R351). -/
def dirtyCount (s : State) (p : Nat) : Nat := (pkg s p).wbuf.length

/-- Shows the dirty count and whether the package is exposed (R353). -/
def showDirty (s : State) (p : Nat) : State :=
  let d := dirtyCount s p
  let s := setNat s (ftlReg p 0x14) d
  setBit s (ftlReg p 0) 28 (decide (regNat s (ftlReg p 0x10) < d))

/-- Recomputes a package's watermark (R352) and with it EXPOSED (R353). -/
def rewatermark (s : State) (p : Nat) : State := showDirty (setNat s (ftlReg p 0x10) (watermark s p)) p

/-- Recomputes every fitted package's watermark. -/
def rewatermarkAll (s : State) : State := foldState rewatermark s (List.range s.build.sp)

/-- Whether `n` more dirty units fit in a package: under the watermark, and not while it is exposed (R351, R353). -/
def fits (s : State) (p n : Nat) : Bool :=
  !rbit s (ftlReg p 0) 28 && decide (dirtyCount s p + n ≤ regNat s (ftlReg p 0x10))

/-- Enters a unit's data in the write buffer: into the dirty unit that waits for its program, or as a new one at the end
(R340, R351). -/
def putDirty (x : Package) (u : Nat) (data : UnitData) (lost : Nat) : Package :=
  if x.wbuf.any (fun d => d.lunit == u && d.programmed.isNone) then
    { x with wbuf := updateWhere (fun d => d.lunit == u && d.programmed.isNone) (fun d => { d with data := data, lostMask := lost }) x.wbuf }
  else { x with wbuf := x.wbuf ++ [{ lunit := u, data := data, lostMask := lost }] }

/-- Units of a package that a write would add to its dirty units. -/
def newDirty (s : State) (p : Nat) (us : List Nat) : Nat :=
  (us.eraseDups.filter (fun u => !((pkg s p).wbuf.any (fun d => d.lunit == u && d.programmed.isNone)))).length

/-- Puts bytes of one logical block into the write buffer, merged with the unit's other bytes (R340). A block that was lost stays lost unless
all of it is written. -/
def putBlock (s : State) (r : Region) (b off : Nat) (data : List Byte) : State :=
  let h := blockHome s r b
  let old := unitNow s h.1 h.2.1
  let d := Memory.setBytes old.1 (h.2.2 * 4096 + off) data
  let lost := if bitOf old.2 h.2.2 ∧ 4096 ≤ data.length then old.2 - 2 ^ h.2.2 else old.2
  showDirty (setPkg s h.1 (putDirty (pkg s h.1) h.2.1 d lost)) h.1

/-- Writes one logical block into the write buffer (R340). -/
def writeBlock (s : State) (r : Region) (b : Nat) (data : List Byte) : State := putBlock s r b 0 (data.take 4096)

/-- Writes blocks in order, 4,096 bytes each. -/
def writeBlocks : Nat → State → Region → Nat → List Byte → State
  | 0, s, _, _, _ => s
  | n + 1, s, r, b, data => writeBlocks n (writeBlock s r b data) r (b + 1) (data.drop 4096)

/-- The package units that `n` blocks from `b` touch, with their packages. -/
def unitsOf (s : State) (r : Region) (b n : Nat) : List (Nat × Nat) :=
  if n = 0 then [] else (List.range ((b + n - 1) / 4 - b / 4 + 1)).map (fun i => homeOf s r (b / 4 + i))

/-- Whether the units that a write touches fit in every package (R351). -/
def unitsFit (s : State) (us : List (Nat × Nat)) : Bool :=
  [0, 1, 2, 3].all (fun p =>
    let mine := (us.filter (fun x => x.1 == p)).map (·.2)
    mine.isEmpty || fits s p (newDirty s p mine))

/-- Whether a write of `n` blocks fits in every package that it touches (R351). -/
def writeFits (s : State) (r : Region) (b n : Nat) : Bool := unitsFit s (unitsOf s r b n)

/-- Deallocates a whole unit: a DEALLOC record is gathered, and a dirty copy of it is dropped (R344, R411). -/
def deallocUnit (s : State) (p u : Nat) : State :=
  let x := pkg s p
  showDirty (setPkg s p { x with wbuf := x.wbuf.filter (fun d => d.lunit != u)
                                 heldFlushed := x.heldFlushed.filter (fun d => d.lunit != u)
                                 flushing := x.flushing.filter (fun v => v != u)
                                 page := x.page ++ [{ type := 7, lunit := u, new := entryUnmapped, old := mapGet x u }] }) p

/-- Sets every unit of a region to UNMAPPED (R55, R359, R404). -/
def unmapRegion (s : State) (r : Region) : State :=
  foldState (fun s p =>
    let x := pkg s p
    let lo := unitsBefore p r s.nv.layout
    let hi := lo + r.sizeGib * 65536
    let out (u : Nat) : Bool := !(decide (lo ≤ u) && decide (u < hi))
    showDirty (setPkg s p { x with map := x.map.filter (fun m => out m.1), wbuf := x.wbuf.filter (fun d => out d.lunit)
                                   heldFlushed := x.heldFlushed.filter (fun d => out d.lunit) }) p) s (packagesOf r.spMask)

/-! ## The model region (R54, R147 selector 0xFD) -/

/-- The model region. -/
def modelRegion (s : State) : Option Region := s.nv.layout.find? (fun r => r.type == 5)

/-- Bytes of the model region. -/
def modelLen (s : State) : Nat :=
  match modelRegion s with
  | none => 0
  | some r => regionBlocks r * 4096

/-- Reads a range of a region: its bytes, or none where a block of it is lost or a package is unreachable. -/
def readRegion (s : State) (r : Region) (off len : Nat) : Option (List Byte) :=
  if len = 0 then some []
  else
    let b := off / 4096
    let n := (off + len - 1) / 4096 - b + 1
    match firstLost s r b n with
    | some _ => none
    | none =>
      if (unitsOf s r b n).all (fun h => reachable s h.1) then
        some (((blocksBytes s r b n).drop (off % 4096)).take len)
      else none

/-- The blocks that a range of a region touches. -/
def blocksOf (off len : Nat) : List Nat :=
  if len = 0 then [] else (List.range ((off + len - 1) / 4096 - off / 4096 + 1)).map (fun i => off / 4096 + i)

/-- The package units that a range of a region touches, with their packages. -/
def spanUnits (s : State) (r : Region) (off len : Nat) : List (Nat × Nat) := (blocksOf off len).map (fun b => homeOf s r (b / 4))

/-- Writes a range of a region through the write buffer, block by block. -/
def writeRegion (s : State) (r : Region) (off : Nat) (data : List Byte) : State :=
  foldState (fun s b =>
    let lo := max off (b * 4096)
    putBlock s r b (lo % 4096) ((data.drop (lo - off)).take (4096 - lo % 4096))) s (blocksOf off data.length)

/-! ## The journal (R344) -/

/-- Gathers a record for the next journal page. -/
def gather (s : State) (p : Nat) (r : JRec) : State :=
  let x := pkg s p
  setPkg s p { x with page := x.page ++ [r] }

/-- Marks the cast that holds a unit's entry as changed (R345). -/
def touchCast (x : Package) (u : Nat) : Package :=
  let k := u / 1048576
  let c := Sparse.get {} x.casts k
  { x with casts := Sparse.set {} x.casts k { c with changed := true } }

/-- Sets a map entry by a committed record. -/
def setEntry (x : Package) (u e : Nat) : Package :=
  touchCast { x with map := Sparse.set entryUnmapped x.map u e
                     heldFlushed := x.heldFlushed.filter (fun d => d.lunit != u) } u

/-- Units that a package holds (R338). -/
def pkgUnits (s : State) (p : Nat) : Nat := sumNat (s.nv.layout.map (fun r => if bitOf r.spMask p then r.sizeGib * 65536 else 0))

/-- Cast slots in use (R345). -/
def castCount (s : State) (p : Nat) : Nat := ceilDiv (pkgUnits s p) 1048576

/-- A cast. -/
def castAt (x : Package) (k : Nat) : Cast := Sparse.get {} x.casts k

/-- The oldest start sequence of the first `n` casts. -/
def oldestStart (x : Package) : Nat → Nat
  | 0 => x.jseq
  | n + 1 => min (castAt x n).start (oldestStart x n)

/-- A committed CAST_DONE: the cast's start and time stand, the read counts are saved with it (R371), and journal pages that no cast
needs are dropped (R346). -/
def castDone (s : State) (p : Nat) (x : Package) (r : JRec) : Package :=
  let c := castAt x r.lunit
  let x := { x with casts := Sparse.set {} x.casts r.lunit { c with start := r.new, atMs := r.old, written := true }
                    blocks := x.blocks.foldl (fun m b => Sparse.set {} m b.1 { b.2 with savedReads := b.2.reads }) x.blocks }
  let from_ := oldestStart x (castCount s p)
  { x with journal := x.journal.filter (fun j => decide (from_ < j.wseq)) }

/-- Applies one committed record of a package (R344, R347). -/
def applyRec (p : Nat) (s : State) (r : JRec) : State :=
  let x := pkg s p
  match r.type with
  | 1 => setPkg s p { setEntry x r.lunit r.new with wbuf := x.wbuf.filter (fun d => !(d.lunit == r.lunit && d.programmed == some r.new))
                                                    flushing := x.flushing.erase r.lunit }
  | 2 => if mapGet x r.lunit = r.old then setPkg s p (setEntry x r.lunit r.new) else bump s (ftlReg p 0x40)
  | 3 =>
    let b := blk x r.lunit
    let x := setBlk x r.lunit { b with state := if b.state = 5 then 5 else 3, releasing := false }
    setPkg s p { x with groups := updateWhere (fun g => g.id == groupOfBlk r.lunit) (fun g => { g with released := r.lunit :: g.released }) x.groups }
  | 5 => setPkg s p (castDone s p x r)
  | 6 => setPkg s p { x with sealClean := r.clean }
  | 7 => setPkg s p (setEntry x r.lunit r.new)
  | _ => s

/-- Blocks whose RELEASE may be journalled: they took programs, none of their units is mapped nor about to be, and they are full,
retired, or the source of a batch (R347, R348, R378). -/
def releasable (x : Package) : List Nat :=
  (x.blocks.filter (fun b => (b.2.state == 2 || b.2.state == 5 || (b.2.state == 1 && b.2.source)) && !b.2.releasing &&
    x.groups.any (fun g => g.id == groupOfBlk b.1 && g.members.contains b.1 && !g.released.contains b.1) &&
    (validUnits x b.1).isEmpty &&
    !x.page.any (fun r => (r.type == 1 || r.type == 2) && placeBlk (placeKey r.lunit r.new) == b.1))).map (·.1)

/-- Gathers a RELEASE record for a block (R347). -/
def release (p : Nat) (s : State) (key : Nat) : State :=
  let x := pkg s p
  setPkg s p { setBlk x key { blk x key with releasing := true } with page := x.page ++ [{ type := 3, lunit := key }] }

/-- Gathers the RELEASE of every block that may be released. -/
def releaseAll (s : State) (p : Nat) : State := foldState (release p) s (releasable (pkg s p))

/-- The journal kept under R346, in MiB. -/
def journalMib (x : Package) : Nat := x.journal.length * 16384 / 1048576

/-- Shows the journal's registers. -/
def showJournal (s : State) (p : Nat) : State :=
  let x := pkg s p
  setNat (set64 s (ftlReg p 0x20) x.jseq) (ftlReg p 0x28) (journalMib x)

/-- Commits a page of at most 1,020 gathered records, in page order (R344). -/
def commitPage (s : State) (p : Nat) : State :=
  let x := pkg s p
  let recs := x.page.take 1020
  let q := x.wseq + 1
  let x := { x with page := x.page.drop 1020, wseq := q, jseq := q, sealClean := false, journal := x.journal ++ [{ wseq := q, recs := recs }] }
  let s := foldState (applyRec p) (setPkg s p x) recs
  showDirty (showJournal s p) p

/-! ## Losses (R362, R363, R386) -/

/-- Whether two entries merge: adjacent blocks of one region, cause and event, with the same other fields (R362). -/
def joins (e t : LossRec) : Bool :=
  t.event == e.event && t.cause == e.cause && t.regionType == e.regionType && t.regionId == e.regionId && t.package == e.package &&
  t.flags == e.flags && t.chanA == e.chanA && t.chanB == e.chanB && (t.block + t.count == e.block || e.block + e.count == t.block)

/-- One entry for two that merge. -/
def joined (t e : LossRec) : LossRec :=
  { t with block := min t.block e.block, count := t.count + e.count, stamp := max t.stamp e.stamp }

/-- Adds an entry to a list of entries: it takes the place of the first that it merges with, and takes in the others. -/
def insertLoss (l : List LossRec) (e : LossRec) : List LossRec :=
  match l.filter (joins e) with
  | [] => l ++ [e]
  | js => l.takeWhile (fun t => !joins e t) ++ js.foldl joined e :: (l.dropWhile (fun t => !joins e t)).filter (fun t => !joins e t)

/-- One entry with SUPERSET for some losses of a region, from the lowest lost block to the highest. -/
def superset (l : List LossRec) (e : LossRec) : LossRec :=
  let lo := l.foldl (fun m t => min m t.block) e.block
  { e with flags := Nat.lor e.flags 2, block := lo, count := l.foldl (fun m t => max m (t.block + t.count)) 0 - lo
           stamp := l.foldl (fun m t => max m t.stamp) 0 }

/-- One entry with SUPERSET for each region of some losses. -/
def supersets : List LossRec → List LossRec → List LossRec
  | [], _ => []
  | e :: t, l =>
    if t.any (fun y => y.regionType == e.regionType && y.regionId == e.regionId) then supersets t l
    else superset (l.filter (fun y => y.regionType == e.regionType && y.regionId == e.regionId)) e :: supersets t l

/-- The entries of a log that is full: those of earlier events, as many of the event's own as leave room, and the rest of the event's losses as
one entry with SUPERSET for each region (R362; what gives way where even these do not fit is log entry 153). -/
def fullLog (ev : Nat) (l : List LossRec) : List LossRec :=
  let mine := l.filter (fun e => e.event == ev)
  let older := l.filter (fun e => e.event != ev)
  let n := 65536 - older.length - ((mine.map (fun e => (e.regionType, e.regionId))).eraseDups).length
  (older ++ mine.take n ++ supersets (mine.drop n) (mine.drop n)).take 65536

/-- Adds the losses of an event to a log of at most 65,536 entries (R362, R363). -/
def addLosses (l : LossLog) (ev : Nat) (es : List LossRec) : LossLog :=
  let m := es.foldl insertLoss l.entries
  if m.length ≤ 65536 then { l with entries := m, blocks := l.blocks + sumNat (es.map (·.count)) }
  else { l with entries := fullLog ev m, blocks := sumNat ((fullLog ev m).map (·.count)), overflow := true }

/-- The loss of blocks of a package unit as a log entry: a bit mask of the unit's four blocks. -/
def lossRecs (s : State) (p u mask cause flags chanA chanB stamp : Nat) : List LossRec :=
  match regionOf p u s.nv.layout 0 with
  | none => []
  | some (r, ru) =>
    (List.range 4).filterMap (fun i =>
      if bitOf mask i then
        some { event := s.nv.pwron, cause := cause, flags := flags, regionType := r.type, regionId := r.id
               block := ru * 4 + i, count := 1, package := p, chanA := chanA, chanB := chanB, stamp := stamp }
      else none)

/-- Adds entries to the power-loss ledger, sets LEDGER_NEW in every package and raises the notice C1h (R362). EVENTS counts the power failure or the
error that lost the data, once for all its losses (R363): `events` is 0 where an earlier package has counted this failure. -/
def addLedger (s : State) (es : List LossRec) (events : Nat) : State :=
  if es.isEmpty then s
  else
    let l := addLosses s.nv.ledger s.nv.pwron es
    let s := { s with nv := { s.nv with ledger := { l with events := l.events + events } } }
    notice (foldState (fun s p => setBit s (ftlReg p 0) 25 true) s (List.range s.build.sp)) 0xC1 0xC1

/-- Adds losses to the media loss log (R386). -/
def addMediaLoss (s : State) (es : List LossRec) : State :=
  { s with nv := { s.nv with lossLog := addLosses s.nv.lossLog s.nv.pwron es } }

/-- An error of a unit of the medium that lost data between `s` and `t` counts in EVENTS, raises the notice C3h and is an interrupting fault, once
for all that it lost (R386, R482, R483). -/
def mediaLost (s t : State) (p unit : Nat) : State :=
  if (pkg t p).nand = (pkg s p).nand then t
  else interrupting (notice { t with nv := { t.nv with lossLog := { t.nv.lossLog with events := t.nv.lossLog.events + 1 } } } 0xC3 0xC3) 4 unit

/-! ## Programs and reads of blocks -/

/-- Bytes programmed, by endurance group and purpose (R374). -/
def countBytes (s : State) (p g kind : Nat) (refresh : Bool) : State :=
  let x := pkg s p
  let add (l : List Nat) : List Nat := setAt l g (l.getD g 0 + 16384)
  let x := if kind = 1 then { x with hostBytes := add x.hostBytes }
           else if refresh then { x with refreshBytes := add x.refreshBytes }
           else { x with gcBytes := add x.gcBytes }
  let day := 8640000000000
  setPkg s p { x with recent := (x.recent.filter (fun r => decide (s.faults.ticked - r.1 < day))) ++
                                  (if kind = 1 ∨ refresh then [(s.faults.ticked, g, refresh, 16384)] else []) }

/-- Programs a unit at a place: its footer takes the next WSEQ (R343). -/
def programUnit (s : State) (p u e kind lost srcSeq : Nat) (data : UnitData) (refresh : Bool) : State :=
  let key := placeBlk (placeKey u e)
  let g := groupOfUnit s p u
  let s := countBytes (openBlk s p key g false) p g kind refresh
  let x := pkg s p
  let x := { x with wseq := x.wseq + 1
                    nand := Sparse.set none x.nand (placeKey u e)
                      (some { lunit := u, kind := kind, lostMask := lost, wseq := x.wseq + 1, srcSeq := srcSeq, data := data }) }
  let last := decide (e % 2 ^ 28 % dieUnits % 2500 = 2499)
  setPkg s p (if last then setBlk x key { blk x key with state := 2 } else x)

/-- Counts reads of a block; at RR_LIMIT the block is queued for relocation (R371). -/
def readBlk (s : State) (p key n : Nat) : State :=
  let x := pkg s p
  let b := blk x key
  let g := match x.groups.find? (fun y => y.id == groupOfBlk key) with | some y => y.egrp | none => 0
  let limit := fld s (medReg p (0x10 + 4 * g)) 17 0
  let reach := decide (b.reads < limit) && decide (limit ≤ b.reads + n) && decide (0 < limit)
  let s := setPkg s p (setBlk x key { b with reads := b.reads + n, refresh := b.refresh || reach })
  if reach then bump s (medReg p 0x9C) else s

/-- Live spare of a half in per cent: of the 156,250 spare blocks that 12.80 ÷ 81.92 of a half's blocks make (R28), those
not lost to retired blocks and channels (R380, log entry 13). -/
def sparePct (s : State) (p half : Nat) : Nat :=
  let lostChans := 16 - (liveChans s p half).length
  let bad := ((pkg s p).blocks.filter (fun b => b.2.state == 5 && b.1 / 62500 / 16 == half &&
    (liveChans s p half).contains (b.1 / 62500))).length
  (156250 - (lostChans * 62500 + bad)) * 100 / 156250

/-- Erase counts of the four-bit blocks of an endurance group: how many, their sum, the most and the least (R374). -/
def eraseStats (x : Package) (g : Nat) : Nat × Nat × Nat × Nat :=
  let mine := x.groups.filter (fun y => y.egrp == g && !y.slc)
  let cs := mine.foldl (fun acc y => acc ++ y.members.map (fun k => (blk x k).erases)) []
  (cs.length, sumNat cs, cs.foldl max 0, cs.foldl min (cs.headD 0))

/-- AVG_ERASES × 100 ÷ 1,500, rounded down, saturating at 255 (R380). -/
def pctUsed (x : Package) (g : Nat) : Nat :=
  let e := eraseStats x g
  if e.1 = 0 then 0 else min 255 (e.2.1 / e.1 * 100 / 1500)

/-- RATIO_24H in units of 1/256 (R374). -/
def ratio24 (s : State) (x : Package) (g : Nat) : Nat :=
  let day := 8640000000000
  let mine := x.recent.filter (fun r => r.2.1 == g && decide (s.faults.ticked - r.1 < day))
  let host := sumNat (mine.map (fun r => if r.2.2.1 then 0 else r.2.2.2))
  let fresh := sumNat (mine.map (fun r => if r.2.2.1 then r.2.2.2 else 0))
  if host = 0 then allBits else fresh * 256 / host

/-- The stage of a half under R381 and R385; a half never returns to a lower one. -/
def halfStageNow (s : State) (p half : Nat) : Nat :=
  let sp := sparePct s p half
  if sp < 2 ∨ (liveChans s p half).length < 12 then 4 else if sp < 10 then 3 else 0

/-- Shows the stages of a package's halves, and its spare blocks. -/
def showStages (s : State) (p : Nat) : State :=
  let is (half stage : Nat) : Nat := one (decide ((pkg s p).halfStage.getD half 0 = stage))
  let s := setFld (setFld s (medReg p 0) 27 26 (is 0 3 + 2 * is 1 3)) (medReg p 0) 29 28 (is 0 4 + 2 * is 1 4)
  setFld (setFld s (medReg p 0xC) 7 0 (sparePct s p 0)) (medReg p 0xC) 15 8 (sparePct s p 1)

/-- Whether a region of an endurance group has units homed in a package, and so in both its halves (R52, R339). -/
def egrpIn (s : State) (g p : Nat) : Bool := s.nv.layout.any (fun r => r.egrp == g + 1 && bitOf r.spMask p)

/-- Tests the stages of a package after an erase or a block's retirement, and reports them (R381). -/
def testStages (s : State) (p : Nat) : State :=
  let x := pkg s p
  let h0 := max (x.halfStage.getD 0 0) (halfStageNow s p 0)
  let h1 := max (x.halfStage.getD 1 0) (halfStageNow s p 1)
  let groups := List.range 8
  let stage (g : Nat) : Nat :=
    let halves := if egrpIn s g p then max h0 h1 else 0
    let wear := if 100 < pctUsed x g then 2
                else if ratio24 s x g ≠ allBits ∧ x.ratioFormed.getD g 0 < ratio24 s x g then 1 else 0
    max (x.stage.getD g 0) (max halves wear)
  let st := groups.map stage
  let warn := groups.any (fun g => (x.stage.getD g 0 < 2 && decide (2 ≤ st.getD g 0)) ||
    (x.stage.getD g 0 < 3 && decide (3 ≤ st.getD g 0)) || (x.stage.getD g 0 < 4 && decide (4 ≤ st.getD g 0)))
  let bits := Nat.lor s.host.critical
    (Nat.lor (if st.any (fun v => decide (2 ≤ v)) then 4 else 0)
      (Nat.lor (if decide (3 ≤ max h0 h1) then 1 else 0) (if decide (4 ≤ max h0 h1) then 8 else 0)))
  let s := showStages (setPkg s p { x with halfStage := [h0, h1], stage := st }) p
  let s := { s with host := { s.host with critical := bits } }
  if warn then raiseEvent (healthChanged s) 1 0 2 else s

/-- Whether a half of a package refuses writes (stage 4 of R381). -/
def halfReadOnly (s : State) (p half : Nat) : Bool := decide ((pkg s p).halfStage.getD half 0 = 4)

/-- Retires a block whose program or erase failed, and closes its group (R378). -/
def retireBlk (s : State) (p key : Nat) : State :=
  let x := pkg s p
  let x := setBlk x key { blk x key with state := 5 }
  let x := { x with groups := updateWhere (fun g => g.id == groupOfBlk key) (fun g => { g with closed := true }) x.groups }
  testStages (bump (setPkg s p x) (medReg p 0x94)) p

end Sys2Proof.Machine
end

