-- ==== Sys2Proof/Machine/ArmImage.lean ====
section
/-! DEFINITION. The armature image: its sections, the armature that it spells, and the checks that validation makes, in their
order (R42 to R65, R74). -/
namespace Sys2Proof.Machine

/-! ## CRC-32C -/

/-- Eight shifts of the reflected CRC-32C register; the polynomial is the Castagnoli one (log entry 17). -/
def crcShift : Nat → Nat → Nat
  | 0, c => c
  | n + 1, c => crcShift n (if c % 2 = 1 then Nat.xor (c / 2) 0x82F63B78 else c / 2)

/-- The register after a string of bytes. -/
def crcBytes : List Byte → Nat → Nat
  | [], c => c
  | b :: t, c => crcBytes t (crcShift 8 (Nat.xor c b.toNat))

/-- CRC-32C of a string of bytes. -/
def crc32c (l : List Byte) : Nat := Nat.xor (crcBytes l 0xFFFFFFFF) 0xFFFFFFFF

/-! ## Checks in order -/

/-- One check: whether it holds, and the cause, section and offset that its failure records (R74). -/
structure Check where
  holds : Bool
  cause : Nat
  sec : Nat
  off : Nat
deriving DecidableEq, Repr

/-- The first check of a list that fails. -/
def firstFailure : List Check → Option Check
  | [] => none
  | c :: t => if c.holds then firstFailure t else some c

/-- ARM_DETAIL of a failed check. -/
def detailOf (sec off : Nat) : Nat := sec % 256 * 2 ^ 24 + off % 2 ^ 24

/-- The checks of a list of offsets, relative to a section's start. -/
def checks (cause sec base : Nat) (l : List (Nat × Bool)) : List Check :=
  l.map (fun x => { holds := x.2, cause := cause, sec := sec, off := base + x.1 })

/-! ## The container (R42 to R46) -/

/-- An entry of the section table (R44). -/
structure SecEntry where
  at_ : Nat
  type : Nat
  sver : Nat
  off : Nat
  len : Nat
  crc : Nat
deriving DecidableEq, Repr

/-- The section table of an image. -/
def secTable (img : List Byte) : List SecEntry :=
  (List.range (fieldAt img 0x0C 2)).map (fun i =>
    let e := 64 + 16 * i
    { at_ := e, type := fieldAt img e 2, sver := fieldAt img (e + 2) 2, off := fieldAt img (e + 4) 4
      len := fieldAt img (e + 8) 4, crc := fieldAt img (e + 12) 4 })

/-- Whether an image is signed (header FLAGS[0]). -/
def imgSigned (img : List Byte) : Bool := bitOf (fieldAt img 0x0E 2) 0

/-- The offset of the digest. -/
def digestAt (img : List Byte) : Nat := fieldAt img 8 4 - (if imgSigned img then 576 else 64)

/-- The digest that an image carries. -/
def imgDigest (img : List Byte) : Digest := BitVec.ofNat 512 (leNat ((img.drop (digestAt img)).take 64))

/-- The first byte of an image, below a limit, that lies in no section and is not zero. -/
def badPadding (es : List SecEntry) : List Byte → Nat → Option Nat
  | [], _ => none
  | b :: t, i => if b != 0 && es.all (fun e => decide (i < e.off) || decide (e.off + e.len ≤ i)) then some i
                 else badPadding es t (i + 1)

/-- The FORMAT checks of the header and the section table (R42 to R45). -/
def formatChecks (img : List Byte) : List Check :=
  let es := secTable img
  let body := digestAt img
  let tabEnd := 64 + 16 * fieldAt img 0x0C 2
  let total := fieldAt img 8 4
  checks 1 0 0
    ([(0, fieldAt img 0 4 == 0x414C5053), (4, fieldAt img 4 2 == 3), (6, fieldAt img 6 2 == 0x40),
      (8, total == img.length && total % 64 == 0 && decide (64 + (if imgSigned img then 576 else 64) ≤ total) &&
        decide (total ≤ 16777216)),
      (0x0C, decide (9 ≤ fieldAt img 0x0C 2) && decide (fieldAt img 0x0C 2 ≤ 32) && decide (tabEnd ≤ body))] ++
     es.flatMap (fun e =>
      [(e.at_, bitOf e.type 15 || (decide (1 ≤ e.type) && decide (e.type ≤ 9))),
       (e.at_ + 4, e.off % 64 == 0 && decide (tabEnd ≤ e.off) && decide (e.off + e.len ≤ body))]) ++
     es.map (fun e => (e.at_ + 4, !es.any (fun f => decide (f.at_ < e.at_) && decide (0 < f.len) && decide (0 < e.len) &&
        decide (e.off < f.off + f.len) && decide (f.off < e.off + e.len)))))

/-- The padding check (R44). -/
def paddingChecks (img : List Byte) : List Check :=
  let tabEnd := 64 + 16 * fieldAt img 0x0C 2
  match badPadding (secTable img) ((img.drop tabEnd).take (digestAt img - tabEnd)) tabEnd with
  | none => []
  | some i => [{ holds := false, cause := 1, sec := 0, off := i }]

/-- The entry of a section type. -/
def secOf (img : List Byte) (type : Nat) : Option SecEntry := (secTable img).find? (fun e => e.type == type)

/-- The offset of a section. -/
def secAt (img : List Byte) (type : Nat) : Nat := match secOf img type with | none => 0 | some e => e.off

/-- A field of a section. -/
def sf (img : List Byte) (type off n : Nat) : Nat := fieldAt img (secAt img type + off) n

/-- The length of R45 for a section type. -/
def secLen (img : List Byte) : Nat → Nat
  | 1 => 1040
  | 2 => 64
  | 3 => 64 + 32 * sf img 3 0 2
  | 4 => 32 + 48 * sf img 4 6 1
  | 5 => 32
  | 6 => 16
  | 7 => 64
  | 8 => 16
  | 9 => 16
  | _ => 0

/-- The SECTION checks (R44, R45): repeated, missing, then version, length and CRC of every entry. A failure that an entry causes names the entry's
TYPE as its section and the entry's field as its offset (DESIGN CHOICE, log entry 120). -/
def sectionChecks (img : List Byte) : List Check :=
  let es := secTable img
  let req (e : SecEntry) : Bool := !bitOf e.type 15
  es.map (fun e => ({ holds := !req e || !es.any (fun f => decide (f.at_ < e.at_) && f.type == e.type)
                      cause := 2, sec := e.type, off := e.at_ } : Check)) ++
  (List.range 9).map (fun i => ({ holds := (secOf img (i + 1)).isSome, cause := 2, sec := i + 1, off := 0x40 } : Check)) ++
  es.flatMap (fun e =>
    [{ holds := !req e || e.sver == 1, cause := 2, sec := e.type, off := e.at_ + 2 },
     { holds := !req e || e.len == secLen img e.type, cause := 2, sec := e.type, off := e.at_ + 8 },
     { holds := crc32c ((img.drop e.off).take e.len) == e.crc, cause := 2, sec := e.type, off := e.at_ + 12 }])

/-- The DIGEST check (R46). -/
def digestChecks (img : List Byte) : List Check :=
  [{ holds := imgDigest img == Config.sha512 (img.take (digestAt img)), cause := 3, sec := 0, off := digestAt img }]

/-- Whether an owner key is in force (R460). -/
def ownerKey (o : Owner) : Bool := o.modulus.any (fun b => b != 0)

/-- The SIGNATURE check (R46, R462). -/
def signatureOk (o : Owner) (img : List Byte) : Bool :=
  if imgSigned img then
    ownerKey o && Config.rsaOk o.modulus (img.take (digestAt img)) ((img.drop (digestAt img + 64)).take 512)
  else o.policy == 0

/-! ## Field ranges (R43, R47 to R65) -/

/-- `lo ≤ v ≤ hi`. -/
def inRange (v lo hi : Nat) : Bool := decide (lo ≤ v) && decide (v ≤ hi)

/-- PARAM of a region record (R53, R213, R247). -/
def paramOk (type p : Nat) : Bool :=
  if type = 2 then p / 8192 == 0 && inRange p 8 4096 && p % 8 == 0
  else if type = 3 ∨ type = 4 then
    p / 32768 == 0 && decide (bitsOf p 10 8 ≤ 4) && decide (bitsOf p 7 6 ≤ 2) &&
    (if type = 3 then bitsOf p 14 11 == 0
     else inRange (bitsOf p 14 11) 3 8 && decide (4 * 2 ^ bitsOf p 14 11 ≤ 64 * (bitsOf p 5 0 + 1)))
  else p == 0

/-- Highest ID of a region type, and the lowest (R53). -/
def idOk (type id : Nat) : Bool :=
  if type = 1 then inRange id 1 128 else if type = 5 then id == 0 else decide (id ≤ 63)

/-- RANGE checks of the header and TILE (R43, R47). -/
def rangeHead (img : List Byte) : List Check :=
  checks 7 0 0
    [(0x0E, decide (fieldAt img 0x0E 2 < 4)), (0x10, fieldAt img 0x10 8 != 0), (0x18, decide (fieldAt img 0x18 1 ≤ 2)),
     (0x1E, fieldAt img 0x1E 2 == 0)] ++
  checks 7 1 (secAt img 1)
    ((8, sf img 1 8 8 == 0) :: (List.range 1024).map (fun t => (16 + t, decide (sf img 1 (16 + t) 1 ≤ 4))))

/-- RANGE checks of TIER (R50, R51). -/
def rangeTier (b : Build) (img : List Byte) : List Check :=
  checks 7 2 (secAt img 2)
    ([(0, inRange (sf img 2 0 2) 256 19020), (2, inRange (sf img 2 2 2) 0 19020), (4, inRange (sf img 2 4 2) 64 19020),
      (6, decide (sf img 2 6 1 ≤ 3)), (7, sf img 2 7 1 == 0)] ++
     (List.range 4).flatMap (fun n =>
      let o := 8 + 12 * n
      let fit := decide (n < b.sp)
      [(o, !fit || inRange (sf img 2 o 2) 233 11444), (o + 2, !fit || inRange (sf img 2 (o + 2) 2) 16 512),
       (o + 4, !fit || inRange (sf img 2 (o + 4) 2) 0 11444), (o + 6, !fit || inRange (sf img 2 (o + 6) 2) 64 11444),
       (o + 8, !fit || inRange (sf img 2 (o + 8) 2) 0 11444), (o + 10, sf img 2 (o + 10) 2 == 0)]) ++
     [(0x38, sf img 2 0x38 8 == 0)])

/-- RANGE checks of FLASH (R52, R53). -/
def rangeFlash (img : List Byte) : List Check :=
  let egs := sf img 3 2 1
  checks 7 3 (secAt img 3)
    ([(0, inRange (sf img 3 0 2) 1 256), (2, inRange egs 1 8), (3, sf img 3 3 1 == 0)] ++
     (List.range 8).flatMap (fun g =>
      [(4 + 6 * g, if g < egs then inRange (sf img 3 (4 + 6 * g) 4) 10000 200000 else sf img 3 (4 + 6 * g) 4 == 0),
       (8 + 6 * g, if g < egs then inRange (sf img 3 (8 + 6 * g) 2) 50 2000 else sf img 3 (8 + 6 * g) 2 == 0)]) ++
     [(0x34, leNat ((img.drop (secAt img 3 + 0x34)).take 12) == 0)] ++
     (List.range (sf img 3 0 2)).flatMap (fun i =>
      let o := 64 + 32 * i
      let ty := sf img 3 o 1
      [(o, inRange ty 1 5), (o + 1, idOk ty (sf img 3 (o + 1) 1)), (o + 2, inRange (sf img 3 (o + 2) 1) 1 egs),
       (o + 4, decide (1 ≤ sf img 3 (o + 4) 4)), (o + 8, decide (sf img 3 (o + 8) 4 ≤ 1)),
       (o + 12, paramOk ty (sf img 3 (o + 12) 4)), (o + 16, sf img 3 (o + 16) 16 == 0)]))

/-- RANGE checks of FABRIC (R56, R57). -/
def rangeFabric (img : List Byte) : List Check :=
  let roles := (List.range 16).map (fun k => sf img 4 (8 + k) 1)
  checks 7 4 (secAt img 4)
    ([(0, sf img 4 0 4 == 0 || roles.any (fun r => r == 1 || r == 2)), (4, decide (sf img 4 4 2 ≤ 8191)),
      (6, decide (sf img 4 6 1 ≤ 16)), (7, sf img 4 7 1 == 0)] ++
     (List.range 16).map (fun k => (8 + k, decide (sf img 4 (8 + k) 1 ≤ 3))) ++
     [(0x18, sf img 4 0x18 8 == 0)] ++
     (List.range (sf img 4 6 1)).flatMap (fun i =>
      let o := 32 + 48 * i
      let tree := sf img 4 o 1
      let nch := sf img 4 (o + 3) 1
      [(o, decide (tree ≤ 15) && !(List.range i).any (fun j => sf img 4 (32 + 48 * j) 1 == tree)),
       (o + 1, decide (sf img 4 (o + 1) 1 ≤ 1)), (o + 2, decide (sf img 4 (o + 2) 1 ≤ 15) || sf img 4 (o + 2) 1 == 0xFF),
       (o + 3, decide (nch ≤ 15))] ++
      (List.range 15).map (fun j =>
        let c := sf img 4 (o + 4 + j) 1
        (o + 4 + j, if j < nch then decide (c ≤ 15) else c == 0xFF)) ++
      [(o + 0x13, decide (sf img 4 (o + 0x13) 1 ≤ 4)), (o + 0x14, decide (1 ≤ sf img 4 (o + 0x14) 4)),
       (o + 0x18, decide (sf img 4 (o + 0x18) 1 ≤ 1)),
       (o + 0x19, if sf img 4 (o + 1) 1 = 1 then decide (sf img 4 (o + 0x19) 1 ≤ 15) else sf img 4 (o + 0x19) 1 == 0),
       (o + 0x1A, sf img 4 (o + 0x1A) 2 == 0), (o + 0x20, decide (1 ≤ sf img 4 (o + 0x20) 4)),
       (o + 0x24, decide (sf img 4 (o + 0x24) 2 ≤ 8191) || sf img 4 (o + 0x24) 2 == 0xFFFF),
       (o + 0x26, sf img 4 (o + 0x26) 10 == 0)]))

/-- RANGE checks of ENERGY, NUMERIC, FAULT, COMPAT and LOCK (R59 to R62, R65). The upper limits that the ENERGY check tests
are left to it (R74). -/
def rangeRest (b : Build) (img : List Byte) : List Check :=
  checks 7 5 (secAt img 5)
    ([(0, decide (800 ≤ sf img 5 0 2)), (2, decide (200 ≤ sf img 5 2 2)), (4, decide (100 ≤ sf img 5 4 2)),
      (6, decide (40 ≤ sf img 5 6 2))] ++
     (List.range 4).map (fun n =>
      (8 + 2 * n, if n < b.sp then inRange (sf img 5 (8 + 2 * n) 2) 30 200 else sf img 5 (8 + 2 * n) 2 == 0)) ++
     [(0x10, decide (600 ≤ sf img 5 0x10 2)), (0x12, decide (sf img 5 0x12 2 ≤ 850)), (0x14, sf img 5 0x14 12 == 0)]) ++
  checks 7 6 (secAt img 6)
    [(0, decide (sf img 6 0 1 ≤ 2)), (1, decide (sf img 6 1 1 ≤ 1)), (2, decide (sf img 6 2 1 ≤ 1)),
     (3, decide (sf img 6 3 1 ≤ 1)), (4, sf img 6 4 12 == 0)] ++
  checks 7 7 (secAt img 7)
    ((List.range 4).flatMap (fun c =>
      [(16 * c, inRange (sf img 7 (16 * c) 8) 100000000 60480000000000), (16 * c + 8, inRange (sf img 7 (16 * c + 8) 1) 1 15),
       (16 * c + 9, sf img 7 (16 * c + 9) 7 == 0)])) ++
  checks 7 8 (secAt img 8) [(0, decide (sf img 8 0 1 ≤ 3)), (1, sf img 8 1 15 == 0)] ++
  checks 7 9 (secAt img 9) [(0, decide (sf img 9 0 4 ≤ 0xFF)), (4, sf img 9 4 12 == 0)]

/-! ## The armature that an image spells -/

/-- A region record (R53). -/
def parseRegion (img : List Byte) (i : Nat) : Region :=
  let o := 64 + 32 * i
  { type := sf img 3 o 1, id := sf img 3 (o + 1) 1, egrp := sf img 3 (o + 2) 1, spMask := sf img 3 (o + 3) 1
    sizeGib := sf img 3 (o + 4) 4, flags := sf img 3 (o + 8) 4, param := sf img 3 (o + 12) 4 }

/-- A tree record (R57). -/
def parseTree (img : List Byte) (i : Nat) : TreeRec :=
  let o := 32 + 48 * i
  let n := sf img 4 (o + 3) 1
  { tree := sf img 4 o 1, root := bitOf (sf img 4 (o + 1) 1) 0, parent := sf img 4 (o + 2) 1, nchild := n
    children := (List.range n).map (fun j => sf img 4 (o + 4 + j) 1), level := sf img 4 (o + 0x13) 1
    deadline := sf img 4 (o + 0x14) 4, policy := sf img 4 (o + 0x18) 1, updProg := sf img 4 (o + 0x19) 1
    segFirst := sf img 4 (o + 0x1C) 4, segCount := sf img 4 (o + 0x20) 4, peerId := sf img 4 (o + 0x24) 2 }

/-- The armature of an image. -/
def parseArm (img : List Byte) : Armature :=
  { armId := fieldAt img 0x10 8, role := fieldAt img 0x18 1, reqSp := fieldAt img 0x19 1, reqXp := fieldAt img 0x1A 2
    fwMin := fieldAt img 0x1C 2, flags := fieldAt img 0x0E 2
    mins := (List.range 4).map (fun i => sf img 1 (2 * i) 2)
    roles := (List.range 1024).map (fun t => sf img 1 (16 + t) 1)
    stkSlm := sf img 2 0 2, stkWeight := sf img 2 2 2, stkWork := sf img 2 4 2, stkIlv := sf img 2 6 1
    board := (List.range 4).map (fun n =>
      { map := sf img 2 (8 + 12 * n) 2, wbuf := sf img 2 (10 + 12 * n) 2, vcache := sf img 2 (12 + 12 * n) 2
        scan := sf img 2 (14 + 12 * n) 2, slm := sf img 2 (16 + 12 * n) 2 })
    egrpCount := sf img 3 2 1
    rrLimit := (List.range 8).map (fun g => sf img 3 (4 + 6 * g) 4)
    wlSpread := (List.range 8).map (fun g => sf img 3 (8 + 6 * g) 2)
    regions := (List.range (sf img 3 0 2)).map (parseRegion img)
    fabricId := sf img 4 0 4, moduleId := sf img 4 4 2, portRole := (List.range 16).map (fun k => sf img 4 (8 + k) 1)
    trees := (List.range (sf img 4 6 1)).map (parseTree img)
    totalW := sf img 5 0 2
    domW := (List.range 7).map (fun d => sf img 5 (2 + 2 * d) 2)
    vminMv := sf img 5 0x10 2, vmaxMv := sf img 5 0x12 2
    group := sf img 6 0 1, outRound := sf img 6 1 1, fp8Ovf := sf img 6 2 1, gradWire := sf img 6 3 1
    faultWindow := (List.range 4).map (fun c => sf img 7 (16 * c) 8)
    faultRetry := (List.range 4).map (fun c => sf img 7 (16 * c + 8) 1)
    gen8 := bitOf (sf img 8 0 1) 0, honorStrap := bitOf (sf img 8 0 1) 1, lockMask := sf img 9 0 4, digest := imgDigest img }

/-! ## Checks against the build, the live tiles and the layout record -/

/-- The series of the firmware that runs (R43, R452). -/
def fwSeries (s : State) : Nat :=
  match (if s.power.fwSlot = 2 then s.nv.fw2 else s.nv.fw1) with
  | none => 0
  | some f => f.series

/-- BUILD and FIRMWARE (R74). -/
def buildChecks (s : State) (a : Armature) : List Check :=
  [{ holds := decide (a.reqSp < 2 ^ s.build.sp), cause := 5, sec := 0, off := 0x19 },
   { holds := decide (a.reqXp < 2 ^ s.build.xp), cause := 5, sec := 0, off := 0x1A },
   { holds := decide (a.fwMin ≤ fwSeries s), cause := 6, sec := 0, off := 0x1C }]

/-- Live tiles of a role under an armature: neither retired nor fenced (R48). -/
def liveCountIn (s : State) (a : Armature) (role : Nat) : Nat :=
  ((List.range 1024).filter (fun t => a.roles.getD t 0 == role && !s.nv.retiredTiles.contains t && !s.nv.fencedTiles.contains t)).length

/-- TILES (R47, R48). -/
def tileChecks (s : State) (a : Armature) (base : Nat) : List Check :=
  checks 8 1 base ((List.range 4).map (fun i => (2 * i, decide (a.mins.getD i 0 ≤ liveCountIn s a (i + 1)))))

/-- Whether a region of a layout keeps its data under another layout (R55). -/
def keepsData (r : Region) (new : List Region) : Bool :=
  new.any (fun n => n.type == r.type && n.id == r.id && n.egrp == r.egrp && n.spMask == r.spMask && n.sizeGib == r.sizeGib &&
    n.param == r.param)

/-- DIM of an index region (R247). -/
def dimOf (param : Nat) : Nat := 64 * (bitsOf param 5 0 + 1)

/-- Bytes of the centroid copies of the indexes that keep their data and whose CREATE has completed or is running (R248,
R252). -/
def centroidBytes (s : State) (regions : List Region) : Nat :=
  let running := s.search.queries.filterMap (fun q => if q.done then none else q.pendingIndex)
  let all := s.corpus.indexes.filter (fun x => x.created && !running.any (fun y => y.rtype == x.rtype && y.id == x.id)) ++ running
  sumNat (all.map (fun x =>
    match findRegion s x.rtype x.id with
    | none => 0
    | some r => if keepsData r regions then x.centroids.length * (2 * dimOf r.param + 8) else 0))

/-- Fabric staging of R296 for every tree. -/
def stagingBytes (a : Armature) : Nat :=
  sumNat (a.trees.map (fun t => 256 * (t.nchild + 1) * 4096 + 256 * 8192))

/-- TIER (R51, R252). -/
def tierChecks (s : State) (a : Armature) (base : Nat) : List Check :=
  checks 9 2 base
    ((0, decide (a.stkSlm + a.stkWeight + a.stkWork ≤ 19020)) ::
     (List.range 4).map (fun n =>
      let p := boardPart a n
      (8 + 12 * n, p.map + p.wbuf + p.vcache + p.scan + p.slm == (if n < s.build.sp then 11444 else 0))) ++
     [(4, decide (centroidBytes s a.regions + stagingBytes a + 64 * granule ≤ a.stkWork * granule))])

/-- GiB that the regions of a layout, up to `i`, take in a package. -/
def gibIn (rs : List Region) (i p : Nat) : Nat :=
  sumNat ((rs.take (i + 1)).map (fun r => if bitOf r.spMask p then r.sizeGib else 0))

/-- LAYOUT (R54, R55, R43). A region that is removed has no record; the failure names the section's start. A change that loses data is tested before
LAYOUT_DIGEST (DESIGN CHOICE, log entry 108). -/
def layoutChecks (s : State) (a : Armature) (img : List Byte) : List Check :=
  let rs := a.regions
  let base := secAt img 3
  checks 10 3 base
    ((List.range rs.length).flatMap (fun i =>
      match rs[i]? with
      | none => []
      | some r =>
        let o := 64 + 32 * i
        [(o, !(rs.take i).any (fun q => q.type == r.type && q.id == r.id)),
         (o + 3, r.spMask != 0 && decide (r.spMask < 2 ^ s.build.sp)),
         (o + 3, r.type != 4 || (r.spMask == 15 && s.build.sp == 4)),
         (o, r.type != 5 || !(rs.take i).any (fun q => q.type == 5)),
         (o + 4, r.type != 5 || decide (r.sizeGib * (packagesOf r.spMask).length ≤ 29802)),
         (o + 4, (List.range 4).all (fun p => decide (gibIn rs i p ≤ 59604)))])) ++
  s.nv.layout.filterMap (fun r =>
    if keepsData r rs ∨ (bitOf a.flags 1 ∧ bitOf r.flags 0) then none
    else
      let i := rs.findIdx (fun q => q.type == r.type && q.id == r.id)
      some { holds := false, cause := 10, sec := 3, off := base + (if i < rs.length then 64 + 32 * i else 0) }) ++
  [{ holds := leNat ((img.drop 0x20).take 32) ==
        (Config.sha512 ((img.drop base).take (64 + 32 * rs.length))).toNat % 2 ^ 256
     cause := 10, sec := 0, off := 0x20 }]

/-- FABRIC (R58, R35). -/
def fabricChecks (s : State) (a : Armature) (base : Nat) : List Check :=
  let fit (k : Nat) : Bool := decide (k < s.build.xp)
  checks 11 4 base
    ((6, decide (0 < s.build.xp) || a.trees.isEmpty) ::
     (List.range a.trees.length).flatMap (fun i =>
      match a.trees[i]? with
      | none => []
      | some t =>
        let o := 32 + 48 * i
        let ports := (if t.parent = 0xFF then [] else [(t.parent, o + 2)]) ++
          (List.range t.nchild).map (fun j => (t.children.getD j 0, o + 4 + j))
        (List.range ports.length).map (fun j =>
          let p := ports.getD j (0, 0)
          (p.2, fit p.1 && a.portRole.getD p.1 0 == 1 && !(ports.take j).any (fun q => q.1 == p.1))) ++
        [(o + 1, t.root == (t.parent == 0xFF)), (o + 0x13, (t.level == 0) == t.root),
         (o + 3, decide (t.nchild ≤ min 15 (if t.root then s.build.xp else s.build.xp - 1)) && (!t.root || decide (1 ≤ t.nchild))),
         (o + 0x1C, !(a.trees.take i).any (fun q => decide (q.segFirst < t.segFirst + t.segCount) &&
            decide (t.segFirst < q.segFirst + q.segCount)))]) ++
     (List.range 16).map (fun k => (8 + k, decide (a.portRole.getD k 0 < 2) || fit k)))

/-- ENERGY (R30, R59). -/
def energyChecks (a : Armature) (base : Nat) : List Check :=
  checks 12 5 base
    ((0, decide (a.totalW ≤ 3200)) ::
     (List.range 7).map (fun d => (2 + 2 * d, decide (a.domW.getD d 0 ≤ a.totalW))) ++
     [(0x10, decide (a.vminMv ≤ a.vmaxMv))])

/-! ## Validation (R74) -/

/-- What validation finds: the armature, or the first check that fails. R74 orders the codes; within one code the fields are tested in section
order (DESIGN CHOICE, log entry 108). A SIGNATURE failure names section 0 and the place after the digest, where a signature begins (DESIGN
CHOICE, log entry 109). -/
def validateImage (s : State) (img : List Byte) : Armature ⊕ Check :=
  match firstFailure (formatChecks img) with
  | some c => .inr c
  | none =>
    match firstFailure (paddingChecks img ++ sectionChecks img ++ digestChecks img) with
    | some c => .inr c
    | none =>
      let a := parseArm img
      let cs := { holds := signatureOk s.nv.owner img, cause := 4, sec := 0, off := digestAt img + 64 } ::
        (buildChecks s a ++ rangeHead img ++ rangeTier s.build img ++ rangeFlash img ++ rangeFabric img ++ rangeRest s.build img ++
         tileChecks s a (secAt img 1) ++ tierChecks s a (secAt img 2) ++ layoutChecks s a img ++
         fabricChecks s a (secAt img 4) ++ energyChecks a (secAt img 5))
      match firstFailure cs with
      | some c => .inr c
      | none => .inl a

/-- The maquette's settings, with the FLASH section that the layout record holds (R68, R69). -/
def maquetteOf (s : State) : Armature :=
  { maquetteSettings s.build.sp s.nv.layout with
      egrpCount := s.nv.layoutEgrps, rrLimit := s.nv.layoutRr, wlSpread := s.nv.layoutWl }

end Sys2Proof.Machine
end

