-- ==== Sys2Proof/Machine/Num.lean ====
section
/-! DEFINITION. Number formats and arithmetic (03_numbers.md): exact values, rounding to a format, and the operations of
the dot-product path, the vector unit and the update unit, each with the numeric flags of R97 that it sets. -/
namespace Sys2Proof.Machine

/-! ## Numeric flags (R97) -/

def PROD_OF : Nat := 0x01
def NAN_IN : Nat := 0x02
def NAN_GEN : Nat := 0x04
def SUM_OF : Nat := 0x08
def OUT_OF : Nat := 0x10
def INF_IN : Nat := 0x20
def OUT_NAN : Nat := 0x40
def TRUNC_FP32 : Nat := 0x80

/-- Two flag words together. -/
def flagOr (a b : Nat) : Nat := Nat.lor a b

/-! ## Formats (R81, R82) -/

/-- The element formats. -/
inductive Fmt where
  | w1
  | w2
  | int4
  | fp4
  | e4m3
  | e5m2
  | ue4m3
  | fp16
  | bf16
  | fp32
deriving DecidableEq, Repr

/-- Bits of an element. -/
def Fmt.width : Fmt → Nat
  | .w1 => 1
  | .w2 => 2
  | .int4 | .fp4 => 4
  | .e4m3 | .e5m2 | .ue4m3 => 8
  | .fp16 | .bf16 => 16
  | .fp32 => 32

/-- Mantissa bits of a floating-point format. -/
def Fmt.mbits : Fmt → Nat
  | .fp4 => 1
  | .e4m3 | .ue4m3 => 3
  | .e5m2 => 2
  | .fp16 => 10
  | .bf16 => 7
  | .fp32 => 23
  | _ => 0

/-- The power of two that one unit of a subnormal stands for: 1 − bias − mantissa bits. -/
def Fmt.umin : Fmt → Int
  | .fp4 => -1
  | .e4m3 | .ue4m3 => -9
  | .e5m2 => -16
  | .fp16 => -24
  | .bf16 => -133
  | .fp32 => -149
  | _ => 0

/-- The code of the largest finite magnitude. -/
def Fmt.maxCode : Fmt → Nat
  | .fp4 => 7
  | .e4m3 => 0x7E
  | .e5m2 => 0x7B
  | .ue4m3 => 0xFF
  | .fp16 => 0x7BFF
  | .bf16 => 0x7F7F
  | .fp32 => 0x7F7FFFFF
  | _ => 0

/-- The canonical NaN (R83). -/
def Fmt.nanCode : Fmt → Nat
  | .e4m3 => 0x7F
  | .e5m2 => 0x7E
  | .fp16 => 0x7E00
  | .bf16 => 0x7FC0
  | .fp32 => 0x7FC00000
  | _ => 0

/-- An exact value: NaN, an infinity, or ± m × 2^e. -/
inductive Fp where
  | nan
  | inf (neg : Bool)
  | fin (neg : Bool) (m : Nat) (e : Int)
deriving DecidableEq, Repr

/-- The value of a floating-point code without infinities or NaNs: sign apart, mantissa and unit. -/
def decodeMag (f : Fmt) (neg : Bool) (c : Nat) : Fp :=
  if c < 2 ^ f.mbits then .fin neg c f.umin
  else .fin neg (2 ^ f.mbits + c % 2 ^ f.mbits) (f.umin + (c / 2 ^ f.mbits : Nat) - 1)

/-- The value of a code (R81, R82). -/
def decodeFmt (f : Fmt) (code : Nat) : Fp :=
  let neg := bitOf code (f.width - 1)
  let c := code % 2 ^ (f.width - 1)
  match f with
  | .w1 => .fin (code % 2 == 0) 1 0
  | .w2 => match code % 4 with
    | 0 => .fin true 3 (-1)
    | 1 => .fin true 1 (-1)
    | 2 => .fin false 1 (-1)
    | _ => .fin false 3 (-1)
  | .int4 => if code % 16 < 8 then .fin false (code % 16) 0 else .fin true (16 - code % 16) 0
  | .fp4 => decodeMag f neg c
  | .ue4m3 => decodeMag f false (code % 256)
  | .e4m3 => if c = 0x7F then .nan else decodeMag f neg c
  | .e5m2 | .fp16 | .bf16 | .fp32 =>
    if c ≤ f.maxCode then decodeMag f neg c
    else if c = f.maxCode + 1 then .inf neg
    else .nan

/-! ## Rounding -/

/-- How a value is rounded. -/
inductive Rnd where
  | nearest
  | zero
deriving DecidableEq, Repr

/-- Bits of a number, at most `n`. -/
def bitLen : Nat → Nat → Nat
  | 0, _ => 0
  | n + 1, v => if v = 0 then 0 else bitLen n (v / 2) + 1

/-- Bits of a number. -/
def bitCount (v : Nat) : Nat := if v = 0 then 0 else Nat.log2 v + 1

/-- Drops `k` low bits under a rounding. -/
def dropBits (r : Rnd) (m k : Nat) : Nat :=
  let q := m / 2 ^ k
  let rem := m % 2 ^ k
  match r with
  | .zero => q
  | .nearest =>
    if k = 0 then q
    else if 2 ^ (k - 1) < rem then q + 1
    else if rem = 2 ^ (k - 1) then q + q % 2
    else q

/-- The magnitude code of m × 2^e rounded with an unbounded exponent range, in the layout of a format: larger than
`maxCode` where the value overflows (R99). -/
def roundCode (f : Fmt) (r : Rnd) (m : Nat) (e : Int) : Nat :=
  if m = 0 then 0
  else
    let u := max (e + (bitCount m : Nat) - (f.mbits + 1 : Nat)) f.umin
    let q := if u ≤ e then m * 2 ^ (e - u).toNat else dropBits r m (u - e).toNat
    (u - f.umin).toNat * 2 ^ f.mbits + q

/-- A sign over a magnitude code. -/
def signed (f : Fmt) (neg : Bool) (c : Nat) : Nat := if neg then c + 2 ^ (f.width - 1) else c

/-! ## FP32 words -/

/-- The value of an FP32 word. -/
def fpOf (w : Word) : Fp := decodeFmt .fp32 w.toNat

/-- The canonical NaN. -/
def nan32 : Word := 0x7FC00000#32

/-- An infinity. -/
def inf32 (neg : Bool) : Word := if neg then 0xFF800000#32 else 0x7F800000#32

/-- +0. -/
def zero32 : Word := 0#32

/-- 1.0. -/
def one32 : Word := 0x3F800000#32

/-- Whether a word is a NaN. -/
def isNan (w : Word) : Bool := fpOf w == .nan

/-- A word with any NaN made the canonical one (R83). -/
def canon32 (w : Word) : Word := if isNan w then nan32 else w

/-- Whether a word is an infinity. -/
def isInf (w : Word) : Bool := match fpOf w with | .inf _ => true | _ => false

/-- Whether a word is a finite number. -/
def isFinite (w : Word) : Bool := match fpOf w with | .fin .. => true | _ => false

/-- A magnitude code as a word with its sign. -/
def word32 (neg : Bool) (c : Nat) : Word := BitVec.ofNat 32 (signed .fp32 neg c)

/-- ± m × 2^e rounded once to nearest even in FP32; an overflow becomes an infinity and sets SUM_OF (R91). -/
def round32 (neg : Bool) (m : Nat) (e : Int) : Word × Nat :=
  let c := roundCode .fp32 .nearest m e
  if Fmt.fp32.maxCode < c then (inf32 neg, SUM_OF) else (word32 neg c, 0)

/-- Whether the exact magnitude m × 2^e exceeds 0x7F7F_FFFF, which is (2^24 − 1) × 2^104. -/
def exceedsMax32 (m : Nat) (e : Int) : Bool := decide ((2 ^ 24 - 1) * 2 ^ (104 - e).toNat < m * 2 ^ (e - 104).toNat)

/-- ± m × 2^e truncated toward zero in FP32; a magnitude above 0x7F7F_FFFF saturates and sets PROD_OF (R89). -/
def trunc32 (neg : Bool) (m : Nat) (e : Int) : Word × Nat :=
  let c := roundCode .fp32 .zero m e
  if exceedsMax32 m e then (word32 neg Fmt.fp32.maxCode, PROD_OF) else (word32 neg c, 0)

/-- A value as an FP32 word: exact for every element format. -/
def wordOf : Fp → Word
  | .nan => nan32
  | .inf n => inf32 n
  | .fin n m e => word32 n (roundCode .fp32 .nearest m e)

/-- An element of a format as FP32 (R118). -/
def toF32 (f : Fmt) (code : Nat) : Word := wordOf (decodeFmt f code)

/-- The input flags of a value that is read (R97). -/
def readFlags (w : Word) : Nat :=
  match fpOf w with
  | .nan => NAN_IN
  | .inf _ => INF_IN
  | .fin .. => 0

/-- Signed integer of a magnitude. -/
def sgn (neg : Bool) (m : Nat) : Int := if neg then -(m : Int) else (m : Int)

/-- The exact sum of two finite values: an integer and its unit. -/
def exactSum (n1 : Bool) (m1 : Nat) (e1 : Int) (n2 : Bool) (m2 : Nat) (e2 : Int) : Int × Int :=
  let u := min e1 e2
  (sgn n1 m1 * 2 ^ (e1 - u).toNat + sgn n2 m2 * 2 ^ (e2 - u).toNat, u)

/-- Rounds an exact sum; a zero sum takes the given sign (R91). -/
def roundSum (x : Int × Int) (zneg : Bool) : Word × Nat :=
  if x.1 = 0 then (word32 zneg 0, 0) else round32 (decide (x.1 < 0)) x.1.natAbs x.2

/-- Addition of exact values, rounded once (R91, R96, R100). -/
def addFp (a b : Fp) : Word × Nat :=
  match a, b with
  | .nan, _ => (nan32, 0)
  | _, .nan => (nan32, 0)
  | .inf n, .inf m => if n = m then (inf32 n, 0) else (nan32, NAN_GEN)
  | .inf n, .fin .. => (inf32 n, 0)
  | .fin .., .inf n => (inf32 n, 0)
  | .fin n1 m1 e1, .fin n2 m2 e2 => roundSum (exactSum n1 m1 e1 n2 m2 e2) (n1 && n2 && m1 == 0 && m2 == 0)

/-- FP32 addition (R91). -/
def fadd (a b : Word) : Word × Nat := addFp (fpOf a) (fpOf b)

/-- The negative of a word. -/
def fneg (w : Word) : Word := w ^^^ 0x80000000#32

/-- FP32 subtraction (R100). -/
def fsub (a b : Word) : Word × Nat := fadd a (fneg b)

/-- An exact product: NaN and NAN_GEN for infinity × zero (R96). -/
def mulFp (a b : Fp) : Fp × Nat :=
  match a, b with
  | .nan, _ => (.nan, 0)
  | _, .nan => (.nan, 0)
  | .inf n, .inf m => (.inf (n != m), 0)
  | .inf n, .fin m v _ => if v = 0 then (.nan, NAN_GEN) else (.inf (n != m), 0)
  | .fin n v _, .inf m => if v = 0 then (.nan, NAN_GEN) else (.inf (n != m), 0)
  | .fin n1 m1 e1, .fin n2 m2 e2 => (.fin (n1 != n2) (m1 * m2) (e1 + e2), 0)

/-- FP32 multiplication rounded once to nearest even (R91, R100). -/
def fmul (a b : Word) : Word × Nat :=
  match mulFp (fpOf a) (fpOf b) with
  | (.nan, f) => (nan32, f)
  | (.inf n, f) => (inf32 n, f)
  | (.fin n m e, f) => let r := round32 n m e; (r.1, flagOr f r.2)

/-- A product of the dot-product path: exact, then brought to FP32 by truncation (R89, R96). -/
def dotProduct (a b : Fp) : Word × Nat :=
  match mulFp a b with
  | (.nan, f) => (nan32, f)
  | (.inf n, f) => (inf32 n, f)
  | (.fin n m e, f) => let r := trunc32 n m e; (r.1, flagOr f r.2)

/-- Fused multiply-add: a × b + c exact, rounded once (R101). -/
def ffma (a b c : Word) : Word × Nat :=
  match mulFp (fpOf a) (fpOf b) with
  | (.nan, f) => (nan32, f)
  | (p, f) => let r := addFp p (fpOf c); (r.1, flagOr f r.2)

/-- The order of FP32 numbers as integers, −0 below +0 (R102). -/
def order32 (w : Word) : Int :=
  if bitOf w.toNat 31 then -((w.toNat % 2 ^ 31 : Nat) : Int) - 1 else (w.toNat : Int)

/-- max of R102. -/
def fmax (a b : Word) : Word := if isNan a || isNan b then nan32 else if order32 a < order32 b then b else a

/-- min of R102. -/
def fmin (a b : Word) : Word := if isNan a || isNan b then nan32 else if order32 b < order32 a then b else a

/-- Whether a word is ±0. -/
def isZero (w : Word) : Bool := w.toNat % 2 ^ 31 == 0

/-- a > b, false where either is NaN (R118). -/
def fgt (a b : Word) : Bool := !isNan a && !isNan b && !(isZero a && isZero b) && decide (order32 b < order32 a)

/-- |w|. -/
def fabs (w : Word) : Word := w &&& 0x7FFFFFFF#32

/-! ## Narrowing (R99) -/

/-- Narrows an FP32 value to a format under OUT_ROUND and FP8_OVF. -/
def narrow (f : Fmt) (outRound fp8Ovf : Nat) (w : Word) : Nat × Nat :=
  let rnd := if outRound = 1 then Rnd.zero else Rnd.nearest
  let fp8 := f == .e4m3 || f == .e5m2
  match fpOf w with
  | .nan => (f.nanCode, OUT_NAN)
  | .inf n =>
    if f == .fp32 then (w.toNat, 0)
    else if fp8 then
      if fp8Ovf = 0 then (signed f n f.maxCode, OUT_OF)
      else if f == .e4m3 then (f.nanCode, flagOr OUT_OF OUT_NAN)
      else (signed f n (f.maxCode + 1), 0)
    else (signed f n (f.maxCode + 1), 0)
  | .fin n m e =>
    if f == .fp32 then (w.toNat, 0)
    else
      let c := roundCode f rnd m e
      if c ≤ f.maxCode then (signed f n c, 0)
      else if fp8 then
        if fp8Ovf = 0 then (signed f n f.maxCode, OUT_OF)
        else if f == .e4m3 then (f.nanCode, flagOr OUT_OF OUT_NAN)
        else (signed f n (f.maxCode + 1), OUT_OF)
      else if outRound = 1 then (signed f n f.maxCode, OUT_OF)
      else (signed f n (f.maxCode + 1), OUT_OF)

/-! ## Correctly rounded functions (R119)

EXP and LOG are evaluated in fixed point with 320 fraction bits, and the discarded tail is held as one sticky bit: no
FP32 operand but those with an exact result lies so near a rounding boundary that these bits do not decide it
(log entry 11). -/

/-- Fraction bits of the fixed point. -/
def fixBits : Nat := 320

/-- ln 2 in fixed point. -/
def ln2Fix : Nat :=
  1480553391661173448385607439722553250922680800745876974795605978609098082859138712941075737848984

/-- Integer square root by bits, from bit `n` − 1 down. -/
def isqrtBits : Nat → Nat → Nat → Nat
  | 0, _, acc => acc
  | n + 1, v, acc =>
    let t := acc + 2 ^ n
    if t * t ≤ v then isqrtBits n v t else isqrtBits n v acc

/-- Integer square root. -/
def isqrt (v : Nat) : Nat := isqrtBits (bitCount v / 2 + 1) v 0

/-- Terms of the exponential series: `n` more terms from term number `k`. -/
def expTerms : Nat → Nat → Nat → Nat → Nat
  | 0, _, _, _ => 0
  | n + 1, k, r, term => term + expTerms n (k + 1) r (term * r / 2 ^ fixBits / k)

/-- e^r in fixed point for 0 ≤ r < ln 2. -/
def expFix (r : Nat) : Nat := expTerms 80 1 r (2 ^ fixBits)

/-- Terms of 2 atanh z = 2 (z + z³/3 + …): `n` more terms from the odd number `k`. -/
def logTerms : Nat → Nat → Nat → Nat → Nat
  | 0, _, _, _ => 0
  | n + 1, k, z2, p => p / k + logTerms n (k + 2) z2 (p * z2 / 2 ^ fixBits)

/-- ln y in fixed point for y = m ÷ 2^b in [1, 2). -/
def logFix (m b : Nat) : Nat :=
  let z := (m - 2 ^ b) * 2 ^ fixBits / (m + 2 ^ b)
  2 * logTerms 110 1 (z * z / 2 ^ fixBits) z

/-- EXP (R119). -/
def fexp (w : Word) : Word × Nat :=
  match fpOf w with
  | .nan => (nan32, 0)
  | .inf n => if n then (zero32, 0) else (inf32 false, 0)
  | .fin n m e =>
    if m = 0 then (one32, 0)
    else if 7 < e + (bitCount m : Nat) then (if n then (zero32, 0) else (inf32 false, SUM_OF))
    else
      let x : Int := sgn n (m * 2 ^ (e + fixBits).toNat)
      let k := x.fdiv ln2Fix
      let r := (x.fmod ln2Fix).toNat
      round32 false (2 * expFix r + 1) (k - fixBits - 1)

/-- LOG (R119). -/
def flog (w : Word) : Word × Nat :=
  match fpOf w with
  | .nan => (nan32, 0)
  | .inf n => if n then (nan32, NAN_GEN) else (inf32 false, 0)
  | .fin n m e =>
    if m = 0 then (inf32 true, 0)
    else if n then (nan32, NAN_GEN)
    else
      let b := bitCount m - 1
      let k := e + (b : Int)
      let v : Int := k * ln2Fix + logFix m b
      if m = 2 ^ b ∧ k = 0 then (zero32, 0)
      else round32 (decide (v < 0)) (2 * v.natAbs + 1) (-(fixBits : Int) - 1)

/-- RCP (R119). -/
def frcp (w : Word) : Word × Nat :=
  match fpOf w with
  | .nan => (nan32, 0)
  | .inf n => (word32 n 0, 0)
  | .fin n m e =>
    if m = 0 then (inf32 n, 0)
    else
      let q := 2 ^ 80 / m
      round32 n (2 * q + one (2 ^ 80 % m != 0)) (-e - 81)

/-- RSQRT (R119). -/
def frsqrt (w : Word) : Word × Nat :=
  match fpOf w with
  | .nan => (nan32, 0)
  | .inf n => if n then (nan32, NAN_GEN) else (zero32, 0)
  | .fin n m e =>
    if m = 0 then (inf32 n, 0)
    else if n then (nan32, NAN_GEN)
    else
      let m2 := if e % 2 = 0 then m else 2 * m
      let e2 := if e % 2 = 0 then e else e - 1
      let q := isqrt (2 ^ 160 / m2)
      round32 false (2 * q + one (q * q * m2 != 2 ^ 160)) (-(e2 / 2) - 81)

/-! ## Trees and accumulators (R93, R94) -/

/-- One level of the pairwise tree: positions 2i and 2i + 1 are added, a last odd one passes through. -/
def treeLevel : List Word → List Word × Nat
  | a :: b :: t =>
    let r := fadd a b
    let rest := treeLevel t
    (r.1 :: rest.1, flagOr r.2 rest.2)
  | l => (l, 0)

/-- The pairwise tree of R93, at most `n` levels: the sum, or none of an empty run. -/
def treeSum : Nat → List Word → Option Word × Nat
  | 0, l => (l.head?, 0)
  | n + 1, l =>
    match l with
    | [] => (none, 0)
    | [a] => (some a, 0)
    | _ =>
      let r := treeLevel l
      let t := treeSum n r.1
      (t.1, flagOr r.2 t.2)

/-- Adds a value to an accumulator that begins empty (R94). -/
def accAdd (acc : Option Word) (v : Word) : Option Word × Nat :=
  match acc with
  | none => (some v, 0)
  | some a => let r := fadd a v; (some r.1, r.2)

/-! ## The exponent histogram's word (R104, R105) -/

/-- The histogram word of an FP32 value. -/
def histWord (gen8 : Bool) (w : Word) : Nat :=
  let e := bitsOf w.toNat 30 23
  let m := bitsOf w.toNat 22 0
  let base := if gen8 then 32 else 64
  if e = 0 then (if m = 0 then base else base + 1)
  else if e = 255 then (if m = 0 then base + 2 else base + 3)
  else if gen8 then e / 8 else e / 4

end Sys2Proof.Machine
end

