-- ==== Sys2Proof/Machine/Energy.lean ====
section
/-! DEFINITION. What the energy ledger projects for a kernel part, and whether a part fits (R429 to R433). -/
namespace Sys2Proof.Machine

/-- Average of the samples held; a window that is not yet full averages those that it has (R427). -/
def average (l : List Nat) : Nat := sumNat l / max 1 l.length

/-- The lowest and highest allowed setpoints in mV: multiples of 10 within LED_VLIMIT, or VMIN_MV where there is none
(R433). -/
def vLow (s : State) : Nat :=
  let lo := fld s LED_VLIMIT 9 0
  let hi := fld s LED_VLIMIT 25 16
  if ceilDiv lo 10 * 10 ≤ hi then ceilDiv lo 10 * 10 else lo

/-- The highest allowed setpoint (R433). -/
def vHigh (s : State) : Nat :=
  let lo := fld s LED_VLIMIT 9 0
  let hi := fld s LED_VLIMIT 25 16
  if ceilDiv lo 10 * 10 ≤ hi then hi / 10 * 10 else lo

/-- The setpoint in force or being slewed to. -/
def vNow (s : State) : Nat := fld s LED_VNOW 25 16

/-- ln n in the fixed point of `fixBits`. -/
def lnFix (n : Nat) : Nat :=
  let b := bitCount n - 1
  b * ln2Fix + logFix n b

/-- x^1.3 in fixed point (R433). -/
def pow13 (x : Nat) : Nat :=
  let v := lnFix x * 13 / 10
  2 ^ (v / ln2Fix) * expFix (v % ln2Fix)

/-- The ratio g(v) ÷ g(v0), as a numerator and a denominator, with g(V) = (V − 350)^1.3 ÷ V: a rate r at setpoint v0 is projected to
setpoint v as r times it (R433). -/
def rateRatio (v0 v : Nat) : Nat × Nat :=
  if v = v0 ∨ v0 ≤ 350 then (1, 1) else (pow13 (v - 350) * v0, pow13 (v0 - 350) * v)

/-- A tile's POTENTIAL at the last sample (R130). -/
def potential (s : State) (t : Nat) : Nat := fld s (tilReg t 0x10) 15 0

/-- The projected input power of one part of a kernel on a tile at a setpoint, in µW (R429). `f` is the refinement factor
in 8.8 fixed point. -/
def projectedUw (s : State) (k : Kernel) (f t v : Nat) : Nat :=
  let r := potential s t
  let g := rateRatio (vNow s) v
  let eta := max s.ledger.etaMilli 1
  if k.energyUj = 0 then 520 * v * v * r * g.1 * 1000 / (562500 * eta * g.2)
  else k.energyUj * f * v * v * r * g.1 * 1000 * 1000000 / (256 * 562500 * max k.places.length 1 * max k.steps 1 * eta * g.2)

/-- The kernel of a part's run, with its refinement factor. -/
def partKernel (s : State) (r : PartRef) : Option (Kernel × Nat) :=
  match s.grf.runs.find? (fun x => x.id == r.run) with
  | none => none
  | some run =>
    match Sparse.get none s.grf.slots run.slot with
    | none => none
    | some g =>
      match g.kernels[r.kernel]? with
      | none => none
      | some k => some (k, g.factors.getD r.kernel 256)

/-- The projected power of a part at a setpoint. -/
def partUw (s : State) (r : PartRef) (t v : Nat) : Nat :=
  match partKernel s r with
  | none => 0
  | some (k, f) => projectedUw s k f t v

/-- Σ p over the parts that run, in µW. -/
def runningUw (s : State) (v : Nat) : Nat :=
  sumNat (s.tiles.map (fun x => match x.2.part with | none => 0 | some p => partUw s p.ref x.1 v))

/-- The compute floor F at the setpoint in force, in µW: the last sample less the projections of the parts that then ran
(R429). -/
def floorUw (s : State) : Int := (s.ledger.sampleCompute * 1000000 : Nat) - (s.ledger.projAtSample : Nat)

/-- The floor projected to a setpoint by (V ÷ V₀)² (R433). -/
def floorAt (s : State) (v : Nat) : Int :=
  if vNow s = 0 then floorUw s else floorUw s * (v * v : Nat) / (vNow s * vNow s : Nat)

/-- The compute domain's budget in force, in µW. -/
def computeBudget (s : State) : Int := (s.ledger.budgets.getD 0 0 * 1000000 : Nat)

/-- The device budget in force, in µW (R427). -/
def deviceBudget (s : State) : Int := (fld s LED_STAT 11 0 * 1000000 : Nat)

/-- Whether Σ p of the given parts fits at a setpoint under both tests of R429. -/
def demandFits (s : State) (sum : Nat) (v : Nat) : Bool :=
  decide (floorAt s v + (sum : Int) ≤ computeBudget s) &&
  decide ((s.ledger.sampleIn * 1000000 : Nat) - (s.ledger.projAtSample : Nat) + (floorAt s v - floorUw s) + (sum : Int) ≤ deviceBudget s)

/-- Whether one more part fits beside the running ones (R429). -/
def partFits (s : State) (r : PartRef) (t : Nat) : Bool :=
  demandFits s (runningUw s (vNow s) + partUw s r t (vNow s)) (vNow s)

/-- Whether the ledger could ever admit a part: at VMIN_MV, against the domain budget less the floor there (R431). -/
def everFits (s : State) (k : Kernel) (f t : Nat) : Bool :=
  decide ((projectedUw s k f t (vLow s) : Int) ≤ computeBudget s - floorAt s (vLow s))

end Sys2Proof.Machine
end

