-- ==== Sys2Proof/Machine/Operands.lean ====
section
/-! DEFINITION. What a tile's instructions name: the tile store, the fields of the 128-bit instructions, the byte ranges
that each reads and writes, and elements packed in the store (R85, R110 to R117). -/
namespace Sys2Proof.Machine

/-! ## The tile store (R121) -/

/-- Bytes of a tile store. -/
def storeLen : Nat := 31457280

/-- The key of a byte of a tile's store. -/
def storeKey (t a : Nat) : Nat := t * storeLen + a

/-- Bytes of a tile's store. -/
def storeBytes (s : State) (t a n : Nat) : List Byte := Memory.bytes s.store (storeKey t a) n

/-- A little-endian number in a tile's store. -/
def storeNat (s : State) (t a n : Nat) : Nat := Memory.nat s.store (storeKey t a) n

/-- Writes bytes into a tile's store; a written word is no longer bad (R123). -/
def storeWrite (s : State) (t a : Nat) (data : List Byte) : State :=
  let x := Sparse.get {} s.tiles t
  let hit (w : Nat) : Bool := decide (a < w + 8) && decide (w < a + data.length)
  { s with store := Memory.setBytes s.store (storeKey t a) data
           tiles := if x.badWords.isEmpty then s.tiles
                    else Sparse.set {} s.tiles t { x with badWords := x.badWords.filter (fun w => !hit w) } }

/-- Clears a tile's store (R124). -/
def storeClear (s : State) (t : Nat) : State :=
  { s with store := s.store.filter (fun c => !(decide (t * storeLen ≤ c.1) && decide (c.1 < (t + 1) * storeLen))) }

/-- Element `i` of packed elements of a width, from a byte address (R85). -/
def storeElem (s : State) (t a width i : Nat) : Nat :=
  if width < 8 then bitsOf (storeNat s t (a + i * width / 8) 1) (i * width % 8 + width - 1) (i * width % 8)
  else storeNat s t (a + i * (width / 8)) (width / 8)

/-! ## Instruction fields -/

/-- Activation formats by code (R116). -/
def actFmt : Nat → Option Fmt
  | 0 => some .e4m3
  | 1 => some .e5m2
  | 2 => some .fp16
  | 3 => some .bf16
  | 4 => some .fp32
  | _ => none

/-- Weight formats by code (R116). -/
def weightFmt : Nat → Option Fmt
  | 0 => some .w1
  | 1 => some .w2
  | 2 => some .int4
  | 3 => some .fp4
  | 4 => some .e4m3
  | 5 => some .e5m2
  | 6 => some .fp16
  | 7 => some .bf16
  | 8 => some .fp32
  | _ => none

/-- Vector and output formats by code (R112, R117). -/
def vecFmt : Nat → Option Fmt
  | 0 => some .fp32
  | 1 => some .bf16
  | 2 => some .fp16
  | 3 => some .e4m3
  | 4 => some .e5m2
  | _ => none

/-- A vector format, FP32 for a code that is not valid. -/
def vecFmtD (c : Nat) : Fmt := (vecFmt c).getD .fp32

/-- B of R88 for a pair of format codes; none where the device does not support the pair. -/
def pairB (w a : Nat) : Option Nat :=
  match w, a with
  | 0, 0 | 0, 1 | 1, 0 | 1, 1 => some 128
  | 2, 0 | 2, 1 | 3, 0 | 3, 1 => some 64
  | 4, 0 | 4, 1 | 5, 0 | 5, 1 => some 32
  | 6, 2 => some 8
  | 7, 3 => some 8
  | 8, 4 => some 2
  | _, _ => none

/-- Largest K of a loaded block by weight format (R108). -/
def kLimit (f : Fmt) : Nat := 65536 / f.width

/-- A group length from its field (R116). -/
def groupLen : Nat → Option Nat
  | 0 => some 32
  | 1 => some 64
  | 2 => some 128
  | _ => none

/-- Bytes of `n` packed elements of a width. -/
def packedLen (n width : Nat) : Nat := ceilDiv (n * width) 8

/-- Units of 64 bytes from column to column of a LOADW (R116). -/
def columnUnits (k width : Nat) : Nat := ceilDiv (k * width) 512

/-- Super-groups of a column: ⌈K ÷ 16 G⌉ (R116). -/
def superGroups (k g : Nat) : Nat := ceilDiv k (16 * g)

/-- A set of equal byte ranges, `count` of them `stride` apart. -/
structure Range where
  lo : Nat
  len : Nat
  count : Nat := 1
  stride : Nat := 0
deriving DecidableEq, Repr

/-- The end of a set of ranges. -/
def Range.stop (r : Range) : Nat := if r.count = 0 ∨ r.len = 0 then 0 else r.lo + (r.count - 1) * r.stride + r.len

/-- Whether a byte range meets a set of ranges. -/
def Range.meets (r : Range) (lo len : Nat) : Bool :=
  (List.range r.count).any (fun i => decide (lo < r.lo + i * r.stride + r.len) && decide (r.lo + i * r.stride < lo + len) &&
    decide (0 < len) && decide (0 < r.len))

/-- Whether two sets of ranges share a byte. -/
def Range.clash (a b : Range) : Bool :=
  decide (a.lo < b.stop) && decide (b.lo < a.stop) && (List.range a.count).any (fun i => b.meets (a.lo + i * a.stride) a.len)

/-- Whether any of one list of ranges clashes with any of another. -/
def clashes (as bs : List Range) : Bool := as.any (fun a => bs.any (fun b => a.clash b))

/-- Bytes of a width's elements in a row. -/
def elemBytes (f : Fmt) (n : Nat) : Nat := n * (f.width / 8)

/-- Ranges that a STREAM reads (R110). -/
def streamReads (b : WBlock) (x : StreamSt) : List Range :=
  let aw := ((actFmt b.afmt).getD .fp32).width
  { lo := x.inAddr * 64, len := packedLen b.k aw, count := x.rows, stride := x.inStride * 64 } ::
    (if x.accMode ≥ 2 then [{ lo := x.accAddr * 64, len := b.columns.length * 4, count := x.rows, stride := 256 }] else [])

/-- Ranges that a STREAM writes (R110). -/
def streamWrites (b : WBlock) (x : StreamSt) : List Range :=
  if x.accMode = 0 ∨ x.accMode = 3 then
    [{ lo := x.outAddr * 64, len := elemBytes (vecFmtD x.outFmt) b.columns.length, count := x.rows, stride := x.outStride * 64 }]
  else [{ lo := x.accAddr * 64, len := b.columns.length * 4, count := x.rows, stride := 256 }]

/-- Ranges that a LOADW reads: each weight column and its scale blocks (R110, R116). -/
def loadReads (b : WBlock) (cols : Nat) : List Range :=
  let w := ((weightFmt b.wfmt).getD .fp32).width
  { lo := b.wAddr * 64, len := packedLen b.k w, count := cols, stride := columnUnits b.k w * 64 } ::
    (if b.scaled then
      [{ lo := b.sAddr * 64, len := 20 * superGroups b.k b.group, count := cols, stride := 20 * superGroups b.k b.group }]
     else [])

/-- Whether a vector function uses operand B (R118). -/
def usesB (f : Nat) : Bool := f == 0 || f == 1 || f == 2 || f == 3 || f == 4 || f == 5 || f == 0xD || f == 0xE

/-- Whether a vector function uses operand C (R118). -/
def usesC (f : Nat) : Bool := f == 3 || f == 0xE

/-- Whether a vector function reduces to one value (R118, R120). -/
def reduces (f : Nat) : Bool := f == 0xB || f == 0xC

/-- Ranges that a VEC reads. -/
def vecReads (x : VecSt) : List Range :=
  let l := elemBytes (vecFmtD x.inFmt) x.n
  { lo := x.aAddr * 64, len := l } :: ((if usesB x.func then [{ lo := x.bAddr * 64, len := l }] else []) ++
    (if usesC x.func then [{ lo := x.cAddr * 64, len := l }] else []))

/-- Ranges that a VEC writes. -/
def vecWrites (x : VecSt) : List Range :=
  [{ lo := x.dAddr * 64, len := elemBytes (vecFmtD x.outFmt) (if reduces x.func then 1 else x.n) }]

/-- Ranges that a SEND reads. -/
def sendReads (x : SendSt) : List Range := [{ lo := x.srcAddr * 64, len := x.len * 64 }]

/-- Whether every range lies in the store (R111). -/
def inStore (rs : List Range) : Bool := rs.all (fun r => decide (r.stop ≤ storeLen))

/-- A STREAM from its words (R112). -/
def decodeStream (w0 w1 : Nat) : StreamSt :=
  { rows := bitsOf w0 55 32, inAddr := bitsOf w0 31 13, inStride := bitsOf w0 12 0
    outAddr := bitsOf w1 63 45, outStride := bitsOf w1 44 32, accAddr := bitsOf w1 31 13
    outFmt := bitsOf w1 12 10, accMode := bitsOf w1 9 8, hist := bitOf w1 7 }

/-- A LOADW from its words, its columns not yet read (R116). -/
def decodeLoad (w0 w1 : Nat) : WBlock × Nat :=
  ({ wfmt := bitsOf w0 55 52, afmt := bitsOf w0 51 48, k := bitsOf w0 47 32 + 1
     group := (groupLen (bitsOf w1 38 37)).getD 0, scaled := bitOf w1 36
     wAddr := bitsOf w0 31 13, sAddr := bitsOf w1 63 45, columns := [] }, bitsOf w1 44 39 + 1)

/-- A VEC from its words (R117). -/
def decodeVec (w0 w1 : Nat) : VecSt :=
  { func := bitsOf w0 55 48, n := bitsOf w0 47 32 + 1, aAddr := bitsOf w0 31 13, bAddr := bitsOf w1 63 45
    cAddr := bitsOf w1 18 0, dAddr := bitsOf w1 44 26, inFmt := bitsOf w1 25 23, outFmt := bitsOf w1 22 20
    hist := bitOf w1 19 }

/-- A SEND from its words (R117). -/
def decodeSend (w0 w1 : Nat) : SendSt :=
  { dest := bitsOf w0 55 46, srcAddr := bitsOf w0 31 13, dstAddr := bitsOf w1 63 45, len := bitsOf w1 44 26 }

/-- Whether a LOADW's fields are valid (R88, R108, R111, R116). -/
def loadValid (b : WBlock) (cols : Nat) : Bool :=
  match weightFmt b.wfmt, pairB b.wfmt b.afmt with
  | some f, some _ =>
    decide (b.k ≤ kLimit f) && decide (b.group ≠ 0) &&
    (if b.wfmt < 4 then b.scaled else if 6 ≤ b.wfmt then !b.scaled else true) &&
    (!b.scaled || decide (b.k % b.group = 0)) && inStore (loadReads b cols)
  | _, _ => false

/-- Whether a STREAM's fields are valid against the loaded array (R109, R111 to R113). An address field that names no range is not tested (DESIGN
CHOICE, log entry 112). -/
def streamValid (loaded : Option WBlock) (x : StreamSt) : Bool :=
  decide (x.outFmt ≤ 4) && decide (1 ≤ x.inStride) && decide (1 ≤ x.outStride) &&
  (x.rows == 0 ||
    match loaded with
    | none => false
    | some b => inStore (streamReads b x) && inStore (streamWrites b x))

/-- Whether a VEC's fields are valid (R111, R117, R118); an address field that names no range is not tested (DESIGN CHOICE, log entry 112). -/
def vecValid (x : VecSt) : Bool :=
  decide (x.func ≤ 0xE) && decide (x.inFmt ≤ 4) && decide (x.outFmt ≤ 4) && inStore (vecReads x) && inStore (vecWrites x)

/-- Reads a LOADW's columns from the store: weight codes and scale-block bytes (R108, R116). -/
def readColumns (s : State) (t : Nat) (b : WBlock) (cols : Nat) : List Column :=
  let w := ((weightFmt b.wfmt).getD .fp32).width
  (List.range cols).map (fun c =>
    { weights := (List.range b.k).map (fun i => storeElem s t (b.wAddr * 64 + c * columnUnits b.k w * 64) w i)
      scales := if b.scaled then
          storeBytes s t (b.sAddr * 64 + c * 20 * superGroups b.k b.group) (20 * superGroups b.k b.group)
        else [] })

end Sys2Proof.Machine
end

