-- ==== Sys2Proof/Machine/Parts.lean ====
section
/-! DEFINITION. Kernel parts and what becomes of them: addresses under R147, tiles and their registers, the start, retry and
end of a part, substitution, retirement and fencing, the end of kernels and runs and their records (04_tile.md,
05_task_graphs.md). -/
namespace Sys2Proof.Machine

/-! ## Status codes (R180) -/

def stOK : Nat := 0x00
def stSKIPPED : Nat := 0x01
def stILLEGAL : Nat := 0x02
def stUNCORRECTABLE : Nat := 0x03
def stTILE_FAULT : Nat := 0x04
def stNO_RESOURCE : Nat := 0x05
def stTIMEOUT : Nat := 0x06
def stREFORM_ABORT : Nat := 0x07
def stCANCELLED : Nat := 0x08
def stTIER_FAIL : Nat := 0x09
def stENERGY : Nat := 0x0A
def stARM_MISMATCH : Nat := 0x0B
def stBAD_RANGE : Nat := 0x0C
def stRETIRE_LIMIT : Nat := 0x0D
def stKV_FULL : Nat := 0x0E
def stBAD_DESCRIPTOR : Nat := 0x10
def stFORMAT_PAIR : Nat := 0x11
def stSLOT_BUSY : Nat := 0x12
def stNO_STAGING : Nat := 0x13
def stNO_ARMATURE : Nat := 0x1B

/-- Completes a Computational Programs command: Success for OK, otherwise Status Code Type 7h with the code (R180). -/
def completeStatus (s : State) (tag : CmdTag) (st : Nat) : State := if st = 0 then complete s tag 0 else fail s tag 7 st 0

/-- The same for work that may have no command. -/
def completeStatusOpt (s : State) (tag : Option CmdTag) (st : Nat) : State :=
  match tag with
  | none => s
  | some t => completeStatus s t st

/-! ## Addresses (R147, R504) -/

/-- The address under R147 with selector 0xFF or 0xFD that a graph's or a run block's address names, or none where it is
undefined or reaches past its end. The weight cache is no operand (R182). -/
def resolve (s : State) (mrs a len : Nat) : Option Nat :=
  if selector a ≤ 0xFC then
    match (Sparse.get [] s.grf.sets mrs)[selector a]? with
    | none => none
    | some (base, n) => if within a + len ≤ n then some (slmAddr (base + within a)) else none
  else if selector a = 0xFD then (if within a + len ≤ modelLen s then some a else none)
  else if selector a = 0xFF then (if mappedSlm (settings s) (within a) len then some a else none)
  else none

/-- Reads at a resolved address. -/
def readAddr (s : State) (a len : Nat) : State × Option (List Byte) :=
  if selector a = 0xFD then
    match modelRegion s with
    | none => (s, none)
    | some r => (s, readRegion s r (within a) len)
  else readRange s (within a) len

/-- Writes at a resolved address: through the directory, and refused on a directory copy (R188). -/
def writeAddr (s : State) (a : Nat) (data : List Byte) : State × Bool :=
  if touchesCopy s a data.length then (s, false)
  else if selector a = 0xFD then
    match modelRegion s with
    | none => (s, false)
    | some r => (writeRegion (invalidate s a data.length) r (within a) data, true)
  else slmWrite s (within a) data

/-- `n` unspecified bytes, drawn from a fresh number (log entry 8). -/
def freeBytes (f : Nat) : Nat → List Byte
  | 0 => []
  | n + 1 => freeBytes f n ++ [Config.freeByte (f + n)]

/-- Leaves unspecified data in a range (R162, R241, R274). -/
def scramble (s : State) (a len : Nat) : State :=
  (writeAddr { s with fresh := s.fresh + len } a (freeBytes s.fresh len)).1

/-! ## Tiles -/

/-- A tile. -/
def tile (s : State) (t : Nat) : Tile := Sparse.get {} s.tiles t

/-- Stores a tile. -/
def setTile (s : State) (t : Nat) (x : Tile) : State := { s with tiles := Sparse.set {} s.tiles t x }

/-- Whether a tile is neither retired nor fenced (R48). -/
def tileLive (s : State) (t : Nat) : Bool := !s.nv.retiredTiles.contains t && !s.nv.fencedTiles.contains t

/-- A tile's role in the settings in force (R47). -/
def tileRole (s : State) (t : Nat) : Nat := if s.loader.inForce then (settings s).roles.getD t 0 else 0

/-- The tile that a part placed on a tile runs on as the table of substitutes stands: itself while it lives (R136, R139). -/
def actualTile (s : State) (t : Nat) : Nat :=
  if tileLive s t then t
  else match s.grf.subst.find? (fun x => x.1 == t && tileLive s x.2) with
    | some x => x.2
    | none => t

/-- Live tiles of a role, in ascending order. -/
def liveOfRole (s : State) (role : Nat) : List Nat :=
  (List.range 1024).filter (fun t => tileLive s t && tileRole s t == role)

/-- Whether the re-rank units form the centroid scores: no live tile is bound to re-rank assist (R254). -/
def assistFallback (s : State) : Bool := (liveOfRole s 2).isEmpty

/-- Shows in each package which of the two forms the centroid scores (R254). -/
def showAssist (s : State) : State := foldState (fun s p => setBit s (srcReg p 0) 31 (assistFallback s)) s (List.range s.build.sp)

/-- Whether a piece belongs to a part on a tile. -/
def pieceOf (r : PartRef) (t : Nat) (q : Piece) : Bool :=
  q.tile == t && q.run == r.run && q.kernel == r.kernel && q.part == r.part && q.expert == r.expert

/-- The pieces of a USE that a tile's part still lacks. -/
def lacking (s : State) (t : Nat) (p : Part) (use : Nat) : List Piece := s.mover.pieces.filter (fun q => pieceOf p.ref t q && q.use == use)

/-- The opcode at a part's program counter. -/
def opAt (s : State) (t : Nat) (p : Part) : Nat := if p.pc + 16 ≤ storeLen then bitsOf (storeNat s t p.pc 8) 63 56 else 0

/-- The pieces that the waiting instruction lacks: SYNC INPUT those of USE 2, and a LOADW at the program counter the weights. -/
def awaited (s : State) (t : Nat) (x : Tile) : List Piece :=
  match x.part with
  | none => []
  | some p =>
    if x.syncWait = some 2 then lacking s t p 2
    else if x.syncWait.isNone && !x.swapWait && x.filling.isNone && opAt s t p == 2 then lacking s t p 1
    else []

/-- Whether a queued part stands first on a tile that runs none and is not under a self-test (R159, R465). -/
def partWaits (s : State) (e : Nat × PartRef) : Bool :=
  s.host.selfTestTile != some e.1 && tileLive s e.1 && (tile s e.1).part.isNone && (tile s e.1).queue.head? == some e.2

/-- Whether the ledger withholds the part that is next in its order of admission, and with it every part behind (R430). -/
def ledgerHolds (s : State) : Bool :=
  match s.grf.admitQueue.find? (partWaits s) with
  | none => false
  | some e => (tile s e.1).withheld

/-- Whether the ledger withholds a tile's next part (R159, R430). -/
def energyStall (s : State) (t : Nat) (x : Tile) : Bool :=
  ledgerHolds s && (match x.queue.head? with | none => false | some r => partWaits s (t, r))

/-- Whether a tile's sequencer waits, as STALLED of R503 lists it. -/
def tileStalled (s : State) (t : Nat) (x : Tile) : Bool :=
  (x.part.isSome && (x.syncWait.isSome || ((x.swapWait || x.loadWait) && x.filling.isSome) || !(awaited s t x).isEmpty)) ||
  energyStall s t x

/-- TIL_STAT.STATE (R503). -/
def tileState (s : State) (t : Nat) (x : Tile) : Nat :=
  if s.nv.retiredTiles.contains t then 5
  else if s.nv.fencedTiles.contains t then 6
  else if fld s ARM_STAT 31 28 = 6 ∨ s.power.core = 6 then 7
  else if tileStalled s t x then 4
  else
    match x.ramp with
    | .up _ => 2
    | .down _ => 3
    | .gap => if x.part.isNone then 3 else 1
    | _ => if x.part.isSome then 1 else 0

/-- Shows a tile's state, kernel and busy bits in its registers (R503). -/
def showTile (s : State) (t : Nat) : State :=
  let x := tile s t
  let r := tilReg t 0
  let s := setFld s r 3 0 (tileState s t x)
  let s := setBit (setBit (setBit s r 16 x.shadow.isSome) r 17 x.stream.isSome) r 18 x.vec.isSome
  match x.part with
  | none => setBit s (tilReg t 8) 31 false
  | some p =>
    let slot := match s.grf.runs.find? (fun y => y.id == p.ref.run) with | some y => y.slot | none => 0
    setNat s (tilReg t 8) (2 ^ 31 + slot * 65536 + p.ref.kernel)

/-- Stores a tile and shows it. -/
def putTile (s : State) (t : Nat) (x : Tile) : State := showTile (setTile s t x) t

/-- Sets sticky flags of the tile's part (R97). -/
def setFlags (s : State) (t f : Nat) : State := setNat s (tilReg t 0xC) (Nat.lor (regNat s (tilReg t 0xC)) f % 256)

/-- Shows the summary of R40 and R41. -/
def showCore (s : State) : State :=
  setNat s GLB_CORE (one (!s.nv.fencedTiles.isEmpty && rbit s GLB_CORE 31) * 2 ^ 31 + s.nv.retiredTiles.length * 65536 +
    (1024 - s.nv.retiredTiles.length - s.nv.fencedTiles.length))

/-! ## The histogram (R103 to R106, R140, R141) -/

/-- Whether GEN8_EFF is 1 (R63): ARM_STAT's bit. -/
def gen8Eff (s : State) : Bool := rbit s ARM_STAT 15

/-- Counts an output element in the histogram while the window is open, or as missed while the histogram holds still (R140, R141). -/
def histCount (s : State) (t : Nat) (w : Word) : State :=
  let mode := fld s (tilReg t 0x80) 1 0
  let open_ := mode == 1 || (mode == 2 && (tile s t).windowOpen)
  let frozen := rbit s (tilReg t 0x80) 8 || rbit s (tilReg t 0x80) 4
  if !open_ then s
  else if frozen then bump s (tilReg t 0x84)
  else bump s (tilReg t (0x100 + 4 * histWord (gen8Eff s) w))

/-- Clears a tile's histogram words (R105, R141). -/
def histWordsClear (s : State) (t : Nat) : State :=
  foldState (fun s w => setNat s (tilReg t (0x100 + 4 * w)) 0) s (List.range 68)

/-- Clears a tile's histogram and its count of missed elements, as CLEAR does (R141). -/
def histClear (s : State) (t : Nat) : State := histWordsClear (setNat s (tilReg t 0x84) 0) t

/-- Closes a MODE 2 window at the END of the tile's part, and sets FROZEN (R140). -/
def histClose (s : State) (t : Nat) : State :=
  if fld s (tilReg t 0x80) 1 0 = 2 ∧ (tile s t).windowOpen then
    setBit (setTile s t { tile s t with windowOpen := false }) (tilReg t 0x80) 4 true
  else s

/-! ## The graph engine's tables -/

/-- A run. -/
def findRun (s : State) (id : Nat) : Option Run := s.grf.runs.find? (fun r => r.id == id)

/-- Changes a run. -/
def modRun (s : State) (id : Nat) (f : Run → Run) : State :=
  { s with grf := { s.grf with runs := updateWhere (fun r => r.id == id) f s.grf.runs } }

/-- Changes a kernel of a run. -/
def modKernel (s : State) (id k : Nat) (f : KernelRun → KernelRun) : State :=
  modRun s id (fun r => { r with kernels := modAt f r.kernels k })

/-- A slot's graph. -/
def graphOf (s : State) (slot : Nat) : Option Graph := Sparse.get none s.grf.slots slot

/-- A kernel of a run's graph. -/
def kernelOf (s : State) (r : Run) (k : Nat) : Option Kernel :=
  match graphOf s r.slot with
  | none => none
  | some g => g.kernels[k]?

/-- A slot's share class. -/
def classOf (s : State) (slot : Nat) : Nat := match graphOf s slot with | some g => g.cls | none => 0

/-- GRF_STAT: slots that hold a graph, and slots with a run or a step in progress. -/
def showGrf (s : State) : State :=
  let running := (s.grf.runs.map (·.slot)).eraseDups.length
  setFld (setFld s GRF_STAT 8 0 s.grf.slots.length) GRF_STAT 24 16 running

/-- GRF_SEQ_STAT (R172). -/
def showSeqs (s : State) : State :=
  setFld (setFld s GRF_SEQ_STAT 12 0 s.grf.seqs.length) GRF_SEQ_STAT 31 16 (min s.grf.seqWaiting.length 0xFFFF)

/-- Adds engine time of a part, from its dispatch to now, to its class, its run and its kernel (R163, R179). -/
def chargeTime (s : State) (r : PartRef) : State :=
  match findRun s r.run with
  | none => s
  | some run =>
    let us := (s.tb - r.at_) / 100
    let s := add64 s (GRF_CLASS_USE (classOf s run.slot)) us
    modKernel (modRun s r.run (fun x => { x with tileUs := x.tileUs + us })) r.run r.kernel
      (fun k => { k with tileUs := k.tileUs + us })

/-! ## Movement pieces (R191, R192) -/

/-- Pieces of one operand for one tile: 4 KiB each and cut where an address is a multiple of 4 KiB, so that a directory entry covers each whole
or not at all (R184, R187); at most `n`, from byte `off` of the operand. Each die's four engines share its pieces in turn (R191). -/
def pieceList (r : PartRef) (t a len use hint now : Nat) (restream : Bool) : Nat → Nat → Nat → List Piece
  | 0, _, _ => []
  | n + 1, off, id =>
    if len ≤ off then []
    else
      let l := min (4096 - (a + off) % 4096) (len - off)
      { id := id, run := r.run, kernel := r.kernel, part := r.part, tile := t, addr := a + off, len := l, offset := off
        use := use, hint := hint, restream := restream, expert := r.expert, engine := t / 128 * 4 + id % 4, at_ := now
        cause := if hint = 0 ∨ hint = 1 then 8 else if hint = 4 then 4 else if hint = 3 then 6 else 7 } ::
        pieceList r t a len use hint now restream n (off + l) (id + 1)

/-- Issues the movement of one operand to a tile. -/
def issueOperand (s : State) (r : PartRef) (t a len use hint : Nat) (restream : Bool) : State :=
  let l := pieceList r t a len use hint s.tb restream (len / 4096 + 2) 0 s.mover.nextPiece
  { s with mover := { s.mover with pieces := s.mover.pieces ++ l, nextPiece := s.mover.nextPiece + l.length } }

/-- A part's reservation on a tile. -/
def residentOf (slot : Nat) (r : PartRef) (t : Nat) (x : Resident) : Bool :=
  x.slot == slot && x.kernel == r.kernel && x.part == r.part && x.expert == r.expert && x.tile == t

/-- Whether a resident kernel's weights lie in a tile's store (R156). -/
def residentLoaded (s : State) (slot : Nat) (r : PartRef) (t : Nat) : Bool :=
  s.grf.residents.any (fun x => residentOf slot r t x && x.loaded)

/-- The expert table entry of an expert: weight address, length and hint (R169). -/
def expertEntry (s : State) (run : Run) (e : Nat) : Option (Nat × Nat × Nat) :=
  match graphOf s run.slot with
  | none => none
  | some g =>
    match g.serving with
    | none => none
    | some v =>
      match resolve s run.mrs (v.expertTable + 16 * e) 16 with
      | none => none
      | some a =>
        match (readAddr s a 16).2 with
        | none => none
        | some l => some (fieldAt l 0 8, fieldAt l 8 4, fieldAt l 12 1)

/-- Issues the movement of a part's operands of USE 1 and 2; weights that lie in the tile store move nothing (R156,
R191, R192). -/
def issuePieces (s : State) (r : PartRef) (t : Nat) : State :=
  match findRun s r.run with
  | none => s
  | some run =>
    match kernelOf s run r.kernel with
    | none => s
    | some k =>
      let held := r.moved || residentLoaded s run.slot r t
      let again := s.grf.residents.any (fun x => residentOf run.slot r t x && x.restream)
      let s := foldState (fun s o =>
        if o.use = 2 ∨ (o.use = 1 ∧ r.expert.isNone) then
          if o.use = 1 ∧ held then s
          else
            match resolve s run.mrs o.addr o.len with
            | none => s
            | some a =>
              let s := issueOperand s r t a o.len o.use o.hint (again && o.use == 1)
              if again && o.use == 1 then
                add64 (modRun s r.run (fun x => { x with restreamBytes := x.restreamBytes + o.len })) GRF_RESTREAM o.len
              else s
        else s) s k.opnds
      match (if held then none else r.expert) with
      | none => s
      | some e =>
        match expertEntry s run e with
        | none => s
        | some (a, len, hint) =>
          match resolve s run.mrs a len with
          | none => s
          | some a => issueOperand s r t a len 1 hint false

/-- Drops the pieces of a part on a tile. -/
def dropPieces (s : State) (r : PartRef) (t : Nat) : State :=
  { s with mover := { s.mover with pieces := s.mover.pieces.filter (fun p => !pieceOf r t p) } }

/-- Drops every piece of a kernel, or of a run where no kernel is named, and the experts that wait for theirs. -/
def dropMoves (s : State) (run : Nat) (k : Option Nat) : State :=
  let mine (r j : Nat) : Bool := r == run && (match k with | none => true | some n => j == n)
  { s with mover := { s.mover with pieces := s.mover.pieces.filter (fun p => !mine p.run p.kernel) }
           grf := { s.grf with farExperts := s.grf.farExperts.filter (fun e => !mine e.run e.kernel) } }

/-! ## Starting and clearing a tile's work -/

/-- The array after its STREAM stopped: it fills its gap (R126). -/
def rampStop (s : State) (t : Nat) (x : Tile) : Tile :=
  match x.ramp with
  | .up _ | .full => { x with ramp := .gap, steps := 0, gapLen := fld s (tilReg t 0x14) 27 16 }
  | _ => x

/-- A tile without a part's work: arrays empty, nothing waiting (R109). -/
def clearWork (s : State) (t : Nat) (x : Tile) : Tile :=
  rampStop s t { x with loaded := none, shadow := none, filling := none, stream := none, vec := none, sends := []
                        swapWait := false, loadWait := false, syncWait := none, refill := false }

/-- A placement entry of a part. -/
def placeOf (k : Kernel) (r : PartRef) : Placement := k.places.getD r.part { tile := 0, progUnit := 0, progAt := 0, progBytes := 0 }

/-- Closes the occurrence that a part's retries belong to: it stayed transient (R479, R485). -/
def closeOccurrence (s : State) (p : Part) : State :=
  match p.occurrence with
  | none => s
  | some r =>
    bump { s with faults := { s.faults with unsaved := s.faults.unsaved ++ [r] } } (GLB_FT_TRANS 0)

/-! ## Ends (R158, R162, R177, R179) -/

/-- Whether every kernel of a run has ended. -/
def runDone (r : Run) : Bool := r.kernels.all (fun k => decide (k.status < 254))

/-- The lowest kernel number whose status is neither OK nor SKIPPED, from kernel `i` (R179). -/
def firstFail : List KernelRun → Nat → Option (Nat × Nat)
  | [], _ => none
  | k :: t, i => if k.status = stOK ∨ k.status = stSKIPPED then firstFail t (i + 1) else some (i, k.status)

/-- A run's status: TIMEOUT or the cancel's code where the run itself was stopped, otherwise that of FIRST_FAIL (R180). -/
def runStatus (r : Run) : Nat :=
  if r.timedOut then stTIMEOUT
  else if r.cancelled ≠ 0 then r.cancelled
  else match firstFail r.kernels 0 with | none => stOK | some (_, st) => st

/-- Kernels whose predecessor ended with another status than OK end SKIPPED, in number order (R158). -/
def skipFrom (s : State) (id : Nat) : State :=
  match findRun s id with
  | none => s
  | some run =>
    foldState (fun s k =>
      match findRun s id with
      | none => s
      | some r =>
        match r.kernels[k]?, kernelOf s r k with
        | some kr, some kd =>
          if kr.status = 254 ∧ kd.preds.any (fun p => match r.kernels[p]? with
              | none => false
              | some q => decide (q.status < 254) && decide (q.status ≠ stOK)) then
            modKernel s id k (fun x => { x with status := stSKIPPED })
          else s
        | _, _ => s) s (List.range run.kernels.length)

/-- SLOWDOWN of R168. -/
def slowdown (elapsed share restream : Nat) : Nat :=
  if elapsed ≤ share + restream then 0xFFFF else min 0xFFFF (elapsed * 256 / (elapsed - share - restream))

/-- The length of a run's records: 128 bytes, and 32 for each kernel where REPORT is 1 (R179). -/
def recordsLen (g : Graph) : Nat := 128 + (if bitOf g.flags 1 then 32 * g.kernels.length else 0)

/-- The 128-byte completion record (R179). -/
def runRecord (s : State) (r : Run) : List Byte :=
  let ff := match firstFail r.kernels 0 with | none => 0xFFFF | some (i, _) => i
  let el := s.tb - r.start
  leBytes 1 (runStatus r) ++ leBytes 1 (r.kernels.foldl (fun f k => Nat.lor f k.nflags) 0) ++ leBytes 2 ff ++
  leBytes 1 r.slot ++ leBytes 1 (classOf s r.slot) ++ leBytes 2 (min r.preempts 0xFFFF) ++ leBytes 8 r.runTag ++
  leBytes 8 r.start ++ leBytes 8 el ++ leBytes 8 r.waitShare ++ leBytes 8 r.waitEnergy ++ leBytes 8 r.waitTier ++
  leBytes 8 r.restream ++ leBytes 8 r.restreamBytes ++ leBytes 8 r.tileUs ++
  leBytes 8 (sumNat (r.kernels.map (·.inNj)) / 1000) ++ leBytes 2 (slowdown el r.waitShare r.restream) ++
  leBytes 2 (r.kernels.filter (fun k => k.status == stOK)).length ++ List.replicate 36 0

/-- A kernel's 32-byte record (R179). A kernel that never ran has counted nothing, so that its fields read zero. -/
def kernelRecord (k : KernelRun) : List Byte :=
  leBytes 1 k.status ++ leBytes 1 k.nflags ++ leBytes 1 (min k.retries 255) ++ leBytes 1 (min k.subst 255) ++
  leBytes 4 (min k.first allBits) ++ leBytes 4 (min k.last allBits) ++ leBytes 4 (min k.tileUs allBits) ++
  leBytes 4 (min (k.inNj / 1000) allBits) ++ leBytes 8 k.rowSteps ++ leBytes 4 (min k.stallTier allBits)

/-- Writes a run's completion record, and its kernel records where REPORT is 1 (R179). -/
def writeRecords (s : State) (r : Run) : State :=
  match resolve s r.mrs r.recAddr 128 with
  | none => s
  | some a =>
    let s := (writeAddr s a (runRecord s r)).1
    let report := match graphOf s r.slot with | some g => bitOf g.flags 1 | none => false
    if report then (writeAddr s (a + 128) (r.kernels.foldl (fun l k => l ++ kernelRecord k) [])).1 else s

/-- Starts the next run that waits for a slot; given as the operation that starts one (R146). -/
def takeWaiting (s : State) (slot : Nat) : State × Option WaitingRun :=
  match s.grf.waiting.find? (fun w => w.slot == slot) with
  | none => (s, none)
  | some w => ({ s with grf := { s.grf with waiting := s.grf.waiting.erase w } }, some w)

/-- Adds a run of a slot's graph, started now (R146, R158, R164). -/
def beginRun (s : State) (slot mrs : Nat) (tag : Option CmdTag) (job : Option Nat) (recAddr runTag : Nat) : State :=
  match graphOf s slot with
  | none => s
  | some g =>
    let idle := !s.grf.runs.any (fun r => classOf s r.slot == g.cls)
    let others := (s.grf.runs.map (fun r => classOf s r.slot)).eraseDups
    let weight (c : Nat) : Nat := max 1 (fld s (GRF_CLASS_CTRL c) 7 0)
    let least := others.foldl (fun (m : Option Nat) c =>
      let v := nat64 s (GRF_CLASS_USE c) * weight g.cls / weight c
      match m with | none => some v | some x => some (min x v)) none
    let s := match idle, least with
      | true, some v => if nat64 s (GRF_CLASS_USE g.cls) < v then set64 s (GRF_CLASS_USE g.cls) v else s
      | _, _ => s
    let r : Run := { id := s.grf.nextRun, slot := slot, mrs := mrs, tag := tag, job := job, recAddr := recAddr, runTag := runTag
                     start := s.tb, serving := bitOf g.flags 0, kernels := List.replicate g.kernels.length {} }
    showGrf { s with grf := { s.grf with runs := s.grf.runs ++ [r], nextRun := s.grf.nextRun + 1 } }

/-- Whether every operand of a graph resolves against a memory range set (R147). -/
def operandsOk (s : State) (g : Graph) (mrs : Nat) : Bool :=
  g.kernels.all (fun k => k.opnds.all (fun o => o.use == 0 || (resolve s mrs o.addr o.len).isSome)) &&
  (match g.serving with
   | none => true
   | some v => selector v.expertTable != 0xFE && (v.expertCount == 0 || (resolve s mrs v.expertTable (16 * v.expertCount)).isSome))

/-- A run that ends with status `st` before any of its kernels is dispatched: each ends with `kst`, and the run's record says so (R147,
R179; log entry 29). -/
def endAtStart (s : State) (w : WaitingRun) (g : Graph) (st kst : Nat) : State :=
  let r : Run := { id := 0, slot := w.slot, mrs := w.mrs, tag := w.tag, recAddr := fieldAt w.block 8 8, runTag := fieldAt w.block 0 8
                   start := s.tb, kernels := List.replicate g.kernels.length { status := kst }, cancelled := st }
  completeStatusOpt (writeRecords s r) w.tag st

/-- Ends a run that waits for its slot, and that nothing lists any more. -/
def endWaiting (s : State) (w : WaitingRun) (st kst : Nat) : State :=
  match w.job, graphOf s w.slot with
  | none, some g => endAtStart s w g st kst
  | _, _ => completeStatusOpt s w.tag st

/-- Starts a run, or ends it at start with BAD_RANGE (R146, R147, R179). -/
def startRun (s : State) (w : WaitingRun) : State :=
  match graphOf s w.slot with
  | none => completeStatusOpt s w.tag stBAD_DESCRIPTOR
  | some g =>
    let rec_ := fieldAt w.block 8 8
    let bad := !operandsOk s g w.mrs || (w.job.isNone && (resolve s w.mrs rec_ (recordsLen g)).isNone)
    if bad then
      match w.job with
      | none => endAtStart s w g stBAD_RANGE stSKIPPED
      | some j => { s with scan := { s.scan with jobs := updateWhere (fun x => x.index == j) (fun x => { x with batchStatus := some stBAD_RANGE }) s.scan.jobs } }
    else beginRun s w.slot w.mrs w.tag w.job rec_ (fieldAt w.block 0 8)

/-- Starts the next run that waits for a slot where none proceeds; one that ends at start gives way to the next (R146). Only an active slot
runs (R143): a run that waits when its slot is deactivated waits for the slot's activation (DEDUCED, log entry 123). -/
def startNext : Nat → State → Nat → State
  | 0, s, _ => s
  | n + 1, s, slot =>
    if s.grf.runs.any (fun r => r.slot == slot) || !s.grf.active.contains slot then s
    else
      let w := takeWaiting s slot
      match w.2 with
      | none => s
      | some x => startNext n (startRun w.1 x) slot

/-! ### The step of a serving slot (R173, R177) -/

/-- A sequence table entry. -/
def seqAt (s : State) (i : Nat) : Seq := Sparse.get {} s.grf.seqs i

/-- Stores a sequence table entry; a free one is not listed. -/
def setSeq (s : State) (i : Nat) (q : Seq) : State :=
  showSeqs { s with grf := { s.grf with seqs := Sparse.set {} s.grf.seqs i q } }

/-- Writes the ring header of a sequence, but for TAIL (R171). -/
def writeRing (s : State) (q : Seq) : State :=
  match resolve s q.mrs q.ring (64 + 4 * q.ringLen) with
  | none => s
  | some a =>
    let st := if q.endReason = 0 then 0xFF else q.status
    let s := (writeAddr s a (leBytes 4 q.head)).1
    (writeAddr s (a + 8) (leBytes 8 q.seqTag ++ leBytes 1 st ++ leBytes 1 q.endReason ++ leBytes 2 0 ++ leBytes 4 q.gen ++
      List.replicate 40 0)).1

/-- Writes a token to its ring entry, before the HEAD that covers it (R171). -/
def writeToken (s : State) (q : Seq) (tok : Nat) : State :=
  match resolve s q.mrs (q.ring + 64 + 4 * (q.head % max q.ringLen 1)) 4 with
  | none => s
  | some a => (writeAddr s a (leBytes 4 tok)).1

/-- Whether the completion of a sequence's command can be posted at once (R470). -/
def canPost (s : State) (tag : Option CmdTag) : Bool :=
  match tag with
  | none => true
  | some t => canPostTo s t.sq

/-- Ends a sequence: its ring header, then the completion, then the entry is free; where the completion waits, the entry
stays ENDING (R177, R470). -/
def endSeq (s : State) (i st reason : Nat) : State :=
  let q := { seqAt s i with state := 5, endReason := reason, status := st }
  let s := writeRing s q
  let can := canPost s q.tag
  let s := completeStatusOpt s q.tag st
  if can then setSeq s i {} else setSeq s i { q with postWait := true }

/-- What a range holds as it can be read; nothing where it cannot. -/
def heldBytes (s : State) (mrs a len : Nat) : List Byte :=
  match resolve s mrs a len with
  | none => []
  | some x => (readAddr s x len).2.getD []

/-- A graph's model: its tile programs and the weights that its kernels name. -/
def modelBytes (s : State) (g : Graph) (mrs : Nat) : List Byte :=
  g.programs ++ g.kernels.flatMap (fun k => (k.opnds.filter (fun o => o.use == 1)).flatMap (fun o => heldBytes s mrs o.addr o.len))

/-- The place of the highest score, the lowest of equal ones: the best so far, its place, the place of the next score. -/
def bestScore : Nat → Nat → Nat → List Nat → Nat
  | _, p, _, [] => p
  | b, p, i, x :: t => if b < x then bestScore x i (i + 1) t else bestScore b p (i + 1) t

/-- The token that a sequence receives (R176): with GREEDY the one of the highest score, otherwise the one that sampling takes with the random
number of the sequence's seed and of the token's position. -/
def nextToken (s : State) (g : Graph) (q : Seq) : Nat :=
  let l := Config.scores g.armId (modelBytes s g q.mrs) q.prompt q.made
  if bitOf (q.sample / 2 ^ 48) 1 then (match l with | [] => 0 | x :: t => bestScore x 0 1 t)
  else Config.sampledToken l q.sample (Config.randomNumber q.seed (q.promptLen + q.gen)) % 2 ^ 32

/-- Whether a cancel that has come for a sequence wins over its natural end at a step's end: the mutual-exclusion element decides (R178; free,
log entry 124). -/
def cancelWins (s : State) (q : Seq) : Bool := q.cancelled && Config.freeBool s.fresh

/-- Whether a re-form ends the sequences that still run: under DRAIN 1, or once ARM_QLIMIT has expired (R77, R178). -/
def reformEnds (s : State) : Bool := decide (3 ≤ fld s ARM_STAT 31 28) && (s.loader.drain || s.loader.expiredAt.isSome)

/-- Ends a sequence at its natural end with a status and a reason, unless an Abort or a re-form ends it (R177, R178). -/
def naturalEnd (s : State) (i st reason : Nat) : State :=
  if reformEnds s then endSeq (setBit s ARM_STAT 8 true) i stREFORM_ABORT 5
  else if cancelWins s (seqAt s i) then endSeq (draw s) i stCANCELLED 3
  else endSeq (if (seqAt s i).cancelled then draw s else s) i st reason

/-- Updates a served entry after a step by its token count (R177). Where its prompt cannot be read it ends with TIER_FAIL (R180). -/
def serveEntry (s : State) (g : Graph) (slot page : Nat) (e : Nat × Nat × Nat) : State :=
  let q := seqAt s e.1
  if q.state < 2 ∨ 3 < q.state ∨ q.slot ≠ slot then s
  else
    let pos := q.pos + e.2.1
    let taken := if q.pos < q.promptLen then heldBytes s q.mrs (q.promptAt + 4 * q.pos) (4 * e.2.1) else []
    if q.pos < q.promptLen ∧ taken.length ≠ 4 * e.2.1 then endSeq s e.1 stTIER_FAIL 5
    else
      let q := { q with pos := pos, lastStep := s.grf.stepNo % 2 ^ 32, prompt := q.prompt ++ taken }
      let full := decide (q.kvPages * page ≤ pos)
      if pos < q.promptLen then
        let s := setSeq s e.1 { q with state := 2 }
        if full then naturalEnd s e.1 stKV_FULL 4 else s
      else
        let tok := nextToken s g q
        let s := writeToken s q tok
        let q := { q with state := 3, gen := q.gen + 1, head := (q.head + 1) % 2 ^ 32, made := q.made ++ [tok] }
        let s := setSeq (writeRing s q) e.1 q
        if bitOf (q.sample / 2 ^ 48) 0 ∧ tok = q.stopToken then naturalEnd s e.1 stOK 1
        else if q.maxNew ≤ q.gen then naturalEnd s e.1 stOK 2
        else if full then naturalEnd s e.1 stKV_FULL 4
        else s

/-- Ends the step of a serving slot: every entry of its work list is updated, or the sequences end with the step's status
where it failed (R177, R180). -/
def endStep (s : State) (r : Run) : State :=
  match graphOf s r.slot with
  | none => s
  | some g =>
    let list := Sparse.get [] s.grf.workLists r.slot
    let s := { s with grf := { s.grf with workLists := Sparse.set [] s.grf.workLists r.slot [], stepNo := s.grf.stepNo + 1 } }
    let page := match g.serving with | some v => v.pageTokens | none => 0
    if runStatus r = stOK then
      add64 (foldState (fun s e => serveEntry s g r.slot page e) s list) GRF_STEPS 1
    else foldState (fun s (e : Nat × Nat × Nat) => if (seqAt s e.1).state = 0 then s else endSeq s e.1 (runStatus r) 5) s list

/-! ## Batches of an EMBED (R235, R236) -/

/-- Changes a job of the scan ring. -/
def modJob (s : State) (index : Nat) (f : Job → Job) : State :=
  { s with scan := { s.scan with jobs := updateWhere (fun j => j.index == index) f s.scan.jobs } }

/-- The bytes of one slot of a batch: a length, the field cut to its room, zeros (R235). -/
def embedSlot (stride : Nat) (field : Option (List Byte)) : List Byte :=
  let f := (field.getD []).take (stride - 4)
  leBytes 4 f.length ++ f ++ List.replicate (stride - 4 - f.length) 0

/-- Fills range 0 with the next batch from the scan buffers, in ascending RID order (R235, R236). -/
def fillBatch (s : State) (j : Job) : State :=
  let rids := j.matched.take j.limit
  if rids.isEmpty then s
  else
    let fieldOf (rid : Nat) : Option (List Byte) :=
      match s.corpus.records.find? (fun r => r.region == j.region && r.rid == rid) with
      | none => none
      | some r => r.vars[j.var]?
    let fields := rids.map fieldOf
    let cut := (fields.filter (fun f => decide (j.len2 - 4 < (f.getD []).length))).length
    let bytes := fields.flatMap (embedSlot j.len2) ++ List.replicate ((j.limit - rids.length) * j.len2) 0
    let base := match (Sparse.get [] s.grf.sets j.mrs)[0]? with | none => 0 | some q => q.1
    let s := (writeAddr s (slmAddr base) bytes).1
    modJob s j.index (fun j => { j with nextBatch := rids, matched := j.matched.drop j.limit, notVisible := min (j.notVisible + cut) allBits })

/-- The run of a batch ends: with OK its vectors are taken from range 1, and range 0 takes the next batch at once (R236). -/
def endBatchRun (s : State) (r : Run) (index : Nat) : State :=
  match s.scan.jobs.find? (fun j => j.index == index) with
  | none => s
  | some j =>
    if runStatus r = stOK then
      let x := match (Sparse.get [] s.grf.sets j.mrs)[1]? with
        | none => (s, none)
        | some q => readRange s q.1 (j.batch.length * j.vecLen)
      let st := if x.2.isNone then stTIER_FAIL else stOK
      let s := modJob x.1 index (fun j => { j with output := x.2, batchStatus := some st })
      if j.cancelled ∨ st ≠ stOK then s else fillBatch s j
    else modJob s index (fun j => { j with batchStatus := some (runStatus r) })

/-- Ends a run whose kernels have all ended: the records, then the completion, then the slot's next run (R146, R179). A last
END that meets the expiry of ARM_QLIMIT after it comes late, and the run counts as unfinished (R77, R476). -/
def finishRun (s : State) (id : Nat) : State :=
  match findRun s id with
  | none => s
  | some r =>
    if runDone r then
      let late := s.loader.expiredAt == some s.tb && r.cancelled == 0
      let s := if late then setBit s ARM_STAT 8 true else s
      let r := if late then { r with cancelled := stREFORM_ABORT } else r
      let s := if r.serving then endStep s r
        else
          match r.job with
          | some j => endBatchRun s r j
          | none => completeStatusOpt (writeRecords s r) r.tag (runStatus r)
      let s := dropMoves { s with grf := { s.grf with runs := s.grf.runs.filter (fun x => x.id != id)
                                                      tokens := s.grf.tokens.filter (fun x => x.1 != id) } } id none
      showGrf (if r.serving then s else startNext s.grf.waiting.length s r.slot)
    else s

/-- The refinement of a kernel's estimate at an END with OK: f ← f + (m ÷ E − f) ÷ 4, to nearest, clamped to 0.25 to 4.0
(R432). `m` in nJ. -/
def refine (f e m : Nat) : Nat :=
  if e = 0 then 256 else min 1024 (max 64 ((3 * f * e * 1000 + m * 256 + 2 * e * 1000) / (4 * e * 1000)))

/-- Refines the factor of a kernel in its graph. -/
def refineKernel (s : State) (r : Run) (k : Nat) : State :=
  match graphOf s r.slot, kernelOf s r k, r.kernels[k]? with
  | some g, some kd, some kr =>
    let f := refine (g.factors.getD k 256) kd.energyUj kr.outNomNj
    { s with grf := { s.grf with slots := Sparse.set none s.grf.slots r.slot (some { g with factors := setAt g.factors k f }) } }
  | _, _, _ => s

/-- Expert choices of a step (R175): every expert that received tokens, with how many. The manual gives the router's choice
no format, so the counts are free values of the bytes of its outputs (log entry 14). -/
def chosenExperts (routed : List Byte) (n : Nat) : List (Nat × Nat) :=
  (List.range n).filterMap (fun e =>
    let c := Config.expertTokens routed e
    if c = 0 then none else some (e, c))

/-- The ranges of a kernel's outputs, as addresses with selector 0xFF or 0xFD (R147, R151). -/
def outputRanges (s : State) (r : Run) (k : Nat) : List (Nat × Nat) :=
  match kernelOf s r k with
  | none => []
  | some kd => kd.opnds.filterMap (fun o => if o.use = 3 then (resolve s r.mrs o.addr o.len).map (fun a => (a, o.len)) else none)

/-- What a kernel's inputs hold: its operands of USE 1, 2 and 4, and the weights of its step's experts where it serves them (R151, R175). -/
def kernelInputs (s : State) (r : Run) (kd : Kernel) : List Byte :=
  (kd.opnds.filter (fun o => o.use == 1 || o.use == 2 || o.use == 4)).flatMap (fun o => heldBytes s r.mrs o.addr o.len) ++
  (if bitOf kd.kflags 1 then
     r.experts.flatMap (fun e => match expertEntry s r e.1 with | none => [] | some x => heldBytes s r.mrs x.1 x.2.1)
   else [])

/-- The numeric settings that govern a kernel's results (R60, R161). -/
def numericOf (s : State) (kd : Kernel) : List Nat :=
  let set (v d : Nat) : Nat := if v = 0xFF then d else v
  let a := settings s
  [set kd.group a.group, set kd.outRound a.outRound, set kd.fp8Ovf a.fp8Ovf]

/-- The bytes of a kernel's outputs (R161): a function of the armature, the image, the inputs and the numeric settings, and for a serving step of
its work list, from byte `i`. -/
def outputBytes (s : State) (r : Run) (g : Graph) (k : Nat) (kd : Kernel) (ins : List Byte) (i : Nat) : Nat → List Byte
  | 0 => []
  | n + 1 =>
    Config.outputByte g.armId g.programs k (numericOf s kd) ins (if r.serving then Sparse.get [] s.grf.workLists r.slot else []) i ::
      outputBytes s r g k kd ins (i + 1) n

/-- Writes a kernel's outputs one operand after another, the first from byte `i` of the outputs. -/
def writeOutputs (s : State) (r : Run) (g : Graph) (k : Nat) (kd : Kernel) (ins : List Byte) : Nat → List (Nat × Nat) → State
  | _, [] => s
  | i, o :: t => writeOutputs (writeAddr s o.1 (outputBytes s r g k kd ins i o.2)).1 r g k kd ins (i + o.2) t

/-- Leaves a kernel's outputs as its end leaves them: what it computed where it ended OK, and otherwise unspecified data (R161, R162). -/
def leaveOutputs (s : State) (r : Run) (k st : Nat) : State :=
  let l := outputRanges s r k
  match graphOf s r.slot, kernelOf s r k, r.kernels[k]? with
  | some g, some kd, some kr => if st = stOK then writeOutputs s r g k kd kr.inputs 0 l else foldState (fun s o => scramble s o.1 o.2) s l
  | _, _, _ => s

/-- Segments of a tree that lie wholly inside a window range (R294, R295). -/
def segmentsIn (s : State) (tr : TreeRec) (lo len : Nat) : List Nat :=
  let base := nat64 s (treeReg tr.tree 0x14)
  if base < lo + len then
    (List.range tr.segCount).filterMap (fun i =>
      if lo ≤ base + i * 4096 ∧ base + i * 4096 + 4096 ≤ lo + len then some (tr.segFirst + i) else none)
  else []

/-- Starts the deadline of a segment, unless it runs already (R304). -/
def startDeadline (x : Tree) (g now : Nat) : Tree :=
  if (Sparse.get none x.starts g).isSome then x else { x with starts := Sparse.set none x.starts g (some now) }

/-- Posts start their segments' deadlines (R304), but not in DOWN, HELD or ABORTED, where they wait; a READY tree then enters ACTIVE. -/
def activateOnPost (s : State) (t : Nat) : State :=
  let x := Sparse.get {} s.fabric.trees t
  let st := fld s (treeReg t 0) 31 28
  if (st = 1 ∨ st = 2) ∧ !x.posted.isEmpty then
    let x := x.posted.foldl (fun x g => startDeadline x g s.tb) x
    setFld { s with fabric := { s.fabric with trees := Sparse.set {} s.fabric.trees t x } } (treeReg t 0) 31 28 2
  else s

/-- Enters posts of a tree, each segment once; a second post of one segment counts (R295). -/
def addPosts (s : State) (t : Nat) (segs : List Nat) : State :=
  activateOnPost (foldState (fun s g =>
    let x := Sparse.get {} s.fabric.trees t
    if x.posted.contains g then bump s FAB_DUP_POST
    else { s with fabric := { s.fabric with trees := Sparse.set {} s.fabric.trees t { x with posted := x.posted ++ [g] } } }) s segs) t

/-- The posts of a kernel that ended OK, in every tree whose AUTO_POST is 1: every segment that lies wholly inside its outputs (R295). -/
def autoPost (s : State) (r : Run) (k : Nat) : State :=
  foldState (fun s (tr : TreeRec) =>
    if rbit s (treeReg tr.tree 0x4) 9 then
      foldState (fun s (o : Nat × Nat) => addPosts s tr.tree (segmentsIn s tr (within o.1) o.2)) s
        ((outputRanges s r k).filter (fun o => selector o.1 == 0xFF))
    else s) s (settings s).trees

/-- Ends a kernel with a status: an end with OK leaves its results, refines its estimate and posts its segments, and the run goes on (R158,
R161, R162, R295, R432). Where an output lies in a directory's copy its write is refused, and the kernel ends with BAD_RANGE (R188; DEDUCED, log
entry 125). -/
def endKernel (s : State) (id k st : Nat) : State :=
  match findRun s id with
  | none => s
  | some r =>
    let st := if st = stOK ∧ (outputRanges s r k).any (fun o => touchesCopy s o.1 o.2) then stBAD_RANGE else st
    let ran := match r.kernels[k]? with | some x => decide (x.status = 255) | none => false
    let s := modKernel (dropMoves s id (some k)) id k (fun x => { x with status := st, partsLeft := 0, last := if ran then s.tb - r.start else 0 })
    let s := if ran then leaveOutputs s r k st else s
    let router : Bool := match graphOf s r.slot with | some g => (match g.serving with | some v => v.router == k | none => false) | none => false
    let count : Nat := match graphOf s r.slot with | some g => (match g.serving with | some v => v.expertCount | none => 0) | none => 0
    let s :=
      if st = stOK then
        let s := autoPost (refineKernel s r k) r k
        if r.serving ∧ router then
          let routed := (outputRanges s r k).flatMap (fun o => ((readAddr s o.1 o.2).2).getD [])
          modRun s id (fun x => { x with experts := chosenExperts routed count })
        else s
      else s
    finishRun (skipFrom s id) id

/-- Takes a part off its tile with its accounts (R163, R179). -/
def dropPart (s : State) (t : Nat) (p : Part) : State :=
  let s := chargeTime (closeOccurrence s p) p.ref
  let s := modKernel s p.ref.run p.ref.kernel (fun k =>
    { k with nflags := Nat.lor k.nflags (regNat s (tilReg t 0xC)), rowSteps := k.rowSteps + p.rowSteps })
  let s := histClose (dropPieces s p.ref t) t
  putTile s t { clearWork s t (tile s t) with part := none }

/-- Stops every unfinished part of a kernel, running or queued (R162). -/
def stopParts (s : State) (id k : Nat) : State :=
  let s := foldState (fun s (e : Nat × Tile) =>
    match e.2.part with
    | none => s
    | some p => if p.ref.run = id ∧ p.ref.kernel = k then dropPart s e.1 p else s) s s.tiles
  let mine (r : PartRef) : Bool := r.run == id && r.kernel == k
  let s := foldState (fun s (e : Nat × Tile) =>
    if e.2.queue.any mine then
      let s := foldState (fun s r => dropPieces (chargeTime s r) r e.1) s (e.2.queue.filter mine)
      putTile s e.1 { tile s e.1 with queue := (tile s e.1).queue.filter (fun r => !mine r) }
    else s) s s.tiles
  { s with grf := { s.grf with admitQueue := s.grf.admitQueue.filter (fun e => !mine e.2) } }

/-- Fails a kernel: every other part of it is stopped, and it ends with the status. -/
def failKernel (s : State) (id k st : Nat) : State := endKernel (stopParts s id k) id k st

/-- The weights of a RESIDENT kernel's part stay in the store of the tile that ran it, reserved while the slot is active (R156, R165). Those of
another expert that the same part loaded there before give way. -/
def keepResident (s : State) (r : Run) (p : PartRef) (t : Nat) : State :=
  match kernelOf s r p.kernel with
  | none => s
  | some kd =>
    if bitOf kd.kflags 0 && s.grf.active.contains r.slot then
      let held := s.grf.residents.filter (fun x => !(x.slot == r.slot && x.kernel == p.kernel && x.part == p.part))
      let mine : Resident := { slot := r.slot, kernel := p.kernel, part := p.part, expert := p.expert, tile := t }
      { s with grf := { s.grf with residents := held ++ [mine] } }
    else s

/-- The END of a tile's part with OK (R111, R158): the kernel ends with its last part. -/
def endPart (s : State) (t : Nat) : State :=
  match (tile s t).part with
  | none => s
  | some p =>
    let s := dropPart s t p
    let s := setTile s t { tile s t with endedAt := some s.tb }
    let s := modKernel s p.ref.run p.ref.kernel (fun k =>
      { k with partsLeft := k.partsLeft - 1, ended := k.ended ++ [(p.ref.expert, p.syncs0, p.syncs1)] })
    match findRun s p.ref.run with
    | none => s
    | some r =>
      let s := keepResident s r p.ref t
      match r.kernels[p.ref.kernel]? with
      | none => s
      | some k =>
        if k.partsLeft = 0 ∧ !s.grf.farExperts.any (fun e => e.run == p.ref.run && e.kernel == p.ref.kernel) then
          endKernel s p.ref.run p.ref.kernel stOK
        else s

/-- Ends a tile's part, and with it its kernel, with a failing status. -/
def failPart (s : State) (t st : Nat) : State :=
  match (tile s t).part with
  | none => s
  | some p => failKernel s p.ref.run p.ref.kernel st

/-! ## Starting a part -/

/-- The kernel's bias values, read from its operand of USE 4; none where it cannot be read (R155, R180). -/
def readBias (s : State) (run : Run) (k : Kernel) : State × Option (List Word) :=
  match if bitOf k.kflags 2 then k.opnds.find? (fun o => o.use == 4) else none with
  | none => (s, some [])
  | some o =>
    match resolve s run.mrs o.addr o.len with
    | none => (s, none)
    | some a =>
      match readAddr s a o.len with
      | (t, none) => (t, none)
      | (t, some l) => (t, some ((List.range (o.len / 4)).map (fun i => BitVec.ofNat 32 (fieldAt l (4 * i) 4))))

/-- Starts a part on a tile: its program is copied to PROG_UNIT, both arrays are empty, TIL_FLAGS is cleared, and a MODE 2 histogram window
opens (R109, R140, R152, R97). A retry starts the part anew, so that a window armed during the first attempt opens with the retry, which the
spec does not state (DESIGN CHOICE, log entry 114). Where its bias cannot be read, the kernel ends with TIER_FAIL (R180). -/
def startPart (s : State) (r : PartRef) (t attempts : Nat) (occ : Option FaultRec) : State :=
  match findRun s r.run with
  | none => s
  | some run =>
    match kernelOf s run r.kernel, graphOf s run.slot with
    | some k, some g =>
      let pl := placeOf k r
      let s := storeWrite s t (pl.progUnit * 64) ((g.programs.drop pl.progAt).take pl.progBytes)
      let set (v d : Nat) : Nat := if v = 0xFF then d else v
      let b := readBias s run k
      let s := b.1
      let x := clearWork s t (tile s t)
      let p : Part := { ref := r, pc := pl.progUnit * 64, start := pl.progUnit * 64
                        outRound := set k.outRound (settings s).outRound, fp8Ovf := set k.fp8Ovf (settings s).fp8Ovf
                        attempts := attempts, occurrence := occ, bias := b.2.getD [] }
      let s := setNat s (tilReg t 0xC) 0
      let opens := decide (fld s (tilReg t 0x80) 1 0 = 2)
      let s := putTile s t { x with part := some p, withheld := false, windowOpen := x.windowOpen || opens }
      if b.2.isSome then s else failPart s t stTIER_FAIL
    | _, _ => s

/-! ## Substitution, retirement and fencing (R23, R135 to R139) -/

/-- Whether a tile is idle for the choice of a substitute (R136). -/
def tileIdle (s : State) (t : Nat) : Bool := (tile s t).part.isNone && (tile s t).queue.isEmpty

/-- The substitute of a retired tile (R136): an idle live tile of the role on the same die, then on any die, lowest number
first, and failing those the live tile of the role with the fewest parts queued. -/
def chooseSubst (s : State) (t role : Nat) : Option Nat :=
  let live := (liveOfRole s role).filter (fun u => u != t)
  match live.find? (fun u => u / 128 == t / 128 && tileIdle s u) with
  | some u => some u
  | none =>
    match live.find? (tileIdle s) with
    | some u => some u
    | none => live.foldl (fun (m : Option Nat) u =>
        match m with
        | none => some u
        | some v => if (tile s u).queue.length < (tile s v).queue.length then some u else some v) none

/-- The tile that runs a part placed on a tile: itself while it lives, otherwise its substitute, which the table keeps
until the next re-form or start-up (R136, R139). -/
def tileFor (s : State) (t role : Nat) : State × Option Nat :=
  if tileLive s t then (s, some t)
  else
    match s.grf.subst.find? (fun x => x.1 == t && tileLive s x.2) with
    | some x => (s, some x.2)
    | none =>
      match chooseSubst s t role with
      | none => (s, none)
      | some u => ({ s with grf := { s.grf with subst := (t, u) :: s.grf.subst.filter (fun x => x.1 != t) } }, some u)

/-- Queues a part on a tile, at the end, and with the ledger (R159). -/
def queuePart (s : State) (t : Nat) (r : PartRef) : State :=
  let s := putTile s t { tile s t with queue := (tile s t).queue ++ [r] }
  issuePieces { s with grf := { s.grf with admitQueue := s.grf.admitQueue ++ [(t, r)] } } r t

/-- Sets UNDERSTRENGTH where a role's live tiles fall below its minimum (R49). -/
def checkStrength (s : State) : State :=
  let a := settings s
  if (List.range 4).any (fun i => decide ((liveOfRole s (i + 1)).length < a.mins.getD i 0)) then setBit s ARM_STAT 13 true else s

/-- Moves a retired tile's parts, the running one first, to its substitute; with no live tile of the role their kernels end
with NO_RESOURCE (R136, R138, R139). -/
def moveParts (s : State) (t role : Nat) (rs : List PartRef) : State :=
  foldState (fun s r =>
    match findRun s r.run with
    | none => s
    | some _ =>
      let x := tileFor s t role
      match x.2 with
      | none => failKernel x.1 r.run r.kernel stNO_RESOURCE
      | some u =>
        queuePart (modKernel (dropPieces x.1 r t) r.run r.kernel (fun k => { k with subst := k.subst + 1 })) u { r with moved := false }) s rs

/-- Retires a tile for a cause of R134, or fences it where 16 tiles are retired already (R23, R135, R139, R481). Where an occurrence's
retries have all failed, its one entry in the fault log is that of the fault that opened it (R479, R485). -/
def retireTile (s : State) (t cause : Nat) : State :=
  if tileLive s t then
    let x := tile s t
    let role := tileRole s t
    let fence := decide (16 ≤ s.nv.retiredTiles.length)
    let kind := if fence then 3 else 2
    let occ := match x.part with | some p => (if cause = 4 ∨ cause = 5 then none else p.occurrence) | none => none
    let rec_ := match occ with | some r => { r with kind := kind } | none => faultRec s 0 kind cause t
    let refs := (match x.part with | some p => [p.ref] | none => []) ++ x.queue
    let s := permanentFault s 0
    let s := foldState chargeTime s refs
    let s := match x.part with
      | none => s
      | some p => modKernel s p.ref.run p.ref.kernel (fun k => { k with rowSteps := k.rowSteps + p.rowSteps })
    let s := { s with tiles := Sparse.set {} s.tiles t {}
                      grf := { s.grf with admitQueue := s.grf.admitQueue.filter (fun e => e.1 != t)
                                          residents := s.grf.residents.filter (fun e => e.tile != t) } }
    let s := { s with nv := if fence then { s.nv with fencedTiles := s.nv.fencedTiles ++ [t] }
                            else { s.nv with retiredTiles := s.nv.retiredTiles ++ [t] } }
    let s := setFld (showTile (setNat s (tilReg t 0x10) 0) t) (tilReg t 0) 11 8 cause
    let s := if x.part.isNone && x.endedAt == some s.tb then bumpFld s (tilReg t 0x70) 23 16 1 else s
    let s := if fence then setBit s GLB_CORE 31 true else s
    let s := showAssist (retired (checkStrength (showCore s)) rec_)
    if fence then
      let s := foldState (fun s (r : PartRef) => failKernel s r.run r.kernel stTILE_FAULT) s refs
      if cause ≠ 5 then interrupting s 1 t else s
    else moveParts s t role (refs.map (fun r => { r with at_ := s.tb - (s.tb - r.at_) % 100 }))
  else s

/-- Runs a tile's part again from its start, with its data reloaded (R134). -/
def retryPart (s : State) (t : Nat) (p : Part) (occ : Option FaultRec) : State :=
  let s := modKernel s p.ref.run p.ref.kernel (fun k => { k with retries := k.retries + 1, rowSteps := k.rowSteps + p.rowSteps })
  let s := bumpFld s (tilReg t 0x70) 15 8 1
  let slot := match findRun s p.ref.run with | some r => r.slot | none => 0
  let ref := { p.ref with moved := false }
  let held := updateWhere (residentOf slot ref t) (fun x => { x with loaded := false }) s.grf.residents
  let s := { s with grf := { s.grf with residents := held } }
  let s := issuePieces (dropPieces s ref t) ref t
  startPart s ref t (p.attempts + 1) occ

/-- A transient fault of a tile (R134, R135): permanent by its cause, within the window or once every retry has failed;
otherwise the part it runs is retried. A fault of a retry belongs to its occurrence and counts no further (R479). -/
def tileFault (s : State) (t cause : Nat) : State :=
  if tileLive s t then
    let again := match (tile s t).part with | some p => p.occurrence.isSome && decide (cause ≠ 4) && decide (cause ≠ 5) | none => false
    let s := setFld (if again then s else bumpFld s (tilReg t 0x70) 7 0 1) (tilReg t 0) 11 8 cause
    match (tile s t).part with
    | none =>
      if cause = 4 ∨ cause = 5 ∨ withinWindow s 0 t then retireTile s t cause else transientFault s 0 cause t
    | some p =>
      if cause = 4 ∨ cause = 5 then retireTile s t cause
      else
        match p.occurrence with
        | some r => if retryOf s 0 ≤ p.attempts then retireTile s t cause else retryPart s t p (some r)
        | none =>
          if withinWindow s 0 t then retireTile s t cause
          else
            let r := faultRec s 0 1 cause t
            let a : FaultAge := { cls := 0, unit := t, at_ := s.faults.powered }
            let ages := a :: s.faults.ages.filter (fun x => !(x.cls == 0 && x.unit == t))
            retryPart { s with faults := { s.faults with ages := ages } } t { p with attempts := 0 } (some r)
  else s

/-- A double-bit error at a word that a step of a tile read (R122): counted, its address held, and the part retried; data
that a SEND delivered cannot be obtained again, so then the part ends with UNCORRECTABLE. -/
def doubleBit (s : State) (t a : Nat) : State :=
  let s := setNat (bump s (tilReg t 0x64)) (tilReg t 0x68) (2 ^ 31 + a % 2 ^ 25)
  let w := a / 8 * 8
  let s := setTile s t { tile s t with badWords := w :: (tile s t).badWords.filter (fun b => b != w) }
  match (tile s t).part with
  | none => tileFault s t 1
  | some p =>
    if p.fromSend.any (fun r => decide (r.1 ≤ a) && decide (a < r.1 + r.2)) then
      let s := interrupting (failPart s t stUNCORRECTABLE) 2 t
      tileFault s t 1
    else tileFault s t 1

end Sys2Proof.Machine
end

