-- ==== Sys2Proof/Machine/Graph.lean ====
section
/-! DEFINITION. The graph engine: the Computational Programs commands, graph images and their checks, dispatch, admission of
parts, deadlines, pre-emption and the steps of serving slots (05_task_graphs.md). -/
namespace Sys2Proof.Machine

/-! ## Admission of Computational Programs commands (R70, R76, R148) -/

/-- Whether Computational Programs commands are admitted: start-up has reached step 10 and no re-form has closed them (R76,
R444). -/
def cpOpen (s : State) : Bool := decide (10 ≤ s.power.core) && decide (fld s ARM_STAT 31 28 < 3)

/-- Whether no armature is in force (R70). -/
def noArmature (s : State) : Bool := !s.loader.inForce

/-- Runs a Computational Programs command: NO_ARMATURE in place of every other status, then Command Interrupted at closed
admission (R70, R76, R180). -/
def cpCommand (s : State) (tag : CmdTag) (go : State) : State :=
  if decide (10 ≤ s.power.core) && noArmature s then completeStatus s tag stNO_ARMATURE
  else if cpOpen s then go
  else endQuiet s tag 0 0x21 0

/-- Records the code and offset of a failed load or run block (R144, R170). OFFSET has 24 bits while an image reaches 2^26 bytes: the offset is
taken modulo 2^24 (DESIGN CHOICE, log entry 115). -/
def loadError (s : State) (code off : Nat) : State := setNat s GRF_LOAD_ERR (code % 256 * 2 ^ 24 + off % 2 ^ 24)

/-- Whether a slot holds a run in progress, or sequences whose commands are outstanding. -/
def slotBusy (s : State) (slot : Nat) : Bool :=
  s.grf.runs.any (fun r => r.slot == slot) || s.grf.seqs.any (fun e => e.2.state != 0 && e.2.slot == slot)

/-! ## The graph image (R149 to R153, R157, R169) -/

/-- Offsets of a header. -/
def gKtab (img : List Byte) : Nat := fieldAt img 0x18 4
def gPlace (img : List Byte) : Nat := fieldAt img 0x1C 4
def gPred (img : List Byte) : Nat := fieldAt img 0x20 4
def gProg (img : List Byte) : Nat := fieldAt img 0x24 4
def gServe (img : List Byte) : Nat := fieldAt img 0x2C 4

/-- The image with its CRC field taken as 0 (R149). -/
def crcZeroed (img : List Byte) (at_ : Nat) : List Byte := img.take at_ ++ List.replicate 4 0 ++ img.drop (at_ + 4)

/-- Step 1 of R157: MAGIC, FMT_VER, TOTAL_LEN and CRC, the bounds and alignment of the sections, with every kernel's share of the placement table
and of the predecessor lists, and then the reserved fields. KCOUNT, CLASS and PROG_LEN, which the rule does not place, come with the sections
(DESIGN CHOICE, log entry 108). -/
def graphHeadChecks (img : List Byte) : List Check :=
  let total := img.length
  let sec (off len : Nat) : Bool := off % 16 == 0 && decide (128 ≤ off) && decide (off + len ≤ total)
  let ent (k : Nat) : Nat := gKtab img + 128 * k
  checks stBAD_DESCRIPTOR 0 0
    ([(0, decide (128 ≤ total) && fieldAt img 0 4 == 0x474C5053), (4, fieldAt img 4 2 == 3),
      (8, fieldAt img 8 4 == total && decide (total ≤ 67108864)), (0x7C, crc32c (crcZeroed img 0x7C) == fieldAt img 0x7C 4),
      (0x0C, decide (1 ≤ fieldAt img 0x0C 2)), (0x0E, decide (fieldAt img 0x0E 1 ≤ 15)),
      (0x18, sec (gKtab img) (128 * fieldAt img 0x0C 2)), (0x1C, sec (gPlace img) 0), (0x20, sec (gPred img) 0),
      (0x24, sec (gProg img) (fieldAt img 0x28 4)), (0x28, fieldAt img 0x28 4 % 16 == 0),
      (0x2C, if bitOf (fieldAt img 6 2) 0 then sec (gServe img) 32 else gServe img == 0)] ++
     (List.range (fieldAt img 0x0C 2)).flatMap (fun k =>
       [(ent k + 8, decide (gPlace img + 16 * (fieldAt img (ent k + 8) 4 + fieldAt img (ent k + 12) 2) ≤ total)),
        (ent k + 16, decide (gPred img + 2 * (fieldAt img (ent k + 16) 4 + fieldAt img (ent k + 14) 2) ≤ total))]) ++
     [(6, decide (fieldAt img 6 2 < 4)), (0x0F, fieldAt img 0x0F 1 == 0), (0x34, fieldAt img 0x34 72 == 0)])

/-- The operand records of a kernel entry (R151). -/
def parseOpnds (img : List Byte) (e : Nat) : List Opnd :=
  (List.range 4).map (fun i =>
    let o := e + 0x40 + 16 * i
    { addr := fieldAt img o 8, len := fieldAt img (o + 8) 4, use := fieldAt img (o + 12) 1, hint := fieldAt img (o + 13) 1 })

/-- The offset of a placement entry. -/
def placeAt (img : List Byte) (e i : Nat) : Nat := gPlace img + 16 * (fieldAt img (e + 8) 4 + i)

/-- The placement entries of a kernel (R152). -/
def parsePlaces (img : List Byte) (e : Nat) : List Placement :=
  (List.range (fieldAt img (e + 12) 2)).map (fun i =>
    let o := placeAt img e i
    { tile := fieldAt img o 2, progUnit := fieldAt img (o + 4) 4, progAt := fieldAt img (o + 8) 4, progBytes := fieldAt img (o + 12) 4 })

/-- The predecessors of a kernel (R153). -/
def parsePreds (img : List Byte) (e : Nat) : List Nat :=
  (List.range (fieldAt img (e + 14) 2)).map (fun i => fieldAt img (gPred img + 2 * (fieldAt img (e + 16) 4 + i)) 2)

/-- A kernel of an image (R150). -/
def parseKernel (img : List Byte) (k : Nat) : Kernel :=
  let e := gKtab img + 128 * k
  { role := fieldAt img e 1, kflags := fieldAt img (e + 1) 1, wfmt := fieldAt img (e + 2) 1, afmt := fieldAt img (e + 3) 1
    group := fieldAt img (e + 4) 1, outRound := fieldAt img (e + 5) 1, fp8Ovf := fieldAt img (e + 6) 1
    prefetch := fieldAt img (e + 7) 1, places := parsePlaces img e, preds := parsePreds img e
    energyUj := fieldAt img (e + 0x14) 4, steps := fieldAt img (e + 0x18) 4, deadline := fieldAt img (e + 0x1C) 4
    opnds := parseOpnds img e }

/-- Whether a placed tile serves a kernel's role; a retired or fenced tile's role byte has no effect (R48, R157). -/
def placedRole (s : State) (tile role : Nat) : Bool := !tileLive s tile || tileRole s tile == role

/-- Step 3 of R157 for one kernel. -/
def kernelChecks (s : State) (img : List Byte) (k : Nat) : List Check :=
  let e := gKtab img + 128 * k
  let f (o n : Nat) : Nat := fieldAt img (e + o) n
  let tri (v : Nat) (hi : Nat) : Bool := decide (v ≤ hi) || v == 0xFF
  let parts := f 12 2
  let ops := parseOpnds img e
  { holds := (f 2 1 == 0xFF && f 3 1 == 0xFF) || (pairB (f 2 1) (f 3 1)).isSome, cause := stFORMAT_PAIR, sec := 0, off := e + 2 } ::
  checks stBAD_DESCRIPTOR 0 e
    ([(0, inRange (f 0 1) 1 4), (1, decide (f 1 1 < 8)), (4, tri (f 4 1) 2), (5, tri (f 5 1) 1), (6, tri (f 6 1) 1),
      (7, decide (f 7 1 ≤ 15)), (12, inRange parts 1 1024), (14, decide (f 14 2 ≤ 4095)), (0x20, f 0x20 32 == 0)] ++
     (List.range 4).flatMap (fun i =>
      let o := 0x40 + 16 * i
      [(o + 12, decide (f (o + 12) 1 ≤ 4)), (o + 13, decide (f (o + 13) 1 ≤ 4)), (o + 14, f (o + 14) 2 == 0)]) ++
     [(1, !bitOf (f 1 1) 2 || (ops.filter (fun o => o.use == 4)).length == 1)]) ++
  (List.range parts).flatMap (fun i =>
    let o := placeAt img e i
    let g (d n : Nat) : Nat := fieldAt img (o + d) n
    checks stBAD_DESCRIPTOR 0 o
      [(0, decide (g 0 2 ≤ 1023) && placedRole s (g 0 2) (f 0 1) && !(List.range i).any (fun j => fieldAt img (placeAt img e j) 2 == g 0 2)),
       (2, g 2 2 == 0), (4, decide (g 4 4 ≤ 491519)), (8, decide (g 8 4 + g 12 4 ≤ fieldAt img 0x28 4)),
       (12, g 12 4 % 16 == 0 && decide (g 4 4 * 64 + g 12 4 ≤ storeLen))])

/-- Step 4 of R157 for one kernel (R153). -/
def predChecks (img : List Byte) (k : Nat) : List Check :=
  let e := gKtab img + 128 * k
  let n := fieldAt img (e + 14) 2
  let at_ (i : Nat) : Nat := gPred img + 2 * (fieldAt img (e + 16) 4 + i)
  (List.range n).map (fun i => { holds := decide (fieldAt img (at_ i) 2 < k), cause := stBAD_DESCRIPTOR, sec := 0, off := at_ i })

/-- Step 5 of R157 (R169). -/
def serveChecks (img : List Byte) : List Check :=
  let o := gServe img
  let f (d n : Nat) : Nat := fieldAt img (o + d) n
  if bitOf (fieldAt img 6 2) 0 then
    checks stBAD_DESCRIPTOR 0 o
      [(0, inRange (f 0 2) 1 16384), (2, inRange (f 2 2) 1 (f 0 2)), (4, inRange (f 4 2) 16 1024 && 2 ^ Nat.log2 (f 4 2) == f 4 2),
       (6, decide (f 6 2 < fieldAt img 0x0C 2)), (8, decide (f 8 4 ≤ 1048576)), (12, f 12 4 == 0), (0x18, f 0x18 8 == 0)]
  else []

/-- Bytes of descriptor staging that the other slots hold (R145). -/
def stagedBytes (s : State) (slot : Nat) : Nat :=
  sumNat (s.grf.slots.map (fun e => if e.1 = slot then 0 else match e.2 with | none => 0 | some g => g.len))

/-- Every check of R157 in order. -/
def graphFailure (s : State) (slot : Nat) (img : List Byte) : Option Check :=
  match firstFailure (graphHeadChecks img) with
  | some c => some c
  | none =>
    let ks := List.range (fieldAt img 0x0C 2)
    firstFailure
      ({ holds := fieldAt img 0x10 8 == (settings s).armId, cause := stARM_MISMATCH, sec := 0, off := 0x10 } ::
       (ks.flatMap (kernelChecks s img) ++ ks.flatMap (predChecks img) ++ serveChecks img ++
        [{ holds := decide (stagedBytes s slot + img.length ≤ 2147483648), cause := stNO_STAGING, sec := 0, off := 0 }]))

/-- The graph of an image that passes. -/
def parseGraph (img : List Byte) : Graph :=
  let n := fieldAt img 0x0C 2
  let o := gServe img
  { flags := fieldAt img 6 2, cls := fieldAt img 0x0E 1, armId := fieldAt img 0x10 8, deadline := fieldAt img 0x30 4
    len := img.length, kernels := (List.range n).map (parseKernel img)
    programs := (img.drop (gProg img)).take (fieldAt img 0x28 4)
    serving := if bitOf (fieldAt img 6 2) 0 then
        some { maxTokens := fieldAt img o 2, prefillChunk := fieldAt img (o + 2) 2, pageTokens := fieldAt img (o + 4) 2
               router := fieldAt img (o + 6) 2, expertCount := fieldAt img (o + 8) 4, expertTable := fieldAt img (o + 0x10) 8 }
      else none
    factors := List.replicate n 256 }

/-- Drops the reservations of a slot (R165). -/
def dropResidents (s : State) (slot : Nat) : State :=
  { s with grf := { s.grf with residents := s.grf.residents.filter (fun x => x.slot != slot) } }

/-- Fails a load: the code and offset go to GRF_LOAD_ERR, and the slot keeps its graph (R144). -/
def loadFails (s : State) (tag : CmdTag) (code off : Nat) : State := completeStatus (loadError s code off) tag code

/-- Load Program (R144, R145, R148). A load that fails for want of an armature, for its slot, for its staging space or for the retirement limit
names no byte: the offset is 0 (DESIGN CHOICE, log entry 116). -/
def loadProgramEff (s : State) (tag : CmdTag) (slot : Nat) (img : List Byte) : State :=
  if decide (10 ≤ s.power.core) && noArmature s then loadFails s tag stNO_ARMATURE 0
  else cpCommand s tag
    (if 256 ≤ slot then fail s tag 0 2 1
     else if rbit s GLB_CORE 31 then loadFails s tag stRETIRE_LIMIT 0
     else if s.grf.active.contains slot || slotBusy s slot then loadFails s tag stSLOT_BUSY 0
     else if img.isEmpty then
       complete (showGrf (dropResidents { s with grf := { s.grf with slots := Sparse.set none s.grf.slots slot none } } slot)) tag 0
     else
       match graphFailure s slot img with
       | some c => loadFails s tag c.cause c.off
       | none =>
         complete (showGrf (dropResidents
           { s with grf := { s.grf with slots := Sparse.set none s.grf.slots slot (some (parseGraph img)) } } slot)) tag 0)

/-- LOAD_PROGRAM (R144). -/
def execLoadProgram (tag : CmdTag) (slot : Nat) (image : List Byte) (s : State) : Host.Outcome State Fault Refusal :=
  ok (Sys2Proof.wellFormed (.loadProgram tag slot image)) (loadProgramEff s tag slot image)

/-- Runs a Computational Programs command that no other rule holds: at the retirement limit it ends with RETIRE_LIMIT (R23). -/
def unlimited (s : State) (tag : CmdTag) (go : State) : State := if rbit s GLB_CORE 31 then completeStatus s tag stRETIRE_LIMIT else go

/-- Activates or deactivates a slot; deactivation ends its reservations, and on activation a run that waits starts (R143, R165). -/
def activationEff (s : State) (tag : CmdTag) (slot : Nat) (activate : Bool) : State :=
  cpCommand s tag (unlimited s tag
    (match graphOf s slot with
     | none => fail s tag 0 2 1
     | some _ =>
       let others := s.grf.active.filter (fun x => x != slot)
       if activate then
         startNext s.grf.waiting.length (complete { s with grf := { s.grf with active := slot :: others } } tag 0) slot
       else complete (dropResidents { s with grf := { s.grf with active := others } } slot) tag 0))

/-- PROGRAM_ACTIVATION_MANAGEMENT (R143). -/
def execProgramActivationManagement (tag : CmdTag) (slot : Nat) (activate : Bool) (s : State) :
    Host.Outcome State Fault Refusal :=
  ok (Sys2Proof.wellFormed (.programActivationManagement tag slot activate)) (activationEff s tag slot activate)

/-- Defines a memory range set, or deletes it where it has no range; its addresses take selector 0xFF (R143, R402, R504). -/
def rangeSetEff (s : State) (tag : CmdTag) (id : Nat) (ranges : List (Nat × Nat)) : State :=
  cpCommand s tag (unlimited s tag
    (if 255 < ranges.length ∨ (256 ≤ s.grf.sets.length ∧ Sparse.get [] s.grf.sets id = [] ∧ ranges ≠ []) then fail s tag 0 2 1
     else if ranges.any (fun r => selector r.1 != 0xFF || !mappedSlm (settings s) (within r.1) r.2) then fail s tag 0 0x80 1
     else complete { s with grf := { s.grf with sets := Sparse.set [] s.grf.sets id (ranges.map (fun r => (within r.1, r.2))) } } tag 0))

/-- MEMORY_RANGE_SET_MANAGEMENT (R143). -/
def execMemoryRangeSetManagement (tag : CmdTag) (id : Nat) (ranges : List (Nat × Nat)) (s : State) :
    Host.Outcome State Fault Refusal :=
  ok (Sys2Proof.wellFormed (.memoryRangeSetManagement tag id ranges)) (rangeSetEff s tag id ranges)

/-! ## Execute Program (R146, R170, R172, R179) -/

/-- Checks of a run block of a slot that does not serve (R179). -/
def runBlockChecks (b : List Byte) : List Check :=
  checks stBAD_DESCRIPTOR 0 0 [(0, b.length == 64), (8, fieldAt b 8 8 % 64 == 0), (0x10, fieldAt b 0x10 48 == 0)]

/-- Checks of a run block that admits a sequence (R170). -/
def seqBlockChecks (b : List Byte) : List Check :=
  let f (o n : Nat) : Nat := fieldAt b o n
  checks stBAD_DESCRIPTOR 0 0
    [(0, b.length == 64), (0x10, inRange (f 0x10 4) 1 0x7FFFFFFF), (0x14, inRange (f 0x14 4) 1 0x7FFFFFFF),
     (0x1C, decide (f 0x1C 2 < 4)),
     (0x20, bitOf (f 0x1C 2) 1 || (decide (1 ≤ f 0x20 2) && decide (f 0x20 2 < 0x7F80))),
     (0x22, inRange (f 0x22 2) 1 0x3F80),
     (0x24, inRange (f 0x24 4) 16 65536 && 2 ^ Nat.log2 (f 0x24 4) == f 0x24 4), (0x28, f 0x28 8 % 64 == 0)]

/-- The sequence that a run block names (R170, R172). -/
def seqOfBlock (s : State) (w : WaitingRun) (pages : Nat) : Seq :=
  let f (o n : Nat) : Nat := fieldAt w.block o n
  { state := 1, slot := w.slot, cls := classOf s w.slot, order := s.grf.nextOrder, seqTag := f 0 8, promptAt := f 8 8
    promptLen := f 0x10 4, maxNew := f 0x14 4, kvPages := pages, stopToken := f 0x18 4, seed := f 0x38 8
    sample := f 0x20 2 + 2 ^ 16 * f 0x22 2 + 2 ^ 32 * f 0x1E 2 + 2 ^ 48 * f 0x1C 2
    tag := w.tag, ring := f 0x28 8, ringLen := f 0x24 4, mrs := w.mrs }

/-- The lowest free entry of the sequence table (R172). -/
def freeSeq (s : State) : Option Nat := (List.range 4096).find? (fun i => (seqAt s i).state == 0)

/-- Whether the addresses of a sequence's run block resolve (R147, R170). -/
def seqAddrsOk (s : State) (w : WaitingRun) : Bool :=
  let f (o n : Nat) : Nat := fieldAt w.block o n
  (resolve s w.mrs (f 8 8) (4 * f 0x10 4)).isSome && (resolve s w.mrs (f 0x28 8) (64 + 4 * f 0x24 4)).isSome &&
  (resolve s w.mrs (f 0x30 8) 4).isSome

/-- Takes a free entry for an admission, and writes its ring header; KV_PAGES is read from KV_TABLE (R171, R172). -/
def takeSeq (s : State) (i : Nat) (w : WaitingRun) : State :=
  match graphOf s w.slot with
  | none => completeStatusOpt s w.tag stBAD_DESCRIPTOR
  | some g =>
    if operandsOk s g w.mrs && seqAddrsOk s w then
      match resolve s w.mrs (fieldAt w.block 0x30 8) 4 with
      | none => completeStatusOpt s w.tag stBAD_RANGE
      | some a =>
        match readAddr s a 4 with
        | (s, none) => completeStatusOpt s w.tag stTIER_FAIL
        | (s, some l) =>
          let pages := leNat l
          if (resolve s w.mrs (fieldAt w.block 0x30 8) (4 + 8 * pages)).isSome then
            let q := seqOfBlock s w pages
            let s := { s with grf := { s.grf with nextOrder := s.grf.nextOrder + 1 } }
            setSeq (writeRing s q) i q
          else completeStatusOpt s w.tag stBAD_RANGE
    else completeStatusOpt s w.tag stBAD_RANGE

/-- Admits a sequence, or lets it wait for an entry (R172). -/
def admitSeq (s : State) (w : WaitingRun) : State :=
  match freeSeq s, s.grf.seqWaiting with
  | some i, [] => takeSeq s i w
  | _, _ => showSeqs { s with grf := { s.grf with seqWaiting := s.grf.seqWaiting ++ [w] } }

/-- Execute Program (R146, R148). -/
def executeProgramEff (s : State) (tag : CmdTag) (slot mrs : Nat) (block : List Byte) : State :=
  cpCommand s tag
    (match graphOf s slot with
     | none => fail s tag 0 2 1
     | some g =>
       if rbit s GLB_CORE 31 then completeStatus s tag stRETIRE_LIMIT
       else if !s.grf.active.contains slot then fail s tag 0 2 1
       else if g.armId ≠ (settings s).armId then completeStatus s tag stARM_MISMATCH
       else
         let serving := bitOf g.flags 0
         match firstFailure (if serving then seqBlockChecks block else runBlockChecks block) with
         | some c => completeStatus (loadError s c.cause c.off) tag c.cause
         | none =>
           let w : WaitingRun := { tag := some tag, job := none, slot := slot, mrs := mrs, block := block }
           if serving then admitSeq s w
           else if s.grf.runs.any (fun r => r.slot == slot) || s.grf.waiting.any (fun x => x.slot == slot) then
             { s with grf := { s.grf with waiting := s.grf.waiting ++ [w] } }
           else startRun s w)

/-- EXECUTE_PROGRAM (R146). -/
def execExecuteProgram (tag : CmdTag) (slot mrs : Nat) (block : List Byte) (s : State) : Host.Outcome State Fault Refusal :=
  ok (Sys2Proof.wellFormed (.executeProgram tag slot mrs block)) (executeProgramEff s tag slot mrs block)

/-! ## Dispatch (R158 to R160, R163, R165, R175) -/

/-- Whether a re-form's quiesce has stopped dispatch (R77). -/
def dispatchStopped (s : State) : Bool := decide (3 ≤ fld s ARM_STAT 31 28) && s.loader.drain

/-- Whether a kernel of a run is ready: it waits, and every predecessor ended OK (R158). -/
def kernelReady (r : Run) (kd : Kernel) (kr : KernelRun) : Bool :=
  kr.status == 254 && kd.preds.all (fun p => match r.kernels[p]? with | none => false | some q => q.status == stOK)

/-- The instructions of a tile program, each as its two words (R110). -/
def instrsOf : Nat → List Byte → List (Nat × Nat)
  | 0, _ => []
  | n + 1, l => (fieldAt l 0 8, fieldAt l 8 8) :: instrsOf n (l.drop 16)

/-- What a walk over a tile program has met: the block in the shadow and the one in the array, and the ranges that its instructions name, those of
its LOADWs apart. -/
structure Walk where
  shadow : Option WBlock := none
  loaded : Option WBlock := none
  weights : List Range := []
  others : List Range := []

/-- One instruction of a walk: a program has no branches, so that its instructions meet the arrays in order (R109 to R112, R116, R117). -/
def walkStep (x : Walk) (w : Nat × Nat) : Walk :=
  let op := bitsOf w.1 63 56
  if op = 1 then
    match x.loaded with
    | none => x
    | some b => { x with others := x.others ++ streamReads b (decodeStream w.1 w.2) ++ streamWrites b (decodeStream w.1 w.2) }
  else if op = 2 then
    let l := decodeLoad w.1 w.2
    { x with shadow := some { l.1 with columns := List.replicate l.2 { weights := [], scales := [] } }
             weights := x.weights ++ loadReads l.1 l.2 }
  else if op = 3 then { x with loaded := x.shadow, shadow := none }
  else if op = 4 then { x with others := x.others ++ vecReads (decodeVec w.1 w.2) ++ vecWrites (decodeVec w.1 w.2) }
  else if op = 5 then { x with others := x.others ++ sendReads (decodeSend w.1 w.2) }
  else x

/-- The program of a kernel's part in its graph's image (R152). -/
def partProgram (g : Graph) (pl : Placement) : List (Nat × Nat) :=
  instrsOf (pl.progBytes / 16) ((g.programs.drop pl.progAt).take pl.progBytes)

/-- The walk over a part's program. -/
def partWalk (g : Graph) (pl : Placement) : Walk := (partProgram g pl).foldl walkStep {}

/-- The store ranges that a kernel's part uses on its tile: its program, what its instructions name, and what the SENDs of the other parts
deliver there (R110, R117, R165). -/
def partRanges (g : Graph) (kd : Kernel) (pl : Placement) : List Range :=
  let x := partWalk g pl
  { lo := pl.progUnit * 64, len := pl.progBytes } :: (x.weights ++ x.others ++
    kd.places.flatMap (fun q => (partProgram g q).filterMap (fun w =>
      let v := decodeSend w.1 w.2
      if bitsOf w.1 63 56 = 5 ∧ v.dest = pl.tile then some { lo := v.dstAddr * 64, len := v.len * 64 } else none)))

/-- The store ranges that a reservation holds: those of its part's weights (R165). -/
def reservedRanges (s : State) (x : Resident) : List Range :=
  match graphOf s x.slot with
  | none => []
  | some g =>
    match g.kernels[x.kernel]? with
    | none => []
    | some kd => match kd.places[x.part]? with | none => [] | some pl => (partWalk g pl).weights

/-- The reservations of other slots that a kernel's parts would overlap on the tiles that they run on (R136, R165). -/
def blockers (s : State) (slot : Nat) (kd : Kernel) : List Resident :=
  match graphOf s slot with
  | none => []
  | some g =>
    s.grf.residents.filter (fun x => x.loaded && x.slot != slot &&
      kd.places.any (fun p => actualTile s p.tile == x.tile && clashes (partRanges g kd p) (reservedRanges s x)))

/-- The ready kernels of a run, lowest number first. -/
def readyKernels (s : State) (r : Run) : List Nat :=
  (List.range r.kernels.length).filter (fun k =>
    match kernelOf s r k, r.kernels[k]? with
    | some kd, some kr => kernelReady r kd kr
    | _, _ => false)

/-- The key of a kernel of a run. -/
def kernelKey (run k : Nat) : Nat := run * 65536 + k

/-- A ready kernel of a run with the reservations that block it. -/
def blockedOf (s : State) (r : Run) : List (Nat × List Resident) :=
  (readyKernels s r).filterMap (fun k => match kernelOf s r k with
    | none => none
    | some kd => match blockers s r.slot kd with | [] => none | l => some (k, l))

/-- The kernels that have waited on reserved ranges for as long as their class allows, each with its run and what blocks it (R166). -/
def longWaiting (s : State) : List (Run × Nat × List Resident) :=
  s.grf.runs.flatMap (fun r =>
    let limit := regNat s (GRF_CLASS_WAIT (classOf s r.slot))
    (blockedOf s r).filterMap (fun x =>
      if limit ≠ 0 ∧ limit ≤ Sparse.get 0 s.grf.kernelWait (kernelKey r.id x.1) then some (r, x.1, x.2) else none))

/-- The kernels that have waited long enough on reservations of a slot which a kernel of that slot would run on. -/
def metBy (s : State) (slot : Nat) (kd : Kernel) : List (Nat × Nat) :=
  (longWaiting s).filterMap (fun x =>
    if x.2.2.any (fun b => b.slot == slot && kd.places.any (fun p => actualTile s p.tile == b.tile)) then some (x.1.id, x.2.1) else none)

/-- Whether a holder's kernel stands behind a waiting kernel that its slot has gone before already: the token makes that kernel the next (R167). -/
def standsBehind (s : State) (slot : Nat) (kd : Kernel) : Bool := (metBy s slot kd).any (fun x => s.grf.tokens.contains x)

/-- The first ready kernel of a run that no reservation blocks and that stands behind no other. -/
def dispatchable (s : State) (r : Run) : Option Nat :=
  (readyKernels s r).find? (fun k => match kernelOf s r k with
    | none => false
    | some kd => (blockers s r.slot kd).isEmpty && !standsBehind s r.slot kd)

/-- USE and weight of a slot's class. -/
def shareOf (s : State) (slot : Nat) : Nat × Nat :=
  let c := classOf s slot
  (nat64 s (GRF_CLASS_USE c), max 1 (fld s (GRF_CLASS_CTRL c) 7 0))

/-- Whether one run goes before another: lower USE ÷ weight, then lower class, then lower slot (R160, R163). -/
def runBefore (s : State) (a b : Run) : Bool :=
  let x := shareOf s a.slot
  let y := shareOf s b.slot
  decide (x.1 * y.2 < y.1 * x.2) ||
  (x.1 * y.2 == y.1 * x.2 && (decide (classOf s a.slot < classOf s b.slot) ||
    (classOf s a.slot == classOf s b.slot && decide (a.slot < b.slot))))

/-- The run whose kernel is dispatched next. -/
def nextRun (s : State) : Option (Run × Nat) :=
  s.grf.runs.foldl (fun m r =>
    match dispatchable s r with
    | none => m
    | some k => match m with
      | none => some (r, k)
      | some b => if runBefore s r b.1 then some (r, k) else m) none

/-- Whether an expert's weights lie in the tile stores of a kernel's parts, or in the stacks, where the directory stands for its home (R175, R187). -/
def expertNear (s : State) (r : Run) (k : Nat) (kd : Kernel) (e : Nat) : Bool :=
  (List.range kd.places.length).all (fun i => match kd.places[i]? with
    | none => true
    | some pl => residentLoaded s r.slot { run := r.id, kernel := k, part := i, expert := some e } (actualTile s pl.tile)) ||
  (match expertEntry s r e with
   | none => false
   | some x =>
     match resolve s r.mrs x.1 x.2.1 with
     | none => false
     | some a => tierOf (match coverOf s a x.2.1 with | some c => c.copy | none => a) == 2)

/-- Whether an expert's table entry can be read and its weights resolve (R147, R180). -/
def expertReadable (s : State) (r : Run) (e : Nat) : Bool :=
  match expertEntry s r e with
  | none => false
  | some x => (resolve s r.mrs x.1 x.2.1).isSome

/-- The reference of one part of a dispatch. -/
def refOf (s : State) (r : Run) (k i : Nat) (expert : Option (Nat × Nat)) : PartRef :=
  { run := r.id, kernel := k, part := i, expert := expert.map (·.1), tokens := match expert with | none => 0 | some e => e.2, at_ := s.tb }

/-- Queues the parts of one dispatch of a kernel, on the placed tiles or their substitutes (R136, R159). `moved` names the tiles to which the
weights of the parts, by number, have been sent already. -/
def queueParts (s : State) (r : Run) (k : Nat) (kd : Kernel) (expert : Option (Nat × Nat)) (moved : List (Nat × Nat)) : State :=
  foldState (fun s i =>
    match kd.places[i]? with
    | none => s
    | some pl =>
      let x := tileFor s pl.tile kd.role
      match x.2 with
      | none => x.1
      | some u =>
        let s := modKernel x.1 r.id k (fun y => { y with subst := y.subst + one (u != pl.tile), partsLeft := y.partsLeft + 1 })
        queuePart s u { refOf s r k i expert with moved := moved.contains (i, u) }) s (List.range kd.places.length)

/-- Sends for the weights of a part's operands of USE 1, or of its expert, before the part is queued (R175, R191). -/
def sendAhead (s : State) (r : Run) (k i u : Nat) (kd : Kernel) (expert : Option (Nat × Nat)) : State :=
  let ref := refOf s r k i expert
  if residentLoaded s r.slot ref u then s
  else
    match expert with
    | none => foldState (fun s o =>
        if o.use = 1 then (match resolve s r.mrs o.addr o.len with | none => s | some a => issueOperand s ref u a o.len 1 o.hint false) else s) s kd.opnds
    | some e =>
      match expertEntry s r e.1 with
      | none => s
      | some x => match resolve s r.mrs x.1 x.2.1 with | none => s | some a => issueOperand s ref u a x.2.1 1 x.2.2 false

/-- Sends for the weights of a kernel's parts before their dispatch: the parts with the tiles that the weights go to (R136, R191). -/
def sendAllAhead (s : State) (r : Run) (k : Nat) (kd : Kernel) (expert : Option (Nat × Nat)) : State × List (Nat × Nat) :=
  (List.range kd.places.length).foldl (fun (x : State × List (Nat × Nat)) i =>
    match kd.places[i]? with
    | none => x
    | some pl =>
      let y := tileFor x.1 pl.tile kd.role
      match y.2 with
      | none => (y.1, x.2)
      | some u => (sendAhead y.1 r k i u kd expert, x.2 ++ [(i, u)])) (s, [])

/-- Once kernel `k` is dispatched, the movement of the weights of the kernels that follow it by up to their PREFETCH begins (R150, R191). Their
inputs, which a predecessor may still write, move at their own dispatch (DESIGN CHOICE, log entry 126). -/
def prefetchAfter (s : State) (r : Run) (k : Nat) : State :=
  foldState (fun s d =>
    let j := k + 1 + d
    match kernelOf s r j, r.kernels[j]? with
    | some kd, some kr =>
      if d < kd.prefetch ∧ kr.status = 254 ∧ kr.moved.isEmpty ∧ !(r.serving && bitOf kd.kflags 1) then
        let x := sendAllAhead s r j kd none
        modKernel x.1 r.id j (fun y => { y with moved := x.2 })
      else s
    | _, _ => s) s (List.range 15)

/-- Queues the far experts of whose weights no piece is outstanding, in ascending expert number (R175). -/
def queueFar (s : State) : State :=
  let due := s.grf.farExperts.filter (fun e =>
    !s.mover.pieces.any (fun q => q.run == e.run && q.kernel == e.kernel && q.expert == some e.expert && q.use == 1))
  foldState (fun s (e : FarExpert) =>
    match findRun s e.run with
    | none => s
    | some r =>
      match kernelOf s r e.kernel with
      | none => s
      | some kd =>
        queueParts { s with grf := { s.grf with farExperts := s.grf.farExperts.filter (fun x => x != e) } } r e.kernel kd
          (some (e.expert, e.tokens)) ((List.range e.tiles.length).zip e.tiles)) s (due.mergeSort (fun a b => decide (a.expert ≤ b.expert)))

/-- Dispatches an EXPERT kernel once for every expert that received tokens: those near at once, the others as their weights arrive (R175). -/
def dispatchExperts (s : State) (r : Run) (k : Nat) (kd : Kernel) : State :=
  let near := r.experts.filter (fun e => expertNear s r k kd e.1)
  let far := r.experts.filter (fun e => !expertNear s r k kd e.1)
  let s := foldState (fun s e => queueParts s r k kd (some e) []) s near
  queueFar (foldState (fun s (e : Nat × Nat) =>
    let x := sendAllAhead s r k kd (some e)
    { x.1 with grf := { x.1.grf with farExperts := x.1.grf.farExperts ++
        [{ run := r.id, kernel := k, expert := e.1, tokens := e.2, tiles := x.2.map (·.2) }] } }) s far)

/-- Notes the waiting kernels that a holder's kernel goes before, and forgets the one that is dispatched (R167). -/
def passToken (s : State) (r : Run) (k : Nat) (kd : Kernel) : State :=
  { s with grf := { s.grf with tokens := (s.grf.tokens ++ metBy s r.slot kd).eraseDups.filter (fun x => x != (r.id, k))
                               kernelWait := Sparse.set 0 s.grf.kernelWait (kernelKey r.id k) 0 } }

/-- Dispatches a kernel, or ends it before any part starts: NO_RESOURCE, TILE_FAULT or ENERGY (R139, R159, R431). -/
def dispatchKernel (s : State) (r : Run) (k : Nat) : State :=
  match kernelOf s r k, graphOf s r.slot with
  | some kd, some g =>
    if (liveOfRole s kd.role).isEmpty then endKernel s r.id k stNO_RESOURCE
    else if kd.places.any (fun p => s.nv.fencedTiles.contains p.tile) then endKernel s r.id k stTILE_FAULT
    else if kd.places.any (fun p => !everFits s kd (g.factors.getD k 256) ((tileFor s p.tile kd.role).2.getD p.tile)) then
      endKernel (setBit (bump s LED_NEVER) LED_EVENT 0 true) r.id k stENERGY
    else
      let expert := r.serving && bitOf kd.kflags 1
      let sent := match r.kernels[k]? with | some x => x.moved | none => []
      let t := modKernel (passToken s r k kd) r.id k (fun y =>
        { y with status := 255, first := s.tb - r.start, inputs := kernelInputs s r kd })
      if expert then
        if r.experts.isEmpty then endKernel s r.id k stOK
        else if r.experts.any (fun e => !expertReadable s r e.1) then endKernel s r.id k stTIER_FAIL
        else prefetchAfter (dispatchExperts t r k kd) r k
      else prefetchAfter (queueParts t r k kd none sent) r k
  | _, _ => s

/-- The graph engine dispatches the next kernel. -/
def kernelDispatchEff (s : State) : State :=
  if dispatchStopped s then s
  else match nextRun s with | none => s | some x => dispatchKernel s x.1 x.2

/-- KERNEL_DISPATCH (R159). -/
def execKernelDispatch (s : State) : Host.Outcome State Fault Refusal :=
  ok (Sys2Proof.wellFormed .kernelDispatch) (kernelDispatchEff s)

/-! ## Admission of parts (R159, R430) -/


/-- The ledger tests the first waiting part: it starts, or its tile stands withheld (R429, R430, R435, R436). -/
def partAdmissionEff (s : State) : State :=
  match s.grf.admitQueue.find? (partWaits s) with
  | none => s
  | some e =>
    if partFits s e.2 e.1 && !s.ledger.stopAdmission && !s.ledger.dieHot.getD (e.1 / 128) false then
      let x := tile s e.1
      let s := setTile s e.1 { x with queue := x.queue.drop 1 }
      startPart { s with grf := { s.grf with admitQueue := s.grf.admitQueue.erase e } } e.2 e.1 0 none
    else putTile s e.1 { tile s e.1 with withheld := true }

/-- PART_ADMISSION (R159). -/
def execPartAdmission (s : State) : Host.Outcome State Fault Refusal :=
  ok (Sys2Proof.wellFormed .partAdmission) (partAdmissionEff s)

/-! ## Deadlines and cancels (R162, R180) -/

/-- The kernels of a run with a status, in number order. -/
def kernelsWith (r : Run) (st : Nat) : List Nat :=
  (List.range r.kernels.length).filter (fun k => match r.kernels[k]? with | none => false | some x => x.status == st)

/-- Stops a run: its running kernels end with one status, its undispatched kernels with another. -/
def stopRun (s : State) (id running waiting : Nat) : State :=
  match findRun s id with
  | none => s
  | some r =>
    let s := foldState (fun s k => failKernel s id k running) s (kernelsWith r 255)
    let s := modRun s id (fun r => { r with kernels := updateWhere (fun k => k.status == 254) (fun k => { k with status := waiting }) r.kernels })
    finishRun s id

/-- A kernel's deadline expires before its last END. -/
def kernelDeadlineEff (s : State) (id k : Nat) : State :=
  match findRun s id with
  | none => s
  | some r =>
    match kernelOf s r k, r.kernels[k]? with
    | some kd, some kr => if expired s (r.start + kr.first) kd.deadline ∧ kr.status = 255 then failKernel s id k stTIMEOUT else s
    | _, _ => s

/-- KERNEL_DEADLINE_EXPIRY (R162). -/
def execKernelDeadlineExpiry (run kernel : Nat) (s : State) : Host.Outcome State Fault Refusal :=
  ok (Sys2Proof.wellFormed (.kernelDeadlineExpiry run kernel)) (kernelDeadlineEff s run kernel)

/-- A run's deadline expires. -/
def runDeadlineEff (s : State) (id : Nat) : State :=
  match findRun s id with
  | none => s
  | some r =>
    match graphOf s r.slot with
    | none => s
    | some g => if expired s r.start g.deadline then stopRun (modRun s id (fun r => { r with timedOut := true })) id stTIMEOUT stSKIPPED else s

/-- RUN_DEADLINE_EXPIRY (R162). -/
def execRunDeadlineExpiry (run : Nat) (s : State) : Host.Outcome State Fault Refusal :=
  ok (Sys2Proof.wellFormed (.runDeadlineExpiry run)) (runDeadlineEff s run)

/-- Ends a sequence with REFORM_ABORT and END_REASON 5 (R178). -/
def abortSeqs (s : State) : State :=
  let s := foldState (fun s (e : Nat × Seq) =>
    if e.2.state = 0 ∨ e.2.state = 5 then s else endSeq s e.1 stREFORM_ABORT 5) s s.grf.seqs
  let ws := s.grf.seqWaiting
  showSeqs (foldState (fun s w => completeStatusOpt s w.tag stREFORM_ABORT) { s with grf := { s.grf with seqWaiting := [] } } ws)

/-- Ends every unfinished run whose kernels have stopped, with the re-form abort status (R77). A kernel that was never
dispatched ends with the same status. -/
def abortRuns (s : State) : State :=
  let idle (r : Run) : Bool := (kernelsWith r 255).isEmpty
  let ws := s.grf.waiting
  let s := { s with grf := { s.grf with waiting := [] } }
  let s := foldState (fun s (r : Run) =>
    if idle r then stopRun (modRun s r.id (fun r => { r with cancelled := stREFORM_ABORT })) r.id stREFORM_ABORT stREFORM_ABORT else s) s s.grf.runs
  foldState (fun s w => endWaiting s w stREFORM_ABORT stREFORM_ABORT) s ws

/-- Whether any kernel runs. -/
def kernelsRunning (s : State) : Bool := s.grf.runs.any (fun r => !(kernelsWith r 255).isEmpty)

/-- An Abort of an Execute Program (R178, R416): whether it found the command. -/
def abortExecute (s : State) (tag : CmdTag) : State × Bool :=
  match s.grf.runs.find? (fun r => r.tag == some tag) with
  | some r => (stopRun (modRun s r.id (fun r => { r with cancelled := stCANCELLED })) r.id stCANCELLED stSKIPPED, true)
  | none =>
    match s.grf.waiting.find? (fun w => w.tag == some tag) with
    | some w => (endWaiting { s with grf := { s.grf with waiting := s.grf.waiting.erase w } } w stCANCELLED stSKIPPED, true)
    | none =>
      match s.grf.seqWaiting.find? (fun w => w.tag == some tag) with
      | some w => (completeStatus (showSeqs { s with grf := { s.grf with seqWaiting := s.grf.seqWaiting.erase w } }) tag stCANCELLED, true)
      | none =>
        match s.grf.seqs.find? (fun e => e.2.tag == some tag && e.2.state != 0 && e.2.state != 5) with
        | some e => (setSeq s e.1 { e.2 with cancelled := true }, true)
        | none => (s, false)

/-! ## Pre-emption (R166, R167) -/

/-- A ready kernel of a class that has waited on reserved ranges for as long as its class allows, and whose holders run no part on them. -/
def blockedKernel (s : State) (cls : Nat) (runs : Resident → Bool) : Option (Run × Nat × List Resident) :=
  (longWaiting s).find? (fun x => classOf s x.1.slot == cls && !x.2.2.any runs)

/-- Whether a reservation's tile runs a part of its holder. -/
def holderRuns (s : State) (x : Resident) : Bool :=
  match (tile s x.tile).part with
  | none => false
  | some p => match findRun s p.ref.run with | none => false | some r => r.slot == x.slot

/-- Releases the reservations of a holder's kernel that block a waiting kernel: their weights must be reloaded, and the release counts once
(R166). -/
def releaseResident (s : State) (block : List Resident) (slot k : Nat) : State :=
  let s := { s with grf := { s.grf with residents := updateWhere (fun x => x.slot == slot && x.kernel == k && block.contains x)
                                          (fun x => { x with loaded := false, restream := true }) s.grf.residents } }
  let s := bump s GRF_PREEMPTS
  { s with grf := { s.grf with runs := updateWhere (fun r => r.slot == slot) (fun r => { r with preempts := r.preempts + 1 }) s.grf.runs } }

/-- The graph engine pre-empts the holders that block a waiting kernel of a class, at their kernel boundary, and dispatches the
kernel (R166). -/
def preemptionEff (s : State) (cls : Nat) : State :=
  match blockedKernel s cls (holderRuns s) with
  | none => s
  | some (r, k, b) =>
    if dispatchStopped s then s
    else dispatchKernel (foldState (fun s (x : Nat × Nat) => releaseResident s b x.1 x.2) s ((b.map (fun x => (x.slot, x.kernel))).eraseDups)) r k

/-- PREEMPTION (R166). -/
def execPreemption (cls : Nat) (s : State) : Host.Outcome State Fault Refusal :=
  ok (Sys2Proof.wellFormed (.preemption cls)) (preemptionEff s cls)

/-! ## Step boundaries (R171 to R173, R178) -/

/-- Reads TAIL of a sequence's ring, and holds it or releases it (R171). -/
def holdSeq (s : State) (i : Nat) : State :=
  let q := seqAt s i
  match resolve s q.mrs (q.ring + 4) 4 with
  | none => s
  | some a =>
    match readAddr s a 4 with
    | (s, none) => endSeq s i stTIER_FAIL 5
    | (s, some l) =>
      let full := decide (q.ringLen ≤ (q.head + 2 ^ 32 - leNat l) % 2 ^ 32)
      if full then setSeq s i { q with state := 4 }
      else if q.state = 4 then setSeq s i { q with state := 3 } else s

/-- Ends the sequences of a slot that an Abort has cancelled, and reads the rings of the others. -/
def boundarySeqs (s : State) (slot : Nat) : State :=
  foldState (fun s (e : Nat × Seq) =>
    let q := seqAt s e.1
    if q.slot = slot ∧ 1 ≤ q.state ∧ q.state ≤ 4 then
      if q.cancelled then endSeq s e.1 stCANCELLED 3 else if 2 < q.state then holdSeq s e.1 else s
    else s) s s.grf.seqs

/-- Admissions that waited take free entries in their order of arrival (R172). -/
def admitWaiting : Nat → State → State
  | 0, s => s
  | n + 1, s =>
    match s.grf.seqWaiting, freeSeq s with
    | w :: t, some i => admitWaiting n (showSeqs (takeSeq { s with grf := { s.grf with seqWaiting := t } } i w))
    | _, _ => s

/-- Decode entries of a slot in entry order, starting after the one served first in the step before (R173). -/
def decodeOrder (s : State) (slot : Nat) : List Nat :=
  let ds := (s.grf.seqs.filter (fun e => e.2.slot == slot && e.2.state == 3)).map (·.1)
  let from_ := Sparse.get 0 s.grf.firstDecode slot
  ds.filter (fun i => decide (from_ ≤ i)) ++ ds.filter (fun i => decide (i < from_))

/-- Prompt entries of a slot in order of admission. -/
def promptOrder (s : State) (slot : Nat) : List Nat :=
  let ps := s.grf.seqs.filter (fun e => e.2.slot == slot && (e.2.state == 1 || e.2.state == 2))
  (ps.mergeSort (fun a b => decide (a.2.order ≤ b.2.order))).map (·.1)

/-- Tokens given to prompts, in order, out of a budget. -/
def promptTokens (s : State) (chunk : Nat) : Nat → List Nat → List (Nat × Nat × Nat)
  | _, [] => []
  | budget, i :: t =>
    if budget = 0 then []
    else
      let q := seqAt s i
      let n := min (q.promptLen - q.pos) (min chunk budget)
      (i, n, q.pos) :: promptTokens s chunk (budget - n) t

/-- The work list of a step (R173). -/
def workList (s : State) (slot : Nat) (v : Serving) : List (Nat × Nat × Nat) :=
  let ds := (decodeOrder s slot).take v.maxTokens
  ds.map (fun i => (i, 1, (seqAt s i).pos)) ++ promptTokens s v.prefillChunk (v.maxTokens - ds.length) (promptOrder s slot)

/-- A step boundary of a serving slot: rings, admissions, the work list, and the step's run (R173). -/
def stepBoundaryEff (s : State) (slot : Nat) : State :=
  match graphOf s slot with
  | none => s
  | some g =>
    match g.serving with
    | none => s
    | some v =>
      if s.grf.runs.any (fun r => r.slot == slot) then s
      else
        let s := admitWaiting 4096 (boundarySeqs s slot)
        if !s.grf.active.contains slot || dispatchStopped s || g.armId != (settings s).armId then s
        else
          let l := workList s slot v
          match l with
          | [] => s
          | e :: _ =>
            let first := match (decodeOrder s slot).head? with | none => 0 | some i => i + 1
            let s := foldState (fun s (x : Nat × Nat × Nat) =>
              if (seqAt s x.1).state = 1 then setSeq s x.1 { seqAt s x.1 with state := 2 } else s) s l
            let s := { s with grf := { s.grf with workLists := Sparse.set [] s.grf.workLists slot l
                                                  firstDecode := Sparse.set 0 s.grf.firstDecode slot first } }
            beginRun s slot (seqAt s e.1).mrs none none 0 0

/-- STEP_BOUNDARY (R173). -/
def execStepBoundary (slot : Nat) (s : State) : Host.Outcome State Fault Refusal :=
  ok (Sys2Proof.wellFormed (.stepBoundary slot)) (stepBoundaryEff s slot)

/-- The 64 bytes of a sequence table entry (R172). -/
def seqBytes (q : Seq) : List Byte :=
  leBytes 1 q.state ++ leBytes 1 q.endReason ++ leBytes 1 q.slot ++ leBytes 1 q.cls ++ leBytes 4 (q.order % 2 ^ 32) ++ leBytes 8 q.seqTag ++
  leBytes 4 q.promptLen ++ leBytes 4 q.pos ++ leBytes 4 q.gen ++ leBytes 4 q.maxNew ++ leBytes 4 q.lastStep ++ leBytes 4 q.head ++
  leBytes 4 q.kvPages ++ leBytes 4 q.stopToken ++ leBytes 8 q.seed ++ leBytes 8 q.sample

/-- The words of a string of bytes. -/
def wordsOf (l : List Byte) : Nat → List Nat
  | 0 => []
  | n + 1 => fieldAt l 0 4 :: wordsOf (l.drop 4) n

/-- A write of GRF_SEQ_SEL copies an entry, whole, into GRF_SEQ_DATA (R172). -/
def writeSeqSel (s : State) (v : Nat) : State :=
  let i := v % 4096
  setWords (setNat s GRF_SEQ_SEL i) GRF_SEQ_DATA (wordsOf (seqBytes (seqAt s i)) 16)

/-- A write of GRF_CLASS_CTRL: a weight of 0 is discarded and counted. -/
def writeClassCtrl (s : State) (c v : Nat) : State :=
  if v % 256 = 0 then accErr s else setNat s (GRF_CLASS_CTRL c) (v % 256)

end Sys2Proof.Machine
end

