-- ==== Sys2Proof/Machine/Link.lean ====
section
/-! DEFINITION. Flits on the ports: their layout, the replay buffer, acknowledgements, credits, and how packets and control messages leave
(09_fabric.md, R280 to R287, R297). -/
namespace Sys2Proof.Machine

/-! ## Ports and their lanes -/

/-- A port's link state. -/
def port (s : State) (p : Nat) : Port := Sparse.get {} s.fabric.ports p

/-- Stores a port's link state. -/
def setPort (s : State) (p : Nat) (x : Port) : State := { s with fabric := { s.fabric with ports := Sparse.set {} s.fabric.ports p x } }

/-- FAB_PORT_STAT.STATE. -/
def portState (s : State) (p : Nat) : Nat := fld s (portReg p 0) 31 28

/-- Stores STATE and PORTS_UP. -/
def setPortState (s : State) (p v : Nat) : State := setBit (setFld s (portReg p 0) 31 28 v) FAB_STAT p (decide (v = 3))

/-- Whether a port is UP. -/
def portUp (s : State) (p : Nat) : Bool := decide (portState s p = 3)

/-- Whether a port carries flits: it is fitted and trained. -/
def linked (s : State) (p : Nat) : Bool := portFitted s.build p && decide (2 ≤ portState s p)

/-- PORT_ROLE of an external port; internal ports carry none (R279). -/
def portRole (s : State) (p : Nat) : Nat := if p < 16 then (settings s).portRole.getD p 0 else 0

/-- Whether a lane direction is retired: direction 0 transmit, 1 receive. -/
def laneRetired (s : State) (p dir lane : Nat) : Bool := s.nv.retiredLanes.contains (p * 16 + dir * 8 + lane)

/-- Whether a lane works: neither retired nor retraining. -/
def laneWorks (s : State) (p dir lane : Nat) : Bool :=
  !laneRetired s p dir lane && !(port s p).retrain.any (fun r => r.1 == dir * 8 + lane)

/-- A mask of lanes. -/
def maskOf (f : Nat → Bool) : Nat := sumNat ((List.range 8).map (fun l => if f l then 2 ^ l else 0))

/-- Working lanes of a direction. -/
def laneCount (s : State) (p dir : Nat) : Nat := ((List.range 8).filter (laneWorks s p dir)).length

/-- The transmit lanes in use: those that work and that the neighbour's LANE_MAP allows, in ascending order (R282, R288). -/
def sendLanes (s : State) (p : Nat) : List Nat := (List.range 8).filter (fun l => laneWorks s p 0 l && bitOf (port s p).map l)

/-- The lane of the flit of a SEQ (R282). -/
def laneOf (s : State) (p seq : Nat) : Nat := (sendLanes s p).getD (seq % max 1 (sendLanes s p).length) 0

/-- Shows a port's widths and retired lanes. -/
def showLanes (s : State) (p : Nat) : State :=
  let on := decide (2 ≤ portState s p)
  let s := setFld (setFld s (portReg p 0) 27 24 (if on then (sendLanes s p).length else 0)) (portReg p 0) 23 20 (if on then laneCount s p 1 else 0)
  setFld (setFld s (portReg p 0) 15 8 (maskOf (laneRetired s p 0))) (portReg p 0) 7 0 (maskOf (laneRetired s p 1))

/-! ## Layouts (R280, R283, R285, R297) -/

/-- The 268 bytes of a flit: FH0 with the ACK, FH1, the payload padded with zeros, and the CRC-32C. -/
def flitBytes (ack : Nat) (f : Flit) : List Byte :=
  let b := leBytes 4 (f.ftype * 2 ^ 28 + f.vc * 2 ^ 24 + f.seq * 2 ^ 12 + ack) ++ leBytes 4 (f.cvc * 2 ^ 28 + f.credits) ++
    (f.payload ++ List.replicate 256 0).take 256
  b ++ leBytes 4 (crc32c b)

/-- The places and sizes of a control message's fields after CTYPE (R285); HELLO is laid out by `helloPayload`. -/
def ctrlFields : Nat → List (Nat × Nat)
  | 0x02 => [(1, 2)]
  | 0x03 => [(1, 1), (2, 2)]
  | 0x04 => [(8, 8)]
  | 0x05 => [(8, 8), (16, 8), (24, 8)]
  | 0x06 => [(1, 1), (2, 1), (4, 4), (8, 4)]
  | 0x07 => [(1, 1), (2, 2), (4, 4), (8, 4)]
  | 0x08 => [(2, 2)]
  | 0x09 => [(1, 1), (4, 4)]
  | 0x0A => [(1, 1), (2, 1), (4, 4)]
  | 0x0B => (1, 2) :: (List.range 10).map (fun c => (4 + 2 * c, 2))
  | 0x0C => [(1, 1), (4, 4)]
  | _ => []

/-- Values laid out at their places, with zeros between them. -/
def laidOut : Nat → List ((Nat × Nat) × Nat) → List Byte
  | _, [] => []
  | at_, ((off, n), v) :: t => List.replicate (off - at_) 0 ++ leBytes n v ++ laidOut (off + n) t

/-- The payload of a control message. -/
def ctrlPayload (ctype : Nat) (fields : List Nat) : List Byte := leBytes 1 ctype ++ laidOut 1 ((ctrlFields ctype).zip fields)

/-- The payload of HELLO. -/
def helloPayload (m : HelloMsg) : List Byte :=
  leBytes 1 1 ++ leBytes 1 m.portRole ++ leBytes 2 m.moduleId ++ leBytes 4 m.fabricId ++ leBytes 8 m.armId ++ leBytes 1 m.trees.length ++
    m.trees.flatMap (fun e => leBytes 1 e.tree ++ leBytes 1 e.level ++ leBytes 1 e.side ++ leBytes 1 e.nchild ++ leBytes 2 e.peerId ++ leBytes 2 0)

/-- A packet as bytes: the header of R297, whose CRC covers header and payload with its own field taken as 0, and the payload. -/
def packetBytes (type : Nat) (k : Packet) : List Byte :=
  let h := leBytes 1 type ++ leBytes 1 k.tree ++ leBytes 1 k.flags ++ leBytes 1 k.fmt ++ leBytes 4 k.step ++ leBytes 4 k.seg ++
    leBytes 2 k.srcModule ++ leBytes 2 k.position ++ leBytes 4 k.fabricId ++ leBytes 4 k.payload.length ++ leBytes 1 k.nflags ++
    List.replicate 3 0 ++ leBytes 8 k.dst ++ List.replicate 24 0
  h ++ leBytes 4 (crc32c (h ++ List.replicate 4 0 ++ k.payload)) ++ k.payload

/-- A string of bytes in pieces of 256, at most `n`. -/
def pieces256 : Nat → List Byte → List (List Byte)
  | 0, _ => []
  | n + 1, l => if l.isEmpty then [] else l.take 256 :: pieces256 n (l.drop 256)

/-- FTYPE of flit `i` of `n`: ONLY, FIRST, LAST or MIDDLE. -/
def flitType (n i : Nat) : Nat := if n ≤ 1 then 4 else if i = 0 then 1 else if i + 1 = n then 3 else 2

/-- The flits of a packet, each with the packet's VC (R283). -/
def packetFlits (vc : Nat) (l : List Byte) : List Flit :=
  let ps := pieces256 (ceilDiv l.length 256) l
  (List.range ps.length).map (fun i => { ftype := flitType ps.length i, vc := vc, payload := ps.getD i [] })

/-- Flits of a packet that arrives (R283). -/
def flitsOf (k : Packet) : Nat := ceilDiv (64 + k.payload.length) 256

/-! ## What leaves (R281, R282, R284, R287) -/

/-- The last SEQ received in order. -/
def ackOf (x : Port) : Nat := (x.rxSeq + 4095) % 4096

/-- LANE_MAPs whose first SEQ the next flit has reached come into force (R288). -/
def applyMaps (x : Port) : Port :=
  let reached (m : Nat × Nat) : Bool := decide ((x.txSeq + 4096 - m.1 % 4096) % 4096 < 2048)
  { x with map := (x.mapsNext.filter reached).foldl (fun _ m => m.2) x.map, mapsNext := x.mapsNext.filter (fun m => !reached m) }

/-- Puts the maps that the next flit has reached in force, and shows the width. -/
def refreshMaps (s : State) (p : Nat) : State := if (port s p).mapsNext.isEmpty then s else showLanes (setPort s p (applyMaps (port s p))) p

/-- A flit with the next SEQ and the oldest credits owed, held in the replay buffer. -/
def stampFlit (x : Port) (f : Flit) : Flit :=
  match x.owed with
  | [] => { f with seq := x.txSeq }
  | (c, n) :: _ => { f with seq := x.txSeq, cvc := c, credits := n }

/-- Sends one flit: it takes the next SEQ, an ACK and the oldest credits owed, and stays in the replay buffer. -/
def sendOne (s : State) (p : Nat) (f : Flit) : State :=
  let s := refreshMaps s p
  let x := port s p
  let f := stampFlit x f
  emit (setPort s p { x with txSeq := (x.txSeq + 1) % 4096, replay := x.replay ++ [f], owed := x.owed.drop 1, ackOwed := false })
    (.flit p (laneOf s p x.txSeq) (flitBytes (ackOf x) f))

/-- Whether a port's replay buffer has room for flits. -/
def hasRoom (x : Port) (n : Nat) : Bool := decide (x.replay.length + n ≤ 1024)

/-- Control flits leave in order for as long as the replay buffer has room (R284, R285). -/
def sendCtrls : List Flit → State → Nat → State
  | [], s, p => setPort s p { port s p with ctrlQueue := [] }
  | f :: t, s, p => if hasRoom (port s p) 1 then sendCtrls t (sendOne s p f) p else setPort s p { port s p with ctrlQueue := f :: t }

/-- Whether a class has the credits and the replay buffer the room for a packet of `n` flits. -/
def packetFits (x : Port) (vc n : Nat) : Bool := hasRoom x n && decide (n ≤ x.pool + x.escape.getD vc 0)

/-- A packet leaves: its credits come from the pool first, then from its class's escape allotment, which counts (R287). -/
def startPacket (s : State) (p vc : Nat) (fs : List Flit) : State :=
  let x := port s p
  let fromPool := min x.pool fs.length
  let esc := x.escape.getD vc 0 - (fs.length - fromPool)
  let s := setPort s p { x with pool := x.pool - fromPool, escape := setAt x.escape vc esc }
  let s := if fromPool < fs.length then bump s FAB_ESC_USED else s
  foldState (fun s f => sendOne s p f) s fs

/-- The packets that may leave now, in order; one that may not holds the later ones of its class alone (R286, R287). -/
def sendPackets : List (Nat × List Flit) → List Nat → List (Nat × List Flit) → State → Nat → State
  | [], _, kept, s, p => setPort s p { port s p with txQueue := kept }
  | (vc, fs) :: t, held, kept, s, p =>
    if held.contains vc || !packetFits (port s p) vc fs.length then sendPackets t (vc :: held) (kept ++ [(vc, fs)]) s p
    else sendPackets t held kept (startPacket s p vc fs) p

/-- Everything that may leave a port leaves: control flits first, and packets where the port is up. -/
def pump (s : State) (p : Nat) : State :=
  if linked s p then
    let s := sendCtrls (port s p).ctrlQueue s p
    if portUp s p then sendPackets (port s p).txQueue [] [] s p else s
  else s

/-- Gives a control flit to a port that carries flits (R285). -/
def sendPayload (s : State) (p : Nat) (payload : List Byte) : State :=
  if linked s p then pump (setPort s p { port s p with ctrlQueue := (port s p).ctrlQueue ++ [{ ftype := 5, payload := payload }] }) p else s

/-- Sends a control message. -/
def sendCtrl (s : State) (p ctype : Nat) (fields : List Nat) : State := sendPayload s p (ctrlPayload ctype fields)

/-- Gives bytes to a port as a packet of a class. -/
def sendBytes (s : State) (p vc : Nat) (l : List Byte) : State :=
  pump (setPort s p { port s p with txQueue := (port s p).txQueue ++ [(vc, packetFlits vc l)] }) p

/-- Gives a packet to a port's transmit side. -/
def sendPacket (s : State) (p vc type : Nat) (k : Packet) : State := sendBytes s p vc (packetBytes type k)

/-- Flits of the replay buffer leave again, each as it was but for its ACK. -/
def resend (s : State) (p : Nat) (fs : List Flit) : State :=
  foldState (fun s f => emit s (.flit p (laneOf s p f.seq) (flitBytes (ackOf (port s p)) f))) s fs

/-- Sends an IDLE flit; that of a port in LOOPBACK carries the test sequence (R281, R317). -/
def sendIdle (s : State) (p : Nat) : State :=
  if portState s p = 5 then
    let n := (port s p).prbs
    sendOne (setPort s p { port s p with prbs := n + 256 }) p { ftype := 0, payload := (List.range 256).map (fun i => Config.prbs31 (n + i)) }
  else sendOne s p { ftype := 0 }

/-- Whether a port owes its neighbour an ACK or credits and may send them. -/
def owes (s : State) (p : Nat) : Bool :=
  linked s p && ((port s p).ackOwed || !(port s p).owed.isEmpty) && hasRoom (port s p) 1

/-- Where a direction has nothing else to send, IDLE carries what is owed. IDLE flits that would carry nothing are left out (DESIGN CHOICE, log
entry 137). -/
def linkTick (s : State) : State := foldState (fun s p => if owes s p then sendIdle s p else s) s (List.range 24)

/-! ## What arrives (R280, R284, R287) -/

/-- Adds credits to a pair of stores by class: 14 is the shared pool. -/
def addCredits (pool : Nat) (escape : List Nat) (cvc n : Nat) : Nat × List Nat :=
  if cvc = 14 then (pool + n, escape) else (pool, setAt escape cvc (escape.getD cvc 0 + n))

/-- The neighbour holds the credits again that a flit returned, once it has acknowledged that flit. -/
def regain (x : Port) (f : Flit) : Port :=
  let c := addCredits x.rxPool x.rxEscape f.cvc f.credits
  { x with rxPool := c.1, rxEscape := c.2 }

/-- Flits that an ACK leaves in the replay buffer. -/
def leftAfter (x : Port) (ack : Nat) : Nat := (x.txSeq + 4096 - 1 - ack % 4096) % 4096

/-- An ACK frees the replay buffer up to the SEQ that it names (R284). -/
def takeAck (x : Port) (ack : Nat) : Port :=
  let n := x.replay.length - leftAfter x ack
  if n = 0 then x else { (x.replay.take n).foldl regain x with replay := x.replay.drop n, replays := 0 }

/-- The header of a received flit: its ACK, and its credits, which return to their store (R287). -/
def gotHead (x : Port) (h : FlitHead) : Port :=
  let x := takeAck x h.ack
  let c := addCredits x.pool x.escape h.cvc h.credits
  { x with pool := c.1, escape := c.2 }

/-- Notes credits to return, those of one class together. -/
def addOwed (l : List (Nat × Nat)) (cvc n : Nat) : List (Nat × Nat) :=
  if n = 0 then l
  else if l.any (fun e => e.1 == cvc) then l.map (fun e => if e.1 == cvc then (cvc, e.2 + n) else e)
  else l ++ [(cvc, n)]

/-- The buffers that a packet of `n` flits took, as the sender drew them: from the pool first, then from its class's allotment. They drain at
once, and their credits are owed to the store from which they were taken (R287). -/
def takeBuffers (x : Port) (vc n : Nat) : Port :=
  let a := min x.rxPool n
  let b := min (x.rxEscape.getD vc 0) (n - a)
  { x with rxPool := x.rxPool - a, rxEscape := setAt x.rxEscape vc (x.rxEscape.getD vc 0 - b), owed := addOwed (addOwed x.owed 14 a) vc b }

/-- Takes `n` flits that arrive in order, with the class of the packet that they carry: what their headers bring, and the next SEQ expected. -/
def takeFlits (s : State) (x : Rx) (n : Nat) (vc : Option Nat) : State :=
  if linked s x.port then
    let hs := x.heads.take n
    let q := (hs.take 1).foldl gotHead (port s x.port)
    let q := match vc with | none => q | some c => takeBuffers q c n
    let q := (hs.drop 1).foldl gotHead q
    setPort s x.port { q with rxSeq := (q.rxSeq + n) % 4096, ackOwed := true }
  else s

/-- A control flit arrives: whatever comes of its message, it is sequenced, and what now may leave leaves (R284, R285). -/
def arrive (s : State) (x : Rx) : State := pump (takeFlits s x 1 none) x.port

/-- The flits of a packet arrive in a class. -/
def arrivePacket (s : State) (x : Rx) (k : Packet) (vc : Nat) : State := pump (takeFlits s x (flitsOf k) (some vc)) x.port

end Sys2Proof.Machine
end

