-- ==== Sys2Proof/Machine/Ports.lean ====
section
/-! DEFINITION. The ports of the optical fabric: lanes, flits, credits, bring-up and fabric time (09_fabric.md, R279 to R293). -/
namespace Sys2Proof.Machine

/-! ## Trees and their messages at bring-up -/

/-- The tree records of the settings in force. -/
def treeRec (s : State) (t : Nat) : Option TreeRec := (settings s).trees.find? (fun r => r.tree == t)

/-- What this end's HELLO says of its trees on a port (R285); an internal port carries none (R318). -/
def ownTrees (s : State) (p : Nat) : List HelloTree :=
  if 16 ≤ p then []
  else (settings s).trees.filterMap (fun r =>
    if !r.root && r.parent == p then some { tree := r.tree, level := r.level, side := 1, nchild := r.nchild, peerId := r.peerId }
    else if r.children.contains p then some { tree := r.tree, level := r.level, side := 0, nchild := r.nchild, peerId := r.peerId }
    else none)

/-- This end's HELLO on a port. -/
def ownHello (s : State) (p : Nat) : HelloMsg :=
  let a := settings s
  { portRole := portRole s p, moduleId := a.moduleId, fabricId := a.fabricId, armId := a.armId, trees := ownTrees s p }

/-- Sends HELLO on a port. -/
def sendHello (s : State) (p : Nat) : State := sendPayload s p (helloPayload (ownHello s p))

/-- A member's census: 1 plus the counts of its up children; sent to the parent once all of them have delivered theirs. -/
def updateCensus (s : State) (r : TreeRec) : State :=
  let ups := r.children.filter (portUp s)
  let count (p : Nat) : Option Nat := ((port s p).census.find? (fun c => c.1 == r.tree)).map (·.2)
  let n := 1 + sumNat (ups.map (fun p => (count p).getD 0))
  let s := setNat s (treeReg r.tree 0x34) n
  if !r.root ∧ portUp s r.parent ∧ ups.all (fun p => (count p).isSome) then sendCtrl s r.parent 0x09 [r.tree, n] else s

/-! ## Training and credits (R287, R289, R290, R318) -/

/-- CREDIT_INIT of this end: how many buffers the receiver has is not stated; each class that the port carries is reserved at
least 33 flits (log entry 22). -/
def sendCredits (s : State) (p : Nat) : State :=
  let f (i : Nat) : Nat := (Config.freeWord (s.fresh + i)).toNat
  let carries (c : Nat) : Bool := if p < 16 then decide (c ≤ 8) else decide (c = 9)
  let esc := (List.range 10).map (fun c => if carries c then 33 + f (c + 1) % 65503 else 0)
  let s := setPort { s with fresh := s.fresh + 11 } p { port s p with rxPool := f 0 % 65536, rxEscape := esc }
  sendCtrl s p 0x0B (f 0 % 65536 :: esc)

/-- The receiver tells its neighbour which lanes it uses: a mask, and the first SEQ to which it applies. -/
def sendLaneMap (s : State) (p : Nat) : State := sendCtrl s p 0x03 [maskOf (laneWorks s p 1), (port s p).rxSeq]

/-- Whether a port can be brought up: it is fitted, powered, has a working lane in each direction, and is internal or has a role. -/
def canTrain (s : State) (p : Nat) : Bool :=
  portFitted s.build p && decide (portState s p ≤ 1) && s.power.railsUp && decide (0 < laneCount s p 0) && decide (0 < laneCount s p 1) &&
    (decide (16 ≤ p) || decide (portRole s p ≠ 0))

/-- A port is trained: both directions number their flits from 0 (DESIGN CHOICE, log entry 141), this end tells the lanes that it uses where
they are not all eight or the neighbour must learn of them, offers its credits, and sends HELLO. -/
def bringUp (s : State) (p : Nat) (tell : Bool) : State :=
  let x := port s p
  let s := setPort s p { retrain := x.retrain, helloGot := x.helloGot, departed := x.departed, prbs := x.prbs }
  let s := showLanes (setPortState s p 2) p
  let s := if tell ∨ laneCount s p 1 ≠ 8 then sendLaneMap s p else s
  sendHello (sendCredits s p) p

/-- Training of a port ends. -/
def trainingEff (s : State) (p : Nat) : State := if canTrain s p then bringUp s p false else s

/-- TRAINING_DONE (R290). -/
def execTrainingDone (port : Nat) (s : State) : Host.Outcome State Fault Refusal :=
  ok (Sys2Proof.wellFormed (.trainingDone port)) (trainingEff s port)

/-- HELLO is sent again while the port is not up (R290). -/
def helloResendEff (s : State) (p : Nat) : State := if portState s p = 2 ∨ portState s p = 4 then sendHello s p else s

/-- HELLO_RESEND (R290). -/
def execHelloResend (port : Nat) (s : State) : Host.Outcome State Fault Refusal :=
  ok (Sys2Proof.wellFormed (.helloResend port)) (helloResendEff s port)

/-- CREDIT_INIT arrives: the pool and the escape allotments that the neighbour offers. -/
def creditInitEff (s : State) (x : Rx) (pool : Nat) (esc : List Nat) : State :=
  let p := x.port
  if linked s p then
    let s := takeFlits s x 1 none
    pump (setPort s p { port s p with pool := pool, escape := esc.take 10 ++ List.replicate (10 - esc.length) 0 }) p
  else s

/-- CREDIT_INIT (R287). -/
def execCreditInit (port : Rx) (pool : Nat) (escape : List Nat) (s : State) : Host.Outcome State Fault Refusal :=
  ok (Sys2Proof.wellFormed (.creditInit port pool escape)) (creditInitEff s port pool escape)

/-! ## Flits (R281, R284, R317) -/

/-- A flit fails its CRC or arrives out of sequence: it is discarded, counted and answered with NAK. -/
def flitDiscardEff (s : State) (p : Nat) : State :=
  if linked s p then sendCtrl (bump s (portReg p 0x8)) p 0x02 [(port s p).rxSeq] else s

/-- FLIT_DISCARD (R284). -/
def execFlitDiscard (port : Nat) (s : State) : Host.Outcome State Fault Refusal :=
  ok (Sys2Proof.wellFormed (.flitDiscard port)) (flitDiscardEff s port)

/-- An IDLE flit: its ACK and credits, and in LOOPBACK a payload that differs counts. -/
def idleEff (s : State) (p : Nat) (h : FlitHead) (differs : Bool) : State :=
  let t := arrive s ⟨p, [h]⟩
  if linked s p ∧ differs ∧ portState s p = 5 then bump t (portReg p 0x1C) else t

/-- IDLE (R281). -/
def execIdle (port ack cvc credits : Nat) (payloadDiffers : Bool) (s : State) : Host.Outcome State Fault Refusal :=
  ok (Sys2Proof.wellFormed (.idle port ack cvc credits payloadDiffers)) (idleEff s port ⟨ack, cvc, credits⟩ payloadDiffers)

/-- A NAK: every flit from the SEQ that it names leaves again, and each counts; those before it have been received. -/
def nakEff (s : State) (rx : Rx) (expected : Nat) : State :=
  let p := rx.port
  if linked s p then
    let s := takeFlits s rx 1 none
    let x := takeAck (port s p) (expected + 4095)
    let again := (x.txSeq + 4096 - expected % 4096) % 4096
    let s :=
      if again = x.replay.length then
        resend (bumpBy (setPort s p { x with replays := if again = 0 then 0 else x.replays + 1 }) (portReg p 0xC) again) p x.replay
      else s
    pump s p
  else s

/-- NAK (R284). -/
def execNak (port : Rx) (expected : Nat) (s : State) : Host.Outcome State Fault Refusal :=
  ok (Sys2Proof.wellFormed (.nak port expected)) (nakEff s port expected)

/-! ## Requests on the internal ports (R279, R319) -/

/-- The one flit's bytes of a piece's request. -/
def requestBytes (q : Piece) : List Byte := (Config.memRequest q.addr q.len q.viaCopy ++ List.replicate 256 0).take 256

/-- A piece's request leaves on an internal port of a package: which of two that are up is free (log entry 138). -/
def requestOn (s : State) (n : Nat) (q : Piece) : State × Option Nat :=
  let a := 16 + 2 * n
  let s := draw s
  let p := if portUp s a ∧ (!portUp s (a + 1) ∨ Config.freeBool (s.fresh - 1)) then some a else if portUp s (a + 1) then some (a + 1) else none
  (match p with | none => s | some p => sendBytes s p 9 (requestBytes q), p)

/-- The requests that are out on an internal port that goes down are issued again on the package's other one, in order, and each counts there; with
both down none can be (R319). -/
def reissue (s : State) (p : Nat) : State :=
  let other := if p % 2 = 0 then p + 1 else p - 1
  let s := if portUp s other then
      foldState (fun s q => bump (sendBytes s other 9 (requestBytes q)) (portReg other 0xC)) s
        (s.mover.pieces.filter (fun q => q.port == some p))
    else s
  let dest := if portUp s other then some other else none
  { s with mover := { s.mover with pieces := updateWhere (fun q => q.port == some p) (fun q => { q with port := dest }) s.mover.pieces } }

/-! ## Ports that go down (R289, R319) -/

/-- Ends a peer transfer on a port that goes down, with RESULT 3 (R316). -/
def peerPortDown (s : State) (p : Nat) : State :=
  if rbit s FAB_PEER_STAT 30 ∧ s.fabric.peerPort = p then setNat s FAB_PEER_STAT (2 ^ 31 + 3) else s

/-- A port is up no longer: the census and a peer transfer take note. -/
def portLeft (s : State) (p : Nat) : State :=
  let s := peerPortDown (setPort s p { port s p with census := [] }) p
  foldState (fun s (r : TreeRec) => if r.children.contains p then updateCensus s r else s) s (settings s).trees

/-- A port goes down: what its replay buffer held and what waited to leave is lost to it, and requests of an internal port leave on the other
(R289, R319). -/
def portDown (s : State) (p : Nat) : State :=
  let x := port s p
  let s := setPort (setPortState s p 0) p { x with replay := [], replays := 0, ctrlQueue := [], txQueue := [], owed := [], ackOwed := false }
  let s := if 16 ≤ p then reissue s p else portLeft s p
  showLanes s p

/-- Takes a port down where a direction has no working lane (R26, R289). -/
def checkPort (s : State) (p : Nat) : State :=
  let s := showLanes s p
  if 2 ≤ portState s p ∧ ((sendLanes s p).isEmpty ∨ laneCount s p 1 = 0) then portDown s p else s

/-! ## Lane faults (R288, R289) -/

/-- Retires a lane in one direction; the entry is that of the fault that opened the occurrence (R288, R479, R481). -/
def retireLane (s : State) (p key : Nat) (r : FaultRec) : State :=
  let s := permanentFault s 2
  let s := setPort s p { port s p with retrain := (port s p).retrain.filter (fun y => y.1 != key) }
  let s := { s with nv := { s.nv with retiredLanes := s.nv.retiredLanes ++ [p * 16 + key] } }
  retired (checkPort (if 8 ≤ key then sendLaneMap s p else s) p) r

/-- A working lane records a transient fault: it retrains, or it is retired where the fault falls within its window. -/
def laneFault (s : State) (p key cause : Nat) : State :=
  if !portFitted s.build p ∨ !laneWorks s p (key / 8) (key % 8) ∨ portState s p < 2 then s
  else
    let s := bump s (portReg p 0x10)
    let u := p * 16 + key
    if withinWindow s 2 u then retireLane s p key (faultRec s 2 2 cause u)
    else
      let r := faultRec s 2 1 cause u
      let a : FaultAge := { cls := 2, unit := u, at_ := s.faults.powered }
      let ages := a :: s.faults.ages.filter (fun y => !(y.cls == 2 && y.unit == u))
      let s := setPort { s with faults := { s.faults with ages := ages } } p { port s p with retrain := (port s p).retrain ++ [(key, 0, r)] }
      checkPort (if 8 ≤ key then sendLaneMap s p else s) p

/-- A lane's key in its port. -/
def laneKey (l : LaneId) : Nat := (if l.transmit then 0 else 8) + l.lane

/-- LOSS_OF_LOCK (R288). -/
def execLossOfLock (lane : LaneId) (s : State) : Host.Outcome State Fault Refusal :=
  ok (Sys2Proof.wellFormed (.lossOfLock lane)) (laneFault s lane.port (laneKey lane) 1)

/-- More than 64 uncorrectable codewords within 1 ms make a transient fault; every one counts. -/
def fecErrorEff (s : State) (l : LaneId) (n : Nat) : State :=
  if portFitted s.build l.port then
    let s := bumpBy s (portReg l.port 0x18) n
    if 64 < n then laneFault s l.port (laneKey l) 2 else s
  else s

/-- FEC_ERROR_LIMIT (R288). -/
def execFecErrorLimit (lane : LaneId) (codewords : Nat) (s : State) : Host.Outcome State Fault Refusal :=
  ok (Sys2Proof.wellFormed (.fecErrorLimit lane codewords)) (fecErrorEff s lane codewords)

/-- One flit has been replayed 8 times without an ACK: every working transmit lane records a fault and retrains (R284). -/
def replayLimitEff (s : State) (p : Nat) : State :=
  if portFitted s.build p ∧ 8 ≤ (port s p).replays then
    foldState (fun s l => laneFault s p l 3) (setPort s p { port s p with replays := 0 }) ((List.range 8).filter (laneWorks s p 0))
  else s

/-- REPLAY_LIMIT (R284). -/
def execReplayLimit (port : Nat) (s : State) : Host.Outcome State Fault Refusal :=
  ok (Sys2Proof.wellFormed (.replayLimit port)) (replayLimitEff s port)

/-- A lane's retraining ends. Success returns the lane and closes its occurrence, and a port that was down through retraining
alone starts its HELLO exchange afresh; RETRY failures retire the lane. -/
def retrainDoneEff (s : State) (l : LaneId) (good : Bool) : State :=
  let p := l.port
  let key := laneKey l
  match (port s p).retrain.find? (fun y => y.1 == key) with
  | none => s
  | some (_, tries, r) =>
    let rest := (port s p).retrain.filter (fun y => y.1 != key)
    if good then
      let s := setPort s p { port s p with retrain := rest }
      let s := bump { s with faults := { s.faults with unsaved := s.faults.unsaved ++ [r] } } (GLB_FT_TRANS 2)
      let s := showLanes s p
      if canTrain s p ∧ portState s p = 0 then bringUp s p (decide (8 ≤ key)) else if 8 ≤ key then sendLaneMap s p else s
    else if retryOf s 2 ≤ tries + 1 then retireLane s p key { r with kind := 2 }
    else setPort s p { port s p with retrain := rest ++ [(key, tries + 1, r)] }

/-- LANE_RETRAIN_DONE (R288). -/
def execLaneRetrainDone (lane : LaneId) (good : Bool) (s : State) : Host.Outcome State Fault Refusal :=
  ok (Sys2Proof.wellFormed (.laneRetrainDone lane good)) (retrainDoneEff s lane good)

/-- LANE_MAP from the neighbour: the transmit lanes that its receiver uses from a SEQ on; none takes the port down. A port that is down for want
of such lanes alone is trained afresh when the neighbour uses some again (R288, R289). -/
def laneMapEff (s : State) (x : Rx) (mask first : Nat) : State :=
  let p := x.port
  if canTrain s p ∧ portState s p = 0 ∧ mask ≠ 0 then
    let s := bringUp s p false
    showLanes (setPort s p { port s p with rxSeq := 1, map := mask, ackOwed := true }) p
  else if linked s p then
    let s := takeFlits s x 1 none
    if maskOf (fun l => bitOf mask l && laneWorks s p 0 l) = 0 then portDown (setPort s p { port s p with map := 0, mapsNext := [] }) p
    else
      pump (refreshMaps (setPort s p { port s p with mapsNext := (port s p).mapsNext ++ [(first % 4096, mask)] }) p) p
  else s

/-- LANE_MAP (R288). -/
def execLaneMap (port : Rx) (mask firstSeq : Nat) (s : State) : Host.Outcome State Fault Refusal :=
  ok (Sys2Proof.wellFormed (.laneMap port mask firstSeq)) (laneMapEff s port mask firstSeq)

/-! ## Fabric time (R292, R293) -/

/-- The port of this module's time source: its parent in the lowest-numbered tree in which it has one. -/
def timeSource (s : State) : Option Nat :=
  let ts := (settings s).trees.filter (fun r => !r.root)
  match ts.foldl (fun (m : Option TreeRec) r => match m with | none => some r | some x => if r.tree < x.tree then some r else m) none with
  | none => none
  | some r => some r.parent

/-- Every 1 ms a module asks its source for the time. -/
def timeSyncEff (s : State) : State :=
  match timeSource s with
  | none => s
  | some p => if portUp s p then sendCtrl s p 0x04 [s.fabric.ft] else s

/-- TIME_SYNC (R292). -/
def execTimeSync (s : State) : Host.Outcome State Fault Refusal := ok (Sys2Proof.wellFormed .timeSync) (timeSyncEff s)

/-- A neighbour's TS_REQ is answered. -/
def tsReqEff (s : State) (x : Rx) (t1 t2 : Nat) : State :=
  if linked s x.port then sendCtrl (arrive s x) x.port 0x05 [t1, t2, s.fabric.ft] else s

/-- TS_REQ (R292). -/
def execTsReq (port : Rx) (t1 t2 : Nat) (s : State) : Host.Outcome State Fault Refusal :=
  ok (Sys2Proof.wellFormed (.tsReq port t1 t2)) (tsReqEff s port t1 t2)

/-- Fabric time after an exchange whose 2θ is `sum`, in units of 10 ns: above 1 µs FT steps, and a step back holds it still; below, it slews. A half
of a unit is left over in a step forward and in a slew, and rounds a hold up (log entry 136). -/
def correct (f : Fabric) (sum : Int) : Fabric :=
  if 200 < sum then { f with ft := (f.ft + sum.toNat / 2) % 2 ^ 64, ftSlew := 0, ftHold := 0 }
  else if sum < -200 then { f with ftHold := ceilDiv (-sum).toNat 2, ftSlew := 0 }
  else { f with ftSlew := Int.tdiv sum 2 }

/-- The source's answer: FT is corrected, and TIME_LOCK follows the exchanges: three within 50 ns set it, and one above 1 µs clears it. -/
def tsRspEff (s : State) (x : Rx) (t1 t2 t3 t4 : Nat) : State :=
  let s := arrive s x
  if timeSource s = some x.port ∧ portUp s x.port then
    let sum : Int := ((t2 : Int) - t1) + ((t3 : Int) - t4)
    let run := if sum.natAbs ≤ 10 then s.fabric.lockRun + 1 else 0
    let s := { s with fabric := { correct s.fabric sum with lockRun := run } }
    if 200 < sum.natAbs then setBit s FAB_STAT 31 false else if 3 ≤ run then setBit s FAB_STAT 31 true else s
  else s

/-- TS_RSP (R292). -/
def execTsRsp (port : Rx) (t1 t2 t3 t4 : Nat) (s : State) : Host.Outcome State Fault Refusal :=
  ok (Sys2Proof.wellFormed (.tsRsp port t1 t2 t3 t4)) (tsRspEff s port t1 t2 t3 t4)

/-- A write of FAB_TIME_SET: HI is kept, and LO sets FT at a module that is its own source. -/
def writeTimeSet (s : State) (off v : Nat) : State :=
  match timeSource s with
  | some _ => accErr s
  | none =>
    if off = FAB_TIME_SET + 4 then setNat s off v
    else { s with fabric := { s.fabric with ft := v + 2 ^ 32 * regNat s (FAB_TIME_SET + 4), ftSlew := 0, ftHold := 0 } }

end Sys2Proof.Machine
end

