-- ==== Sys2Proof/Machine/Tile.lean ====
section
/-! DEFINITION. Tiles: the instructions of a tile's program, the steps of its array, vector unit and transfers, ramps, the store's
errors, the watchdog, retirement on request and the histogram's control (04_tile.md). -/
namespace Sys2Proof.Machine

/-! ## Issue (R110, R111) -/

/-- Opcodes of R111. -/
def opcodeKnown (o : Nat) : Bool := (decide (1 ≤ o) && decide (o ≤ 6)) || o == 0xF

/-- Ranges that a tile's unfinished instructions write. -/
def busyWrites (x : Tile) : List Range :=
  (match x.stream, x.loaded with | some v, some b => streamWrites b v | _, _ => []) ++
  (match x.vec with | some v => vecWrites v | none => [])

/-- Ranges that a tile's unfinished instructions read. -/
def busyReads (x : Tile) : List Range :=
  (match x.stream, x.loaded with | some v, some b => streamReads b v | _, _ => []) ++
  (match x.vec with | some v => vecReads v | none => []) ++
  (match x.filling with | some b => loadReads b b.columns.length | none => []) ++
  x.sends.flatMap sendReads

/-- Whether an instruction with these ranges must wait for an earlier one (R110). -/
def hazard (x : Tile) (reads writes : List Range) : Bool :=
  clashes reads (busyWrites x) || clashes writes (busyWrites x) || clashes writes (busyReads x)

/-- Whether every earlier instruction of the tile's part has finished. -/
def tileQuiet (x : Tile) : Bool :=
  x.stream.isNone && x.vec.isNone && x.filling.isNone && x.sends.isEmpty && !x.swapWait && !x.refill

/-- The first bad word that a list of ranges touches. -/
def badIn (x : Tile) (rs : List Range) : Option Nat := x.badWords.find? (fun w => rs.any (fun r => r.meets w 8))

/-- Whether the sequencer may issue: it runs a part and waits at nothing. -/
def canIssue (s : State) (t : Nat) : Bool :=
  let x := tile s t
  tileLive s t && x.part.isSome && x.syncWait.isNone && !x.swapWait

/-- Ends the part with ILLEGAL_INSTR once its earlier instructions have finished (R111). -/
def illegal (s : State) (t : Nat) : State := if tileQuiet (tile s t) then failPart s t stILLEGAL else s


/-- Moves the program counter past an issued instruction. -/
def nextPc (x : Tile) : Tile :=
  match x.part with
  | none => x
  | some p => { x with part := some { p with pc := p.pc + 16 } }

/-- Attributes a step's energy, in units of 10 pJ, to the kernel whose part the tile holds (R129, R432). -/
def chargeStep (s : State) (t e : Nat) : State :=
  let key := match (tile s t).part with | none => 0 | some p => p.ref.run * 65536 + p.ref.kernel + 1
  { s with ledger := { s.ledger with sampledSteps := Sparse.set 0 s.ledger.sampledSteps key (Sparse.get 0 s.ledger.sampledSteps key + e) } }

/-- Removes a range from the ranges that SENDs delivered. -/
def cutRange (lo len : Nat) (r : Nat × Nat) : List (Nat × Nat) :=
  let hi := lo + len
  if hi ≤ r.1 ∨ r.1 + r.2 ≤ lo then [r]
  else (if r.1 < lo then [(r.1, lo - r.1)] else []) ++ (if hi < r.1 + r.2 then [(hi, r.1 + r.2 - hi)] else [])

/-- A write of a tile's own store, which replaces what SENDs delivered there. -/
def ownWrite (s : State) (t a : Nat) (data : List Byte) : State :=
  let s := storeWrite s t a data
  let x := tile s t
  match x.part with
  | none => s
  | some p => setTile s t { x with part := some { p with fromSend := p.fromSend.flatMap (cutRange a data.length) } }

/-- Meets the check of the words that a step reads: what the SEC-DED code found, then a word already known as bad (R122,
R123). None where the step must not be performed; the state has then recorded the fault. -/
def checkRead (s : State) (t : Nat) (u : Upset) (rs : List Range) : State × Bool :=
  match u with
  | .double a => (doubleBit s t a, false)
  | .single _ =>
    let s := bump s (tilReg t 0x60)
    (match badIn (tile s t) rs with | some w => (doubleBit s t w, false) | none => (s, true))
  | .clean => (match badIn (tile s t) rs with | some w => (doubleBit s t w, false) | none => (s, true))

/-- The sequencer at its program counter: the fetch checks the words that it reads (R122), an instruction of this opcode is given to `go`
with its two words, an invalid fetch or opcode ends the part, and any other opcode belongs to another row. -/
def atPc (s : State) (t op : Nat) (u : Upset) (go : State → Nat → Nat → State) : State :=
  if canIssue s t then
    match (tile s t).part with
    | none => s
    | some p =>
      if storeLen < p.pc + 16 then illegal s t
      else
        let o := bitsOf (storeNat s t p.pc 8) 63 56
        if o ≠ op ∧ opcodeKnown o then s
        else
          match checkRead s t u [{ lo := p.pc, len := 16 }] with
          | (s, false) => s
          | (s, true) => if o = op then go s (storeNat s t p.pc 8) (storeNat s t (p.pc + 8) 8) else illegal s t
  else s

/-- A fault that a tile's hardware meets at the same moment as its part's END, after it: the part's results stand, and the tile is retired
afterwards where the fault is permanent (R137). -/
def afterEnd (s : State) (t : Nat) (parityBad : Bool) (u : Upset) : State :=
  if tileLive s t && (tile s t).part.isNone && (tile s t).endedAt == some s.tb then
    if parityBad then tileFault (bump s (tilReg t 0x6C)) t 2
    else match u with
      | .double a => doubleBit s t a
      | _ => s
  else s

/-! ## STREAM and row steps (R112 to R115, R125, R126) -/

/-- The array's ramp as a STREAM starts (R126). -/
def rampStart (s : State) (t : Nat) (x : Tile) : Tile :=
  match x.ramp with
  | .rest => { x with ramp := .up 1, steps := 0, stageLen := fld s (tilReg t 0x14) 11 0 }
  | .gap => { x with ramp := .full, steps := 0 }
  | .down q => { x with ramp := .up q }
  | _ => x

/-- The accumulators of a row at its start (R94, R114). -/
def rowStart (s : State) (t : Nat) (v : StreamSt) (cols row : Nat) : List Accum :=
  (List.range cols).map (fun c =>
    if 2 ≤ v.accMode then { out := some (BitVec.ofNat 32 (storeNat s t (v.accAddr * 64 + row * 256 + 4 * c) 4)) } else {})

/-- The accumulator rows as a STREAM finds them, for a re-run (R125). -/
def savedAcc (s : State) (t : Nat) (v : StreamSt) (cols : Nat) : List (List Word) :=
  if 2 ≤ v.accMode then
    (List.range v.rows).map (fun r => (List.range cols).map (fun c =>
      BitVec.ofNat 32 (storeNat s t (v.accAddr * 64 + r * 256 + 4 * c) 4)))
  else []

/-- Starts a STREAM at its first row. -/
def startStream (s : State) (t : Nat) (v : StreamSt) (b : WBlock) : State :=
  let s := if b.wfmt = 8 then setFlags s t TRUNC_FP32 else s
  putTile s t (rampStart s t { tile s t with stream := some { v with row := 0, slice := 0, accs := rowStart s t v b.columns.length 0, at_ := s.tb } })
/-- Issues a STREAM. -/
def issueStream (t : Nat) (s : State) (w0 w1 : Nat) : State :=
  let x := tile s t
  let v := decodeStream w0 w1
  if x.stream.isSome ∨ x.refill then s
  else if streamValid x.loaded v then
    if v.rows = 0 then putTile s t (nextPc x)
    else
      match x.loaded with
      | none => s
      | some b =>
        if hazard x (streamReads b v) (streamWrites b v) then s
        else startStream (setTile s t (nextPc x)) t { v with firstAcc := savedAcc s t v b.columns.length } b
  else illegal s t

/-- STREAM (R112). -/
def execStream (tile : TileOp) (s : State) : Host.Outcome State Fault Refusal :=
  ok (Sys2Proof.wellFormed (.stream tile)) (atPc s tile.tile 1 tile.upset (issueStream tile.tile))

/-- Exchanges the arrays where a SWAP waits and nothing holds it any longer (R109). -/
def trySwap (s : State) (t : Nat) : State :=
  let x := tile s t
  if x.swapWait && x.stream.isNone && x.filling.isNone && !x.refill then
    putTile s t { x with loaded := x.shadow, shadow := x.loaded, swapWait := false }
  else s

/-- Whether the next instruction is a STREAM that can start now (R126). -/
def streamReady (s : State) (t : Nat) : Bool :=
  let x := tile s t
  match x.part, x.loaded with
  | some p, some b =>
    let v := decodeStream (storeNat s t p.pc 8) (storeNat s t (p.pc + 8) 8)
    canIssue s t && x.stream.isNone && !x.refill && opAt s t p == 1 && streamValid x.loaded v && v.rows != 0 &&
      !hazard x (streamReads b v) (streamWrites b v)
  | _, _ => false

/-- Ends a STREAM: a waiting SWAP goes on, and the array fills its gap unless the next STREAM is ready, which goes on at the present
duty (R126). -/
def endStream (s : State) (t : Nat) : State :=
  let s := trySwap (putTile s t { tile s t with stream := none }) t
  if streamReady s t then s else putTile s t (rampStop s t (tile s t))

/-- One run of products of a column summed and taken into its accumulators (R92 to R94): the element range `lo` to
`lo + n - 1` of K, the scale bytes, and the accumulators so far. -/
def addRun (b : WBlock) (col : Column) (lo n : Nat) (products : List Word) (acc : Accum) : Accum × Nat :=
  match treeSum 16 products with
  | (none, f) => (acc, f)
  | (some v, f0) =>
    if !b.scaled then
      let o := accAdd acc.out v
      ({ acc with out := o.1 }, flagOr f0 o.2)
    else
      let g := accAdd acc.grp v
      let stop := lo + n
      if stop % b.group = 0 ∨ stop = b.k then
        let gi := lo / b.group
        let scale := toF32 .ue4m3 (col.scales.getD (gi / 16 * 20 + gi % 16) 0).toNat
        let p := fmul (g.1.getD zero32) scale
        let u := accAdd acc.sup p.1
        let f1 := flagOr (flagOr f0 g.2) (flagOr p.2 u.2)
        if stop % (16 * b.group) = 0 ∨ stop = b.k then
          let second : Word := BitVec.ofNat 32 (fieldAt col.scales (gi / 16 * 20 + 16) 4)
          let q := fmul (u.1.getD zero32) second
          let o := accAdd acc.out q.1
          ({ grp := none, sup := none, out := o.1 }, flagOr f1 (flagOr q.2 o.2))
        else ({ acc with grp := none, sup := u.1 }, f1)
      else ({ acc with grp := g.1 }, flagOr f0 g.2)

/-- The runs of one slice of one column, `m` runs of length `r` from element `lo`. -/
def addRuns (b : WBlock) (col : Column) (wf : Fmt) (acts : List Fp) (base r : Nat) : Nat → Nat → Accum → Accum × Nat
  | 0, _, acc => (acc, 0)
  | m + 1, lo, acc =>
    if b.k ≤ lo then (acc, 0)
    else
      let n := min r (b.k - lo)
      let ps := (List.range n).map (fun i =>
        dotProduct (decodeFmt wf (col.weights.getD (lo + i) 0)) (acts.getD (lo - base + i) (.fin false 0 0)))
      let x := addRun b col lo n (ps.map (·.1)) acc
      let y := addRuns b col wf acts base r m (lo + r) x.1
      (y.1, flagOr ((ps.map (·.2)).foldl flagOr 0) (flagOr x.2 y.2))

/-- The bias of column `c` of a block: the operand's element `c` where the block has as many columns as the operand has elements. Which
element it is otherwise is not stated: a free one (log entry 110). -/
def biasOf (p : Part) (b : WBlock) (c : Nat) : Option Word :=
  if b.columns.length = p.bias.length then p.bias[c]? else p.bias[Config.biasColumn p.ref.part b.wAddr c % max p.bias.length 1]?

/-- Writes one finished output element or accumulator of a row (R99, R103, R114, R155). -/
def writeElem (t : Nat) (v : StreamSt) (b : WBlock) (p : Part) (s : State) (e : Nat × Accum) : State :=
  let c := e.1
  let w := e.2.out.getD zero32
  if v.accMode = 1 ∨ v.accMode = 2 then
    ownWrite s t (v.accAddr * 64 + v.row * 256 + 4 * c) (leBytes 4 w.toNat)
  else
    let r := match biasOf p b c with
      | none => (w, 0)
      | some y => let z := fadd w y; (z.1, flagOr z.2 (readFlags y))
    let f := vecFmtD v.outFmt
    let n := narrow f p.outRound p.fp8Ovf r.1
    let s := if v.hist then histCount s t r.1 else s
    setFlags (ownWrite s t (v.outAddr * 64 + v.row * v.outStride * 64 + c * (f.width / 8)) (leBytes (f.width / 8) n.1)) t
      (flagOr r.2 n.2)

/-- The energy of a row step, in units of 10 pJ (R129). -/
def rowEnergy (wfmt : Nat) : Nat :=
  if wfmt ≤ 1 then 52 else if wfmt ≤ 3 then 50 else if wfmt ≤ 5 then 46 else if wfmt ≤ 7 then 40 else 38

/-- Whether the ramp lets the array issue a row step now (R126). -/
def rampAllows (x : Tile) : Bool :=
  match x.ramp with
  | .up q => decide (x.steps < x.stageLen * q / 4)
  | .full => true
  | _ => false

/-- The slice of activations that a row step broadcasts, and the bytes that it reads. -/
def sliceReads (b : WBlock) (v : StreamSt) (bn : Nat) : List Range :=
  let aw := ((actFmt b.afmt).getD .fp32).width
  let lo := v.slice * bn
  let n := min bn (b.k - lo)
  let a := v.inAddr * 64 + v.row * v.inStride * 64
  { lo := a + lo * aw / 8, len := packedLen n aw } ::
    (if v.slice = 0 ∧ 2 ≤ v.accMode then [{ lo := v.accAddr * 64 + v.row * 256, len := b.columns.length * 4 }] else [])

/-- One row step's arithmetic, counts and writes (R107, R92). -/
def doRowStep (s : State) (t : Nat) (b : WBlock) (v : StreamSt) (p : Part) (bn : Nat) : State :=
  let af := (actFmt b.afmt).getD .fp32
  let wf := (weightFmt b.wfmt).getD .fp32
  let lo := v.slice * bn
  let n := min bn (b.k - lo)
  let a := v.inAddr * 64 + v.row * v.inStride * 64
  let codes := (List.range n).map (fun i => storeElem s t a af.width (lo + i))
  let acts := codes.map (decodeFmt af)
  let inFlags := (codes.map (fun c => readFlags (toF32 af c))).foldl flagOr 0
  let r := if b.scaled && decide (b.group < bn) then b.group else bn
  let accs := (List.range b.columns.length).map (fun c =>
    addRuns b (b.columns.getD c { weights := [], scales := [] }) wf acts lo r (bn / r) lo (v.accs.getD c {}))
  let s := setFlags s t (flagOr inFlags ((accs.map (·.2)).foldl flagOr 0))
  let s := add64 (chargeStep s t (rowEnergy b.wfmt)) (tilReg t 0x20) 1
  let x := tile s t
  let x := { x with steps := x.steps + 1, part := some { p with rowSteps := p.rowSteps + 1 } }
  let last := decide (b.k ≤ lo + bn)
  if last then
    let s := setTile s t x
    let s := foldState (writeElem t v b p) s ((List.range b.columns.length).map (fun c => (c, (accs.getD c ({}, 0)).1)))
    let row := v.row + 1
    if row < v.rows then
      putTile s t { tile s t with stream := some { v with row := row, slice := 0, accs := rowStart s t v b.columns.length row, at_ := s.tb } }
    else endStream s t
  else putTile s t { x with stream := some { v with slice := v.slice + 1, accs := accs.map (·.1), at_ := s.tb } }

/-- A parity error in the array: it stops, the STREAM is set back to its first row with its accumulator rows restored, and a
refill starts (R125). One that is found in a part's retry or in the STREAM's re-run is judged by WINDOW like any other, as a fault of its
own: the spec does not say that it belongs to the occurrence that is open (DESIGN CHOICE, log entry 111). -/
def parityError (s : State) (t : Nat) (b : WBlock) (v : StreamSt) : State :=
  let s := bump s (tilReg t 0x6C)
  let s := foldState (fun s (e : Nat × List Word) =>
    foldState (fun s (c : Nat × Word) => ownWrite s t (v.accAddr * 64 + e.1 * 256 + 4 * c.1) (leBytes 4 c.2.toNat)) s
      ((List.range e.2.length).zip e.2)) s ((List.range v.firstAcc.length).zip v.firstAcc)
  let x := tile s t
  let s := putTile s t (rampStop s t { x with refill := true, stream := some { v with row := 0, slice := 0, accs := rowStart s t v b.columns.length 0, at_ := s.tb } })
  if withinWindow s 0 t then retireTile (setFld (bumpFld s (tilReg t 0x70) 7 0 1) (tilReg t 0) 11 8 2) t 2
  else transientFault (setFld (bumpFld s (tilReg t 0x70) 7 0 1) (tilReg t 0) 11 8 2) 0 2 t

/-- One row step (R107). The comparator's hold stops every row step (R435). -/
def rowStepEff (s : State) (t : Nat) (parityBad : Bool) (u : Upset) : State :=
  let x := tile s t
  match x.stream, x.loaded, x.part with
  | some v, some b, some p =>
    if tileLive s t && !x.refill && rampAllows x && !s.ledger.holdEmpty then
      match pairB b.wfmt b.afmt with
      | none => s
      | some bn =>
        if parityBad then parityError s t b v
        else
          match checkRead s t u (sliceReads b v bn) with
          | (s, false) => s
          | (s, true) => doRowStep s t b v p bn
    else s
  | _, _, _ => afterEnd s t parityBad u

/-- ROW_STEP (R107). -/
def execRowStep (tile : Nat) (parityBad : Bool) (upset : Upset) (s : State) : Host.Outcome State Fault Refusal :=
  ok (Sys2Proof.wellFormed (.rowStep tile parityBad upset)) (rowStepEff s tile parityBad upset)

/-- The refill ends, its words checked as it read them (R122), and the STREAM runs again from its first row (R125). -/
def arrayRefillEff (s : State) (t : Nat) (u : Upset) : State :=
  let x := tile s t
  match x.refill, x.stream, x.loaded with
  | true, some v, some b =>
    match checkRead s t u (loadReads b b.columns.length) with
    | (s, false) => s
    | (s, true) =>
      let b := { b with columns := readColumns s t b b.columns.length }
      startStream (setTile s t { tile s t with refill := false, loaded := some b }) t v b
  | _, _, _ => s

/-- ARRAY_REFILL_DONE (R125). -/
def execArrayRefillDone (tile : TileOp) (s : State) : Host.Outcome State Fault Refusal :=
  ok (Sys2Proof.wellFormed (.arrayRefillDone tile)) (arrayRefillEff s tile.tile tile.upset)

/-! ## LOADW and SWAP (R108, R109, R116) -/

/-- Whether a part's weights are still on their way to the tile. -/
def weightsAwaited (s : State) (t : Nat) (r : PartRef) : Bool :=
  s.mover.pieces.any (fun p => p.tile == t && p.run == r.run && p.kernel == r.kernel && p.part == r.part && p.use == 1)

/-- Issues a LOADW: the shadow array starts to fill. -/
def issueLoadw (t : Nat) (s : State) (w0 w1 : Nat) : State :=
  let x := tile s t
  let d := decodeLoad w0 w1
  if loadValid d.1 d.2 then
    let waits : Bool := match x.part with | none => false | some p => weightsAwaited s t p.ref
    if x.filling.isSome then putTile s t { x with loadWait := true }
    else if waits ∨ hazard x (loadReads d.1 d.2) [] then s
    else putTile s t (nextPc { x with shadow := none, loadWait := false, fillAt := s.tb
                                      filling := some { d.1 with columns := List.replicate d.2 { weights := [], scales := [] } } })
  else illegal s t

/-- LOADW (R116). -/
def execLoadw (tile : TileOp) (s : State) : Host.Outcome State Fault Refusal :=
  ok (Sys2Proof.wellFormed (.loadw tile)) (atPc s tile.tile 2 tile.upset (issueLoadw tile.tile))

/-- Issues a SWAP, which waits for the STREAM and for the shadow fill. -/
def issueSwap (t : Nat) (s : State) (_ _ : Nat) : State :=
  let x := tile s t
  if x.shadow.isSome || x.filling.isSome then trySwap (putTile s t (nextPc { x with swapWait := true, swapAt := s.tb })) t else illegal s t

/-- SWAP (R109). -/
def execSwap (tile : TileOp) (s : State) : Host.Outcome State Fault Refusal :=
  ok (Sys2Proof.wellFormed (.swap tile)) (atPc s tile.tile 3 tile.upset (issueSwap tile.tile))

/-- The input flags of a loaded block: its weights, group scales and second-level scales (R97). -/
def blockFlags (b : WBlock) : Nat :=
  let wf := (weightFmt b.wfmt).getD .fp32
  (b.columns.map (fun c =>
    flagOr ((c.weights.map (fun w => readFlags (toF32 wf w))).foldl flagOr 0)
      (if b.scaled then
        ((List.range (superGroups b.k b.group)).map (fun g => readFlags (BitVec.ofNat 32 (fieldAt c.scales (20 * g + 16) 4)))).foldl flagOr 0
       else 0))).foldl flagOr 0

/-- The shadow array finishes filling (R109). -/
def shadowFillEff (s : State) (t : Nat) (u : Upset) : State :=
  match (tile s t).filling with
  | none => afterEnd s t false u
  | some b =>
    if tileLive s t then
      match checkRead s t u (loadReads b b.columns.length) with
      | (s, false) => s
      | (s, true) =>
        let b := { b with columns := readColumns s t b b.columns.length }
        let bytes := b.columns.length * (packedLen b.k ((weightFmt b.wfmt).getD .fp32).width +
          (if b.scaled then 20 * superGroups b.k b.group else 0))
        let s := chargeStep (setFlags s t (blockFlags b)) t (6 * ceilDiv bytes 256)
        trySwap (putTile s t { tile s t with shadow := some b, filling := none, loadWait := false }) t
    else s

/-- SHADOW_FILL_DONE (R109). -/
def execShadowFillDone (tile : Nat) (upset : Upset) (s : State) : Host.Outcome State Fault Refusal :=
  ok (Sys2Proof.wellFormed (.shadowFillDone tile upset)) (shadowFillEff s tile upset)

/-! ## VEC (R117 to R120) -/

/-- Issues a VEC. -/
def issueVec (t : Nat) (s : State) (w0 w1 : Nat) : State :=
  let x := tile s t
  let v := decodeVec w0 w1
  if vecValid v then
    if x.vec.isSome ∨ hazard x (vecReads v) (vecWrites v) then s else putTile s t (nextPc { x with vec := some { v with at_ := s.tb } })
  else illegal s t

/-- VEC (R118). -/
def execVec (tile : TileOp) (s : State) : Host.Outcome State Fault Refusal :=
  ok (Sys2Proof.wellFormed (.vec tile)) (atPc s tile.tile 4 tile.upset (issueVec tile.tile))

/-- One result of a vector function that does not reduce (R118). -/
def vecFunc (f : Nat) (a b c : Word) : Word × Nat :=
  match f with
  | 0 => fadd a b
  | 1 => fsub a b
  | 2 => fmul a b
  | 3 => ffma a b c
  | 4 => (fmax a b, 0)
  | 5 => (fmin a b, 0)
  | 6 => (a, 0)
  | 7 => fexp a
  | 8 => flog a
  | 9 => frcp a
  | 0xA => frsqrt a
  | 0xD => (if fgt a b then one32 else zero32, 0)
  | _ => (if isZero c then b else a, 0)

/-- ⌈log2 n⌉. -/
def log2up (n : Nat) : Nat := if n ≤ 1 then 0 else Nat.log2 (n - 1) + 1

/-- Vector steps of a VEC (R120). -/
def vecSteps (v : VecSt) : Nat := ceilDiv v.n 256 + (if reduces v.func then log2up v.n else 0)

/-- An element of a VEC operand as FP32. -/
def vecElem (s : State) (t addr fmt i : Nat) : Word :=
  let f := vecFmtD fmt
  toF32 f (storeElem s t (addr * 64) f.width i)

/-- The ranges that one vector step reads. -/
def vecStepReads (v : VecSt) : List Range :=
  let w := (vecFmtD v.inFmt).width / 8
  let lo := v.step * 256
  let n := min 256 (v.n - lo)
  let r (a : Nat) : Range := { lo := a * 64 + lo * w, len := n * w }
  if n = 0 then []
  else r v.aAddr :: ((if usesB v.func then [r v.bAddr] else []) ++ (if usesC v.func then [r v.cAddr] else []))

/-- Writes one result element, counted where HIST is 1 (R99, R103). -/
def vecWrite (t : Nat) (v : VecSt) (p : Part) (s : State) (e : Nat × Word) : State :=
  let f := vecFmtD v.outFmt
  let n := narrow f p.outRound p.fp8Ovf e.2
  let s := if v.hist then histCount s t e.2 else s
  setFlags (ownWrite s t (v.dAddr * 64 + e.1 * (f.width / 8)) (leBytes (f.width / 8) n.1)) t n.2

/-- The elements of one vector step of a function that does not reduce: results, and flags. Where D overlaps an operand of the same VEC, a
step reads what the steps before it wrote, which the spec does not state (DESIGN CHOICE, log entry 113). -/
def vecChunk (s : State) (t : Nat) (v : VecSt) : List (Nat × Word) × Nat :=
  let lo := v.step * 256
  let rs := (List.range (min 256 (v.n - lo))).map (fun i =>
    let a := vecElem s t v.aAddr v.inFmt (lo + i)
    let b := if usesB v.func then vecElem s t v.bAddr v.inFmt (lo + i) else zero32
    let c := if usesC v.func then vecElem s t v.cAddr v.inFmt (lo + i) else zero32
    let r := vecFunc v.func a b c
    ((lo + i, r.1), flagOr r.2 (flagOr (readFlags a) (flagOr (readFlags b) (readFlags c)))))
  (rs.map (·.1), (rs.map (·.2)).foldl flagOr 0)

/-- The result of a reduction (R120). -/
def vecReduce (s : State) (t : Nat) (v : VecSt) : Word × Nat :=
  let es := (List.range v.n).map (vecElem s t v.aAddr v.inFmt)
  let f := (es.map readFlags).foldl flagOr 0
  if v.func = 0xB then
    let r := treeSum 17 es
    (r.1.getD zero32, flagOr f r.2)
  else (es.tail.foldl fmax (es.headD zero32), f)

/-- One vector step (R120). -/
def vectorStepEff (s : State) (t : Nat) (u : Upset) : State :=
  match (tile s t).vec, (tile s t).part with
  | some v, some p =>
    if tileLive s t then
      match checkRead s t u (vecStepReads v) with
      | (s, false) => s
      | (s, true) =>
        let s := add64 (chargeStep s t 31) (tilReg t 0x30) 1
        let last := decide (vecSteps v ≤ v.step + 1)
        let s :=
          if reduces v.func then
            (if last then
              let r := vecReduce s t v
              vecWrite t v p (setFlags s t r.2) (0, r.1)
             else s)
          else
            let r := vecChunk s t v
            foldState (vecWrite t v p) (setFlags s t r.2) r.1
        putTile s t { tile s t with vec := if last then none else some { v with step := v.step + 1, at_ := s.tb } }
    else s
  | _, _ => afterEnd s t false u

/-- VECTOR_STEP (R120). -/
def execVectorStep (tile : Nat) (upset : Upset) (s : State) : Host.Outcome State Fault Refusal :=
  ok (Sys2Proof.wellFormed (.vectorStep tile upset)) (vectorStepEff s tile upset)

/-! ## SEND (R117) -/

/-- The tiles of a part's placement. -/
def placement (s : State) (r : PartRef) : List Nat :=
  match findRun s r.run with
  | none => []
  | some run => match kernelOf s run r.kernel with | none => [] | some k => k.places.map (·.tile)

/-- Issues a SEND. -/
def issueSend (t : Nat) (s : State) (w0 w1 : Nat) : State :=
  let x := tile s t
  let v := decodeSend w0 w1
  match x.part with
  | none => s
  | some p =>
    if tileLive s v.dest && (placement s p.ref).contains v.dest && inStore (sendReads v) &&
        inStore [{ lo := v.dstAddr * 64, len := v.len * 64 }] then
      if v.len = 0 then putTile s t (nextPc x)
      else if hazard x (sendReads v) [] then s
      else putTile s t (nextPc { x with sends := x.sends ++ [{ v with at_ := s.tb }] })
    else illegal s t

/-- SEND (R117). -/
def execSend (tile : TileOp) (s : State) : Host.Outcome State Fault Refusal :=
  ok (Sys2Proof.wellFormed (.send tile)) (atPc s tile.tile 5 tile.upset (issueSend tile.tile))

/-- The last byte of a tile's oldest SEND is written in the destination store (R117). -/
def sendCompleteEff (s : State) (t : Nat) (u : Upset) : State :=
  match (tile s t).sends with
  | [] => afterEnd s t false u
  | v :: rest =>
    if tileLive s t then
      match checkRead s t u (sendReads v) with
      | (s, false) => s
      | (s, true) =>
        let s := ownWrite s v.dest (v.dstAddr * 64) (storeBytes s t (v.srcAddr * 64) (v.len * 64))
        let y := tile s v.dest
        let mine (a b : Part) : Bool := a.ref.run == b.ref.run && a.ref.kernel == b.ref.kernel
        let s := match y.part, (tile s t).part with
          | some q, some p =>
            if mine p q then setTile s v.dest { y with part := some { q with fromSend := (v.dstAddr * 64, v.len * 64) :: q.fromSend } } else s
          | _, _ => s
        putTile s t { tile s t with sends := rest }
    else s

/-- SEND_COMPLETE (R117). -/
def execSendComplete (tile : Nat) (upset : Upset) (s : State) : Host.Outcome State Fault Refusal :=
  ok (Sys2Proof.wellFormed (.sendComplete tile upset)) (sendCompleteEff s tile upset)

/-! ## SYNC and END (R154, R111) -/

/-- Issues a SYNC. -/
def issueSync (t : Nat) (s : State) (w0 _ : Nat) : State :=
  let x := tile s t
  let e := bitsOf w0 15 0
  if e ≤ 3 then
    let x := nextPc { x with syncWait := some e, syncAt := none }
    putTile s t { x with part := x.part.map (fun p =>
      { p with syncs0 := p.syncs0 + one (e == 0), syncs1 := p.syncs1 + one (e == 1) }) }
  else illegal s t

/-- SYNC (R154). -/
def execSync (tile : TileOp) (s : State) : Host.Outcome State Fault Refusal :=
  ok (Sys2Proof.wellFormed (.sync tile)) (atPc s tile.tile 6 tile.upset (issueSync tile.tile))

/-- The tiles that run the other parts of a dispatch of a kernel, with their parts: those that serve the same expert (R154, R175). -/
def kernelParts (s : State) (r : PartRef) : List (Tile × Part) :=
  s.tiles.filterMap (fun e => match e.2.part with
    | none => none
    | some p => if p.ref.run = r.run ∧ p.ref.kernel = r.kernel ∧ p.ref.expert = r.expert then some (e.2, p) else none)

/-- Whether parts of a dispatch of a kernel still wait in the queue of a tile. -/
def partsQueued (s : State) (r : PartRef) : Bool :=
  s.tiles.any (fun e => e.2.queue.any (fun q => q.run == r.run && q.kernel == r.kernel && q.expert == r.expert))

/-- How often each part of a dispatch that has ended reached SYNC 0 and SYNC 1. -/
def endedSyncs (s : State) (r : PartRef) : List (Nat × Nat) :=
  match findRun s r.run with
  | none => []
  | some run =>
    match run.kernels[r.kernel]? with
    | none => []
    | some k => k.ended.filterMap (fun x => if x.1 = r.expert then some x.2 else none)

/-- Whether the event that a part waits for has come (R154). A part that ended without reaching a SYNC as often never will. -/
def eventCame (s : State) (t : Nat) (p : Part) (e : Nat) : Bool :=
  match e with
  | 0 => !partsQueued s p.ref && (kernelParts s p.ref).all (fun q => decide (p.syncs0 ≤ q.2.syncs0)) &&
      (endedSyncs s p.ref).all (fun q => decide (p.syncs0 ≤ q.1))
  | 1 => !partsQueued s p.ref && (kernelParts s p.ref).all (fun q =>
      decide (p.syncs1 < q.2.syncs1) || (q.2.syncs1 == p.syncs1 && (q.1.syncWait != some 1 || q.1.sends.isEmpty))) &&
      (endedSyncs s p.ref).all (fun q => decide (p.syncs1 ≤ q.2))
  | 2 => (lacking s t p 2).isEmpty
  | _ => true

/-- Releases a tile that waits at SYNC. -/
def syncReleaseEff (s : State) (t : Nat) : State :=
  let x := tile s t
  match x.part, x.syncWait with
  | some p, some e => if eventCame s t p e then putTile s t { x with syncWait := none, syncAt := none } else s
  | _, _ => s

/-- SYNC_RELEASE (R154). -/
def execSyncRelease (tile : Nat) (s : State) : Host.Outcome State Fault Refusal :=
  ok (Sys2Proof.wellFormed (.syncRelease tile)) (syncReleaseEff s tile)

/-- Issues an END, once every earlier instruction has finished. -/
def issueEnd (t : Nat) (s : State) (_ _ : Nat) : State := if tileQuiet (tile s t) then endPart s t else s

/-- END (R111). -/
def execTileEnd (tile : TileOp) (s : State) : Host.Outcome State Fault Refusal :=
  ok (Sys2Proof.wellFormed (.tileEnd tile)) (atPc s tile.tile 0xF tile.upset (issueEnd tile.tile))

/-! ## Ramp (R126, R128) -/

/-- A ramp stage ends. -/
def rampStageEff (s : State) (t : Nat) : State :=
  let x := tile s t
  let len := fld s (tilReg t 0x14) 11 0
  match x.ramp with
  | .up q => putTile s t { x with ramp := if q < 3 then .up (q + 1) else .full, steps := 0, stageLen := len }
  | .down q => putTile s t { x with ramp := if 1 < q then .down (q - 1) else .rest, steps := 0, stageLen := len }
  | _ => s

/-- RAMP_STAGE_END (R126). -/
def execRampStageEnd (tile : Nat) (s : State) : Host.Outcome State Fault Refusal :=
  ok (Sys2Proof.wellFormed (.rampStageEnd tile)) (rampStageEff s tile)

/-- The gap ends with no STREAM ready, and ramp-down begins. -/
def idleGapEff (s : State) (t : Nat) : State :=
  let x := tile s t
  match x.ramp with
  | .gap => putTile s t { x with ramp := .down 3, steps := 0, stageLen := fld s (tilReg t 0x14) 11 0 }
  | _ => s

/-- IDLE_GAP_END (R126). -/
def execIdleGapEnd (tile : Nat) (s : State) : Host.Outcome State Fault Refusal :=
  ok (Sys2Proof.wellFormed (.idleGapEnd tile)) (idleGapEff s tile)

/-- Whether the array issues a filler step in this slot's stage (R126). -/
def fillerAllows (x : Tile) : Bool :=
  match x.ramp with
  | .gap => decide (x.steps < x.gapLen)
  | .down q => decide (x.steps < x.stageLen * q / 4)
  | _ => false

/-- A filler step (R128, R129). -/
def fillerStepEff (s : State) (t : Nat) : State :=
  let x := tile s t
  if tileLive s t && fillerAllows x && !s.ledger.holdEmpty then
    setTile (add64 (chargeStep s t 52) (tilReg t 0x28) 1) t { x with steps := x.steps + 1 }
  else s

/-- FILLER_STEP (R126). -/
def execFillerStep (tile : Nat) (s : State) : Host.Outcome State Fault Refusal :=
  ok (decide (tile < 1024)) (fillerStepEff s tile)

/-! ## Scrub, watchdog and retirement (R123, R132, R133, R138) -/

/-- A double-bit error that the scrubber finds at a word: counted, its address held, and no fault until the word is read (R123). -/
def scrubDouble (t : Nat) (s : State) (w : Nat) : State :=
  let s := setNat (bump s (tilReg t 0x64)) (tilReg t 0x68) (2 ^ 31 + w % 2 ^ 25)
  setTile s t { tile s t with badWords := w :: (tile s t).badWords.filter (fun b => b != w) }

/-- The patrol scrubber reads the next 64-byte unit of the store, in ascending order with a wrap (R123). The words of the unit that an
earlier read or sweep found uncorrectable count again; an upset's address names a word of the unit. -/
def storeScrubEff (s : State) (t : Nat) (u : Upset) : State :=
  if tileLive s t then
    let n := (tile s t).scrubAt
    let old := (tile s t).badWords.filter (fun w => w / 64 == n)
    let s := setTile s t { tile s t with scrubAt := (n + 1) % (storeLen / 64) }
    let s := foldState (scrubDouble t) s old
    match u with
    | .clean => s
    | .single _ => bump s (tilReg t 0x60)
    | .double a =>
      let w := n * 64 + a % 64 / 8 * 8
      if old.contains w then s else scrubDouble t s w
  else s

/-- TILE_STORE_SCRUB (R123). -/
def execTileStoreScrub (tile : Nat) (upset : Upset) (s : State) : Host.Outcome State Fault Refusal :=
  ok (Sys2Proof.wellFormed (.tileStoreScrub tile upset)) (storeScrubEff s tile upset)

/-- The TB times from which the watchdog times the operations that await their acknowledgement. A SYNC waits without limit, and the time of
its event's delivery counts alone (R132); while the comparator holds the array, no row step is started (R435). -/
def opStarts (s : State) (x : Tile) : List Nat :=
  (match x.stream with | some v => if s.ledger.holdEmpty then [] else [v.at_] | none => []) ++
  (match x.vec with | some v => [v.at_] | none => []) ++ (if x.filling.isSome then [x.fillAt] else []) ++ x.sends.map (·.at_) ++
  (if x.swapWait then [x.swapAt] else []) ++ (match x.syncWait, x.syncAt with | some _, some a => [a] | _, _ => [])

/-- Whether the watchdog of an operation has run out. -/
def opOverdue (s : State) (t : Nat) : Bool := (opStarts s (tile s t)).any (fun a => expired s a (regNat s (tilReg t 0x18)))

/-- The watchdog expires: a transient fault with cause 3, and the operation's acknowledgement is late from now on (R132, R133). -/
def watchdogEff (s : State) (t : Nat) : State :=
  if tileLive s t && (tile s t).part.isSome && opOverdue s t then
    let s := tileFault s t 3
    if tileLive s t then setTile s t { tile s t with lateOps := (tile s t).lateOps + 1 } else s
  else if tileLive s t && (tile s t).part.isNone && (tile s t).endedAt == some s.tb then tileFault s t 3
  else s

/-- WATCHDOG_EXPIRY (R132). -/
def execWatchdogExpiry (tile : Nat) (s : State) : Host.Outcome State Fault Refusal :=
  ok (Sys2Proof.wellFormed (.watchdogExpiry tile)) (watchdogEff s tile)

/-- A late acknowledgement is discarded and counted (R133). -/
def lateAckEff (s : State) (t : Nat) : State :=
  if (tile s t).lateOps ≠ 0 then bump (setTile s t { tile s t with lateOps := (tile s t).lateOps - 1 }) (tilReg t 0x74) else s

/-- LATE_ACK (R133). -/
def execLateAck (tile : Nat) (s : State) : Host.Outcome State Fault Refusal :=
  ok (Sys2Proof.wellFormed (.lateAck tile)) (lateAckEff s tile)

/-- A write of TIL_CTRL (R138). -/
def writeTilCtrl (s : State) (t v : Nat) : State :=
  if bitsOf v 31 24 = 0x5A then (if bitOf v 0 then tileFault s t 5 else s) else accErr s

/-- A write of TIL_HIST_CTRL (R140, R141); a MODE of 3 is discarded and counted. A window that is armed anew opens with the next part. -/
def writeHistCtrl (s : State) (t v : Nat) : State :=
  let r := tilReg t 0x80
  let mode := bitsOf v 1 0
  if mode = 3 then accErr s
  else
    let change := mode ≠ fld s r 1 0
    let s := if bitOf v 9 then histClear s t else s
    let s := if change ∨ bitOf v 9 ∧ rbit s r 4 then setTile s t { tile s t with windowOpen := false } else s
    let s := if bitOf v 9 ∨ change then setBit s r 4 false else s
    setBit (setFld s r 1 0 mode) r 8 (bitOf v 8)

/-- A write of TIL_RAMP: a value that puts either field outside its range is discarded whole and counted. -/
def writeTilRamp (s : State) (t v : Nat) : State :=
  if 16 ≤ bitsOf v 27 16 ∧ 64 ≤ bitsOf v 11 0 then setFld (setFld s (tilReg t 0x14) 27 16 (bitsOf v 27 16)) (tilReg t 0x14) 11 0 (bitsOf v 11 0)
  else accErr s

/-- A write of TIL_WDOG: below 1,000 it is discarded and counted. -/
def writeTilWdog (s : State) (t v : Nat) : State := if 1000 ≤ v then setNat s (tilReg t 0x18) v else accErr s

end Sys2Proof.Machine
end

