-- ==== Sys2Proof/Machine/Tier.lean ====
section
/-! DEFINITION. Movement and the memory behind it: the move ring, the placement directory, the pieces of kernel operands, the
patrol scrub, pseudo-channel faults and the checker (06_tiers.md). -/
namespace Sys2Proof.Machine

/-! ## Where bytes may come from and go to (R147, R182, R184) -/

/-- Whether an address with selector 0xFF lies in a window, or one with 0xFD in the model region. -/
def moveMapped (s : State) (a len : Nat) : Bool :=
  if selector a = 0xFD then decide (within a + len ≤ modelLen s)
  else selector a == 0xFF && mapped (settings s) (within a) len


/-- The combinations of a directory entry (R184). -/
def placeAllowed (home copy : Nat) : Bool :=
  (selector home == 0xFD && (inWindow copy isWeight || inWindow copy isBoard)) || (inWindow home isBoard && inWindow copy isWeight)


/-- Removes a directory entry. -/
def dropEntry (s : State) (e : DirEntry) : State :=
  showDir { s with mover := { s.mover with dir := s.mover.dir.filter (fun x => x.home != e.home) } }

/-- Reads a piece of a home address as the movement engines do: from the copy where an entry covers it; a copy that cannot
be read loses its entry, and the home is read (R187, R196). -/
def readPiece (s : State) (a len : Nat) : State × Option (List Byte) :=
  match coverOf s a len with
  | none => readAddr s a len
  | some e =>
    match readAddr s (e.copy + (a - e.home)) len with
    | (t, some l) => (t, some l)
    | (t, none) => readAddr (dropEntry t e) a len

/-- Reads up to 4 KiB of a home address: cut where a 4 KiB boundary, on which every entry begins and ends, falls within it (R184, R187). -/
def readMoved (s : State) (a len : Nat) : State × Option (List Byte) :=
  let k := 4096 - a % 4096
  if len ≤ k then readPiece s a len
  else
    let x := readPiece s a k
    let y := readPiece x.1 (a + k) (len - k)
    (y.1, match x.2, y.2 with | some l, some r => some (l ++ r) | _, _ => none)

/-! ## The move ring (R193, R194) -/

/-- Descriptors that wait to be started. -/
def ringLeft (s : State) : Nat :=
  let n := fld s TIER_MQ_SIZE 16 0
  if n = 0 then 0 else (regNat s TIER_MQ_TAIL + n - regNat s TIER_MQ_HEAD % n) % n - s.mover.moves.length

/-- The window address of a ring entry. -/
def ringEntry (s : State) (i : Nat) : Nat := nat64 s TIER_MQ_BASE + 32 * i

/-- A descriptor as a move. -/
def parseMove (i : Nat) (d : List Byte) : Move :=
  { index := i, op := fieldAt d 0 1, len := fieldAt d 4 4, src := fieldAt d 8 8, dst := fieldAt d 0x10 8 }

/-- Source and destination ranges of a move. -/
def moveSrc (m : Move) : Nat × Nat := (m.src, if m.op = 4 then 0 else m.len)
def moveDst (m : Move) : Nat × Nat := (m.dst, if m.op = 3 then 0 else m.len)

/-- Whether two ranges meet; an empty one meets none. -/
def rangesMeet (a b : Nat × Nat) : Bool := decide (0 < a.2) && decide (0 < b.2) && overlaps a.1 a.2 b.1 b.2

/-- Whether a move waits for an earlier one that has not finished (R194). -/
def moveWaits (s : State) (m : Move) : Bool :=
  s.mover.moves.any (fun e => e.status.isNone &&
    (rangesMeet (moveSrc m) (moveDst e) || rangesMeet (moveDst m) (moveDst e) || rangesMeet (moveDst m) (moveSrc e)))

/-- What a descriptor's fields fail on before its move begins: BAD_DESCRIPTOR for the reserved field, OP and LEN, then
BAD_RANGE for its addresses (R180, R184, R188, R193). -/
def moveCheck (s : State) (d : List Byte) (m : Move) : Option Nat :=
  let unit := if m.op = 4 then granule else if m.op = 1 then 64 else 4096
  if fieldAt d 2 2 ≠ 0 ∨ m.op < 1 ∨ 4 < m.op ∨ m.len < unit ∨ m.len % unit ≠ 0 then some stBAD_DESCRIPTOR
  else
    let copyOk := moveMapped s m.src m.len && moveMapped s m.dst m.len && !inWindow m.src isWeight && !inWindow m.dst isWeight &&
      !touchesCopy s m.dst m.len
    let placeOk := moveMapped s m.src m.len && moveMapped s m.dst m.len && placeAllowed m.src m.dst &&
      m.src % 4096 == 0 && m.dst % 4096 == 0
    let clearOk := selector m.dst == 0xFF && moveMapped s m.dst m.len && m.dst % granule == 0 && !touchesCopy s m.dst m.len
    let fine := if m.op = 1 then copyOk else if m.op = 2 then placeOk else if m.op = 4 then clearOk else true
    if fine then none else some stBAD_RANGE

/-- HEAD passes every descriptor that has completed with all before it (R193). -/
def advanceHead : Nat → State → State
  | 0, s => s
  | n + 1, s =>
    match s.mover.moves with
    | [] => s
    | m :: ms =>
      if m.status.isSome then
        let size := max 1 (fld s TIER_MQ_SIZE 16 0)
        advanceHead n (setNat { s with mover := { s.mover with moves := ms } } TIER_MQ_HEAD ((regNat s TIER_MQ_HEAD + 1) % size))
      else s

/-- Completes a started move: its status goes to its descriptor, and HEAD advances (R193). -/
def finishMove (s : State) (index st : Nat) : State :=
  let s := { s with mover := { s.mover with moves := updateWhere (fun m => m.index == index) (fun m => { m with status := some st }) s.mover.moves } }
  let s := if mappedSlm (settings s) (ringEntry s index) 32 then (slmWrite s (ringEntry s index + 1) (leBytes 1 st)).1 else s
  advanceHead s.mover.moves.length s

/-- Starts the next descriptor of the ring where its OP is the given one. A descriptor that fails its checks completes at
once; one that the ring cannot read, or whose OP is invalid, belongs to whichever start meets it (R193, R194). -/
def startMove (s : State) (op : Nat) : State :=
  if ringLeft s = 0 ∨ 3 ≤ fld s ARM_STAT 31 28 then s
  else
    let i := (regNat s TIER_MQ_HEAD + s.mover.moves.length) % fld s TIER_MQ_SIZE 16 0
    let bad (s : State) (st : Nat) : State :=
      finishMove { s with mover := { s.mover with moves := s.mover.moves ++ [{ index := i, op := 0, src := 0, dst := 0, len := 0 }] } } i st
    if mappedSlm (settings s) (ringEntry s i) 32 then
      match readRange s (ringEntry s i) 32 with
      | (t, none) => bad t stTIER_FAIL
      | (t, some d) =>
        let m := parseMove i d
        match moveCheck t d m with
        | some st => if m.op = op ∨ m.op < 1 ∨ 4 < m.op then bad t st else s
        | none =>
          if m.op = op ∧ !moveWaits t m then { t with mover := { t.mover with moves := t.mover.moves ++ [m] } } else s
    else bad s stBAD_RANGE

/-- Writes 64 bytes of a COPY: whether the write took place. -/
def copyWrite (s : State) (a : Nat) (data : List Byte) : State × Bool :=
  if selector a = 0xFD then
    match modelRegion s with
    | none => (s, false)
    | some r => (writeRegion s r (within a) data, true)
  else writeRange s (within a) data

/-- Moves one chunk of 64 bytes: where it cannot be read it leaves the destination's lines poisoned (R194). Whether it moved. -/
def copyChunk (s : State) (src dst : Nat) : State × Bool :=
  match readMoved s src 64 with
  | (t, some l) => copyWrite t dst l
  | (t, none) =>
    (if selector dst = 0xFF then
       foldState (fun s i => if lineOut s (within dst / 64 + i) then s else writePoison s (within dst / 64 + i)) t
         (List.range (linesOf (within dst) 64))
     else t, false)

/-- Moves `n` chunks of 64 bytes; one that cannot be read does not stop the move (R194). Whether every chunk moved. -/
def copyChunks : Nat → State → Nat → Nat → State × Bool
  | 0, s, _, _ => (s, true)
  | n + 1, s, src, dst =>
    let x := copyChunk s src dst
    let y := copyChunks n x.1 (src + 64) (dst + 64)
    (y.1, x.2 && y.2)

/-- Whether a write to the model region fits the write buffers (R351); a window takes every write. -/
def copyFits (s : State) (a len : Nat) : Bool :=
  if selector a = 0xFD then
    match modelRegion s with
    | none => false
    | some r => writeFits s r (within a / 4096) ((within a + len - 1) / 4096 - within a / 4096 + 1)
  else true

/-- Records the interrupting fault behind a range that its requester cannot be given: an unreachable package, an unreadable flash
unit that is not on record as lost, or an uncorrectable line (R482, R483). -/
def homeFault (s : State) (a len : Nat) : State :=
  if selector a = 0xFD then
    match modelRegion s with
    | none => s
    | some r =>
      let b := within a / 4096
      let n := (within a + len - 1) / 4096 - b + 1
      match (unitsOf s r b n).find? (fun h => !reachable s h.1) with
      | some h => noteUnreachable s h.1
      | none => if (firstLost s r b n).isSome then s else interrupting s 4 allBits
  else
    let t := reachUe s (within a) len
    if t.dram.reached.any (fun l => decide (within a ≤ l * 64 + 63) && decide (l * 64 < within a + len)) then t
    else interrupting s 3 (if onBoard (within a / 64) then allBits else pcOfLine s (within a / 64))

/-- Moves chunks of 64 bytes for as long as the write buffers take them: the state, and how many of `n` are left (R351). -/
def copySome : Nat → State × Bool → Nat → Nat → (State × Bool) × Nat
  | 0, x, _, _ => (x, 0)
  | n + 1, x, src, dst =>
    if copyFits x.1 dst 64 then
      let y := copyChunk x.1 src dst
      copySome n (y.1, x.2 && y.2) (src + 64) (dst + 64)
    else (x, n + 1)

/-- A COPY's effect; a failing chunk that a requester met is an interrupting fault (R194, R482). What the write buffers do not take waits, and the
COPY goes on from there. -/
def doCopy (s : State) (m : Move) : State :=
  let n := (m.len - m.moved) / 64
  let s := if m.moved = 0 then invalidate s m.dst m.len else s
  if copyFits s (m.dst + m.moved) (m.len - m.moved) then
    let x := copyChunks n s (m.src + m.moved) (m.dst + m.moved)
    if x.2 && !m.failed then finishMove x.1 m.index stOK else finishMove (homeFault x.1 m.src m.len) m.index stTIER_FAIL
  else
    let x := copySome n (s, !m.failed) (m.src + m.moved) (m.dst + m.moved)
    let t := x.1.1
    { t with mover := { t.mover with moves := updateWhere (fun e => e.index == m.index && e.status.isNone) (fun e =>
        { e with moved := m.len - 64 * x.2, failed := !x.1.2 }) t.mover.moves } }

/-- A PLACE's effect: the copy first, then the entry (R185, R186). -/
def doPlace (s : State) (m : Move) : State :=
  if s.mover.dir.any (fun e => overlaps m.src m.len e.home e.len || overlaps m.dst m.len e.copy e.len) then finishMove s m.index 0x15
  else if 65536 ≤ s.mover.dir.length then finishMove s m.index 0x14
  else
    let x := copyChunks (m.len / 64) (invalidate s m.dst m.len) m.src m.dst
    if x.2 then
      let e : DirEntry := { home := m.src, copy := m.dst, len := m.len }
      finishMove (showDir { x.1 with mover := { x.1.mover with dir := x.1.mover.dir ++ [e] } }) m.index stOK
    else finishMove (homeFault x.1 m.src m.len) m.index stTIER_FAIL

/-- An EVICT's effect (R188). -/
def doEvict (s : State) (m : Move) : State :=
  match s.mover.dir.find? (fun e => e.home == m.src && e.len == m.len) with
  | none => finishMove s m.index stBAD_RANGE
  | some e => finishMove (dropEntry s e) m.index stOK

/-- A CLEAR's effect (R202). -/
def doClear (s : State) (m : Move) : State :=
  finishMove (clearGranules (m.len / granule) (invalidate s m.dst m.len) (within m.dst / granule)) m.index stOK

/-- A started move completes. -/
def moveCompleteEff (s : State) (index : Nat) : State :=
  match s.mover.moves.find? (fun m => m.index == index && m.status.isNone) with
  | none => s
  | some m => if m.op = 1 then doCopy s m else if m.op = 2 then doPlace s m else if m.op = 3 then doEvict s m else doClear s m

/-- COPY (R193). -/
def execCopy (s : State) : Host.Outcome State Fault Refusal := ok (Sys2Proof.wellFormed .copy) (startMove s 1)

/-- PLACE (R186). -/
def execPlace (s : State) : Host.Outcome State Fault Refusal := ok (Sys2Proof.wellFormed .place) (startMove s 2)

/-- EVICT (R188). -/
def execEvict (s : State) : Host.Outcome State Fault Refusal := ok (Sys2Proof.wellFormed .evict) (startMove s 3)

/-- CLEAR (R202). -/
def execClear (s : State) : Host.Outcome State Fault Refusal := ok (Sys2Proof.wellFormed .clear) (startMove s 4)

/-- MOVE_COMPLETE (R193). -/
def execMoveComplete (index : Nat) (s : State) : Host.Outcome State Fault Refusal :=
  ok (Sys2Proof.wellFormed (.moveComplete index)) (moveCompleteEff s index)

/-- A power of two within bounds. -/
def powerOfTwo (v lo hi : Nat) : Bool := decide (lo ≤ v) && decide (v ≤ hi) && 2 ^ Nat.log2 v == v

/-- A write of TIER_MQ_SIZE. -/
def writeMqSize (s : State) (v : Nat) : State :=
  let n := v % 2 ^ 17
  if regNat s TIER_MQ_HEAD ≠ regNat s TIER_MQ_TAIL ∨ !(n == 0 || powerOfTwo n 16 65536) then accErr s
  else setNat (setNat (setNat s TIER_MQ_SIZE n) TIER_MQ_HEAD 0) TIER_MQ_TAIL 0

/-- A write of a word of TIER_MQ_BASE; its low five bits must be 0. -/
def writeMqBase (s : State) (off v : Nat) : State :=
  if regNat s TIER_MQ_HEAD ≠ regNat s TIER_MQ_TAIL ∨ (off = TIER_MQ_BASE ∧ v % 32 ≠ 0) then accErr s else setNat s off v

/-- A write of TIER_MQ_TAIL. -/
def writeMqTail (s : State) (v : Nat) : State := setNat s TIER_MQ_TAIL (v % 65536)

/-! ## Pieces of kernel operands (R187, R191, R192, R195 to R197) -/

/-- The piece of an identifier. -/
def findPiece (s : State) (id : Nat) : Option Piece := s.mover.pieces.find? (fun p => p.id == id)

/-- Changes a piece. -/
def modPiece (s : State) (id : Nat) (f : Piece → Piece) : State :=
  { s with mover := { s.mover with pieces := updateWhere (fun p => p.id == id) f s.mover.pieces } }

/-- Removes a piece. -/
def dropPiece (s : State) (id : Nat) : State :=
  { s with mover := { s.mover with pieces := s.mover.pieces.filter (fun p => p.id != id) } }


/-- The cause of a piece that is being read from a tier (R195). -/
def tierCause (tier : Nat) : Nat := if tier = 4 then 4 else if tier = 3 then 6 else 7

/-- The package from which an address is read across the internal ports: the board memory's, or that of the unit's channel (R26, R27); none for a
stack. -/
def packageOf (s : State) (a : Nat) : Option Nat :=
  if selector a = 0xFD then (match modelRegion s with | none => none | some r => some (homeOf s r (within a / 16384)).1)
  else if inWindow a isBoard then some (boardPkg (within a / 64))
  else none

/-- Where a piece is read: the copy that covers it, or its home. -/
def sourceOf (s : State) (p : Piece) : Nat :=
  match (if p.viaCopy then coverOf s p.addr p.len else none) with
  | some e => e.copy + (p.addr - e.home)
  | none => p.addr

/-- A piece's request goes out: on an internal port where its source lies in a package (R279, R319). -/
def requestPiece (s : State) (id : Nat) : State :=
  match findPiece s id with
  | none => s
  | some p =>
    match packageOf s (sourceOf s p) with
    | none => modPiece s id (fun p => { p with port := none })
    | some n =>
      let x := requestOn s n p
      modPiece x.1 id (fun p => { p with port := x.2 })

/-- The directory answers a piece: it is served from the copy where one covers it, and a wrong hint reissues it (R187, R192). -/
def lookupEff (s : State) (id : Nat) : State :=
  match findPiece s id with
  | none => s
  | some p =>
    if p.looked then s
    else
      let c := coverOf s p.addr p.len
      let tier := tierOf (match c with | some e => e.copy | none => p.addr)
      let s := requestPiece (modPiece s id (fun p => { p with looked := true, viaCopy := c.isSome, cause := tierCause tier })) id
      if p.hint ≠ 0 ∧ p.hint ≠ tier then bump s TIER_HINT_MISS else s

/-- DIRECTORY_LOOKUP_DONE (R192). -/
def execDirectoryLookupDone (piece : Nat) (s : State) : Host.Outcome State Fault Refusal :=
  ok (Sys2Proof.wellFormed (.directoryLookupDone piece)) (lookupEff s piece)

/-- A piece's home cannot give it: the operand fails, and the kernel ends with TIER_FAIL (R196, R482). -/
def pieceFails (s : State) (p : Piece) : State :=
  failKernel (homeFault s p.addr p.len) p.run p.kernel stTIER_FAIL

/-- A piece arrives with its data; experts whose movements are complete are queued (R175, R191). -/
def deliver (s : State) (p : Piece) (dst : Nat) (l : List Byte) : State := queueFar (ownWrite (dropPiece s p.id) p.tile dst l)

/-- A read of a piece met an error that the line code cannot correct: at a window the line it met is counted and rewritten poisoned, unless it is
poison already (R206). -/
def meetUncorrectable (s : State) (src len k : Nat) : State :=
  let line := within src / 64 + k % max 1 (linesOf (within src) len)
  if selector src = 0xFF ∧ !lineOut s line ∧ !poisoned s line then poisonLine s line else s
/-- A piece arrives, or its read fails (R187, R196, R197). -/
def pieceArrivalEff (s : State) (id dst : Nat) (res : PieceResult) : State :=
  match findPiece s id with
  | none => s
  | some p =>
    if p.expiredAt == some s.tb then bump (modPiece s id (fun p => { p with expiredAt := none })) TIER_LATE
    else if !p.looked ∨ storeLen < dst + p.len then s
    else
      let c := if p.viaCopy then coverOf s p.addr p.len else none
      let src := sourceOf s p
      let x := readAddr (match res with | .uncorrectable k => meetUncorrectable s src p.len k | _ => s) src p.len
      match (if res = .good then x.2 else none), c with
      | some l, _ => deliver x.1 p dst l
      | none, some e => requestPiece (modPiece (dropEntry x.1 e) id (fun p => { p with viaCopy := false, cause := tierCause (tierOf p.addr) })) id
      | none, none => pieceFails x.1 p

/-- PIECE_ARRIVAL (R191). -/
def execPieceArrival (piece dst : Nat) (result : PieceResult) (s : State) : Host.Outcome State Fault Refusal :=
  ok (Sys2Proof.wellFormed (.pieceArrival piece dst result)) (pieceArrivalEff s piece dst result)

/-- The limit of R197 expires on a piece that has two sources: it is reissued to the other one. The limit counts from the piece's issue (R8). -/
def mvLimitEff (s : State) (id : Nat) : State :=
  match findPiece s id with
  | none => s
  | some p =>
    if expired s p.at_ (regNat s TIER_MV_LIMIT) ∧ p.looked ∧ !p.reissued ∧ (coverOf s p.addr p.len).isSome then
      requestPiece (modPiece s id (fun p => { p with viaCopy := !p.viaCopy, reissued := true, cause := 1, expiredAt := some s.tb })) id
    else s

/-- MV_LIMIT_EXPIRY (R197). -/
def execMvLimitExpiry (piece : Nat) (s : State) : Host.Outcome State Fault Refusal :=
  ok (Sys2Proof.wellFormed (.mvLimitExpiry piece)) (mvLimitEff s piece)

/-! ## The patrol scrub (R205, R206) -/

/-- A patrol that falls due in PS4 passes through PS3 and back (R421). -/
def maintenanceWake (s : State) : State := if fld s HST_PS 2 0 = 4 then bump s HST_PS_WAKES else s

/-- An uncorrectable line of BM_WBUF loses one block of a dirty unit (R361). The manual does not say which unit lies where:
unit `i` of the buffer takes lines 256 × i to 256 × i + 255 (log entry 19). -/
def wbufLineLost (s : State) (p line : Nat) : State :=
  let s := bump s (ftlReg p 0x48)
  let x := pkg s p
  match x.wbuf[line / 256]? with
  | none => s
  | some d =>
    let b := line % 256 / 64
    let s := setPkg s p { x with wbuf := modAt (fun d => { d with lostMask := Nat.lor d.lostMask (2 ^ b) }) x.wbuf (line / 256) }
    if bitOf d.lostMask b then s
    else interrupting (addLedger s (lossRecs s p d.lunit (2 ^ b) 3 0 0 0 0) 1) 3 allBits

/-- A vector cache loses a line: the vector of that line is dropped, and its next fetch reads flash (R207, R277). Which of the cached vectors it
is, is a free value of the line (log entry 132). -/
def cacheLineLost (s : State) (p idx : Nat) : State :=
  let mine := s.search.cache.filter (fun v => v.package == p)
  match mine[Config.boardUse idx % max 1 mine.length]? with
  | none => s
  | some v => { s with search := { s.search with cache := s.search.cache.filter (fun w => w != v) } }

/-- A line of a package's BM_SCAN partition is lost (R239). Whether it held a scan buffer, a Bloom filter's copy or a table is a free value of the
line (log entry 132): a buffer is read again from flash, a copy from its source, whose bus error ends the job with TIER_FAIL, and a table is
rebuilt while what reads its region waits. -/
def scanLineLost (s : State) (p idx : Nat) : State :=
  let s := bump s (scnReg p 0x50)
  let u := Config.boardUse idx
  if u % 4 = 1 then
    match s.scan.jobs.find? (fun j => j.index == u / 4 && !j.done && !j.slabsLeft.isEmpty && !j.bloom.isEmpty) with
    | none => s
    | some j =>
      let x := readRange s (within (fieldAt j.prog 8 8)) j.bloom.length
      if x.2.isSome then x.1
      else modJob x.1 j.index (fun j => { j with status := some stTIER_FAIL })
  else if u % 4 = 2 then
    match s.nv.layout[u / 4]? with
    | none => s
    | some r =>
      if slabRegion r then { s with scan := { s.scan with rebuilding := (r.type, r.id) :: s.scan.rebuilding } } else s
  else s

/-- What an uncorrectable board line costs, by the partition it lies in (R207, R239, R361). -/
def boardLineLost (s : State) (p idx : Nat) : State :=
  let g := idx / (granule / 64)
  let b := boardPart (settings s) p
  if g < b.map then s
  else if g < b.map + b.wbuf then wbufLineLost s p (idx - b.map * (granule / 64))
  else if g < b.map + b.wbuf + b.vcache then cacheLineLost s p idx
  else if g < b.map + b.wbuf + b.vcache + b.scan then scanLineLost s p idx
  else s

/-- An image in descriptor staging loses a line: its graph is unloaded, and its runs end with TIER_FAIL (R145, R207). -/
def stagingLost (s : State) (slot : Nat) : State :=
  match graphOf s slot with
  | none => s
  | some _ =>
    let ws := s.grf.waiting.filter (fun w => w.slot == slot)
    let s := { s with grf := { s.grf with waiting := s.grf.waiting.filter (fun w => w.slot != slot) } }
    let s := foldState (fun s (r : Run) => if r.slot = slot then
      stopRun (modRun s r.id (fun r => { r with cancelled := stTIER_FAIL })) r.id stTIER_FAIL stSKIPPED else s) s s.grf.runs
    let s := foldState (fun s w => endWaiting s w stTIER_FAIL stSKIPPED) s ws
    let s := foldState (fun s (e : Nat × Seq) => if e.2.slot = slot ∧ 0 < e.2.state ∧ e.2.state < 5 then endSeq s e.1 stTIER_FAIL 5 else s) s s.grf.seqs
    showGrf (dropResidents { s with grf := { s.grf with slots := Sparse.set none s.grf.slots slot none } } slot)

/-- A line of the stack granules that the device reserves is lost: descriptor staging, the sequence table or a work list (R145, R207). The manual
does not say which lines hold what: a free value of the line (log entry 128). -/
def reservedLineLost (s : State) (line : Nat) : State :=
  let u := Config.reservedUse line
  let slot := u / 4 % 256
  if u % 4 = 1 then stagingLost s slot
  else if u % 4 = 2 then
    let i := u / 4 % 4096
    if 0 < (seqAt s i).state ∧ (seqAt s i).state < 5 then endSeq s i stTIER_FAIL 5 else s
  else if u % 4 = 3 then
    foldState (fun s (e : Nat × Nat × Nat) =>
      if 0 < (seqAt s e.1).state ∧ (seqAt s e.1).state < 5 then endSeq s e.1 stTIER_FAIL 5 else s) s (Sparse.get [] s.grf.workLists slot)
  else s

/-- What an uncorrectable line costs the requester that it belongs to, beside an error at its own reads (R207). -/
def lineLost (s : State) (line : Nat) : State :=
  if onBoard line then boardLineLost s (boardPkg line) (lineNumber s line)
  else if 2 ^ 55 ≤ line * 64 then reservedLineLost s line
  else s

/-- The scrub reads a line: what its code finds is corrected and written back, or poisoned. -/
def scrubLine (s : State) (line : Nat) (found : LineError) : State :=
  if lineFenced s line then s
  else
    let t := settle s line
    if t.2 = 2 then lineLost t.1 line
    else
      match found with
      | .clean => t.1
      | .corrected => countCorrected t.1 line
      | .uncorrectable => if poisoned t.1 line then t.1 else lineLost (poisonLine t.1 line) line

/-- The number of a sweep: those of the pseudo-channels first, then one for each package, whose channels are swept together. -/
def sweepKey (board : Bool) (unit pc : Nat) : Nat := if board then 1280 + unit else unit * 64 + pc

/-- Lines that a sweep covers before it begins again (R198). -/
def sweepLen (board : Bool) : Nat := if board then 12000000000 else 15625000

/-- The patrol scrub reads the line that its sweep has come to, lines in ascending order from line 0 at start-up (R205). A command that names
another line is none that the sweep makes. -/
def patrolScrubEff (s : State) (board : Bool) (unit pc idx : Nat) (found : LineError) : State :=
  let key := sweepKey board unit pc
  if rbit s TIER_STAT 29 ∧ idx = Sparse.get 0 s.dram.sweeps key then
    match lineAt s board unit pc idx with
    | none => s
    | some line =>
      let s := { s with dram := { s.dram with sweeps := Sparse.set 0 s.dram.sweeps key ((idx + 1) % sweepLen board) } }
      scrubLine (maintenanceWake s) line found
  else s

/-- MEMORY_PATROL_SCRUB (R205). -/
def execMemoryPatrolScrub (board : Bool) (unit pc line : Nat) (found : LineError) (s : State) : Host.Outcome State Fault Refusal :=
  ok (Sys2Proof.wellFormed (.memoryPatrolScrub board unit pc line found)) (patrolScrubEff s board unit pc line found)

/-! ## Pseudo-channel faults (R208 to R210) -/

/-- A pseudo-channel in use records a transient fault. -/
def pcFaultEff (s : State) (p cause : Nat) (exhausted : Bool) : State :=
  if s.nv.retiredPcs.contains p || s.nv.fencedPcs.contains p then s else pcFault s p cause exhausted

/-- PSEUDO_CHANNEL_FAULT (R208). -/
def execPseudoChannelFault (stack pc cause : Nat) (exhausted : Bool) (s : State) : Host.Outcome State Fault Refusal :=
  ok (Sys2Proof.wellFormed (.pseudoChannelFault stack pc cause exhausted)) (pcFaultEff s (stack * 64 + pc) cause exhausted)

/-- A migration ends: each line keeps its address; a line that cannot be read moved as a poisoned line (R209). -/
def migrationEff (s : State) (p : Nat) : State :=
  if s.mover.migrating.contains p then
    let mine := (s.dram.raws.map (·.1)).filter (fun l => !onBoard l && pcOfLine s l == p)
    let s := foldState (fun s l => (settle s l).1) s mine
    let left := s.mover.migrating.filter (fun q => q != p)
    setBit { s with mover := { s.mover with migrating := left } } TIER_STAT 30 (!left.isEmpty)
  else s

/-- MIGRATION_DONE (R209). -/
def execMigrationDone (stack pc : Nat) (s : State) : Host.Outcome State Fault Refusal :=
  ok (Sys2Proof.wellFormed (.migrationDone stack pc)) (migrationEff s (stack * 64 + pc))

/-! ## The checker (R211, R212) -/

/-- The line that TIER_CHK_LOC and TIER_CHK_LINE name, where the checker may act on it. -/
def chkLine (s : State) : Option Nat :=
  match lineAt s (rbit s TIER_CHK_LOC 31) (fld s TIER_CHK_LOC 28 24) (fld s TIER_CHK_LOC 21 16) (nat64 s TIER_CHK_LINE) with
  | none => none
  | some line => if lineOut s line then none else some line

/-- Reports a checker command. -/
def chkDone (s : State) (result : Nat) : State := setNat s TIER_CHK_STAT (2 ^ 31 + result)

/-- Loads TIER_CHK_DATA. -/
def loadChkData (s : State) (l : List Byte) : State := setWords s TIER_CHK_DATA (wordsOf l 16)

/-- WRITE_RAW's effect: the line's 72 bytes are stored without encoding, and the line is remembered (R211, R212). -/
def chkWriteRaw (s : State) (line : Nat) : State :=
  let data := (List.range 16).map (fun w => regNat s (TIER_CHK_DATA + 4 * w))
  let v := data.foldr (fun w acc => w + 2 ^ 32 * acc) 0 + 2 ^ 512 * nat64 s TIER_CHK_CODE
  let clean : Bool := match Sparse.get none s.dram.raws line with
    | none => false
    | some r => Config.lineCheck (BitVec.ofNat 512 r.toNat) (BitVec.ofNat 8 (r.toNat / 2 ^ 512)) == BitVec.ofNat 56 (r.toNat / 2 ^ 520)
  let s := if clean then (settle s line).1 else s
  let rem := (line :: s.dram.remembered.filter (fun l => l != line)).take 16
  { s with dram := { s.dram with raws := Sparse.set none s.dram.raws line (some (BitVec.ofNat 576 v)), remembered := rem } }

/-- READ_RAW's effect. -/
def chkReadRaw (s : State) (line : Nat) : State :=
  let r := (rawLine s line).toNat
  set64 (loadChkData s (leBytes 64 r)) TIER_CHK_CODE (r / 2 ^ 512)

/-- READ's effect with its RESULT. -/
def chkRead (s : State) (line : Nat) : State :=
  let t := settle s line
  if poisoned t.1 line then chkDone t.1 2
  else if t.2 = 1 then chkDone (loadChkData t.1 (if readsZero t.1 line then List.replicate 64 0 else lineBytes t.1 line)) 1
  else if readsZero t.1 line then chkDone (loadChkData t.1 (List.replicate 64 0)) 3
  else chkDone (loadChkData t.1 (lineBytes t.1 line)) 0

/-- A write of TIER_CHK_CTRL: without the key it is discarded and counted (R211). -/
def writeChkCtrl (s : State) (v : Nat) : State :=
  if bitsOf v 31 24 ≠ 0xC3 then accErr s
  else
    let s := setBit (setNat s TIER_CHK_CTRL (v % 2)) TIER_STAT 28 (bitOf v 0)
    if bitOf v 0 ∧ bitsOf v 5 4 ≠ 0 then
      match chkLine s with
      | none => chkDone s 4
      | some line =>
        if bitsOf v 5 4 = 1 then chkDone (chkWriteRaw s line) 0
        else if bitsOf v 5 4 = 2 then chkDone (chkReadRaw s line) 0
        else chkRead s line
    else s

end Sys2Proof.Machine
end

