-- ==== Sys2Proof/Machine/Nvm.lean ====
section
/-! DEFINITION. The commands of the NVM and Subsystem Local Memory sets: reads, writes, their order, and what they wait for
(R340, R351, R398, R401, R402, R411 to R415). -/
namespace Sys2Proof.Machine

/-! ## What a held command is -/

def kRead : Nat := 1
def kWrite : Nat := 2
def kZeroes : Nat := 3
def kDealloc : Nat := 4
def kFlush : Nat := 5
def kDsm : Nat := 6
def kMemCopy : Nat := 7
def kMemRead : Nat := 8
def kMemWrite : Nat := 9
def kFormat : Nat := 10

/-- A submission in or on its way to a non-operational state returns the device to its last operational state (R420): at once, or once
the entry under way has ended. -/
def wakeUp (s : State) : State :=
  if rbit s HST_PS 3 then { s with host := { s.host with wake := true } }
  else if 3 ≤ fld s HST_PS 2 0 then { s with host := { s.host with exiting := true } }
  else s

/-- Holds a command until what it waits for has happened. -/
def hold (s : State) (h : Held) : State := wakeUp { s with host := { s.host with held := s.host.held ++ [h] } }

/-- Whether a command of a kind writes an NVM namespace. -/
def isWriteKind (k : Nat) : Bool := k == kWrite || k == kZeroes || k == kDealloc || k == kDsm

/-- The block ranges that a held command names. -/
def heldRanges (h : Held) : List (Nat × Nat) := if h.kind = kDsm ∨ h.kind = kMemCopy then h.ranges else [(h.slba, h.nlb)]

/-- Whether two lists of block ranges share a block. -/
def blocksMeet (a b : List (Nat × Nat)) : Bool := a.any (fun x => b.any (fun y => overlaps x.1 x.2 y.1 y.2))

/-- Whether a command must wait for one admitted before it: they overlap, and one of them is a write (R411, R412). -/
def mustFollow (s : State) (h : Held) : Bool :=
  let w (o : Nat) : Bool := o == 1 || o == 8 || o == 9
  let before := s.host.ctxs.takeWhile (fun c => c.tag != h.tag)
  let listed := s.host.ctxs.any (fun c => c.tag == h.tag)
  (listed && before.any (fun c => c.nsid == h.nsid && (w c.opcode || (c.opcode == 2 && isWriteKind h.kind)) &&
    blocksMeet [(c.first, c.count)] (heldRanges h))) ||
  s.host.held.any (fun c => c.nsid == h.nsid && c.tag != h.tag && (isWriteKind c.kind || ((c.kind == kRead || c.kind == kMemCopy) && isWriteKind h.kind)) &&
    blocksMeet (heldRanges c) (heldRanges h))

/-- An NVM namespace's region (R400). -/
def nsRegion (s : State) (nsid : Nat) : Option Region := if 1 ≤ nsid ∧ nsid ≤ 128 then findRegion s 1 nsid else none

/-- Whether the device holds commands: it is in, on its way to or on its way from a non-operational state, the link retrains, or a
rebind is under way (R78, R394, R420). -/
def transfersHeld (s : State) : Bool :=
  s.host.retraining || s.host.exiting || rbit s HST_PS 3 || decide (3 ≤ fld s HST_PS 2 0) || decide (fld s ARM_STAT 31 28 = 6)

/-- Whether every fitted package is ready (R356). -/
def allReady (s : State) : Bool := (List.range s.build.sp).all (pkgReady s)

/-- Whether one of a package's internal ports is retraining (R415). -/
def portsRetraining (s : State) (p : Nat) : Bool :=
  !(port s (16 + 2 * p)).retrain.isEmpty || !(port s (17 + 2 * p)).retrain.isEmpty

/-- Completes a command whose package is unreachable, which is an interrupting fault of that package (R26, R415, R482). -/
def failUnreachable (s : State) (tag : CmdTag) (p : Nat) : State :=
  fail (noteUnreachable s p) tag 7 0x1A (one (!portsRetraining s p))

/-! ## Writing zeros and deallocating (R411) -/

/-- Zeros or deallocates `n` blocks from `b`: with deallocation a whole unit becomes UNMAPPED, and other blocks are written as
zeros. -/
def zeroBlocks (dealloc : Bool) : Nat → State → Region → Nat → Nat → State
  | 0, s, _, _, _ => s
  | f + 1, s, r, b, n =>
    if n = 0 then s
    else if dealloc ∧ b % 4 = 0 ∧ 4 ≤ n then
      let h := homeOf s r (b / 4)
      zeroBlocks dealloc f (deallocUnit s h.1 h.2) r (b + 4) (n - 4)
    else zeroBlocks dealloc f (writeBlock s r b (List.replicate 4096 0)) r (b + 1) (n - 1)

/-- The units of a range that a deallocation does not cover whole. -/
def partUnits (s : State) (r : Region) (b n : Nat) : List (Nat × Nat) :=
  if n = 0 then []
  else ((if b % 4 ≠ 0 then [b] else []) ++ (if (b + n) % 4 ≠ 0 ∧ (b % 4 = 0 ∨ b / 4 ≠ (b + n - 1) / 4) then [b + n - 1] else [])).map
    (fun x => homeOf s r (x / 4))


/-- The units that a write command enters in the write buffer. -/
def writeUnits (s : State) (r : Region) (h : Held) : List (Nat × Nat) :=
  if h.kind = kWrite ∨ h.kind = kZeroes then unitsOf s r h.slba h.nlb
  else (heldRanges h).foldl (fun l x => l ++ partUnits s r x.1 x.2) []

/-- The package units that each held write of the host goes on to write. -/
def heldWrites (s : State) : List (List (Nat × Nat)) :=
  (s.host.held.filter (fun h => isWriteKind h.kind)).filterMap (fun h => (nsRegion s h.nsid).map (fun r => writeUnits s r h))

/-- Whether a write of some units waits for the watermark of a package that it touches (R351). -/
def waitsOn (s : State) (p : Nat) (us : List (Nat × Nat)) : Bool := us.any (fun u => u.1 == p) && !unitsFit s us

/-- Shows in FTL_STAT.THROTTLED whether a write of the host waits for a package's watermark (R351). -/
def showThrottle (s : State) : State :=
  foldState (fun s p => setBit s (ftlReg p 0) 27 ((heldWrites s).any (waitsOn s p))) s (List.range s.build.sp)

/-! ## The commands -/

/-- Whether a write to a region meets a half in stage 4 (R381, R415). -/
def writeProtected (s : State) (r : Region) : Bool :=
  (packagesOf r.spMask).any (fun p => halfReadOnly s p 0 || halfReadOnly s p 1)

/-- A Read whose data is at hand: it is returned whole, or the first failing block is reported (R342, R415). -/
def doRead (s : State) (r : Region) (h : Held) : State :=
  match firstLost s r h.slba h.nlb with
  | some b => failAt s h.tag 2 0x81 1 b
  | none => complete (emit s (.data h.tag (blocksBytes s r h.slba h.nlb))) h.tag 0

/-- A write that is admitted: its data enters the write buffer, and it completes (R351, R411). -/
def doWrite (s : State) (r : Region) (h : Held) : State :=
  let s :=
    if h.kind = kWrite then writeBlocks h.nlb s r h.slba h.data
    else if h.kind = kZeroes then zeroBlocks false h.nlb s r h.slba h.nlb
    else foldState (fun s x => zeroBlocks true x.2 s r x.1 x.2) s (heldRanges h)
  complete s h.tag 0

/-- Memory Copy: the blocks of its source ranges, in order, written to the memory namespace (R402). -/
def doMemCopy (s : State) (r : Region) (h : Held) : State :=
  match h.ranges.findSome? (fun x => firstLost s r x.1 x.2) with
  | some b => failAt s h.tag 2 0x81 1 b
  | none =>
    let l := h.ranges.foldl (fun l x => l ++ blocksBytes s r x.1 x.2) []
    if touchesCopy s (slmAddr (within h.dst)) l.length then completeStatus s h.tag stBAD_RANGE
    else
      let w := slmWrite s (within h.dst) l
      if w.2 then complete w.1 h.tag 0 else fail (reachUe w.1 (within h.dst) l.length) h.tag 2 0x81 1

/-- A command of the NVM set, or a Memory Copy: what it waits for, what it fails with, or its effect. -/
def nvmCommand (s : State) (h : Held) : State :=
  match nsRegion s h.nsid with
  | none => fail s h.tag 0 0x0B 1
  | some r =>
    let len := sumNat ((heldRanges h).map (·.2))
    if (heldRanges h).any (fun x => decide (regionBlocks r < x.1 + x.2)) then fail s h.tag 0 0x80 1
    else if h.kind = kMemCopy ∧ (selector h.dst ≠ 0xFF ∨ !mappedSlm (settings s) (within h.dst) (len * 4096)) then fail s h.tag 0 0x80 1
    else if transfersHeld s then hold s h
    else if s.host.crime ∧ !(packagesOf r.spMask).all (pkgReady s) then fail s h.tag 0 0x82 0
    else if !allReady s then hold s h
    else if isWriteKind h.kind ∧ writeProtected s r then fail s h.tag 0 0x20 1
    else
      match (packagesOf r.spMask).find? (fun p => !reachable s p &&
          (heldRanges h).any (fun x => (unitsOf s r x.1 x.2).any (fun u => u.1 == p))) with
      | some p => failUnreachable s h.tag p
      | none =>
        if mustFollow s h then hold s h
        else if h.kind = kRead then doRead s r h
        else if h.kind = kMemCopy then doMemCopy s r h
        else if unitsFit s (writeUnits s r h) then doWrite s r h
        else showThrottle (hold s h)

/-- Whether a package holds dirty units of a namespace, or of any where it is 0xFFFF_FFFF. -/
def holdsDirty (s : State) (p nsid : Nat) : Bool :=
  (pkg s p).wbuf.any (fun d =>
    match regionOf p d.lunit s.nv.layout 0 with
    | none => false
    | some (r, _) => r.type == 1 && (nsid == 0xFFFFFFFF || r.id == nsid))

/-- Flush (R414). -/
def flushCommand (s : State) (h : Held) : State :=
  if h.nsid = 130 then complete s h.tag 0
  else if h.nsid = 129 then fail s h.tag 0 0x01 1
  else if h.nsid ≠ 0xFFFFFFFF ∧ (nsRegion s h.nsid).isNone then fail s h.tag 0 0x0B 1
  else if transfersHeld s then hold s h
  else if (List.range s.build.sp).any (fun p => rbit s (ftlReg p 0) 28 && holdsDirty s p h.nsid) then hold s h
  else complete s h.tag 0

/-- Memory Read: the bytes, or LBA Out of Range outside the windows of R402, or an uncorrectable line (R207). -/
def memReadCommand (s : State) (h : Held) : State :=
  if selector h.slba ≠ 0xFF ∨ !mappedSlm (settings s) (within h.slba) h.nlb then fail s h.tag 0 0x80 1
  else if transfersHeld s then hold s h
  else
    let r := readRange s (within h.slba) h.nlb
    match r.2 with
    | some l => complete (emit r.1 (.data h.tag l)) h.tag 0
    | none => fail (reachUe r.1 (within h.slba) h.nlb) h.tag 2 0x81 1

/-- Memory Write: through the directory (R188); a write to a directory copy is refused with BAD_RANGE. -/
def memWriteCommand (s : State) (h : Held) : State :=
  let len := h.data.length
  if selector h.slba ≠ 0xFF ∨ !mappedSlm (settings s) (within h.slba) len then fail s h.tag 0 0x80 1
  else if transfersHeld s then hold s h
  else if touchesCopy s h.slba len then completeStatus s h.tag stBAD_RANGE
  else
    let w := slmWrite s (within h.slba) h.data
    if w.2 then complete w.1 h.tag 0 else fail (reachUe w.1 (within h.slba) len) h.tag 2 0x81 1

/-- Format NVM: every unit of the namespace, or of every NVM namespace, becomes UNMAPPED (R404). `nlb` is the Secure Erase Setting. -/
def formatCommand (s : State) (h : Held) : State :=
  let rs := if h.nsid = 0xFFFFFFFF then s.nv.layout.filter (fun r => r.type == 1)
            else match nsRegion s h.nsid with | some r => [r] | none => []
  if 1 < h.nlb then fail s h.tag 0 0x02 1
  else if rs.isEmpty ∧ h.nsid ≠ 0xFFFFFFFF then fail s h.tag 0 0x0B 1
  else if transfersHeld s then hold s h
  else if s.host.crime ∧ !rs.all (fun r => (packagesOf r.spMask).all (pkgReady s)) then fail s h.tag 0 0x82 0
  else if !allReady s then hold s h
  else complete (foldState unmapRegion s rs) h.tag 0

/-- Runs a held command again. -/
def runHeld (s : State) (h : Held) : State :=
  if h.kind = kFlush then flushCommand s h
  else if h.kind = kFormat then formatCommand s h
  else if h.kind = kMemRead then memReadCommand s h
  else if h.kind = kMemWrite then memWriteCommand s h
  else nvmCommand s h

/-- Runs every held command again, in order; those that still wait are held again. -/
def resumeHeld (s : State) : State :=
  let l := s.host.held
  if l.isEmpty then s else showThrottle (foldState runHeld { s with host := { s.host with held := [] } } l)

/-- Starts a command of the NVM set, and lets those that waited for it go on. -/
def startNvm (s : State) (h : Held) : State :=
  let t := runHeld s h
  if isWriteKind h.kind ∨ h.kind = kRead then resumeHeld t else t

/-- The largest transfer of a command in blocks (R408: MDTS is 2 MiB). -/
def mdtsBlocks : Nat := 512

/-- A command of the NVM set named to the compute or the memory namespace is no command of that set (R399, R404). -/
def otherSet (nsid : Nat) : Bool := nsid == 129 || nsid == 130

/-- Read. -/
def readCmd (s : State) (tag : CmdTag) (nsid slba nlb : Nat) : State :=
  if otherSet nsid then fail s tag 0 0x01 1
  else if mdtsBlocks < nlb then fail s tag 0 0x02 1
  else startNvm s { tag := tag, kind := kRead, nsid := nsid, slba := slba, nlb := nlb }

/-- READ (R411). -/
def execRead (tag : CmdTag) (nsid slba nlb : Nat) (s : State) : Host.Outcome State Fault Refusal :=
  ok (Sys2Proof.wellFormed (.read tag nsid slba nlb)) (readCmd s tag nsid slba nlb)

/-- Write: its data is a whole number of blocks. -/
def writeCmd (s : State) (tag : CmdTag) (nsid slba : Nat) (data : List Byte) : State :=
  let n := data.length / 4096
  if otherSet nsid then fail s tag 0 0x01 1
  else if mdtsBlocks < n ∨ data.length % 4096 ≠ 0 then fail s tag 0 0x02 1
  else startNvm s { tag := tag, kind := kWrite, nsid := nsid, slba := slba, nlb := n, data := data }

/-- WRITE (R412). -/
def execWrite (tag : CmdTag) (nsid slba : Nat) (data : List Byte) (s : State) : Host.Outcome State Fault Refusal :=
  ok (Sys2Proof.wellFormed (.write tag nsid slba data)) (writeCmd s tag nsid slba data)

/-- FLUSH (R414). -/
def execFlush (tag : CmdTag) (nsid : Nat) (s : State) : Host.Outcome State Fault Refusal :=
  ok (Sys2Proof.wellFormed (.flush tag nsid)) (flushCommand s { tag := tag, kind := kFlush, nsid := nsid, slba := 0, nlb := 0 })

/-- Write Zeroes, with and without Deallocate. -/
def zeroesCmd (s : State) (tag : CmdTag) (nsid slba nlb : Nat) (dealloc : Bool) : State :=
  if otherSet nsid then fail s tag 0 0x01 1
  else startNvm s { tag := tag, kind := if dealloc then kDealloc else kZeroes, nsid := nsid, slba := slba, nlb := nlb }

/-- WRITE_ZEROES (R411). -/
def execWriteZeroes (tag : CmdTag) (nsid slba nlb : Nat) (deallocate : Bool) (s : State) : Host.Outcome State Fault Refusal :=
  ok (Sys2Proof.wellFormed (.writeZeroes tag nsid slba nlb deallocate)) (zeroesCmd s tag nsid slba nlb deallocate)

/-- Dataset Management, Deallocate only, of up to 256 ranges (R404). -/
def dsmCmd (s : State) (tag : CmdTag) (nsid : Nat) (ranges : List (Nat × Nat)) : State :=
  if otherSet nsid then fail s tag 0 0x01 1
  else if 256 < ranges.length then fail s tag 0 0x02 1
  else startNvm s { tag := tag, kind := kDsm, nsid := nsid, slba := 0, nlb := 0, ranges := ranges }

/-- DATASET_MANAGEMENT (R411). -/
def execDatasetManagement (tag : CmdTag) (nsid : Nat) (ranges : List (Nat × Nat)) (s : State) : Host.Outcome State Fault Refusal :=
  ok (Sys2Proof.wellFormed (.datasetManagement tag nsid ranges)) (dsmCmd s tag nsid ranges)

/-- Memory Read. -/
def memReadCmd (s : State) (tag : CmdTag) (addr len : Nat) : State :=
  if mdtsBlocks * 4096 < len then fail s tag 0 0x02 1
  else memReadCommand s { tag := tag, kind := kMemRead, nsid := 130, slba := addr, nlb := len }

/-- MEMORY_READ (R402). -/
def execMemoryRead (tag : CmdTag) (addr len : Nat) (s : State) : Host.Outcome State Fault Refusal :=
  ok (Sys2Proof.wellFormed (.memoryRead tag addr len)) (memReadCmd s tag addr len)

/-- Memory Write. -/
def memWriteCmd (s : State) (tag : CmdTag) (addr : Nat) (data : List Byte) : State :=
  if mdtsBlocks * 4096 < data.length then fail s tag 0 0x02 1
  else memWriteCommand s { tag := tag, kind := kMemWrite, nsid := 130, slba := addr, nlb := 0, data := data }

/-- MEMORY_WRITE (R402). -/
def execMemoryWrite (tag : CmdTag) (addr : Nat) (data : List Byte) (s : State) : Host.Outcome State Fault Refusal :=
  ok (Sys2Proof.wellFormed (.memoryWrite tag addr data)) (memWriteCmd s tag addr data)

/-- Memory Copy, with at most 128 source ranges (R402). -/
def memCopyCmd (s : State) (tag : CmdTag) (nsid : Nat) (ranges : List (Nat × Nat)) (dst : Nat) : State :=
  if 128 < ranges.length then fail s tag 0 0x02 1
  else nvmCommand s { tag := tag, kind := kMemCopy, nsid := nsid, slba := 0, nlb := 0, ranges := ranges, dst := dst }

/-- MEMORY_COPY (R402). -/
def execMemoryCopy (tag : CmdTag) (nsid : Nat) (ranges : List (Nat × Nat)) (dst : Nat) (s : State) : Host.Outcome State Fault Refusal :=
  ok (Sys2Proof.wellFormed (.memoryCopy tag nsid ranges dst)) (memCopyCmd s tag nsid ranges dst)

end Sys2Proof.Machine
end

