-- ==== Sys2Proof/Machine/Vectors.lean ====
section
/-! DEFINITION. Indexes: exact arithmetic on vectors with directed rounding, what an insert stores, visibility, epochs and
tombstones (07_scan.md, 08_search.md). -/
namespace Sys2Proof.Machine

/-! ## Exact values and directed rounding -/

/-- An exact dyadic value: an integer and the exponent of its unit. -/
abbrev Ex := Int × Int

/-- The exact value of a word; an infinity stands beyond every finite word, a NaN for 0. -/
def exOf (w : Word) : Ex :=
  match fpOf w with
  | .nan => (0, 0)
  | .inf n => (sgn n 1, 400)
  | .fin n m e => (sgn n m, e)

/-- Sum, difference and product of exact values. -/
def exAdd (a b : Ex) : Ex :=
  let u := min a.2 b.2
  (a.1 * 2 ^ (a.2 - u).toNat + b.1 * 2 ^ (b.2 - u).toNat, u)
def exSub (a b : Ex) : Ex := exAdd a (-b.1, b.2)
def exMul (a b : Ex) : Ex := (a.1 * b.1, a.2 + b.2)

/-- Order of exact values. -/
def exLt (a b : Ex) : Bool := decide ((exSub a b).1 < 0)

/-- The next magnitude code of a word, away from zero. -/
def awayFrom0 (w : Word) : Word := if isInf w then w else w + 1

/-- The FP32 value nearest to an exact one, ties to even. -/
def wordNear (x : Ex) : Word := if x.1 = 0 then zero32 else (round32 (decide (x.1 < 0)) x.1.natAbs x.2).1

/-- The greatest FP32 value at or below an exact one, toward −∞. -/
def wordDown (x : Ex) : Word :=
  if x.1 = 0 then zero32
  else
    let t := (trunc32 (decide (x.1 < 0)) x.1.natAbs x.2).1
    if x.1 < 0 ∧ exLt x (exOf t) then awayFrom0 t else t

/-- The least FP32 value at or above an exact one, toward +∞. -/
def wordUp (x : Ex) : Word :=
  if x.1 = 0 then zero32
  else
    let t := (trunc32 (decide (x.1 < 0)) x.1.natAbs x.2).1
    if 0 < x.1 ∧ exLt (exOf t) x then awayFrom0 t else t

/-- The FP32 value next below a word (R250). -/
def predWord (w : Word) : Word :=
  if isZero w then 0x80000001#32 else if decide ((exOf w).1 < 0) then awayFrom0 w else w - 1

/-- √x of a value at or above 0, to 64 bits and more below its unit: the floor, and whether anything was cut. -/
def exSqrt (x : Ex) : Ex × Bool :=
  let x : Ex := if x.2 % 2 = 0 then x else (2 * x.1, x.2 - 1)
  let v := x.1.toNat * 2 ^ 128
  let r := isqrt v
  (((r : Int), x.2 / 2 - 64), decide (r * r < v))

/-- A value slightly above, where anything was cut: for roundings that see only which side it lies on. -/
def exSticky (x : Ex × Bool) : Ex := (2 * x.1.1 + (one x.2 : Nat), x.1.2 - 1)

/-- Square roots rounded to nearest, up and down. -/
def sqrtNear (x : Ex) : Word := wordNear (exSticky (exSqrt x))
def sqrtUp (x : Ex) : Word := wordUp (exSticky (exSqrt x))

/-- a ÷ b for b ≠ 0, to 200 bits: a quotient with a sticky bit. -/
def exDiv (a b : Ex) : Ex :=
  if b.1 = 0 then (0, 0)
  else
    let n := a.1.natAbs * 2 ^ 200
    let q := n / b.1.natAbs
    let m : Nat := 2 * q + one (decide (0 < n % b.1.natAbs))
    (if decide (a.1 < 0) == decide (b.1 < 0) then (m : Int) else -(m : Int), a.2 - b.2 - 201)

/-- Σ of products. -/
def exDot : List Word → List Word → Ex
  | a :: as, b :: bs => exAdd (exMul (exOf a) (exOf b)) (exDot as bs)
  | _, _ => (0, 0)

/-- Σ (aᵢ − bᵢ)². -/
def exDist : List Word → List Word → Ex
  | a :: as, b :: bs => let d := exSub (exOf a) (exOf b); exAdd (exMul d d) (exDist as bs)
  | _, _ => (0, 0)

/-- Order of merits: −0 and +0 count as equal (R245). -/
def meritKey (w : Word) : Int := if isZero w then 0 else order32 w

/-! ## Index parameters (R247) -/

/-- METRIC, VFMT and M of an index region. -/
def metricOf (param : Nat) : Nat := bitsOf param 7 6
def vfmtOf (param : Nat) : Fmt :=
  match bitsOf param 10 8 with
  | 0 => .fp32
  | 1 => .bf16
  | 2 => .fp16
  | 3 => .e4m3
  | _ => .e5m2
def subspaces (param : Nat) : Nat := 2 ^ bitsOf param 14 11

/-- Bytes of a stored vector. -/
def vectorLen (param : Nat) : Nat := dimOf param * ((vfmtOf param).width / 8)

/-- Bytes of a list entry (R249). -/
def entryLen (r : Region) : Nat :=
  ceilDiv (32 + (if r.type = 4 then subspaces r.param else dimOf r.param / 8)) 8 * 8

/-- The elements of a vector in memory, widened exactly. -/
def vectorOf (f : Fmt) (l : List Byte) (at_ n : Nat) : List Word :=
  (List.range n).map (fun i => toF32 f (fieldAt l (at_ + i * (f.width / 8)) (f.width / 8)))

/-- Whether every element is finite. -/
def allFinite (v : List Word) : Bool := v.all isFinite

/-- Whether every element is zero. -/
def allZero (v : List Word) : Bool := v.all isZero

/-- x ÷ ‖x‖, norm and quotients rounded to nearest (R250, R253). -/
def normalise (v : List Word) : List Word :=
  let n := sqrtNear (exDot v v)
  if isZero n then v else v.map (fun x => wordNear (exDiv (exOf x) (exOf n)))

/-- A vector as it is stored: under METRIC 1 normalised and rounded to nearest in VFMT (R250). -/
def storedVector (param : Nat) (v : List Word) : List Word :=
  if metricOf param = 1 then (normalise v).map (fun x => toF32 (vfmtOf param) (narrow (vfmtOf param) 0 0 x).1) else v

/-- The score of a stored vector against a prepared query: exact, rounded once (R244). -/
def exactScore (param : Nat) (q x : List Word) : Word := if metricOf param = 2 then wordNear (exDist q x) else wordNear (exDot q x)

/-- The merit of a score. -/
def meritOf (param : Nat) (score : Word) : Word := if metricOf param = 2 then fneg score else score

/-! ## Placement of slabs and clusters (R214, R248) -/

/-- Slabs of 1 MiB that a region holds. -/
def regionSlabs (r : Region) : Nat := r.sizeGib * (packagesOf r.spMask).length * 1024

/-- The slab length and its header. -/
def slabLen : Nat := 1048576
def slabHead : Nat := 64

/-- Bytes with their CRC-32C, taken over them with zeros in its place, after them. -/
def sealed (l : List Byte) : List Byte := l ++ leBytes 4 (crc32c (l ++ List.replicate 4 0))

/-- Whether part of a slab cannot be read: a unit of it is lost or its package is unreachable (R238, R277). -/
def slabUnread (s : State) (r : Region) (slab len : Nat) : Bool :=
  (blocksOf (slab * slabLen) len).any (fun b => blockLost s r b) || !reachable s (homePkg r slab)

/-- Drops what the write buffer and the map hold of a slab that compaction has left empty (R222). -/
def freeSlabUnits (s : State) (r : Region) (slab : Nat) : State :=
  foldState (fun s (h : Nat × Nat) =>
    if mapGet (pkg s h.1) h.2 ≠ entryUnmapped ∨ (pkg s h.1).wbuf.any (fun d => d.lunit == h.2) then deallocUnit s h.1 h.2 else s)
    s ((List.range 64).map (fun j => homeOf s r (slab * 64 + j)))

/-! ## The durable copy of a tombstone table (R221, R269) -/

/-- Tombstones that one package's table holds of a region. -/
def tombsOf (s : State) (rtype id p : Nat) : List Tomb :=
  s.corpus.tombs.filter (fun t => t.rtype == rtype && t.region == id && t.package == p)

/-- The k-th slab from the top of a package's share of a region. The durable copies of tombstones grow downward from there (log entry 131). -/
def topSlab (r : Region) (p k : Nat) : Nat :=
  (r.sizeGib * 32 - 1 - k / 32) * regionChans r + ((packagesOf r.spMask).takeWhile (fun q => q != p)).length * 32 + (31 - k % 32)

/-- Slabs that the durable copy of a table of `n` tombstones takes. -/
def tombSlabs (n : Nat) : Nat := ceilDiv (16 * n) slabLen

/-- Whether a slab of a region belongs to a tombstone table. -/
def underTombs (s : State) (r : Region) (slab : Nat) : Bool :=
  let p := homePkg r slab
  (List.range (tombSlabs (tombsOf s r.type r.id p).length)).any (fun k => topSlab r p k == slab)

/-- Where in its region the `i`-th unit of a package's tombstone table lies. -/
def tombUnitAt (r : Region) (p i : Nat) : Nat := topSlab r p (i / 64) * slabLen + i % 64 * 16384

/-- The units of a table that the tombstones `lo` to `hi - 1` lie in. -/
def tombSpan (lo hi : Nat) : List Nat := (List.range (ceilDiv hi 1024)).filter (fun i => decide (lo / 1024 ≤ i))

/-- The 1,024 tombstones of one unit, 16 bytes each: the RID, then the epoch. -/
def tombBytes (ts : List Tomb) (i : Nat) : List Byte :=
  let l := ((ts.drop (1024 * i)).take 1024).flatMap (fun t => leBytes 8 t.rid ++ leBytes 8 t.epoch)
  l ++ List.replicate (16384 - l.length) 0

/-- Writes the units of a package's table that hold the tombstones `lo` to `hi - 1`. -/
def writeTombs (s : State) (r : Region) (p lo hi : Nat) : State :=
  foldState (fun s i => writeRegion s r (tombUnitAt r p i) (tombBytes (tombsOf s r.type r.id p) i)) s (tombSpan lo hi)

/-- The package units that such a write touches. -/
def tombUnits (s : State) (r : Region) (p lo hi : Nat) : List (Nat × Nat) :=
  (tombSpan lo hi).flatMap (fun i => spanUnits s r (tombUnitAt r p i) 16384)

/-- How many tombstones a package's table of a region holds, and how many of some others belong to it. -/
def tombGrowth (s : State) (r : Region) (new : List Tomb) (p : Nat) : Nat × Nat :=
  let n := (tombsOf s r.type r.id p).length
  (n, n + (new.filter (fun t => t.package == p)).length)

/-- The package units that the durable copies of new tombstones of a region touch. -/
def growthUnits (s : State) (r : Region) (new : List Tomb) : List (Nat × Nat) :=
  (packagesOf r.spMask).flatMap (fun p => let n := tombGrowth s r new p; if n.1 < n.2 then tombUnits s r p n.1 n.2 else [])

/-- Whether the write buffer takes the durable copies of new tombstones of a region (R219). -/
def tombsEnter (s : State) (r : Region) (new : List Tomb) : Bool := unitsFit s (growthUnits s r new)

/-- Adds tombstones of a region to its tables, and to their durable copies. -/
def addTombs (s : State) (r : Region) (new : List Tomb) : State :=
  let u := s
  let s := { s with corpus := { s.corpus with tombs := s.corpus.tombs ++ new } }
  foldState (fun s p => let n := tombGrowth u r new p; if n.1 < n.2 then writeTombs s r p n.1 n.2 else s) s (packagesOf r.spMask)

/-- Drops tombstones of a region from its tables, and writes the copies of the tables that they leave. -/
def dropTombs (s : State) (r : Region) (gone : Tomb → Bool) : State :=
  let u := s
  let s := { s with corpus := { s.corpus with tombs := s.corpus.tombs.filter (fun t => !(t.rtype == r.type && t.region == r.id && gone t)) } }
  foldState (fun s p => if (tombsOf u r.type r.id p).any gone then writeTombs s r p 0 (tombsOf u r.type r.id p).length else s) s (packagesOf r.spMask)

/-- The package units that dropping tombstones writes. -/
def dropUnits (s : State) (r : Region) (gone : Tomb → Bool) : List (Nat × Nat) :=
  (packagesOf r.spMask).flatMap (fun p =>
    if (tombsOf s r.type r.id p).any gone then tombUnits s r p 0 (tombsOf s r.type r.id p).length else [])

/-! ## Indexes -/

/-- An index's contents. -/
def findIndex (s : State) (rtype id : Nat) : Option Index := s.corpus.indexes.find? (fun x => x.rtype == rtype && x.id == id)

/-- Stores an index's contents. -/
def setIndex (s : State) (x : Index) : State :=
  let others := s.corpus.indexes.filter (fun y => !(y.rtype == x.rtype && y.id == x.id))
  { s with corpus := { s.corpus with indexes := others ++ [x] } }

/-- Entries of a list slab and vectors of a vector slab (R248). -/
def perList (r : Region) : Nat := (slabLen - slabHead) / entryLen r
def perVec (r : Region) : Nat := (slabLen - slabHead) / vectorLen r.param

/-- Entries of an index that have a place and have not committed: those of INSERTs and of EMBED batches under way. -/
def pendingFor (s : State) (rtype id : Nat) : List Entry :=
  s.search.queries.flatMap (fun q => if !q.done && q.op == 2 && q.rtype == rtype && q.region == id then q.pendingEntries else []) ++
  s.scan.jobs.flatMap (fun j =>
    if !j.done && j.op == 4 && (if bitOf j.form 7 then 4 else 3) == rtype && j.form % 64 == id then j.pendingEntries else [])

/-- The slabs that they take. -/
def pendingSlabsFor (s : State) (rtype id : Nat) : List IndexSlab :=
  s.search.queries.flatMap (fun q => if !q.done && q.op == 2 && q.rtype == rtype && q.region == id then q.pendingSlabs else []) ++
  s.scan.jobs.flatMap (fun j =>
    if !j.done && j.op == 4 && (if bitOf j.form 7 then 4 else 3) == rtype && j.form % 64 == id then j.pendingSlabs else [])

/-- An index with what is pending for it. -/
def heldIndex (s : State) (x : Index) : Index :=
  { x with entries := x.entries ++ pendingFor s x.rtype x.id, slabs := x.slabs ++ pendingSlabsFor s x.rtype x.id }

/-- Records of APPENDs under way. -/
def pendingRecords (s : State) : List Record := s.scan.jobs.flatMap (fun j => if j.op = 1 then j.pending else [])

/-- The slabs of a region that records, entries or vectors take. -/
def slabsUsed (s : State) (r : Region) : List Nat :=
  if r.type = 2 then ((s.corpus.records ++ pendingRecords s).filter (fun x => x.region == r.id)).map (·.slab)
  else match findIndex s r.type r.id with
    | none => []
    | some x => (heldIndex s x).slabs.map (·.slab)

/-! ## Centroid scores (R248, R254) -/


/-- ‖μ‖ in FP32 rounded up, as the copy of the centroid table holds it. -/
def centroidNorm (mu : List Word) : Word := sqrtUp (exDot mu mu)

/-- Words rounded to nearest in BF16. -/
def toBf16 (v : List Word) : List Word := v.map (fun w => toF32 .bf16 (narrow .bf16 0 0 w).1)

/-- One output element of a BF16 × BF16 kernel (R88 to R94): runs of eight products, each summed by the pairwise tree and added to the
accumulator in element order. -/
def dotRuns : Nat → List Word → List Word → Option Word → Word
  | 0, _, _, acc => acc.getD zero32
  | n + 1, a, b, acc =>
    match treeSum 16 (List.zipWith (fun x y => (dotProduct (fpOf x) (fpOf y)).1) (a.take 8) (b.take 8)) with
    | (none, _) => acc.getD zero32
    | (some v, _) => dotRuns n (a.drop 8) (b.drop 8) (accAdd acc v).1

/-- c as assist tiles form it: a kernel of q_hi and one of q_lo against the centroid, and a VEC ADD of the two outputs. -/
def assistScore (q mu : List Word) : Word :=
  let hi := toBf16 q
  let lo := toBf16 (List.zipWith (fun x y => wordNear (exSub (exOf x) (exOf y))) q hi)
  (fadd (dotRuns q.length mu hi none) (dotRuns q.length mu lo none)).1

/-- The centroid score of a vector: as the tiles form it, or exact on the re-rank units. -/
def scoreOf (s : State) (q mu : List Word) : Ex := if assistFallback s then exDot q mu else exOf (assistScore q mu)

/-- The cluster of highest centroid merit, with ties to the lower number (R254, R266). Under METRIC 2 the merit is 2c − ‖μ‖² (log
entry 36). -/
def chooseCluster (s : State) (param : Nat) (cs : List (List Word)) (x : List Word) : Nat :=
  let merit (c : List Word) : Ex :=
    let d := scoreOf s x c
    if metricOf param = 2 then exSub (2 * d.1, d.2) (exDot c c) else d
  let best := (List.range cs.length).foldl (fun (m : Option (Nat × Ex)) i =>
    match cs[i]? with
    | none => m
    | some c =>
      let v := merit c
      match m with
      | none => some (i, v)
      | some b => if exLt b.2 v then some (i, v) else m) none
  match best with | none => 0 | some b => b.1

/-- The residual of a vector against its centroid, exactly. -/
def residual : List Word → List Word → List Ex
  | x :: xs, c :: cs => exSub (exOf x) (exOf c) :: residual xs cs
  | _, _ => []

/-- Σ of squares. -/
def exNorm2 : List Ex → Ex
  | [] => (0, 0)
  | x :: xs => exAdd (exMul x x) (exNorm2 xs)

/-- r − c, element by element. -/
def exMinus : List Ex → List Word → List Ex
  | x :: xs, c :: cs => exSub x (exOf c) :: exMinus xs cs
  | _, _ => []

/-- The codeword nearest to a residual's part, lower code first (R250). -/
def nearestCode (part : List Ex) (words : List (List Word)) : Nat :=
  let best := (List.range words.length).foldl (fun (m : Option (Nat × Ex)) j =>
    match words[j]? with
    | none => m
    | some w =>
      let v := exNorm2 (exMinus part w)
      match m with
      | none => some (j, v)
      | some b => if exLt v b.2 then some (j, v) else m) none
  match best with | none => 0 | some b => b.1

/-- A part of a list. -/
def chunk {β : Type} (l : List β) (i n : Nat) : List β := (l.drop (i * n)).take n

/-- The elements of subspace `i` of `m`: from i × DIM ÷ M onward, to where the next begins (R250; log entry 134). -/
def subLo (dim m i : Nat) : Nat := i * dim / m
def subLen (dim m i : Nat) : Nat := (i + 1) * dim / m - i * dim / m
def subspace {β : Type} (l : List β) (dim m i : Nat) : List β := (l.drop (subLo dim m i)).take (subLen dim m i)

/-- An entry for a vector that has been brought to its stored form (R249, R250). RHO and N2 are the least FP32 values at or
above their bounds. -/
def makeEntry (s : State) (r : Region) (x : Index) (rid epoch : Nat) (v : List Word) (vslot : Nat) : Entry :=
  let c := chooseCluster s r.param x.centroids v
  let mu := x.centroids.getD c []
  let res := residual v mu
  let n2 := if metricOf r.param = 2 then wordUp (exDot v v) else zero32
  if r.type = 4 then
    let m := subspaces r.param
    let codes := (List.range m).map (fun i => nearestCode (subspace res (dimOf r.param) m i) (x.codebooks.getD i []))
    let hat := (List.range m).flatMap (fun i => (x.codebooks.getD i []).getD (codes.getD i 0) [])
    { rid := rid, epoch := epoch, cluster := c, rho := sqrtUp (exNorm2 (exMinus res hat)), n2 := n2, vslot := vslot
      code := codes, vector := v }
  else
    { rid := rid, epoch := epoch, cluster := c, rho := sqrtUp (exNorm2 res), n2 := n2, vslot := vslot
      code := res.map (fun d => one (decide (d.1 < 0))), vector := v }

/-- The lowest free slab of the home channel of a cluster (R248). -/
def freeRow (s : State) (r : Region) (x : Index) (c : Nat) : Option Nat :=
  ((List.range (r.sizeGib * 32)).map (fun i => i * regionChans r + c % max 1 (regionChans r))).find?
    (fun b => !x.slabs.any (fun y => y.slab == b) && !underTombs s r b)

/-- Entries that a list slab holds: the next free place in it. -/
def listFill (x : Index) (slab : Nat) : Nat :=
  (x.entries.filter (fun e => e.slab == slab)).foldl (fun m e => max m (e.pos + 1)) 0

/-- The list slab that takes a cluster's next entry, opened where none has room; none where the channel is full. -/
def listPlace (s : State) (r : Region) (x : Index) (c : Nat) (shut : Option Nat) : Option (Index × Nat) :=
  match x.slabs.find? (fun b => b.cluster == c && b.vec.isNone && some b.slab != shut && decide (listFill x b.slab < perList r)) with
  | some b => some (x, b.slab)
  | none => (freeRow s r x c).map (fun n => ({ x with slabs := x.slabs ++ [{ slab := n, cluster := c, vec := none }] }, n))

/-- The lowest free position in a cluster's vector slabs. -/
def freeVslot (x : Index) (c : Nat) : Nat :=
  let used := (x.entries.filter (fun e => e.cluster == c)).map (·.vslot)
  ((List.range (used.length + 1)).find? (fun v => !used.contains v)).getD 0

/-- The vector slab of a position, opened where it does not exist. -/
def vectorPlace (s : State) (r : Region) (x : Index) (c v : Nat) : Option Index :=
  if x.slabs.any (fun b => b.cluster == c && b.vec == some (v / perVec r)) then some x
  else (freeRow s r x c).map (fun n => { x with slabs := x.slabs ++ [{ slab := n, cluster := c, vec := some (v / perVec r) }] })

/-- Gives an entry its places, and adds it to the index: none where its channel has no slab left. -/
def placeEntry (s : State) (r : Region) (x : Index) (e : Entry) : Option (Index × Entry) :=
  let v := freeVslot x e.cluster
  match listPlace s r x e.cluster none with
  | none => none
  | some (x, b) =>
    match vectorPlace s r x e.cluster v with
    | none => none
    | some x =>
      let e := { e with vslot := v, slab := b, pos := listFill x b }
      some ({ x with entries := x.entries ++ [e] }, e)

/-- Entries for vectors with their RIDs, each with its places: the index with them and the entries; none where the region is full (R266). -/
def makeEntries (s : State) (r : Region) (epoch : Nat) : Index → List (Nat × List Word) → Option (Index × List Entry)
  | x, [] => some (x, [])
  | x, (rid, v) :: t =>
    match placeEntry s r x (makeEntry s r x rid epoch (storedVector r.param v) 0) with
    | none => none
    | some (x, e) =>
      match makeEntries s r epoch x t with
      | none => none
      | some (y, es) => some (y, e :: es)

/-! ## Entries, vectors and slab headers as bytes (R248, R249) -/

/-- The CODE of an entry: a sketch, eight signs a byte, or the product codes. -/
def codeBytes (r : Region) (code : List Nat) : List Byte :=
  if r.type = 4 then code.map (fun c => BitVec.ofNat 8 c)
  else (List.range (dimOf r.param / 8)).map (fun i => BitVec.ofNat 8 (sumNat ((List.range 8).map (fun j => code.getD (8 * i + j) 0 * 2 ^ j))))

/-- A list entry as it is stored, with its CRC. -/
def entryBytes (r : Region) (e : Entry) : List Byte :=
  let a := leBytes 8 e.rid ++ leBytes 8 e.epoch ++ leBytes 4 e.rho.toNat ++ leBytes 4 e.n2.toNat ++ leBytes 4 e.vslot
  let c := codeBytes r e.code
  let b := c ++ List.replicate (entryLen r - 32 - c.length) 0
  a ++ leBytes 4 (crc32c (a ++ List.replicate 4 0 ++ b)) ++ b

/-- A vector as it is stored. -/
def vectorBytes (r : Region) (v : List Word) : List Byte :=
  v.flatMap (fun w => leBytes ((vfmtOf r.param).width / 8) (narrow (vfmtOf r.param) 0 0 w).1)

/-- The header of a list or vector slab: it names the region, the cluster and the slab. Its layout is not stated (log entry 133). -/
def indexHeader (r : Region) (b : IndexSlab) : List Byte :=
  sealed (leBytes 4 r.type ++ leBytes 4 r.id ++ leBytes 4 b.slab ++ leBytes 4 b.cluster ++
    leBytes 4 (match b.vec with | none => 0 | some k => k + 1) ++ List.replicate 40 0)

/-- Where in its region an entry lies. -/
def entryAt (r : Region) (e : Entry) : Nat := e.slab * slabLen + slabHead + e.pos * entryLen r

/-- Where in its region the vector of a position lies, in a slab of a list. -/
def vectorAt (r : Region) (bs : List IndexSlab) (c v : Nat) : Option Nat :=
  (bs.find? (fun b => b.cluster == c && b.vec == some (v / perVec r))).map (fun b =>
    b.slab * slabLen + slabHead + v % perVec r * vectorLen r.param)

/-- What the store of one entry writes, with the headers of the slabs that it opens: offsets in the region, and bytes. -/
def entryPieces (r : Region) (bs opened : List IndexSlab) (e : Entry) : List (Nat × List Byte) :=
  let head (b : IndexSlab) : Nat × List Byte := (b.slab * slabLen, indexHeader r b)
  let mine := opened.filter (fun b => (b.vec.isNone && b.slab == e.slab && e.pos == 0) ||
    (b.cluster == e.cluster && b.vec == some (e.vslot / perVec r) && e.vslot % perVec r == 0))
  mine.map head ++ [(entryAt r e, entryBytes r e)] ++
    (match vectorAt r bs e.cluster e.vslot with | none => [] | some o => [(o, vectorBytes r e.vector)])

/-- Writes pieces of a region. -/
def writePieces (s : State) (r : Region) (ps : List (Nat × List Byte)) : State := foldState (fun s p => writeRegion s r p.1 p.2) s ps

/-- The package units that pieces touch. -/
def pieceUnits (s : State) (r : Region) (ps : List (Nat × List Byte)) : List (Nat × Nat) := ps.flatMap (fun p => spanUnits s r p.1 p.2.length)

/-- Enters things in the write buffer one after another, as far as it takes them: the state, and how many are in (R219, R351). -/
def enterAll (r : Region) : State → Nat → List (List (Nat × List Byte)) → State × Nat
  | s, n, [] => (s, n)
  | s, n, ps :: t => if unitsFit s (pieceUnits s r ps) then enterAll r (writePieces s r ps) (n + 1) t else (s, n)

/-- What each of some entries writes. -/
def entriesPieces (r : Region) (bs opened : List IndexSlab) (es : List Entry) : List (List (Nat × List Byte)) := es.map (entryPieces r bs opened)

/-- The larger and the smaller of two finite words. -/
def maxWord (a b : Word) : Word := if order32 a < order32 b then b else a
def minWord (a b : Word) : Word := if order32 b < order32 a then b else a

/-- RADIUS and NMIN of a cluster from its entries (R250). -/
def radiusOf (es : List Entry) (c : Nat) : Word :=
  (es.filter (fun e => e.cluster == c)).foldl (fun m e => maxWord m e.rho) zero32
def nminOf (es : List Entry) (c : Nat) : Word :=
  (es.filter (fun e => e.cluster == c)).foldl (fun m e => minWord m (predWord e.n2)) 0x7F7FFFFF#32

/-- Adds committed entries, with RADIUS raised and NMIN lowered for each before (R267). -/
def addEntries (x : Index) (es : List Entry) : Index :=
  let x := es.foldl (fun (x : Index) e =>
    { x with radius := modAt (fun w => maxWord w e.rho) x.radius e.cluster
             nmin := modAt (fun w => minWord w (predWord e.n2)) x.nmin e.cluster }) x
  { x with entries := x.entries ++ es }

/-! ## Epochs (R218, R219) -/

/-- Shows the commit epoch in every fitted package (R218). -/
def showEpoch (s : State) : State := foldState (fun s p => set64 s (scnReg p 0x8) s.corpus.epoch) s (List.range s.build.sp)

/-- Takes the next unassigned epoch (R219). -/
def takeEpoch (s : State) : State × Nat :=
  ({ s with corpus := { s.corpus with nextEpoch := s.corpus.nextEpoch + 1 } }, s.corpus.nextEpoch)

/-- The epoch after those settled in order. -/
def advanceEpoch : Nat → Nat → List Nat → Nat
  | 0, e, _ => e
  | n + 1, e, done => if done.contains (e + 1) then advanceEpoch n (e + 1) done else e

/-- Settles an epoch, committed or failed: SCN_EPOCH reaches it once every lower one has settled (R219). -/
def settleEpoch (s : State) (e : Nat) : State :=
  let done := e :: s.corpus.settled
  let n := advanceEpoch done.length s.corpus.epoch done
  showEpoch { s with corpus := { s.corpus with epoch := n, settled := done.filter (fun x => decide (n < x)) } }

/-- Epochs that jobs and descriptors under way hold. -/
def epochsHeld (s : State) : List Nat :=
  ((s.scan.jobs.filter (fun j => !j.done && j.status.isNone && decide (j.op ≤ 2))).map (·.epoch)) ++
  s.scan.jobs.filterMap (fun j => if j.done then none else j.batchEpoch) ++
  ((s.search.queries.filter (fun q => !q.done && decide (2 ≤ q.op))).map (·.epoch))

/-- After a power loss an assigned epoch that no job holds has committed or failed. The commit epoch resumes at the last value that the jobs
had brought it to (R218, R219). -/
def resumeEpochs (s : State) : State :=
  let c := s.corpus
  let gone := ((List.range (c.nextEpoch - 1 - c.epoch)).map (fun i => c.epoch + 1 + i)).filter (fun e => !c.settled.contains e && !(epochsHeld s).contains e)
  let all := c.settled ++ gone
  let top := advanceEpoch all.length c.epoch all
  let e := (c.settled.filter (fun e => decide (e ≤ top))).foldl max c.epoch
  { s with corpus := { c with epoch := e, settled := all.filter (fun x => decide (e < x)) } }

/-! ## Visibility (R220, R268) -/

/-- Whether a record is visible at a snapshot. -/
def recordVisible (s : State) (x : Record) (snap : Nat) : Bool :=
  decide (x.epoch ≤ snap) &&
  !s.corpus.tombs.any (fun t => t.rtype == 2 && t.region == x.region && t.rid == x.rid && decide (t.epoch ≤ snap))

/-- Whether an entry is visible at a snapshot. -/
def entryVisible (s : State) (rtype id : Nat) (e : Entry) (snap : Nat) : Bool :=
  decide (e.epoch ≤ snap) &&
  !s.corpus.tombs.any (fun t => t.rtype == rtype && t.region == id && t.rid == e.rid && decide (e.epoch < t.epoch) && decide (t.epoch ≤ snap))

/-- Shows the tombstones that each package's table holds. -/
def showTombs (s : State) : State :=
  foldState (fun s p => setNat s (scnReg p 0x54) (s.corpus.tombs.filter (fun t => t.package == p)).length) s (List.range s.build.sp)

/-- Entries that a tombstone table holds (R221). -/
def tombLimit : Nat := 67108864

/-- Whether more tombstones of a region fit every package's table, and their copies the region. -/
def tombsFit (s : State) (r : Region) (new : List Tomb) : Bool :=
  (List.range 4).all (fun p => decide ((s.corpus.tombs.filter (fun t => t.package == p)).length +
    (new.filter (fun t => t.package == p)).length ≤ tombLimit)) &&
  (packagesOf r.spMask).all (fun p => (List.range (tombSlabs (tombGrowth s r new p).2)).all (fun k => !(slabsUsed s r).contains (topSlab r p k)))

end Sys2Proof.Machine
end

