-- ==== Sys2Proof/Machine/Translation.lean ====
section
/-! DEFINITION. The translation layer of a storage package at work: admission, programs and commits, casts, garbage collection and
erases, recovery at start-up, and the rebuild of map lines (11_translation.md, R338 to R363; R364 to R380 where they bear on a
program or an erase). -/
namespace Sys2Proof.Machine

/-- Whether a package's translation layer is at work: recovered, and in no power-failure sequence (R354, R356). -/
def alive (s : State) (p : Nat) : Bool := fitted s p && decide ((pkg s p).flush = .none) && decide ((pkg s p).recovery = 6)

/-- Whether a package is exposed (R353). -/
def exposed (s : State) (p : Nat) : Bool := rbit s (ftlReg p 0) 28

/-- Powered time in ms. -/
def nowMs (s : State) : Nat := s.faults.ticked / 100000

/-! ## Where a program may go (R339, R365, R367, R378) -/

/-- The stripe group that a block belongs to. -/
def groupAt (x : Package) (key : Nat) : Option Group := x.groups.find? (fun g => g.id == groupOfBlk key)

/-- The members of a block's group, or those it will have when it is formed (R367). -/
def membersOf (s : State) (p key : Nat) : List Nat :=
  match groupAt (pkg s p) key with
  | some g => g.members
  | none => groupBlks s p key

/-- The page that a map entry names in its block. -/
def pageOf (e : Nat) : Nat := e % 2 ^ 28 % dieUnits % 2500

/-- Whether page `e` of a block holds its stripe's parity (R367). -/
def isParity (s : State) (p key e : Nat) : Bool :=
  let ms := membersOf s p key
  ms[pageOf e % max ms.length 1]? == some key

/-- Whether a block takes programs of data: free or open, four bits per cell, on a live channel, in a group that is not closed. -/
def takesPrograms (s : State) (p key : Nat) : Bool :=
  let x := pkg s p
  let b := blk x key
  decide (b.state ≤ 1) && !b.slc && (membersOf s p key).contains key && !s.nv.retiredChans.contains (p * 32 + key / 62500) &&
  (match groupAt x key with | some g => !g.closed | none => true)

/-- Whether a unit may be programmed at a place. -/
def placeFree (s : State) (p u e : Nat) : Bool :=
  let key := placeBlk (placeKey u e)
  placeOk e && takesPrograms s p key && onHome s p u (placeChan (placeKey u e)) && !isParity s p key e &&
  (Sparse.get none (pkg s p).nand (placeKey u e)).isNone

/-! ## Programs (R343, R351, R378, R379) -/

/-- Shows whether a requested flush still runs. -/
def showFlushing (s : State) (p : Nat) : State :=
  setBit s (ftlReg p 0) 26 (!(pkg s p).flushing.isEmpty || (pkg s p).closing)

/-- The program of a dirty unit has completed: its HOST_MAP record joins the page, and the unit stays dirty until it commits. An exposed
package flushes its oldest units first (R353). -/
def programOk (s : State) (p u e : Nat) : State :=
  let waiting := (pkg s p).wbuf.filter (fun d => d.programmed.isNone)
  match waiting.find? (fun d => d.lunit == u) with
  | none => s
  | some d =>
    if exposed s p ∧ (waiting.head?.map (·.lunit)) ≠ some u then s
    else
      let old := mapGet (pkg s p) u
      let s := programUnit s p u e 1 d.lostMask 0 d.data false
      let x := pkg s p
      let wb := updateWhere (fun d => d.lunit == u && d.programmed.isNone) (fun d => { d with programmed := some e }) x.wbuf
      gather (setPkg s p { x with wbuf := wb }) p { type := 1, lunit := u, new := e, old := old }

/-- A program has failed: its block is retired and becomes a source, and a batch with a destination in it is copied again from its own
source (R378, R379). -/
def programFailed (s : State) (p u e : Nat) : State :=
  let key := placeBlk (placeKey u e)
  let s := openBlk s p key (groupOfUnit s p u) false
  let x := setBlk (pkg s p) key { blk (pkg s p) key with source := true }
  let srcOf (r : JRec) : Nat := placeBlk (placeKey r.lunit r.old)
  let bad := (x.page.filter (fun r => r.type == 2 && placeBlk (placeKey r.lunit r.new) == key)).map srcOf
  retireBlk (setPkg s p { x with page := x.page.filter (fun r => !(r.type == 2 && bad.contains (srcOf r))) }) p key

/-- NAND_PROGRAM_DONE (R343). -/
def nandProgramEff (s : State) (p u e : Nat) (good : Bool) : State :=
  if alive s p ∧ placeFree s p u e then (if good then programOk s p u e else releaseAll (programFailed s p u e) p) else s

/-- NAND_PROGRAM_DONE. -/
def execNandProgramDone (package lunit place : Nat) (good : Bool) (s : State) : Host.Outcome State Fault Refusal :=
  ok (Sys2Proof.wellFormed (.nandProgramDone package lunit place good)) (nandProgramEff s package lunit place good)

/-! ## Casts (R345) -/

/-- Writes a cast: it is marked as written, and a CAST_DONE record joins the page. A cast of 4 MiB takes 256 units; whether its header
takes one more is not stated (log entry 23). -/
def writeCast (s : State) (p k : Nat) : State :=
  let n := 256 + one (Config.freeBool (fresh s))
  let s := draw s
  let x := pkg s p
  let x := { x with casts := Sparse.set {} x.casts k { castAt x k with changed := false }
                    castTurn := (k + 1) % max 1 (castCount s p), wseq := x.wseq + n
                    page := x.page ++ [{ type := 5, lunit := k, new := x.jseq, old := nowMs s }] }
  setPkg s p x

/-- The cast to write next: the oldest where the journal has outgrown 4 GiB, otherwise the next in turn that has changed or come of
age. -/
def nextCast (s : State) (p : Nat) : Option Nat :=
  let x := pkg s p
  let n := castCount s p
  let oldest := oldestStart x n
  if 262144 < (x.journal.filter (fun j => decide (oldest < j.wseq))).length then
    (List.range n).find? (fun k => (castAt x k).start == oldest)
  else
    ((List.range n).map (fun i => (x.castTurn + i) % n)).find? (fun k =>
      (castAt x k).changed || decide (regNat s (ftlReg p 8) ≤ nowMs s - (castAt x k).atMs))

/-- FTL_CAST_AGE: the age of the oldest cast in ms. -/
def castAge (s : State) (p : Nat) : Nat :=
  nowMs s - (List.range (castCount s p)).foldl (fun m k => min m (castAt (pkg s p) k).atMs) (nowMs s)

/-- CAST_WRITE (R345). -/
def castWriteEff (s : State) (p : Nat) : State :=
  if alive s p ∧ !exposed s p then
    match nextCast s p with
    | none => s
    | some k => let s := writeCast s p k; setNat s (ftlReg p 0xC) (castAge s p)
  else s

/-- CAST_WRITE. -/
def execCastWrite (package : Nat) (s : State) : Host.Outcome State Fault Refusal :=
  ok (Sys2Proof.wellFormed (.castWrite package)) (castWriteEff s package)

/-- Writes every changed cast at once. -/
def castAll (s : State) (p : Nat) : State :=
  foldState (fun s k => writeCast s p k) s (((pkg s p).casts.filter (fun c => c.2.changed)).map (·.1))

/-! ## Flushing to ordinary blocks, and the clean seal (R359) -/

/-- With its buffer empty and nothing gathered, a package that closes writes its changed casts and journals SEAL with CLEAN 1. -/
def closeStep (s : State) (p : Nat) : State :=
  let x := pkg s p
  if x.closing ∧ x.wbuf.isEmpty ∧ x.page.isEmpty then gather (castAll s p) p { type := 6, lunit := 0, clean := true } else s

/-- Begins the flush, the casts and the seal of R359. -/
def beginClose (s : State) (p : Nat) : State :=
  if alive s p then
    let x := pkg s p
    showFlushing (closeStep (setPkg s p { x with closing := true, flushing := x.wbuf.map (·.lunit) }) p) p
  else s

/-- The packages that are closing. -/
def anyClosing (s : State) : Bool := (List.range s.build.sp).any (fun p => (pkg s p).closing)

/-- The seal has committed: the package's shutdown has completed, and with the last of them the fault times are saved, CSTS.SHST reads 10b and no
flush is owed (R359, R397, R445, R479). -/
def endClose (s : State) (p : Nat) : State :=
  let x := pkg s p
  if x.closing ∧ x.sealClean then
    let s := setPkg s p { x with closing := false, recovery := if s.power.owesFlush then 0 else 6 }
    let s := if s.power.owesFlush then setBit s (ftlReg p 0) 31 false else s
    if anyClosing s then s
    else
      { saveFaultTimes s with host := { s.host with shst := if s.host.shst = 1 then 2 else s.host.shst }, power := { s.power with owesFlush := false } }
  else s

/-- JOURNAL_COMMIT (R344): a page verified in both halves commits; blocks that it emptied are released, and writes that waited are
admitted. -/
def journalCommitEff (s : State) (p : Nat) (verified : Bool) : State :=
  if alive s p ∧ verified ∧ !(pkg s p).page.isEmpty then
    let s := endClose (commitPage s p) p
    resumeHeld (showFlushing (closeStep (if (pkg s p).recovery = 6 then releaseAll s p else s) p) p)
  else s

/-- JOURNAL_COMMIT. -/
def execJournalCommit (package : Nat) (verified : Bool) (s : State) : Host.Outcome State Fault Refusal :=
  ok (Sys2Proof.wellFormed (.journalCommit package verified)) (journalCommitEff s package verified)

/-- WRITE_ADMISSION (R351): writes that waited and now fit are admitted. -/
def execWriteAdmission (package : Nat) (s : State) : Host.Outcome State Fault Refusal :=
  ok (Sys2Proof.wellFormed (.writeAdmission package)) (if alive s package then resumeHeld s else s)

/-- A shutdown notification (CC.SHN). -/
def shutdownEff (s : State) (p : Nat) : State :=
  let s := { s with host := { s.host with shst := if s.host.shst = 2 then 2 else 1 } }
  let s := beginClose s p
  if anyClosing s then s else { saveFaultTimes s with host := { s.host with shst := 2 } }

/-- SHUTDOWN_NOTIFICATION (R359). -/
def execShutdownNotification (package : Nat) (s : State) : Host.Outcome State Fault Refusal :=
  ok (Sys2Proof.wellFormed (.shutdownNotification package)) (if alive s package then shutdownEff s package else s)

/-- A write of FTL_CTRL: WM_PCT of 50 to 100, FLUSH of every dirty unit while admission continues, and CAST_NOW. -/
def writeFtlCtrl (s : State) (p v : Nat) : State :=
  let pct := bitsOf v 7 0
  if pct < 50 ∨ 100 < pct then accErr s
  else
    let s := rewatermark (setNat s (ftlReg p 4) pct) p
    let s := if bitOf v 8 ∧ alive s p then showFlushing (setPkg s p { pkg s p with flushing := (pkg s p).wbuf.map (·.lunit) }) p else s
    if bitOf v 9 ∧ alive s p then castAll s p else s

/-- A write of FTL_CAST_CYCLE: 10,000 to 600,000. -/
def writeCastCycle (s : State) (p v : Nat) : State := if 10000 ≤ v ∧ v ≤ 600000 then setNat s (ftlReg p 8) v else accErr s

/-! ## Garbage collection (R347 to R349, R370) -/

/-- The committed valid units of a source block that no gathered record moves yet. -/
def batchUnits (x : Package) (key : Nat) : List (Nat × Nat) :=
  ((validUnits x key).filter (fun m => !x.page.any (fun r => r.type == 2 && r.lunit == m.1 && r.old == m.2))).take 1020

/-- Copies one unit, through parity where its channel is retired (R383): its data with its LOSTMASK, or zeros with LOSTMASK 0b1111 where it is unreadable. -/
def copyUnit (p : Nat) (refresh : Bool) (s : State) (m : (Nat × Nat) × Nat) : State :=
  let x := pkg s p
  let key := placeBlk (placeKey m.1.1 m.1.2)
  let s := readBlk s p key 1
  let s := if s.nv.retiredChans.contains (p * 32 + key / 62500) then bump s (medReg p 0x88) else s
  let s := match Sparse.get none x.nand (placeKey m.1.1 m.1.2) with
    | none => programUnit s p m.1.1 m.2 2 15 0 [] refresh
    | some n => programUnit s p m.1.1 m.2 2 n.lostMask n.wseq (if n.lostMask = 15 then [] else n.data) refresh
  gather s p { type := 2, lunit := m.1.1, new := m.2, old := m.1.2 }

/-- Whether the destinations of a batch are free and lie apart from one another and from the source. -/
def batchPlaces (s : State) (p key : Nat) (us : List (Nat × Nat)) (places : List Nat) : Bool :=
  let ks := (us.zip places).map (fun m => placeKey m.1.1 m.2)
  decide (us.length = places.length) && decide (ks.eraseDups.length = ks.length) &&
  (us.zip places).all (fun m => placeFree s p m.1.1 m.2 && placeBlk (placeKey m.1.1 m.2) != key)

/-- Whether a group still holds committed valid units (R348). -/
def hasValid (x : Package) (g : Group) : Bool := g.members.any (fun k => !(validUnits x k).isEmpty)

/-- The committed valid units of a group. -/
def groupValid (x : Package) (g : Group) : Nat := sumNat (g.members.map (fun k => (validUnits x k).length))

/-- Whether a member of a group waits for relocation (R371 to R373). -/
def hasUrgent (x : Package) (g : Group) : Bool := g.members.any (fun k => (blk x k).refresh || (blk x k).retention)

/-- Whether a group is full: no member takes programs any more. -/
def groupFull (x : Package) (g : Group) : Bool := g.members.all (fun k => (blk x k).state != 1)

/-- Whether a block is a source that garbage collection takes now (R368, R378, R383). The first group of the channel rebuild goes first; of the
others in its half, those whose block failed, then those with a member to relocate, then the full group that is under way or, with none under way,
one of the lowest valid count. -/
def gcSourceOk (x : Package) (key : Nat) : Bool :=
  let half := key / 62500 / 16
  let others := x.groups.filter (fun g => g.half == half && hasValid x g && !x.rebuildLeft.contains g.id)
  let full := others.filter (fun g => groupFull x g && !g.closed && !hasUrgent x g)
  match x.groups.find? (fun g => g.id == groupOfBlk key) with
  | none => true
  | some g =>
    if x.rebuildLeft.contains g.id then x.rebuildLeft.head? == some g.id
    else if g.closed then true
    else if others.any (·.closed) then false
    else if hasUrgent x g then true
    else
      let underWay := full.filter (fun y => y.members.any (fun k => (blk x k).source))
      groupFull x g && (if underWay.isEmpty then full.all (fun y => decide (groupValid x g ≤ groupValid x y)) else underWay.any (fun y => y.id == g.id))

/-- GC_BATCH (R347): step 1 of a batch, whose records are one journal page. -/
def gcBatchEff (s : State) (p key : Nat) (places : List Nat) : State :=
  let x := pkg s p
  let us := batchUnits x key
  let b := blk x key
  if alive s p ∧ !exposed s p ∧ (b.state = 1 ∨ b.state = 2 ∨ b.state = 5) ∧ x.page.length + us.length ≤ 1020 ∧ batchPlaces s p key us places ∧
      (us.isEmpty ∨ gcSourceOk x key) then
    let s := setPkg s p (setBlk x key { b with source := true })
    let s := foldState (copyUnit p (b.refresh || b.retention)) s (us.zip places)
    let s := add64 s (ftlReg p 0x58) us.length
    if us.isEmpty then releaseAll s p else s
  else s

/-- GC_BATCH. -/
def execGcBatch (package : Nat) (src : BlockId) (places : List Nat) (s : State) : Host.Outcome State Fault Refusal :=
  ok (Sys2Proof.wellFormed (.gcBatch package src places)) (if blkOk src then gcBatchEff s package (blkOf src) places else s)

/-! ## Erases (R347, R366, R368, R373, R375, R378) -/

/-- Whether a group may be erased: every member's release has committed, or the member never took a program (R368). -/
def groupReleased (x : Package) (g : Group) : Bool := g.members.all (fun k => g.released.contains k || (blk x k).state == 0)

/-- Begins the erase of every released member that is not retired. -/
def startErase (x : Package) (ks : List Nat) : Package :=
  ks.foldl (fun x k => if (blk x k).state = 3 then setBlk x k { blk x k with state := 4, suspends := 0 } else x) x

/-- BLOCK_ERASE (R347). -/
def blockEraseEff (s : State) (p group : Nat) : State :=
  let x := pkg s p
  if alive s p then
    match x.groups.find? (fun g => g.id == group) with
    | none => s
    | some g =>
      if groupReleased x g then
        let ks := g.members.filter (fun k => !s.nv.retiredChans.contains (p * 32 + k / 62500))
        setPkg s p (startErase x ks)
      else s
  else s

/-- BLOCK_ERASE. -/
def execBlockErase (package group : Nat) (s : State) : Host.Outcome State Fault Refusal :=
  ok (Sys2Proof.wellFormed (.blockErase package group)) (blockEraseEff s package group)

/-- The erase counts of the four-bit blocks of an endurance group in a half, with their keys (R373). -/
def levelCounts (x : Package) (half egrp : Nat) (slc : Bool) : List (Nat × Nat) :=
  (x.groups.filter (fun g => g.half == half && g.egrp == egrp && g.slc == slc)).foldl
    (fun l g => l ++ g.members.map (fun k => ((blk x k).erases, k))) []

/-- The entry with the least count. -/
def leastCount : List (Nat × Nat) → Option (Nat × Nat)
  | [] => none
  | a :: t =>
    match leastCount t with
    | none => some a
    | some b => if b.1 < a.1 then some b else some a

/-- Queues the group of the least-erased block for relocation where the spread of erase counts exceeds WL_SPREAD (R373). -/
def levelWear (s : State) (p half egrp top : Nat) (slc : Bool) : State :=
  let x := pkg s p
  let cs := levelCounts x half egrp slc
  let most := cs.foldl (fun m c => max m c.1) top
  let spread := if slc then 2000 else fld s (medReg p (0x30 + 4 * egrp)) 10 0
  match leastCount cs with
  | none => s
  | some c =>
    match groupAt x c.2 with
    | none => s
    | some g =>
      if c.1 + spread < most ∧ g.members.any (fun k => !(blk x k).refresh) ∧ 0 < spread then
        bump (setPkg s p (g.members.foldl (fun x k => setBlk x k { blk x k with refresh := true }) x)) (medReg p 0xA4)
      else s

/-- A block has been erased: its count rises, it returns to the free pool, and its ERASED record is journalled. A group with no member
left to erase is dissolved. -/
def erasedBlk (s : State) (p key : Nat) : State :=
  let x := pkg s p
  let b := blk x key
  let x := setBlk x key { slc := b.slc, erases := b.erases + 1 }
  let x := { x with nand := x.nand.filter (fun n => placeBlk n.1 != key), page := x.page ++ [{ type := 4, lunit := key }] }
  let g := groupAt x key
  let half := key / 62500 / 16
  let egrp := match g with | some y => y.egrp | none => 0
  let x := { x with groups := x.groups.filter (fun y => !(y.id == groupOfBlk key && groupReleased x y &&
    y.members.all (fun k => (blk x k).state == 0 || (blk x k).state == 5 || s.nv.retiredChans.contains (p * 32 + k / 62500)))) }
  testStages (levelWear (setPkg s p x) p half egrp (b.erases + 1) b.slc) p

/-- ERASE_DONE (R366). -/
def eraseDoneEff (s : State) (p key : Nat) (good : Bool) : State :=
  if alive s p ∧ (blk (pkg s p) key).state = 4 then (if good then erasedBlk s p key else retireBlk s p key) else s

/-- ERASE_DONE. -/
def execEraseDone (package : Nat) (block : BlockId) (good : Bool) (s : State) : Host.Outcome State Fault Refusal :=
  ok (Sys2Proof.wellFormed (.eraseDone package block good)) (if blkOk block then eraseDoneEff s package (blkOf block) good else s)

/-- ERASE_SUSPEND (R375): an erase is suspended at most 16 times. -/
def eraseSuspendEff (s : State) (p key : Nat) : State :=
  let x := pkg s p
  let b := blk x key
  if alive s p ∧ b.state = 4 ∧ b.suspends < 16 then bump (setPkg s p (setBlk x key { b with suspends := b.suspends + 1 })) (medReg p 0x90) else s

/-- ERASE_SUSPEND. -/
def execEraseSuspend (package : Nat) (block : BlockId) (s : State) : Host.Outcome State Fault Refusal :=
  ok (Sys2Proof.wellFormed (.eraseSuspend package block)) (if blkOk block then eraseSuspendEff s package (blkOf block) else s)

/-! ## Recovery (R356 to R358) -/

/-- Stores the step of recovery that a package has completed. -/
def atRecovery (s : State) (p n : Nat) : State := setPkg s p { pkg s p with recovery := n }

/-- TIER_STAT.INIT_DONE: every line of the stacks and of every fitted package's board memory has been initialised (R203). -/
def showInit (s : State) : State :=
  setBit s TIER_STAT 29 (decide (6 ≤ s.power.core) && (List.range s.build.sp).all (fun p => decide (1 ≤ (pkg s p).recovery)))

/-- JOURNAL_HEADS_LOCATED (R356 step 1): it waits for firmware in the core stage (R445), and board memory is initialised (R203). -/
def headsEff (s : State) (p : Nat) : State :=
  let x := pkg s p
  if fitted s p ∧ x.recovery = 0 ∧ 4 ≤ s.power.core ∧ !x.closing ∧ (x.flush = .none ∨ x.flush = .done) then
    let s := setPkg s p { x with recovery := 1, flush := .none, wbuf := [] }
    let s := initLines s (fun l => onBoard l && boardPkg l == p)
    let s := { s with dram := { s.dram with sweeps := s.dram.sweeps.filter (fun x => x.1 != 1280 + p) }
                      search := { s.search with cache := s.search.cache.filter (fun v => v.package != p) } }
    showInit (setBit (setBit s (ftlReg p 0) 31 false) (ftlReg p 0) 30 true)
  else s

/-- JOURNAL_HEADS_LOCATED. -/
def execJournalHeadsLocated (package : Nat) (s : State) : Host.Outcome State Fault Refusal :=
  ok (Sys2Proof.wellFormed (.journalHeadsLocated package)) (headsEff s package)

/-- The read counts after a start: the last written value plus RR_LIMIT ÷ 4, which may reach the limit (R371). -/
def restoreReads (p : Nat) (s : State) (b : Nat × Blk) : State :=
  let x := pkg s p
  let g := match groupAt x b.1 with | some y => y.egrp | none => 0
  let limit := s.nv.layoutRr.getD g 0
  let n := b.2.savedReads + limit / 4
  let reach := decide (0 < limit) && decide (limit ≤ n) && !b.2.refresh
  let s := setPkg s p (setBlk x b.1 { blk x b.1 with reads := n, refresh := b.2.refresh || reach })
  if reach then bump s (medReg p 0x9C) else s

/-- CASTS_LOADED (R356 step 2). -/
def castsEff (s : State) (p : Nat) : State :=
  if (pkg s p).recovery = 1 ∧ fitted s p then
    let x := pkg s p
    let s := setPkg s p { x with casts := x.casts.foldl (fun m c => Sparse.set {} m c.1 { c.2 with changed := false }) [], recovery := 2 }
    foldState (restoreReads p) s (x.blocks.filter (fun b => b.2.state != 0))
  else s

/-- CASTS_LOADED. -/
def execCastsLoaded (package : Nat) (s : State) : Host.Outcome State Fault Refusal :=
  ok (Sys2Proof.wellFormed (.castsLoaded package)) (castsEff s package)

/-- A cast that the replay changes. -/
def replayPage (x : Package) (j : JPage) : Package :=
  j.recs.foldl (fun x r =>
    if (r.type = 1 ∨ r.type = 2 ∨ r.type = 7) ∧ (castAt x (r.lunit / 1048576)).start < j.wseq then touchCast x r.lunit else x) x

/-- JOURNAL_REPLAYED (R346): the map ends as the committed records left it (log entry 24), and jobs that had not committed are gone
(R218). -/
def replayEff (s : State) (p : Nat) : State :=
  if (pkg s p).recovery = 2 ∧ fitted s p then
    let x := pkg s p
    let s := resumeEpochs s
    showJournal (setPkg s p { x.journal.foldl replayPage x with recovery := 3 }) p
  else s

/-- JOURNAL_REPLAYED. -/
def execJournalReplayed (package : Nat) (s : State) : Host.Outcome State Fault Refusal :=
  ok (Sys2Proof.wellFormed (.journalReplayed package)) (replayEff s package)

/-- DIRTY_LISTS_RECONCILED (R357): on the loss path, orphan copies are discarded, and a unit of the newest dirty list that no hold-up
block holds becomes LOST. -/
def reconcileEff (s : State) (p : Nat) : State :=
  let x := pkg s p
  if x.recovery = 3 ∧ fitted s p ∧ !x.sealClean then
    let lost := x.dirtyList.eraseDups
    let y := lost.foldl (fun y u => setEntry y u entryLost) x
    let y := x.orphans.foldl (fun y o => { y with nand := Sparse.set none y.nand (placeKey o.1 o.2) none }) y
    let s := bumpBy s (ftlReg p 0x38) x.orphans.length
    setPkg s p { y with recovery := 4, orphans := [], dirtyList := [], recoveredLost := x.recoveredLost ++ lost }
  else s

/-- DIRTY_LISTS_RECONCILED. -/
def execDirtyListsReconciled (package : Nat) (s : State) : Host.Outcome State Fault Refusal :=
  ok (Sys2Proof.wellFormed (.dirtyListsReconciled package)) (reconcileEff s package)

/-- VALID_COUNTS_REBUILT (R356 step 5): the releases and erases owed under R350 are queued. -/
def countsEff (s : State) (p : Nat) : State :=
  let x := pkg s p
  if fitted s p ∧ (x.recovery = 4 ∨ (x.recovery = 3 ∧ x.sealClean)) then
    let stale := (releasable x).filter (fun k => (blk x k).source)
    atRecovery (releaseAll (bumpBy s (ftlReg p 0x3C) stale.length) p) p 5
  else s

/-- VALID_COUNTS_REBUILT. -/
def execValidCountsRebuilt (package : Nat) (s : State) : Host.Outcome State Fault Refusal :=
  ok (Sys2Proof.wellFormed (.validCountsRebuilt package)) (countsEff s package)

/-- The time of the last start, once every package is ready: GLB_START (R445). -/
def showStart (s : State) : State :=
  if allReady s then setNat s GLB_START ((s.tb - s.power.coreStart) / 100000) else s

/-- CSTS.RDY: set with the controller enabled once the armature is in force and, with CC.CRIME 0, every package is ready (R398, R444);
in recovery it waits for neither (R459). -/
def showRdy (s : State) : State :=
  let b := s.host.enabled && (s.power.recovery || (decide (10 ≤ s.power.core) && (s.host.crime || allReady s)))
  { s with host := { s.host with ready := s.host.ready || b } }

/-- The ledger entries of a loss: every block of each unit, with cause 2 where its parity group had a second fault and 1 where the energy ran out
(R355, R363). The WSEQ of a unit that was never programmed is not stated (log entry 25). -/
def lostRecs (s : State) (p : Nat) (x : Package) : List LossRec :=
  let w := (Config.freeWord (fresh s)).toNat + 2 ^ 32 * (Config.freeWord (fresh s + 1)).toNat
  x.recoveredLost.foldl (fun l u => l ++ lossRecs s p u 15 (if x.stripeLost.contains u then 2 else 1) (one x.exposedAtLoss) 0xFF 0xFF w) []

/-- Whether the ledger lists nothing yet of the power failure before this start: its losses count once, whatever the packages (R363, R483). -/
def firstLoss (s : State) : Bool := !s.nv.ledger.entries.any (fun e => e.event == s.nv.pwron && decide (e.cause ≤ 2))

/-- PACKAGE_READY (R356 step 6): losses enter the ledger (R362), READY is set, the registers of what the journal and the tombstone
table hold show it (R218, R221), and commands that waited go on. -/
def readyEff (s : State) (p ms : Nat) : State :=
  let x := pkg s p
  if x.recovery = 5 ∧ fitted s p then
    let recs := lostRecs s p x
    let lost := x.recoveredLost.length
    let first := firstLoss s
    let s := setPkg s p { x with recovery := 6, recoveredLost := [], stripeLost := [], exposedAtLoss := false, sealClean := false }
    let s := addLedger (if recs.isEmpty then s else draw (draw s)) recs (one first)
    let s := if recs.isEmpty ∨ !first then s else interrupting s 7 p
    let s := setNat (setNat s (ftlReg p 0x4C) ms) (ftlReg p 0x50) lost
    let s := setBit (setBit (setBit s (ftlReg p 0) 29 x.sealClean) (ftlReg p 0) 30 false) (ftlReg p 0) 31 true
    resumeHeld (showRdy (showStart (showEpoch (showTombs (rewatermark (showJournal s p) p)))))
  else s

/-- PACKAGE_READY. -/
def execPackageReady (package ms : Nat) (s : State) : Host.Outcome State Fault Refusal :=
  ok (Sys2Proof.wellFormed (.packageReady package ms)) (readyEff s package ms)

/-! ## An uncorrectable line of the map (R360) -/

/-- The newest programmed copy of a unit in its home half, by WSEQ. -/
def newestCopy (x : Package) (u : Nat) : Option (Nat × Nat) :=
  x.nand.foldl (fun (m : Option (Nat × Nat)) n =>
    match n.2 with
    | none => m
    | some y =>
      if y.lunit = u then
        match m with
        | some b => if b.1 < y.wseq then some (y.wseq, n.1 % 2 ^ 32) else m
        | none => some (y.wseq, n.1 % 2 ^ 32)
      else m) none

/-- The units of a line whose entries a scan of footers must find: no hold-up block holds them. -/
def scanned (s : State) (p line : Nat) : List Nat :=
  ((List.range 16).map (fun i => 16 * line + i)).filter (fun u =>
    !(pkg s p).heldFlushed.any (fun d => d.lunit == u) && (regionOf p u s.nv.layout 0).isSome)

/-- The entry that a scan of footers gives a unit: the newest programmed copy, or LOST. -/
def scanEntry (x : Package) (u : Nat) : Package :=
  setEntry x u (match newestCopy x u with | some c => c.2 | none => entryLost)

/-- The ledger entries of the units that a scan does not find, with cause MAP_LOST. -/
def scanLost (s : State) (p line : Nat) : List LossRec :=
  let w := (Config.freeWord (fresh s)).toNat
  (scanned s p line).foldl (fun l u => if (newestCopy (pkg s p) u).isNone then l ++ lossRecs s p u 15 4 0 0xFF 0xFF w else l) []

/-- MAP_LINE_REBUILD: the 16 entries of a line from their cast and the journal after it, which gives what they held, or by a scan. What the scan does
not find is one error that lost data (R360, R363, R482). -/
def mapLineEff (s : State) (p line : Nat) (castReadable : Bool) : State :=
  if alive s p then
    let s := bump s (ftlReg p 0x44)
    if castReadable then s
    else
      let lost := scanLost s p line
      let s := addLedger (setPkg s p ((scanned s p line).foldl scanEntry (pkg s p))) lost 1
      if lost.isEmpty then s else interrupting (draw s) 3 allBits
  else s

/-- MAP_LINE_REBUILD (R360). -/
def execMapLineRebuild (package line : Nat) (castReadable : Bool) (s : State) : Host.Outcome State Fault Refusal :=
  ok (Sys2Proof.wellFormed (.mapLineRebuild package line castReadable)) (mapLineEff s package line castReadable)

end Sys2Proof.Machine
end

