-- ==== Sys2Proof/Machine/Media.lean ====
section
/-! DEFINITION. Flash media: reads through their stages, the retention patrol, raw commands, and what becomes of a channel that fails
(12_media.md, R369 to R389). -/
namespace Sys2Proof.Machine

/-! ## Reads (R369 to R371) -/

/-- The block of a package unit's place, with the place's key, where the unit has one. -/
def unitPlace (s : State) (p u : Nat) : Option (Nat × Nat) :=
  let e := mapGet (pkg s p) u
  if e = entryUnmapped ∨ e = entryLost then none else some (placeBlk (placeKey u e), placeKey u e)

/-- Whether a block lies on a retired channel. -/
def chanRetired (s : State) (p chan : Nat) : Bool := s.nv.retiredChans.contains (p * 32 + chan)

/-- Queues a block for refresh. -/
def queueRefresh (s : State) (p key : Nat) : State := setPkg s p (setBlk (pkg s p) key { blk (pkg s p) key with refresh := true })

/-- Queues a block for retention refresh, which counts once for each relocation (R372). -/
def queueRetention (s : State) (p key : Nat) : State :=
  let b := blk (pkg s p) key
  if b.retention then s else bump (setPkg s p (setBlk (pkg s p) key { b with retention := true })) (medReg p 0xA0)

/-- The counters of the stages that a read climbed, and its array reads of the block: stage 2 has 7 retry reads where it fails, and
stage 3 two more. -/
def climb (s : State) (p key : Nat) (stage : ReadStage) : State :=
  match stage with
  | .hard => readBlk s p key 1
  | .retry n _ => readBlk (bumpBy s (medReg p 0x80) n) p key (1 + n)
  | _ => readBlk (bump (bumpBy s (medReg p 0x80) 7) (medReg p 0x84)) p key 10

/-- Reads the other members of a stripe (R369 stage 4). -/
def readStripe (s : State) (p key : Nat) : State :=
  foldState (fun s k => readBlk s p k 1) s ((membersOf s p key).filter (fun k => k != key && !chanRetired s p (k / 62500)))

/-- Loses blocks of a programmed unit: they read as unrecovered from then on, and the media loss log lists them (R370, R384). -/
def loseUnit (s : State) (p pk mask cause chanA chanB : Nat) : State :=
  let x := pkg s p
  match Sparse.get none x.nand pk with
  | none => s
  | some n =>
    let now := Nat.lor n.lostMask mask
    if now = n.lostMask then s
    else
      let s := setPkg s p { x with nand := Sparse.set none x.nand pk (some { n with lostMask := now }) }
      addMediaLoss s (lossRecs s p n.lunit (now - n.lostMask) cause 0 chanA chanB s.tb)

/-- The effect of a read that ended at a stage. -/
def readEnds (s : State) (p key pk : Nat) (stage : ReadStage) : State :=
  match stage with
  | .hard => s
  | .retry _ entry =>
    let s := setPkg s p (setBlk (pkg s p) key { blk (pkg s p) key with retry := entry })
    if 4 ≤ entry then queueRetention s p key else s
  | .soft => queueRefresh s p key
  | .rebuilt => queueRefresh (readStripe (bump s (medReg p 0x88)) p key) p key
  | .unreadable =>
    let s := readStripe (bump s (medReg p 0x8C)) p key
    mediaLost s (loseUnit s p pk 15 1 (key / 62500) 0xFF) p (p * 32 + key / 62500)

/-- Whether a stage needs the channel itself. -/
def ownStage : ReadStage → Bool
  | .rebuilt => false
  | .unreadable => false
  | _ => true

/-- The cause that a stage of a flash read gives a piece which waits for the unit (R195): read retry or soft decoding 3, reconstruction 2, and 5
once hard decoding has given the data, which then crosses the package bridge. A command names the last stage of a read, whose cause stands until
the piece arrives (DESIGN CHOICE, log entry 127). -/
def stageCause : ReadStage → Nat
  | .hard => 5
  | .retry _ _ => 3
  | .soft => 3
  | _ => 2

/-- Whether a piece is being read from a unit of flash. -/
def pieceOfUnit (s : State) (p u : Nat) (q : Piece) : Bool :=
  q.looked && !q.viaCopy && q.cause != 1 && selector q.addr == 0xFD &&
  (match modelRegion s with | none => false | some r => homeOf s r (within q.addr / 16384) == (p, u))

/-- Gives the pieces that wait for a unit the cause of its read's stage. -/
def markPieces (s : State) (p u : Nat) (stage : ReadStage) : State :=
  { s with mover := { s.mover with pieces := updateWhere (pieceOfUnit s p u) (fun q => { q with cause := stageCause stage }) s.mover.pieces } }

/-- NAND_READ_DONE (R369). On a retired channel only the other members of the stripe answer (R383). -/
def nandReadEff (s : State) (p u : Nat) (stage : ReadStage) : State :=
  match unitPlace s p u with
  | none => s
  | some (key, pk) =>
    if !alive s p then s
    else if chanRetired s p (key / 62500) then (if ownStage stage then s else readEnds (markPieces s p u stage) p key pk stage)
    else readEnds (climb (markPieces s p u stage) p key stage) p key pk stage

/-- NAND_READ_DONE. -/
def execNandReadDone (package lunit : Nat) (stage : ReadStage) (s : State) : Host.Outcome State Fault Refusal :=
  ok (Sys2Proof.wellFormed (.nandReadDone package lunit stage)) (nandReadEff s package lunit stage)

/-- 365 days in TB ticks. -/
def yearTicks : Nat := 365 * 8640000000000

/-- RETENTION_PATROL (R372): one page of each wordline group of a written block is read, how many the manual does not state (log
entry 26); the block is queued where the patrol asks for it or where it has held data for 365 days. -/
def patrolEff (s : State) (p key : Nat) (refresh : Bool) : State :=
  let b := blk (pkg s p) key
  if alive s p ∧ (b.state = 1 ∨ b.state = 2) ∧ !chanRetired s p (key / 62500) then
    let s := draw (readBlk (maintenanceWake s) p key (Config.freeWord (fresh s)).toNat)
    if refresh ∨ yearTicks ≤ s.faults.powered - b.writtenAt then queueRetention s p key else s
  else s

/-- RETENTION_PATROL. -/
def execRetentionPatrol (package : Nat) (block : BlockId) (refresh : Bool) (s : State) : Host.Outcome State Fault Refusal :=
  ok (Sys2Proof.wellFormed (.retentionPatrol package block refresh)) (if blkOk block then patrolEff s package (blkOf block) refresh else s)

/-! ## Block records and raw commands (R374 to R377) -/


/-- MED_BLK_DATA of a block. -/
def blkData (s : State) (p key : Nat) : Nat :=
  let b := blk (pkg s p) key
  if isOptBlk s p key then 6 * 2 ^ 28 + 2 ^ 27 + b.erases % 65536
  else b.state * 2 ^ 28 + one b.slc * 2 ^ 27 + b.erases % 65536

/-- A write of MED_BLK_SEL: the block's record is copied in one update; a block outside the geometry is refused (log entry 27). -/
def writeBlkSel (s : State) (p v : Nat) : State :=
  let b : BlockId := { chan := bitsOf v 28 24, die := bitsOf v 19 16, block := bitsOf v 12 0 }
  if blkOk b then
    let s := setNat s (medReg p 0x50) (b.chan * 2 ^ 24 + b.die * 2 ^ 16 + b.block)
    setNat (setNat s (medReg p 0x54) (blkData s p (blkOf b))) (medReg p 0x58) (blk (pkg s p) (blkOf b)).reads
  else accErr s

/-- The bytes of a page: a programmed unit's, or the XOR of its stripe where it holds parity (R367). -/
def xorBytes (a b : List Byte) : List Byte := List.zipWith (· ^^^ ·) a b

/-- A place's key from a block and a page. -/
def pageKey (key pg : Nat) : Nat :=
  let chan := key / 62500
  chan / 16 * 2 ^ 32 + chan % 16 * 2 ^ 28 + key % 62500 / 6250 * dieUnits + key % 6250 * 2500 + pg

/-- The data of a page, or none where the model holds none. -/
def pageData (s : State) (p key pg : Nat) : Option (List Byte) :=
  let x := pkg s p
  let data (k : Nat) : Option (List Byte) := (Sparse.get none x.nand (pageKey k pg)).map (fun n => Memory.bytes n.data 0 16384)
  match data key with
  | some l => some l
  | none =>
    if (groupAt x key).isSome ∧ isParity s p key pg then
      some ((membersOf s p key).foldl (fun l k => if k = key then l else match data k with | some d => xorBytes l d | none => l) (List.replicate 16384 0))
    else none

/-- Ends a raw command with a status. -/
def rawDone (s : State) (p status : Nat) : State := setNat s (medReg p 0x74) (2 ^ 31 + status)

/-- Writes what a raw command read to the buffer in Subsystem Local Memory (R377); a buffer that does not lie there refuses it. -/
def rawWrite (s : State) (p status : Nat) (data : List Byte) : State :=
  let a := nat64 s (medReg p 0x6C)
  if mappedSlm (settings s) a data.length then rawDone (slmWrite s a data).1 p status else rawDone s p 5

/-- The READ command's status after a stage. -/
def rawStatus : ReadStage → Nat
  | .hard => 0
  | .retry _ _ => 1
  | .soft => 1
  | _ => 2

/-- A raw command on the block and page that MED_RAW_LOC and MED_RAW_PAGE name (R376, R377): READ with the stage that decoded it, or
READ_NOECC with the bytes as sensed. -/
def rawCommand (s : State) (p cmd : Nat) (stage : ReadStage) (sensed : List Byte) : State :=
  let loc := regNat s (medReg p 0x64)
  let b : BlockId := { chan := bitsOf loc 28 24, die := bitsOf loc 19 16, block := bitsOf loc 12 0 }
  let pg := fld s (medReg p 0x68) 11 0
  let key := blkOf b
  let y := blk (pkg s p) key
  if !blkOk b ∨ chanRetired s p b.chan ∨ (if y.slc ∨ isOptBlk s p key then 625 else 2500) ≤ pg then rawDone s p 5
  else if y.state = 4 then rawDone s p 3
  else if y.state = 5 then rawDone s p 4
  else if cmd = 2 then rawWrite (readBlk s p key 1) p 0 sensed
  else
    let s := climb s p key stage
    if rawStatus stage = 2 then rawDone s p 2
    else
      match pageData s p key pg with
      | some l => rawWrite s p (rawStatus stage) l
      | none => rawWrite { s with fresh := s.fresh + 16384 } p (rawStatus stage) (freeBytes (fresh s) 16384)

/-- A write of MED_RAW_CTRL, with what the medium answers. -/
def writeRawCtrl (s : State) (p v : Nat) (stage : ReadStage) (sensed : List Byte) : State :=
  let cmd := bitsOf v 1 0
  if bitsOf v 31 24 ≠ 0xA5 then s
  else if cmd = 3 then accErr s
  else if cmd = 0 then s
  else if alive s p then rawCommand s p cmd stage sensed
  else s

/-- A write of MED_CTRL: REBUILD_SHARE 1 to 15 and RET_DAYS 1 to 30, or it is discarded whole. -/
def writeMedCtrl (s : State) (p v : Nat) : State :=
  let share := bitsOf v 15 12
  let days := bitsOf v 4 0
  if share = 0 ∨ days = 0 ∨ 30 < days then accErr s else setNat s (medReg p 4) (share * 2 ^ 12 + days)

/-! ## Channels (R382 to R385) -/

/-- Shows a package's retired channels and what is left of its rebuild (R383). -/
def showChans (s : State) (p : Nat) : State :=
  let x := pkg s p
  let cs := (List.range 32).filter (fun c => chanRetired s p c)
  let s := setNat s (medReg p 8) (sumNat (cs.map (fun c => 2 ^ c)))
  let s := setBit (setFld s (medReg p 0) 5 0 cs.length) (medReg p 0) 31 x.rebuildChan.isSome
  let s := setNat s (medReg p 0xC0) (one x.rebuildChan.isSome * 2 ^ 31 + (match x.rebuildChan with | some c => c | none => 0) * 2 ^ 17 + x.rebuildLeft.length)
  setFld s (scnReg p 0) 13 8 (liveCount s p)

/-- Shows MED_STAT.OPT_SINGLE (R388, R389), in SP0 only. -/
def showOptSingle (s : State) : State := setBit s (medReg 0 0) 30 (s.nv.optHome.any (fun h => h.isNone))

/-- The mapped units of a block, by the keys of their places. -/
def mappedIn (x : Package) (key : Nat) : List Nat := (validUnits x key).map (fun m => placeKey m.1 m.2)

/-- The members of a group that have failed: on a retired channel, or retired themselves. -/
def failedMembers (s : State) (p : Nat) (g : Group) : List Nat :=
  g.members.filter (fun k => chanRetired s p (k / 62500) || (blk (pkg s p) k).state == 5)

/-- The second failure of a stripe group loses the data of both failed members, and a unit that is unreadable loses with it the unit
of the failed channel in its stripe (R384). -/
def doubleFault (p c : Nat) (s : State) (g : Group) : State :=
  let failed := failedMembers s p g
  let x := pkg s p
  let other := (failed.filter (fun k => k / 62500 != c)).head?
  match other with
  | some k =>
    failed.foldl (fun s f => foldState (fun s pk => loseUnit s p pk 15 2 (min c (k / 62500)) (max c (k / 62500))) s (mappedIn x f)) s
  | none =>
    match g.members.find? (fun k => k / 62500 == c) with
    | none => s
    | some mine =>
      foldState (fun s pk =>
        let pg := pk % 2 ^ 28 % 2500
        let bad := g.members.find? (fun k => k != mine && match Sparse.get none x.nand (pageKey k pg) with
          | some n => decide (n.lostMask = 15)
          | none => false)
        match bad with
        | some k => loseUnit s p pk 15 2 (min c (k / 62500)) (max c (k / 62500))
        | none => s) s (mappedIn x mine)

/-- The channel of a half to which a copy of the option area may move: the lowest live one that holds no copy (R389). -/
def optTarget (s : State) (half : Nat) : Option Nat :=
  (liveChans s 0 half).find? (fun c => !s.nv.optHome.any (fun h => h == some c))

/-- A retired channel that held a copy of the option area loses it, and the move of its unlocked records begins where its half has a live
channel and a move left (R389). -/
def loseOptHome (s : State) (p c : Nat) : State :=
  if p = 0 ∧ s.nv.optHome.any (fun h => h == some c) then
    let half := c / 16
    let may := decide (s.nv.optMoves.getD half 0 < 7)
    let s := { s with nv := { s.nv with optHome := setAt s.nv.optHome half none } }
    let go := may && (optTarget s half).isSome
    showOptSingle { s with nv := { s.nv with optMoving := setAt s.nv.optMoving half go } }
  else s

/-- Retires a channel: the records and registers of R481 and R383, then the rebuild of every group with a member on it. -/
def retireChan (s : State) (p c cause : Nat) : State :=
  let unit := p * 32 + c
  let limit := decide ((liveChans s p (c / 16)).length ≤ 12)
  let rec_ := faultRec s 3 (if limit then 3 else 2) cause unit
  let s := permanentFault s 3
  let s := { s with nv := { s.nv with retiredChans := s.nv.retiredChans ++ [unit] } }
  let x := pkg s p
  let mine := x.groups.filter (fun g => g.members.any (fun k => k / 62500 == c))
  let t := mediaLost s (foldState (doubleFault p c) s mine) p unit
  let x := pkg t p
  let left := (x.groups.filter (fun g => x.rebuildLeft.contains g.id || mine.any (fun m => m.id == g.id))).map (·.id)
  let touched := mine.foldl (fun x g => g.members.foldl (fun x k => if (blk x k).state = 0 then x else setBlk x k { blk x k with source := true }) x) x
  let x := { touched with groups := updateWhere (fun g => mine.any (fun m => m.id == g.id)) (fun g => { g with closed := true }) touched.groups
                          rebuildLeft := left, rebuildChan := if left.isEmpty then none else some c }
  let s := loseOptHome (showChans (setPkg t p x) p) p c
  retired (releaseAll (testStages (rewatermark s p) p) p) rec_

/-- A transient fault of a channel (R382): counted, and judged. -/
def chanFault (s : State) (p c cause : Nat) (exhausted : Bool) : State :=
  if fitted s p ∧ !chanRetired s p c then
    let s := bump s (medReg p 0x98)
    if judgedPermanent s 3 (p * 32 + c) exhausted then retireChan s p c cause else transientFault s 3 cause (p * 32 + c)
  else s

/-- DIE_BUSY_TIMEOUT (R382): cause 2. -/
def execDieBusyTimeout (package chan : Nat) (exhausted : Bool) (s : State) : Host.Outcome State Fault Refusal :=
  ok (Sys2Proof.wellFormed (.dieBusyTimeout package chan exhausted)) (chanFault s package chan 2 exhausted)

/-- CHANNEL_TRANSIENT_FAULT (R382): cause 1, CRC, or 3, code store. -/
def execChannelTransientFault (package chan cause : Nat) (exhausted : Bool) (s : State) : Host.Outcome State Fault Refusal :=
  ok (Sys2Proof.wellFormed (.channelTransientFault package chan cause exhausted))
    (if cause = 1 ∨ cause = 2 ∨ cause = 3 then chanFault s package chan cause exhausted else s)

/-- REBUILD_GROUP_DONE (R383): the group's release has committed, and the next group begins. -/
def rebuildDoneEff (s : State) (p : Nat) : State :=
  let x := pkg s p
  match x.rebuildLeft with
  | [] => s
  | g :: rest =>
    let released : Bool := match x.groups.find? (fun y => y.id == g) with | none => true | some y => groupReleased x y
    if alive s p && released then
      showChans (setPkg s p { x with rebuildLeft := rest, rebuildChan := if rest.isEmpty then none else x.rebuildChan }) p
    else s

/-- REBUILD_GROUP_DONE. -/
def execRebuildGroupDone (package : Nat) (s : State) : Host.Outcome State Fault Refusal :=
  ok (Sys2Proof.wellFormed (.rebuildGroupDone package)) (rebuildDoneEff s package)

/-- OPTION_AREA_MOVE_DONE (R389): the unlocked records have been written, the OTP bits are blown, and OPT_SINGLE clears once both halves
have a home. -/
def optMoveEff (s : State) (half : Nat) : State :=
  if s.nv.optMoving.getD half false then
    match optTarget s half with
    | none => s
    | some c =>
      showOptSingle { s with nv := { s.nv with optHome := setAt s.nv.optHome half (some c), optMoving := setAt s.nv.optMoving half false
                                               optMoves := setAt s.nv.optMoves half (s.nv.optMoves.getD half 0 + 1) } }
  else s

/-- OPTION_AREA_MOVE_DONE. -/
def execOptionAreaMoveDone (half : Nat) (s : State) : Host.Outcome State Fault Refusal := ok (decide (half < 2)) (optMoveEff s half)

end Sys2Proof.Machine
end

