-- ==== Sys2Proof/Machine/Scan.lean ====
section
/-! DEFINITION. Filtering and embedding: the job ring, predicate programs, the records of slab regions, and the results of jobs
(07_scan.md). -/
namespace Sys2Proof.Machine

/-! ## Rings of descriptors (R193, R223, R271) -/

/-- Descriptors of a ring that wait to be started: size, tail, head and how many have been started. -/
def ringCount (size tail head started : Nat) : Nat :=
  if size = 0 then 0 else (tail + size - head % size) % size - started

/-- Whether an index names a descriptor that waits. -/
def ringWaits (size tail head started index : Nat) : Bool :=
  (List.range (ringCount size tail head started)).any (fun i => (head + started + i) % max 1 size == index)

/-- Whether an address with selector 0xFF lies in a memory window that host descriptors may name. -/
def slmOk (s : State) (a len : Nat) : Bool := selector a == 0xFF && mappedSlm (settings s) (within a) len

/-- Reads a range that a descriptor names: none where it is unmapped, some none on a bus error. -/
def readSlm (s : State) (a len : Nat) : State × Option (List Byte) := readRange s (within a) len

/-! ## Predicate programs (R227 to R231) -/

/-- Bytes of a TYPE. -/
def typeBytes (ty : Nat) : Nat :=
  match ty with
  | 0 | 4 => 1
  | 1 | 5 => 2
  | 2 | 6 | 8 => 4
  | _ => 8

/-- Where NINSTR instructions end and the pattern table begins. -/
def progTable (p : List Byte) : Nat := 32 + 32 * fieldAt p 4 1

/-- The checks of a program's header, in order of their fields; the ranges of R227 hold whether or not the program uses a
field (log entry 20). -/
def headProblems (p : List Byte) (fixedLen : Nat) : List (Nat × Bool) :=
  let f (o n : Nat) : Nat := fieldAt p o n
  [(0, f 0 4 == 0x504C5053), (4, inRange (f 4 1) 1 64), (5, decide (f 5 1 ≤ 8)), (6, inRange (f 6 1) 10 30), (7, f 7 1 == 0),
   (8, f 8 8 % 64 == 0), (0x10, f 0x10 2 % 8 == 0 && decide (f 0x10 2 + f 0x12 2 ≤ fixedLen)),
   (0x12, inRange (f 0x12 2) 8 4096 && f 0x12 2 % 8 == 0), (0x14, decide (f 0x14 2 ≤ 2048)), (0x16, f 0x16 10 == 0)]

/-- The checks of one instruction, but for the stack. -/
def instrProblems (p : List Byte) (fixedLen i : Nat) : List (Nat × Bool) :=
  let o := 32 + 32 * i
  let f (d n : Nat) : Nat := fieldAt p (o + d) n
  let op := f 0 1
  let cmp := op == 1 || op == 2
  [(o, inRange op 1 7), (o + 24, f 24 8 == 0),
   (o + 1, !cmp || decide (f 1 1 ≤ 9)), (o + 2, op != 1 || decide (f 2 1 ≤ 5)), (o + 3, !cmp || f 3 1 == 0xFF),
   (o + 4, !cmp || decide (f 4 2 + typeBytes (f 1 1) ≤ fixedLen)),
   (o + 6, !(op == 3 && f 3 1 == 0xFF) || inRange (f 6 2) 1 256),
   (o + 4, !(op == 3 && f 3 1 == 0xFF) || decide (f 4 2 + f 6 2 ≤ fixedLen)),
   (o, op != 3 || fieldAt p 5 1 != 0),
   (o + 6, op != 4 || inRange (f 6 2) 1 32), (o + 8, op != 4 || decide (f 8 8 + 2 * f 6 2 ≤ fieldAt p 0x14 2))]

/-- Operands that an opcode pops. -/
def popsOf (op : Nat) : Nat := if op = 5 ∨ op = 6 then 2 else if op = 7 then 1 else 0

/-- The offset of the first failing check of `n` instructions from number `i` with a stack of a depth (R229). -/
def instrFailure (p : List Byte) (fixedLen : Nat) : Nat → Nat → Nat → Option Nat
  | 0, i, depth => if depth = 1 then none else some (32 * i)
  | n + 1, i, depth =>
    match (instrProblems p fixedLen i).find? (fun x => !x.2) with
    | some x => some x.1
    | none =>
      let k := popsOf (fieldAt p (32 + 32 * i) 1)
      if depth < k ∨ 16 < depth + 1 - k then some (32 + 32 * i)
      else instrFailure p fixedLen n (i + 1) (depth + 1 - k)

/-- Whether a program has a BLOOM instruction. -/
def usesBloom (p : List Byte) : Bool := (List.range (fieldAt p 4 1)).any (fun i => fieldAt p (32 + 32 * i) 1 == 3)

/-- The offset at which a program fails its check, or none (R229). -/
def progFailure (p : List Byte) (fixedLen : Nat) : Option Nat :=
  match (headProblems p fixedLen).find? (fun x => !x.2) with
  | some x => some x.1
  | none =>
    match instrFailure p fixedLen (fieldAt p 4 1) 0 0 with
    | some o => some o
    | none => if fieldAt p 5 1 ≠ 0 ∧ !usesBloom p then some 5 else none

/-- A number as a signed integer of `n` bytes. -/
def signedOf (n v : Nat) : Int := if v < 2 ^ (8 * n - 1) then (v : Int) else (v : Int) - 2 ^ (8 * n)

/-- The value that CMP and RANGE compare: stored bytes of a TYPE, or none for a NaN (R228, R230). -/
def cmpValue (ty : Nat) (l : List Byte) : Option Int :=
  let l := l.take (typeBytes ty)
  if ty = 9 then some (leNat l.reverse : Int)
  else if ty = 8 then
    let w : Word := BitVec.ofNat 32 (leNat l)
    if isNan w then none else some (meritKey w)
  else if 4 ≤ ty then some (signedOf (typeBytes ty) (leNat l))
  else some (leNat l : Int)

/-- field REL A. -/
def relHolds (rel : Nat) (f a : Option Int) : Bool :=
  match f, a with
  | some x, some y =>
    match rel with
    | 0 => decide (x = y)
    | 1 => decide (x ≠ y)
    | 2 => decide (x < y)
    | 3 => decide (x ≤ y)
    | 4 => decide (y < x)
    | _ => decide (y ≤ x)
  | _, _ => rel == 1

/-- A ≤ field ≤ B. -/
def inBounds (f a b : Option Int) : Bool :=
  match f, a, b with
  | some x, some y, some z => decide (y ≤ x) && decide (x ≤ z)
  | _, _, _ => false

/-- 64-bit FNV-1a (R231). -/
def fnv1a : List Byte → Nat → Nat
  | [], h => h
  | b :: t, h => fnv1a t (Nat.xor h b.toNat * 0x100000001B3 % 2 ^ 64)

/-- Whether every probed bit of a Bloom filter is 1 (R231). -/
def bloomHolds (bits : List Byte) (k log2 : Nat) (data : List Byte) : Bool :=
  let h := fnv1a data 0xCBF29CE484222325
  let h1 := h % 2 ^ 32
  let h2 := Nat.lor (h / 2 ^ 32) 1
  (List.range k).all (fun i =>
    let j := (h1 + i * h2) % 2 ^ log2
    bitOf (bits.getD (j / 8) 0).toNat (j % 8))

/-- Whether a pattern matches at the start of a field: (f AND m) = (p AND m). -/
def maskedAt : List Byte → List Byte → List Byte → Bool
  | _, [], _ => true
  | _, _, [] => true
  | [], _, _ => false
  | f :: fs, p :: ps, m :: ms => (f &&& m) == (p &&& m) && maskedAt fs ps ms

/-- Whether the masked pattern occurs at any offset of a field (R228, R230). -/
def patternHolds (field pat mask : List Byte) : Bool :=
  decide (pat.length ≤ field.length) &&
  (List.range (field.length - pat.length + 1)).any (fun i => maskedAt (field.drop i) pat mask)

/-- What one instruction pushes, with the stack that it leaves (R228, R230). PATTERN on FIXED searches the whole area (log
entry 20). -/
def evalInstr (p bloom : List Byte) (r : Record) (i : Nat) (st : List Bool) : List Bool :=
  let o := 32 + 32 * i
  let f (d n : Nat) : Nat := fieldAt p (o + d) n
  let fixedFrom := r.fixed.drop (f 4 2)
  let konst (d : Nat) : List Byte := (p.drop (o + d)).take 8
  match f 0 1, st with
  | 5, y :: x :: t => (x && y) :: t
  | 6, y :: x :: t => (x || y) :: t
  | 7, x :: t => (!x) :: t
  | 1, st => relHolds (f 2 1) (cmpValue (f 1 1) fixedFrom) (cmpValue (f 1 1) (konst 8)) :: st
  | 2, st => inBounds (cmpValue (f 1 1) fixedFrom) (cmpValue (f 1 1) (konst 8)) (cmpValue (f 1 1) (konst 16)) :: st
  | 3, st =>
    let data := if f 3 1 = 0xFF then some (fixedFrom.take (f 6 2)) else r.vars[f 3 1]?
    (match data with | none => false | some d => bloomHolds bloom (fieldAt p 5 1) (fieldAt p 6 1) d) :: st
  | 4, st =>
    let data := if f 3 1 = 0xFF then some r.fixed else r.vars[f 3 1]?
    let tab := p.drop (progTable p + f 8 8)
    (match data with | none => false | some d => patternHolds d (tab.take (f 6 2)) ((tab.drop (f 6 2)).take (f 6 2))) :: st
  | _, st => st

/-- Whether a record matches a program that has passed its check. -/
def progMatches (p bloom : List Byte) (r : Record) : Bool :=
  ((List.range (fieldAt p 4 1)).foldl (fun st i => evalInstr p bloom r i st) []).headD false

/-! ## Records (R216, R225) -/

/-- FIXED_LEN of a slab region (R213). -/
def fixedLen (r : Region) : Nat := bitsOf r.param 12 0

/-- A record's variable fields. -/
def varsOf (l : List Byte) (fl : Nat) : List (List Byte) :=
  let vc := fieldAt l 0x14 2
  let base := 0x20 + fl + 8 * vc
  (List.range vc).map (fun i => (l.drop (base + fieldAt l (0x20 + fl + 8 * i) 4)).take (fieldAt l (0x24 + fl + 8 * i) 4))

/-- Where the variable data of a record ends. -/
def varsEnd (l : List Byte) (fl : Nat) : Nat :=
  let vc := fieldAt l 0x14 2
  (List.range vc).foldl (fun m i => max m (0x20 + fl + 8 * vc + fieldAt l (0x20 + fl + 8 * i) 4 + fieldAt l (0x24 + fl + 8 * i) 4))
    (0x20 + fl + 8 * vc)

/-- Whether a record's LEN, VAR_COUNT, VARDIR and padding keep R216. -/
def recordOk (l : List Byte) (fl : Nat) : Bool :=
  let n := fieldAt l 0x10 4
  n % 8 == 0 && decide (n ≤ 1048512) && decide (fieldAt l 0x14 2 ≤ 255) && decide (n ≤ l.length) && decide (32 ≤ l.length) &&
  decide (varsEnd (l.take n) fl ≤ n) && ((l.take n).drop (varsEnd (l.take n) fl)).all (fun b => b == 0)

/-- A record as it is stored: RID, COMMIT_EPOCH and CRC filled in. -/
def sealRecord (l : List Byte) (rid epoch : Nat) : List Byte :=
  let body := leBytes 8 rid ++ leBytes 8 epoch ++ ((l.drop 0x10).take 8) ++ List.replicate 4 0 ++ l.drop 0x1C
  body.take 0x18 ++ leBytes 4 (crc32c body) ++ body.drop 0x1C

/-- Records parsed from an APPEND's bytes: the records, or the offset at which one breaks R216. -/
def parseRecords (region fl epoch : Nat) : Nat → Nat → Nat → List Byte → List Record ⊕ Nat
  | 0, _, _, _ => .inl []
  | n + 1, rid, off, l =>
    if recordOk l fl then
      let len := fieldAt l 0x10 4
      match parseRecords region fl epoch n (rid + 1) (off + len) (l.drop len) with
      | .inr e => .inr e
      | .inl rs =>
        let raw := sealRecord (l.take len) rid epoch
        .inl ({ region := region, slab := 0, rid := rid, epoch := epoch, len := len, fixed := (raw.drop 0x20).take fl
                vars := varsOf raw fl, raw := raw } :: rs)
    else .inr off

/-- Bytes that a slab holds of its records, committed and pending. -/
def slabUsed (rs : List Record) (region slab : Nat) : Nat :=
  slabHead + sumNat ((rs.filter (fun r => r.region == region && r.slab == slab)).map (·.len))

/-- Every record of the device: committed ones and those of APPENDs that run. -/
def allRecords (s : State) : List Record := s.corpus.records ++ pendingRecords s

/-- The header of a record slab (R215). -/
def slabHeader (region slab : Nat) (rs : List Record) : List Byte :=
  let least (f : Record → Nat) : Nat := (rs.map f).foldl min ((rs.map f).headD 0)
  let most (f : Record → Nat) : Nat := (rs.map f).foldl max 0
  sealed (leBytes 4 0x534C5053 ++ leBytes 4 region ++ leBytes 4 slab ++ leBytes 4 rs.length ++ leBytes 8 (least (·.rid)) ++
    leBytes 8 (most (·.rid)) ++ leBytes 8 (least (·.epoch)) ++ leBytes 8 (most (·.epoch)) ++ List.replicate 12 0)

/-- The committed records of a slab. -/
def slabRecords (s : State) (region slab : Nat) : List Record := s.corpus.records.filter (fun r => r.region == region && r.slab == slab)

/-- What the store of a record writes: its bytes at its place in its slab. -/
def recordPieces (r : Record) : List (Nat × List Byte) := [(r.slab * slabLen + r.at_, r.raw)]

/-- The headers of some slabs, as their committed records give them. -/
def headerPieces (s : State) (region : Nat) (slabs : List Nat) : List (Nat × List Byte) :=
  slabs.map (fun b => (b * slabLen, slabHeader region b (slabRecords s region b)))

/-- The lowest slab of a region that holds no record. -/
def freeSlab (rs : List Record) (region : Nat) : Nat → Nat → Nat
  | 0, i => i
  | n + 1, i => if rs.any (fun r => r.region == region && r.slab == i) then freeSlab rs region n (i + 1) else i

/-- Packs records into a region's open slab, opening a new one whenever the next record does not fit: the records placed, and
the open slab (R225). -/
def packRecords (all : List Record) (region openAt : Nat) : List Record → List Record × Nat
  | [] => ([], openAt)
  | r :: t =>
    let target := if slabUsed all region openAt + r.len ≤ slabLen then openAt else freeSlab all region all.length 0
    let r' := { r with slab := target, at_ := slabUsed all region target }
    let x := packRecords (all ++ [r']) region target t
    (r' :: x.1, x.2)

/-- Whether placed records stay within the region, beside its tombstones, and its packages' slab summaries of 32 bytes a slab (R217, R225). -/
def recordsFit (s : State) (g : Region) (rs : List Record) : Bool :=
  let all := allRecords s ++ rs
  rs.all (fun r => decide (r.slab < regionSlabs g) && !underTombs s g r.slab) &&
  (packagesOf g.spMask).all (fun p =>
    let keys := ((all.filter (fun r => match findRegion s 2 r.region with | some q => homePkg q r.slab == p | none => false)).map
      (fun r => (r.region, r.slab))).eraseDups
    decide (32 * keys.length ≤ (boardPart (settings s) p).scan * granule))

/-! ## The job ring (R223, R224) -/

/-- A job of the ring. -/
def findJob (s : State) (index : Nat) : Option Job := s.scan.jobs.find? (fun j => j.index == index)


/-- Jobs that run. -/
def jobsRunning (s : State) : Nat := (s.scan.jobs.filter (fun j => !j.done)).length

/-- Shows the ring's activity and each package's live engines. -/
def showScan (s : State) : State :=
  let s := setFld s (scnReg 0 0) 4 0 (jobsRunning s)
  foldState (fun s p => setFld s (scnReg p 0) 13 8 (liveCount s p)) s (List.range s.build.sp)

/-- A ring entry's window address. -/
def jobEntry (s : State) (i : Nat) : Nat := nat64 s (scnReg 0 0x10) + 128 * i

/-- HEAD passes every job that has ended with all before it. -/
def advanceJobs : Nat → State → State
  | 0, s => s
  | n + 1, s =>
    match s.scan.jobs with
    | [] => s
    | j :: js =>
      if j.done then
        let size := max 1 (fld s (scnReg 0 0x18) 16 0)
        advanceJobs n (setNat { s with scan := { s.scan with jobs := js } } (scnReg 0 0x20) ((regNat s (scnReg 0 0x20) + 1) % size))
      else s

/-- A job's ENERGY_UJ: what R237's table charges for what it did. The table has no entry for the programs of an APPEND or a DELETE nor for the graph
runs of an EMBED: for those the ledger's measurement is added (log entry 46). -/
def jobEnergy (j : Job) (measured : Nat) : Nat := (j.energyPj / 1000000 + (if j.op = 3 then 0 else measured)) % 2 ^ 64

/-- The device's bytes 0x40 to 0x7F of a job (R224). -/
def jobBytes (s : State) (j : Job) (energyUj : Nat) : List Byte :=
  leBytes 8 j.epoch ++ leBytes 8 j.count ++ leBytes 4 j.returned ++ leBytes 4 j.lost ++ leBytes 8 j.bytesScanned ++
  leBytes 8 (s.tb - j.start) ++ leBytes 4 0 ++ leBytes 4 (min j.notVisible allBits) ++ leBytes 8 j.ridFirst ++ leBytes 8 energyUj

/-- Ends a job: its results, then its status, then HEAD. -/
def endJob (s : State) (index st energyUj : Nat) : State :=
  match findJob s index with
  | none => s
  | some j =>
    let s :=
      if mappedSlm (settings s) (jobEntry s index) 128 then
        let s := (slmWrite s (jobEntry s index + 0x40) (jobBytes s j (jobEnergy j energyUj))).1
        (slmWrite s (jobEntry s index + 1) (leBytes 1 st)).1
      else s
    let s := match j.batchEpoch with | none => s | some e => settleEpoch s e
    let s := modJob s index (fun j => { j with status := some st, done := true, batchEpoch := none, pendingEntries := [], pendingSlabs := [] })
    showScan (advanceJobs s.scan.jobs.length s)

/-- A job of a descriptor. -/
def parseJob (s : State) (i : Nat) (d : List Byte) : Job :=
  { index := i, op := fieldAt d 0 1, region := fieldAt d 2 1, form := fieldAt d 3 1, slot := fieldAt d 4 1, var := fieldAt d 5 1
    mrs := fieldAt d 6 2, limit := fieldAt d 8 4, len2 := fieldAt d 0xC 4, prog := [], hasProg := fieldAt d 0x10 8 != 0
    bloom := [], dst := fieldAt d 0x20 8, ridLo := fieldAt d 0x28 8, ridHi := fieldAt d 0x30 8, epoch := 0, start := s.tb }

/-- The checks of a descriptor's own fields (R224, R232, R235). -/
def jobFieldsOk (d : List Byte) : Bool :=
  let f (o n : Nat) : Nat := fieldAt d o n
  let sel := decide (f 0x28 8 ≤ f 0x30 8)
  match f 0 1 with
  | 1 => f 3 5 == 0 && f 0x10 8 == 0 && f 0x20 24 == 0
  | 2 => f 3 5 == 0 && f 0xC 4 == 0 && f 0x10 8 == 0 && f 0x20 24 == 0
  | 3 => f 4 4 == 0 && f 0x18 8 == 0 && sel && decide (f 3 1 ≤ 3) && (f 3 1 != 0 || f 8 4 == 0) && f 0x20 8 % 64 == 0
  | 4 => f 0x18 16 == 0 && sel && !bitOf (f 3 1) 6 && decide (f 5 1 ≤ 254) && inRange (f 8 4) 1 4096 && inRange (f 0xC 4) 8 65536 &&
         f 0xC 4 % 8 == 0
  | _ => false

/-- Bytes of a FILTER entry of forms 1 and 2 (R232). -/
def entrySize (form : Nat) (prog : List Byte) (fl : Nat) : Nat :=
  if form = 1 then 8 else if prog.isEmpty then 8 + fl else 8 + fieldAt prog 0x12 2

/-- Slabs of a region that a job's snapshot and RID range do not exclude (R217). -/
def slabsFor (s : State) (region lo hi snap : Nat) : List Nat :=
  let mine := s.corpus.records.filter (fun r => r.region == region)
  ((mine.map (·.slab)).eraseDups).filter (fun b =>
    let rs := mine.filter (fun r => r.slab == b)
    rs.any (fun r => decide (r.rid ≤ hi)) && rs.any (fun r => decide (lo ≤ r.rid)) && rs.any (fun r => decide (r.epoch ≤ snap)))

/-- The records that a job may select. -/
def selectable (s : State) (region lo hi snap : Nat) : List Record :=
  s.corpus.records.filter (fun r => r.region == region && decide (lo ≤ r.rid) && decide (r.rid ≤ hi) && recordVisible s r snap)

/-- Reports a job that failed at start. -/
def jobError (s : State) (st off : Nat) : State := setNat s (scnReg 0 0x28) (st * 2 ^ 24 + off % 2 ^ 24)

/-- Ends a job at start with a status. -/
def failJob (s : State) (j : Job) (st off : Nat) : State :=
  endJob (jobError { s with scan := { s.scan with jobs := s.scan.jobs ++ [j] } } st off) j.index st 0

/-- Starts an APPEND: its records are read, checked and placed (R217, R219, R225). -/
def startAppend (s : State) (j : Job) (src : Nat) (g : Region) : State :=
  if slmOk s src j.len2 then
    let x := takeEpoch s
    let s := x.1
    let j := { j with epoch := x.2 }
    let fails (s : State) (st off : Nat) : State := failJob (settleEpoch s j.epoch) j st off
    match readSlm s src j.len2 with
    | (s, none) => fails s stTIER_FAIL 0
    | (s, some l) =>
      let rid := Sparse.get 0 s.corpus.nextRid j.region + 1
      match parseRecords j.region (fixedLen g) j.epoch j.limit rid 0 l with
      | .inr off => fails s stBAD_DESCRIPTOR off
      | .inl rs =>
        let placed := packRecords (allRecords s) j.region (Sparse.get 0 s.corpus.openSlab j.region) rs
        if recordsFit s g placed.1 then
          let c := { s.corpus with nextRid := Sparse.set 0 s.corpus.nextRid j.region (rid - 1 + rs.length)
                                   openSlab := Sparse.set 0 s.corpus.openSlab j.region placed.2 }
          showScan { s with corpus := c
                            scan := { s.scan with jobs := s.scan.jobs ++
                              [{ j with pending := placed.1, count := rs.length, ridFirst := if rs.isEmpty then 0 else rid }] } }
        else fails s 0x17 0
  else failJob s j stBAD_RANGE 0

/-- Starts a DELETE: it takes its epoch and reads its list (R219, R221). -/
def startDelete (s : State) (j : Job) (src : Nat) (_ : Region) : State :=
  if slmOk s src (8 * j.limit) then
    let x := takeEpoch s
    let j := { j with epoch := x.2 }
    match readSlm x.1 src (8 * j.limit) with
    | (s, none) => failJob (settleEpoch s j.epoch) j stTIER_FAIL 0
    | (s, some l) =>
      let rids := (List.range j.limit).map (fun i => fieldAt l (8 * i) 8)
      showScan { s with scan := { s.scan with jobs := s.scan.jobs ++ [{ j with batch := rids }] } }
  else failJob s j stBAD_RANGE 0

/-- Reads a job's program and its Bloom filter: the job with them, or the status and offset at which it fails (R227, R229,
R231). -/
def readProgram (s : State) (j : Job) (addr fl : Nat) : State × (Job ⊕ (Nat × Nat)) :=
  if addr = 0 then (s, .inl j)
  else if slmOk s addr 32 then
    match readSlm s addr 32 with
    | (s, none) => (s, .inr (stTIER_FAIL, 0))
    | (s, some h) =>
      let len := progTable h + fieldAt h 0x14 2
      if slmOk s addr len then
        match readSlm s addr len with
        | (s, none) => (s, .inr (stTIER_FAIL, 0))
        | (s, some p) =>
          match progFailure p fl with
          | some off => (s, .inr (stBAD_DESCRIPTOR, off))
          | none =>
            if fieldAt p 5 1 = 0 then (s, .inl { j with prog := p })
            else if slmOk s (fieldAt p 8 8) (2 ^ fieldAt p 6 1 / 8) then
              match readSlm s (fieldAt p 8 8) (2 ^ fieldAt p 6 1 / 8) with
              | (s, none) => (s, .inr (stTIER_FAIL, 0))
              | (s, some b) => (s, .inl { j with prog := p, bloom := b })
            else (s, .inr (stBAD_RANGE, 0))
      else (s, .inr (stBAD_RANGE, 0))
  else (s, .inr (stBAD_RANGE, 0))

/-- Enters a selecting job with its snapshot, its slabs and its records (R217, R220). -/
def enterJob (s : State) (j : Job) : State :=
  let snap := s.corpus.epoch
  let j := { j with epoch := snap, slabsLeft := slabsFor s j.region j.ridLo j.ridHi snap
                    pending := selectable s j.region j.ridLo j.ridHi snap }
  showScan { s with scan := { s.scan with jobs := s.scan.jobs ++ [j] } }

/-- Starts a FILTER (R220, R229, R232). -/
def startFilter (s : State) (j : Job) (prog : Nat) (g : Region) : State :=
  match readProgram s j prog (fixedLen g) with
  | (s, .inr e) => failJob s j e.1 e.2
  | (s, .inl j) =>
    let small := (j.form == 1 || j.form == 2) && decide (j.len2 < j.limit * entrySize j.form j.prog (fixedLen g))
    if small then failJob s j stBAD_DESCRIPTOR 0
    else if j.form ≠ 0 ∧ (!slmOk s j.dst j.len2 ∨ touchesCopy s j.dst j.len2) then failJob s j stBAD_RANGE 0
    else enterJob s j

/-- The index region of an EMBED. -/
def embedIndex (s : State) (j : Job) : Option (Region × Index) :=
  match findRegion s (if bitOf j.form 7 then 4 else 3) (j.form % 64), findIndex s (if bitOf j.form 7 then 4 else 3) (j.form % 64) with
  | some r, some x => some (r, x)
  | some r, none => some (r, { rtype := r.type, id := r.id })
  | none, _ => none

/-- Starts an EMBED (R235, R251). -/
def startEmbed (s : State) (j : Job) (prog : Nat) (g : Region) : State :=
  match embedIndex s j with
  | none => failJob s j stBAD_RANGE 0
  | some (r, x) =>
    match readProgram s j prog (fixedLen g) with
    | (s, .inr e) => failJob s j e.1 e.2
    | (s, .inl j) =>
      let set := Sparse.get [] s.grf.sets j.mrs
      let room (i n : Nat) : Bool := match set[i]? with | none => false | some q => decide (n ≤ q.2)
      match graphOf s j.slot with
      | none => failJob s j stSLOT_BUSY 0
      | some gr =>
        if !s.grf.active.contains j.slot ∨ bitOf gr.flags 0 then failJob s j stSLOT_BUSY 0
        else if gr.armId ≠ (settings s).armId then failJob s j stARM_MISMATCH 0
        else if !room 0 (j.limit * j.len2) ∨ !room 1 (j.limit * vectorLen r.param) then failJob s j stBAD_RANGE 0
        else if !x.created then failJob s j 0x19 0
        else enterJob s { j with vecLen := vectorLen r.param }

/-- Starts the next descriptor of the ring where its OP is the given one, or completes it where it cannot start. -/
def startJob (s : State) (op : Nat) : State :=
  let size := fld s (scnReg 0 0x18) 16 0
  if ringCount size (regNat s (scnReg 0 0x1C)) (regNat s (scnReg 0 0x20)) s.scan.jobs.length = 0 ∨ 3 ≤ fld s ARM_STAT 31 28 ∨
      16 ≤ jobsRunning s then s
  else
    let i := (regNat s (scnReg 0 0x20) + s.scan.jobs.length) % size
    let blank : Job := parseJob s i []
    if s.scan.cancelled.contains i then
      failJob { s with scan := { s.scan with cancelled := s.scan.cancelled.filter (fun x => x != i) } } blank stCANCELLED 0
    else if mappedSlm (settings s) (jobEntry s i) 128 then
      match readRange s (jobEntry s i) 128 with
      | (t, none) => failJob t blank stTIER_FAIL 0
      | (t, some d) =>
        let j := parseJob t i d
        if inRange j.op 1 4 ∧ j.op ≠ op then s
        else if jobFieldsOk d then
          match findRegion t 2 j.region with
          | none => failJob t j stBAD_RANGE 0
          | some g =>
            match op with
            | 1 => startAppend t j (fieldAt d 0x18 8) g
            | 2 => startDelete t j (fieldAt d 0x18 8) g
            | 3 => startFilter t j (fieldAt d 0x10 8) g
            | _ => startEmbed t j (fieldAt d 0x10 8) g
        else failJob t j stBAD_DESCRIPTOR 0
    else failJob s blank stBAD_RANGE 0

/-- APPEND (R225). -/
def execAppend (s : State) : Host.Outcome State Fault Refusal := ok (Sys2Proof.wellFormed .append) (startJob s 1)

/-- DELETE (R221). -/
def execDelete (s : State) : Host.Outcome State Fault Refusal := ok (Sys2Proof.wellFormed .delete) (startJob s 2)

/-- FILTER (R220). -/
def execFilter (s : State) : Host.Outcome State Fault Refusal := ok (Sys2Proof.wellFormed .filter) (startJob s 3)

/-- EMBED (R235). -/
def execEmbed (s : State) : Host.Outcome State Fault Refusal := ok (Sys2Proof.wellFormed .embed) (startJob s 4)

/-! ## EMBED batches (R235, R236) -/

/-- Submits the run of the batch that range 0 holds, or leaves the job without one where none is left. -/
def submitBatch (s : State) (j : Job) : State :=
  let s := modJob s j.index (fun j => { j with batch := j.nextBatch, nextBatch := [], batchStatus := none, output := none
                                               pendingEntries := [], pendingSlabs := [], batchEpoch := none, entered := 0 })
  if j.nextBatch.isEmpty then s
  else
    let w : WaitingRun := { tag := none, job := some j.index, slot := j.slot, mrs := j.mrs, block := [] }
    if s.grf.runs.any (fun r => r.slot == j.slot) || s.grf.waiting.any (fun x => x.slot == j.slot) then
      { s with grf := { s.grf with waiting := s.grf.waiting ++ [w] } }
    else startRun s w

/-- Fills range 0 with the first batch of a job and submits its run. -/
def firstBatch (s : State) (j : Job) : State :=
  let s := fillBatch s j
  match findJob s j.index with
  | none => s
  | some j => submitBatch s j

/-! ## Scanning (R233, R237, R238) -/

/-- Whether a job's program matches a record; no program matches every record. -/
def jobMatches (j : Job) (r : Record) : Bool := !j.hasProg || progMatches j.prog j.bloom r

/-- Ascending order of numbers. -/
def sortNat (l : List Nat) : List Nat := l.mergeSort (fun a b => decide (a ≤ b))

/-- A read of what a corpus or an index holds: what could not be read is one interrupting fault, recorded once however many jobs
and queries it ends, until a read of it succeeds again (R482, R483). -/
def noteLost (s : State) (k : Nat × Nat × Nat) (lost : Bool) : State :=
  if lost then
    (if s.corpus.lostNoted.contains k then s
     else interrupting { s with corpus := { s.corpus with lostNoted := k :: s.corpus.lostNoted } } 4 allBits)
  else { s with corpus := { s.corpus with lostNoted := s.corpus.lostNoted.filter (fun e => e != k) } }

/-- Whether the ledger holds a package's scan and rasp reads: its domain's average over the budget window has reached its budget (R237, R264,
R427). -/
def scansHeld (s : State) (p : Nat) : Bool :=
  let w := s.ledger.windowDom.getD (3 + p) []
  !w.isEmpty && decide (s.ledger.budgets.getD (3 + p) 0 ≤ average w)

/-- The probes of a program: BLOOM instructions, each of which reads BLOOM_K lines (R237). -/
def bloomLines (p : List Byte) : Nat :=
  ((List.range (fieldAt p 4 1)).filter (fun i => fieldAt p (32 + 32 * i) 1 == 3)).length * fieldAt p 5 1

/-- Counts the time that evaluation takes beyond the channel's, in whole ticks: `num ÷ den` ticks of evaluation against `bytes` at 36 bytes a
tick (R237, R264). -/
def stallInstr (s : State) (p num den bytes : Nat) : State := bumpBy s (scnReg p 0x40) ((num * 36 - bytes * den) / (36 * den))

/-- The counts of one slab's evaluation: SCN_STALL_INSTR by R237's rates, and SCN_STALL_BLOOM, whose time the manual does not give (log entry
46). -/
def slabStalls (s : State) (p : Nat) (j : Job) (records : Nat) : State :=
  let n := if j.hasProg then fieldAt j.prog 4 1 else 0
  let s := stallInstr s p (2 * records * n) 9 slabLen
  if j.hasProg ∧ 0 < records * bloomLines j.prog then bumpBy (draw s) (scnReg p 0x44) (Config.freeWord s.fresh).toNat else s

/-- The energy of one slab's scan in pJ (R237). -/
def slabPj (j : Job) (records : Nat) : Nat :=
  slabLen * 630 + (if j.hasProg then records * fieldAt j.prog 4 1 * 20 + records * bloomLines j.prog * 1200 else 0)

/-- An engine has read and evaluated one slab of a job. `lost` says that the media could not return a unit of it, `crcBad` counts the
records and headers whose CRC failed (R238). A slab is also lost where a unit of it is LOST. Nothing is read while the ledger holds scans, nor
while a line of the region's summary or tombstones is being rebuilt (R239). -/
def slabScanEff (s : State) (index slab : Nat) (lost : Bool) (crcBad : Nat) : State :=
  match findJob s index with
  | none => s
  | some j =>
    match findRegion s 2 j.region with
    | none => s
    | some g =>
      let p := homePkg g slab
      if j.done ∨ !j.slabsLeft.contains slab ∨ j.cancelled ∨ j.status.isSome ∨ scansHeld s p ∨ s.scan.rebuilding.contains (2, j.region) then s
      else
        let mine := j.pending.filter (fun r => r.slab == slab)
        let stored := slabRecords s j.region slab
        let bad := lost || decide (0 < crcBad) || slabUnread s g slab (slabUsed stored j.region slab)
        let hits := if bad then [] else (mine.filter (jobMatches j)).map (·.rid)
        let read := if bad then 0 else stored.length
        let s := slabStalls (add64 s (scnReg p 0x30) slabLen) p j read
        let s := if bad then s else add64 s (scnReg p 0x38) mine.length
        let s := noteLost (bumpBy s (scnReg p 0x4C) crcBad) (2, j.region, slab) bad
        let j := { j with slabsLeft := j.slabsLeft.filter (fun x => x != slab), matched := sortNat (j.matched ++ hits)
                          count := if j.op = 3 then j.count + hits.length else j.count
                          lost := j.lost + one bad, bytesScanned := j.bytesScanned + slabLen, energyPj := j.energyPj + slabPj j read
                          pending := j.pending.filter (fun r => r.slab != slab) }
        let s := modJob s index (fun _ => j)
        if j.op = 4 ∧ j.slabsLeft.isEmpty then firstBatch s j else s

/-- SLAB_SCAN (R233). -/
def execSlabScan (index slab : Nat) (lost : Bool) (crcBad : Nat) (s : State) : Host.Outcome State Fault Refusal :=
  ok (Sys2Proof.wellFormed (.slabScan index slab lost crcBad)) (slabScanEff s index slab lost crcBad)

/-! ## Results (R232 to R234) -/

/-- The record of a RID of a region. -/
def recordOf (s : State) (region rid : Nat) : Option Record := s.corpus.records.find? (fun r => r.region == region && r.rid == rid)

/-- A FILTER entry. -/
def filterEntry (j : Job) (r : Record) : List Byte :=
  let off := if j.prog.isEmpty then 0 else fieldAt j.prog 0x10 2
  let len := if j.prog.isEmpty then r.fixed.length else fieldAt j.prog 0x12 2
  match j.form with
  | 1 => leBytes 8 r.rid
  | 2 => leBytes 8 r.rid ++ (r.fixed.drop off).take len
  | 3 => r.raw
  | _ => []

/-- A sentinel entry (R234). -/
def sentinel (j : Job) (fl : Nat) : List Byte :=
  match j.form with
  | 3 => leBytes 8 (2 ^ 64 - 1) ++ leBytes 8 0 ++ leBytes 4 32 ++ List.replicate 12 0
  | _ => leBytes 8 (2 ^ 64 - 1) ++ List.replicate (entrySize j.form j.prog fl - 8) 0

/-- Entries as far as they fit in a length: the bytes, how many, and whether all fitted. -/
def fillTo (room : Nat) : List (List Byte) → List Byte × Nat × Bool
  | [] => ([], 0, true)
  | e :: t =>
    if e.length ≤ room then
      let x := fillTo (room - e.length) t
      (e ++ x.1, x.2.1 + 1, x.2.2)
    else ([], 0, false)

/-- What a FILTER writes, how many entries, and its status (R234). -/
def filterResult (s : State) (j : Job) (fl : Nat) : List Byte × Nat × Nat :=
  if j.form = 0 then ([], 0, if j.lost ≠ 0 then stTIER_FAIL else stOK)
  else
    let ents := (j.matched.take j.limit).filterMap (fun rid => (recordOf s j.region rid).map (filterEntry j))
    let w := fillTo j.len2 ents
    if j.lost ≠ 0 then (w.1, w.2.1, stTIER_FAIL)
    else if !w.2.2 then (w.1, w.2.1, 0x18)
    else if j.count < j.limit then
      if gen8Eff s then
        let w := fillTo j.len2 (ents ++ List.replicate (j.limit - ents.length) (sentinel j fl))
        (w.1, w.2.1, if w.2.2 then stOK else 0x18)
      else (w.1, w.2.1, 0x16)
    else (w.1, w.2.1, stOK)

/-- Ends a FILTER: its result goes to DST (R234). -/
def endFilter (s : State) (j : Job) (energyUj : Nat) : State :=
  match findRegion s 2 j.region with
  | none => endJob s j.index stTIER_FAIL energyUj
  | some g =>
    let x := filterResult s j (fixedLen g)
    let y := if x.1.isEmpty then (s, true) else slmWrite s (within j.dst) x.1
    let top := (j.matched.take (min x.2.1 j.matched.length)).getLastD 0
    let s := modJob y.1 j.index (fun j => { j with returned := x.2.1, ridFirst := top, energyPj := j.energyPj + x.1.length * 35 })
    endJob s j.index (if y.2 then x.2.2 else stTIER_FAIL) energyUj

/-- Ends a FILTER or EMBED that stops before its end: an unspecified subset of the matches is returned (R241, R242). -/
def stopJob (s : State) (j : Job) (st energyUj : Nat) : State :=
  if j.op = 3 ∧ j.form ≠ 0 then
    let f := s.fresh
    let sub := (j.matched.take j.limit).filter (fun rid => Config.freeBool (f + rid))
    let w := fillTo j.len2 (sub.filterMap (fun rid => (recordOf s j.region rid).map (filterEntry j)))
    let s := (slmWrite (draw s) (within j.dst) w.1).1
    let top := (sub.take (min w.2.1 sub.length)).getLastD 0
    endJob (modJob s j.index (fun j => { j with returned := w.2.1, ridFirst := top, energyPj := j.energyPj + w.1.length * 35 })) j.index st energyUj
  else endJob s j.index st energyUj

/-- A job that has nothing left to do completes (R234 to R236, R241). -/
def jobCompleteEff (s : State) (index energyUj : Nat) : State :=
  match findJob s index with
  | none => s
  | some j =>
    if j.done then s
    else if j.op = 1 ∨ j.op = 2 then
      match j.status with
      | none => s
      | some st => endJob s index st energyUj
    else if dispatchStopped s then s
    else if j.status.isSome then stopJob s j (j.status.getD stTIER_FAIL) energyUj
    else if j.cancelled then
      (if j.op = 4 ∧ !j.batch.isEmpty ∧ j.batchStatus.isNone then s else stopJob s j stCANCELLED energyUj)
    else if j.op = 3 then (if j.slabsLeft.isEmpty then endFilter s j energyUj else s)
    else
      match j.batchStatus with
      | some st => if st = stOK then s else endJob s index st energyUj
      | none =>
        if j.slabsLeft.isEmpty ∧ j.batch.isEmpty ∧ j.nextBatch.isEmpty ∧ j.matched.isEmpty then
          endJob s index (if j.lost ≠ 0 then stTIER_FAIL else stOK) energyUj
        else s

/-- JOB_COMPLETE (R234). -/
def execJobComplete (index energyUj : Nat) (s : State) : Host.Outcome State Fault Refusal :=
  ok (Sys2Proof.wellFormed (.jobComplete index energyUj)) (jobCompleteEff s index energyUj)

/-! ## Commits (R219, R221, R236) -/

/-- Whether every package of a region takes writes now. -/
def regionReady (s : State) (g : Region) : Bool := (packagesOf g.spMask).all (pkgReady s)

/-- Enters an APPEND's records in the write buffer as far as it takes them. Once the last is in, and the headers of their slabs, the APPEND
commits and its epoch settles (R215, R219). -/
def commitAppend (s : State) (j : Job) (g : Region) : State :=
  let e := enterAll g s j.entered ((j.pending.drop j.entered).map recordPieces)
  let s := modJob e.1 j.index (fun j => { j with entered := e.2 })
  let t := { s with corpus := { s.corpus with records := s.corpus.records ++ j.pending } }
  let heads := headerPieces t j.region (j.pending.map (·.slab)).eraseDups
  if e.2 < j.pending.length ∨ !unitsFit s (pieceUnits s g heads) then s
  else modJob (settleEpoch (writePieces t g heads) j.epoch) j.index (fun j => { j with pending := [], status := some stOK })

/-- The tombstones of a DELETE: one for each RID of its list that is visible just before its epoch (R221). -/
def deleteTombs (s : State) (j : Job) (g : Region) : List Tomb :=
  j.batch.filterMap (fun rid =>
    match s.corpus.records.find? (fun r => r.region == j.region && r.rid == rid && recordVisible s r (j.epoch - 1)) with
    | none => none
    | some r => some { package := homePkg g r.slab, rtype := 2, region := j.region, rid := rid, epoch := j.epoch })

/-- Commits a DELETE once every lower epoch has settled and the write buffer takes its tombstones, or fails it with NO_ROOM. -/
def commitDelete (s : State) (j : Job) (g : Region) : State :=
  if s.corpus.epoch + 1 = j.epoch then
    let ts := deleteTombs s j g
    if tombsFit s g ts then
      if tombsEnter s g ts then
        let s := showTombs (addTombs s g ts)
        modJob (settleEpoch s j.epoch) j.index (fun j =>
          { j with count := ts.length, notVisible := j.batch.length - ts.length, status := some stOK })
      else s
    else modJob (settleEpoch s j.epoch) j.index (fun j => { j with status := some 0x17 })
  else s

/-- Begins the insert of a batch whose run ended with OK: its vectors take an epoch and their places (R236, R266). A vector that R253 refuses
ends the job with BAD_DESCRIPTOR; an index that is full, with NO_ROOM. -/
def placeBatch (s : State) (j : Job) (r : Region) (x : Index) : State :=
  let len := vectorLen r.param
  let l := j.output.getD []
  let vs := (List.range j.batch.length).map (fun i => vectorOf (vfmtOf r.param) l (i * len) (dimOf r.param))
  if vs.any (fun v => !allFinite v || (metricOf r.param == 1 && allZero v)) then
    modJob s j.index (fun j => { j with batchStatus := some stBAD_DESCRIPTOR })
  else
    let e := takeEpoch s
    let h := heldIndex s x
    match makeEntries s r e.2 h (j.batch.zip vs) with
    | none => modJob (settleEpoch e.1 e.2) j.index (fun j => { j with batchStatus := some 0x17 })
    | some (y, es) => modJob e.1 j.index (fun j => { j with batchEpoch := some e.2, pendingEntries := es, pendingSlabs := y.slabs.drop h.slabs.length })

/-- Enters entries in the write buffer from number `n` on, as far as it takes them. -/
def enterEntries (s : State) (r : Region) (x : Index) (opened : List IndexSlab) (n : Nat) (es : List Entry) : State × Nat :=
  enterAll r s n (entriesPieces r (heldIndex s x).slabs opened (es.drop n))

/-- The committed index with entries and the slabs opened for them. -/
def withEntries (x : Index) (es : List Entry) (opened : List IndexSlab) : Index :=
  let y := addEntries x es
  { y with slabs := y.slabs ++ opened }

/-- Commits a batch of an EMBED under its epoch once its entries are in the write buffer, and submits the next run (R219, R236). -/
def commitBatch (s : State) (j : Job) : State :=
  match embedIndex s j with
  | none => modJob s j.index (fun j => { j with batchStatus := some stBAD_RANGE })
  | some (r, x) =>
    if !regionReady s r then s
    else
      let s := if j.batchEpoch.isNone then placeBatch s j r x else s
      match findJob s j.index with
      | none => s
      | some j =>
        match j.batchEpoch with
        | none => s
        | some epoch =>
          let e := enterEntries s r x j.pendingSlabs j.entered j.pendingEntries
          let s := modJob e.1 j.index (fun j => { j with entered := e.2 })
          if e.2 < j.pendingEntries.length then s
          else
            let s := settleEpoch (setIndex s (withEntries x j.pendingEntries j.pendingSlabs)) epoch
            let j' := { j with returned := j.returned + 1, count := j.count + j.batch.length }
            let s := modJob s j.index (fun _ => j')
            submitBatch s (if j.cancelled then { j' with nextBatch := [] } else j')

/-- Whether a job has something to commit. -/
def jobCommits (j : Job) : Bool :=
  !j.done && ((decide (j.op ≤ 2) && j.status.isNone) || (j.op == 4 && j.batchStatus == some stOK))

/-- Commits a job of the ring. -/
def commitJob (s : State) (j : Job) : State :=
  match findRegion s 2 j.region with
  | none => s
  | some g =>
    if j.op = 1 then (if regionReady s g then commitAppend s j g else s)
    else if j.op = 2 then (if regionReady s g then commitDelete s j g else s)
    else commitBatch s j

/-! ## Compaction of slabs (R222) -/

/-- The oldest snapshot that a job or a query context holds, or the commit epoch where none is held. -/
def oldestSnapshot (s : State) : Nat :=
  let js := (s.scan.jobs.filter (fun j => !j.done && decide (3 ≤ j.op))).map (·.epoch)
  let qs := (s.search.queries.filter (fun q => !q.done && q.op == 1)).map (·.epoch)
  (js ++ qs).foldl min s.corpus.epoch

/-- Whether a tombstone that a snapshot sees hides a record. -/
def deadAt (s : State) (snap : Nat) (r : Record) : Bool :=
  s.corpus.tombs.any (fun t => t.rtype == 2 && t.region == r.region && t.rid == r.rid && decide (t.epoch ≤ snap))

/-- The records that a compaction of a slab keeps, at their new places, and the open slab after them. -/
def compactPlaced (s : State) (region slab : Nat) : List Record × Nat :=
  let openAt := Sparse.get 0 s.corpus.openSlab region
  let openAt := if slab = openAt then freeSlab (allRecords s) region (allRecords s).length 0 else openAt
  packRecords (allRecords s) region openAt
    (((slabRecords s region slab).filter (fun r => !deadAt s (oldestSnapshot s) r)).mergeSort (fun a b => decide (a.rid ≤ b.rid)))

/-- The corpus once a compaction has rewritten a slab's records. -/
def compactCorpus (s : State) (region slab : Nat) : State :=
  let placed := compactPlaced s region slab
  { s with corpus := { s.corpus with records := s.corpus.records.filter (fun r => !(r.region == region && r.slab == slab)) ++ placed.1
                                     openSlab := Sparse.set 0 s.corpus.openSlab region placed.2 } }

/-- What a compaction of a slab writes: the copies, and the headers of their slabs. -/
def compactWrites (s : State) (region slab : Nat) : List (Nat × List Byte) :=
  let rs := (compactPlaced s region slab).1
  rs.flatMap recordPieces ++ headerPieces (compactCorpus s region slab) region (rs.map (·.slab)).eraseDups

/-- The tombstones that a compaction of a slab drops. -/
def compactDrops (s : State) (region slab : Nat) (x : Tomb) : Bool :=
  ((slabRecords s region slab).filter (deadAt s (oldestSnapshot s))).any (fun r => r.rid == x.rid)

/-- Rewrites a slab whose tombstoned share reaches COMPACT_PCT: live records go to the open slab in RID order, and a record is
dropped with its tombstone once no held snapshot sees it. The copies enter the write buffer before the old slab's units are given up
(R215, R222). The open slab itself gives its records to a new one. -/
def compactSlab (s : State) (region slab : Nat) : State :=
  match findRegion s 2 region with
  | none => s
  | some g =>
    let p := homePkg g slab
    let mine := slabRecords s region slab
    let total := sumNat (mine.map (·.len))
    let gone := sumNat ((mine.filter (deadAt s s.corpus.epoch)).map (·.len))
    if total = 0 ∨ gone * 100 < fld s (scnReg p 4) 15 8 * total ∨ (pendingRecords s).any (fun r => r.region == region && r.slab == slab) ∨
        !regionReady s g ∨ s.scan.rebuilding.contains (2, region) then s
    else
      let ps := compactWrites s region slab
      let drops := compactDrops s region slab
      if recordsFit s g (compactPlaced s region slab).1 ∧ unitsFit s (pieceUnits s g ps ++ dropUnits s g drops) then
        showTombs (bump (freeSlabUnits (dropTombs (writePieces (compactCorpus s region slab) g ps) g drops) g slab) (scnReg p 0x58))
      else s

/-! ## Register writes and re-forms (R223, R241, R242) -/

/-- A write of SCN_CTRL: out of its ranges it is discarded whole; SHARE acts in every package. -/
def writeScnCtrl (s : State) (p v : Nat) : State :=
  if inRange (bitsOf v 15 8) 10 90 && inRange (bitsOf v 3 0) 1 15 then setNat s (scnReg p 4) (bitsOf v 15 8 * 256 + bitsOf v 3 0) else accErr s

/-- A write of SCN_JQ_SIZE. -/
def writeJqSize (s : State) (v : Nat) : State :=
  let n := v % 2 ^ 17
  if regNat s (scnReg 0 0x20) ≠ regNat s (scnReg 0 0x1C) ∨ !(n == 0 || powerOfTwo n 16 65536) then accErr s
  else setNat (setNat (setNat s (scnReg 0 0x18) n) (scnReg 0 0x20) 0) (scnReg 0 0x1C) 0

/-- A write of a word of SCN_JQ_BASE; its low seven bits must be 0. -/
def writeJqBase (s : State) (off v : Nat) : State :=
  if regNat s (scnReg 0 0x20) ≠ regNat s (scnReg 0 0x1C) ∨ (off = scnReg 0 0x10 ∧ v % 128 ≠ 0) then accErr s else setNat s off v

/-- A write of SCN_JQ_CANCEL (R241). -/
def writeJqCancel (s : State) (v : Nat) : State :=
  let i := v % 65536
  match s.scan.jobs.find? (fun j => j.index == i && !j.done) with
  | some j => if 3 ≤ j.op then modJob s i (fun j => { j with cancelled := true }) else s
  | none =>
    if ringWaits (fld s (scnReg 0 0x18) 16 0) (regNat s (scnReg 0 0x1C)) (regNat s (scnReg 0 0x20)) s.scan.jobs.length i then
      { s with scan := { s.scan with cancelled := i :: s.scan.cancelled.filter (fun x => x != i) } }
    else s

/-- Ends every running FILTER and EMBED with REFORM_ABORT (R242). -/
def abortJobs (s : State) : State :=
  foldState (fun s (j : Job) => if j.done ∨ j.op < 3 then s else stopJob s j stREFORM_ABORT 0) s s.scan.jobs

end Sys2Proof.Machine
end

