-- ==== Sys2Proof/Machine/Search.lean ====
section
/-! DEFINITION. Exact vector search: the query ring, bounds, the rasp and polish passes, inserts, deletes and the creation of
indexes (08_search.md). -/
namespace Sys2Proof.Machine

/-! ## The query ring (R271 to R273) -/

/-- A descriptor under way. -/
def findQuery (s : State) (index : Nat) : Option Query := s.search.queries.find? (fun q => q.index == index)

/-- Changes a descriptor under way. -/
def modQuery (s : State) (index : Nat) (f : Query → Query) : State :=
  { s with search := { s.search with queries := updateWhere (fun q => q.index == index) f s.search.queries } }

/-- Contexts of a package in use (R265). -/
def contextsOf (s : State) (p : Nat) : Nat :=
  (s.search.queries.filter (fun q => !q.done && q.contexts.any (fun c => c.package == p && !c.complete))).length

/-- Whether a package of a region has no free query context. -/
def contextsFull (s : State) (r : Region) : Bool := (packagesOf r.spMask).any (fun p => decide (16384 ≤ contextsOf s p))

/-- Shows the contexts in use. -/
def showSearch (s : State) : State := foldState (fun s p => setFld s (srcReg p 0) 14 0 (contextsOf s p)) s (List.range s.build.sp)

/-- A ring entry's window address. -/
def queryEntry (s : State) (i : Nat) : Nat := nat64 s (srcReg 0 0x10) + 128 * i

/-- HEAD passes every descriptor that has ended with all before it. -/
def advanceQueries : Nat → State → State
  | 0, s => s
  | n + 1, s =>
    match s.search.queries with
    | [] => s
    | q :: qs =>
      if q.done then
        let size := max 1 (fld s (srcReg 0 0x18) 16 0)
        advanceQueries n (setNat { s with search := { s.search with queries := qs } } (srcReg 0 0x20) ((regNat s (srcReg 0 0x20) + 1) % size))
      else s

/-- The larger of two thresholds; none is −∞. -/
def raiseT (a b : Option Word) : Option Word :=
  match a, b with
  | none, b => b
  | a, none => a
  | some x, some y => some (if meritKey x < meritKey y then y else x)

/-- The final threshold of a query, as its field shows it: the largest of its contexts, or −∞. -/
def finalT (q : Query) : Word := ((q.contexts.map (·.threshold)).foldl raiseT none).getD (inf32 true)

/-- The device's bytes 0x40 to 0x7F (R273). The energy is a word that the manual leaves to the ledger's measurement (log entry
8). -/
def queryBytes (s : State) (q : Query) (returned : Nat) : List Byte :=
  leBytes 8 q.epoch ++ leBytes 4 returned ++ leBytes 4 q.clustersScanned ++ leBytes 8 q.rasped ++ leBytes 4 q.candidates ++
  leBytes 4 q.polishedCount ++ leBytes 4 q.early ++ leBytes 4 q.vcMiss ++ leBytes 8 (s.tb - q.start) ++
  leBytes 4 (Config.freeWord s.fresh).toNat ++
  leBytes 4 (if q.op = 1 then (finalT q).toNat else if q.op = 3 then min q.notVisible allBits else 0) ++ leBytes 4 q.lost ++ leBytes 4 0

/-- Ends a descriptor: its result fields, STATUS last, then HEAD (R273). -/
def endQuery (s : State) (index returned st : Nat) : State :=
  match findQuery s index with
  | none => s
  | some q =>
    let s :=
      if mappedSlm (settings s) (queryEntry s index) 128 then
        let s := (slmWrite (draw s) (queryEntry s index + 0x40) (queryBytes s q returned)).1
        (slmWrite s (queryEntry s index + 1) (leBytes 1 st)).1
      else s
    let s := modQuery s index (fun q => { q with status := some st, done := true, cands := [], pendingEntries := [], pendingSlabs := [] })
    showSearch (advanceQueries s.search.queries.length s)

/-- A descriptor. -/
def parseQuery (s : State) (i : Nat) (d : List Byte) : Query :=
  let cm := fieldAt d 0xC 4
  { index := i, op := fieldAt d 0 1, rtype := if bitOf (fieldAt d 3 1) 0 then 4 else 3, region := fieldAt d 2 1, k := fieldAt d 4 2
    candMax := if cm = 0 then 16384 else cm, deadline := fieldAt d 0x28 4, dst := fieldAt d 0x20 8, epoch := 0, start := s.tb }

/-- The checks of a descriptor's own fields (R272). -/
def queryFieldsOk (d : List Byte) : Bool :=
  let f (o n : Nat) : Nat := fieldAt d o n
  let common := decide (f 3 1 ≤ 1) && f 6 2 == 0 && f 0x2C 12 == 0
  let plain := f 4 2 == 0 && f 0xC 4 == 0 && f 0x20 12 == 0
  match f 0 1 with
  | 1 => common && inRange (f 4 2) 1 1024 && f 8 4 == 0 && (f 0xC 4 == 0 || inRange (f 0xC 4) 4096 65536) && f 0x18 8 == 0 &&
         f 0x20 8 % 64 == 0
  | 2 => common && plain
  | 3 => common && plain && f 0x18 8 == 0
  | 4 => common && plain && inRange (f 8 4) 1 262144 && (bitOf (f 3 1) 0 || f 0x18 8 == 0)
  | _ => false

/-- A descriptor's turn has come: it stands among those under way, and a cancel that was written for its ring entry has had its time (R274). -/
def takeTurn (s : State) (q : Query) : State :=
  { s with search := { s.search with queries := s.search.queries ++ [q], cancelled := s.search.cancelled.filter (fun y => y != q.index) } }

/-- Ends a descriptor at start with a status; SRC_Q_ERR takes it with an offset. -/
def failQuery (s : State) (q : Query) (st off : Nat) : State :=
  endQuery (setNat (takeTurn s q) (srcReg 0 0x28) (st * 2 ^ 24 + off % 2 ^ 24)) q.index 0 st

/-- Enters a started descriptor. -/
def enterQuery (s : State) (q : Query) : State := showSearch (takeTurn s q)

/-! ## Starting a QUERY (R253, R268) -/

/-- Prepares and starts a QUERY: its vector is checked and normalised, Q2, Q2L and Qn are formed, it takes its snapshot and a
context in each package of its index. -/
def startQuery (s : State) (q : Query) (src : Nat) (r : Region) (x : Index) : State :=
  if contextsFull s r then s
  else if !slmOk s src (4 * dimOf r.param) ∨ !slmOk s q.dst (16 * q.k) ∨ touchesCopy s q.dst (16 * q.k) then failQuery s q stBAD_RANGE 0
  else if !x.created then failQuery s q 0x19 0
  else
    match readSlm s src (4 * dimOf r.param) with
    | (s, none) => failQuery s q stTIER_FAIL 0
    | (s, some l) =>
      let v := vectorOf .fp32 l 0 (dimOf r.param)
      if !allFinite v ∨ (metricOf r.param = 1 ∧ allZero v) then failQuery s q stBAD_DESCRIPTOR 0
      else
        let v := if metricOf r.param = 1 then normalise v else v
        let n := exDot v v
        enterQuery s { q with epoch := s.corpus.epoch, vector := v, q2 := wordUp n, q2l := wordDown n, qn := sqrtUp (exOf (wordUp n))
                              contexts := (packagesOf r.spMask).map (fun p => { package := p, clusters := [] }) }

/-! ## Starting an INSERT, DELETE or CREATE (R251, R266, R269) -/

/-- Fails a descriptor that has taken its epoch, which settles with nothing committed (R219). -/
def failTaken (s : State) (q : Query) (st off : Nat) : State := failQuery (settleEpoch s q.epoch) q st off

/-- The first vector of a list that R253 refuses. -/
def badVector (param : Nat) (vs : List (List Word)) : Option Nat :=
  (List.range vs.length).find? (fun i => match vs[i]? with
    | none => false
    | some v => !allFinite v || (metricOf param == 1 && allZero v))


/-- Starts an INSERT. -/
def startInsert (s : State) (q : Query) (count src src2 : Nat) (r : Region) (x : Index) : State :=
  let len := vectorLen r.param
  if !x.created then failQuery s q 0x19 0
  else if !slmOk s src (count * len) ∨ !slmOk s src2 (8 * count) then failQuery s q stBAD_RANGE 0
  else
    let e := takeEpoch s
    let q := { q with epoch := e.2 }
    match readSlm e.1 src (count * len) with
    | (s, none) => failTaken s q stTIER_FAIL 0
    | (s, some l) =>
      match readSlm s src2 (8 * count) with
      | (s, none) => failTaken s q stTIER_FAIL 0
      | (s, some rl) =>
        let rids := (List.range count).map (fun i => fieldAt rl (8 * i) 8)
        let vs := (List.range count).map (fun i => vectorOf (vfmtOf r.param) l (i * len) (dimOf r.param))
        match (List.range count).find? (fun i => rids.getD i 0 == 0 || rids.getD i 0 == 2 ^ 64 - 1), badVector r.param vs with
        | some i, _ => failTaken s q stBAD_DESCRIPTOR (8 * i)
        | none, some i => failTaken s q stBAD_DESCRIPTOR (i * len)
        | none, none =>
          let held := heldIndex s x
          match makeEntries s r q.epoch held (rids.zip vs) with
          | some (y, es) => enterQuery s { q with pendingEntries := es, pendingSlabs := y.slabs.drop held.slabs.length }
          | none => failTaken s q 0x17 0

/-- Starts a DELETE on an index: its list is kept until it commits. -/
def startIndexDelete (s : State) (q : Query) (count src : Nat) (x : Index) : State :=
  if !x.created then failQuery s q 0x19 0
  else if !slmOk s src (8 * count) then failQuery s q stBAD_RANGE 0
  else
    let e := takeEpoch s
    let q := { q with epoch := e.2 }
    match readSlm e.1 src (8 * count) with
    | (s, none) => failTaken s q stTIER_FAIL 0
    | (s, some l) =>
      enterQuery s { q with pendingTombs := (List.range count).map (fun i =>
        { package := 0, rtype := q.rtype, region := q.region, rid := fieldAt l (8 * i) 8, epoch := q.epoch }) }

/-- The first element of a list of words that is not finite, by its byte offset. -/
def badElement (v : List Word) : Option Nat := ((List.range v.length).find? (fun i => !isFinite (v.getD i 0))).map (fun i => 4 * i)

/-- Starts a CREATE. -/
def startCreate (s : State) (q : Query) (count src src2 : Nat) (r : Region) (x : Index) : State :=
  let dim := dimOf r.param
  let cbLen := if r.type = 4 then 256 * dim * 4 else 0
  if x.created ∧ !x.entries.isEmpty then failQuery s q 0x19 0
  else if !slmOk s src (count * dim * 4) ∨ (r.type = 4 ∧ !slmOk s src2 cbLen) then failQuery s q stBAD_RANGE 0
  else
    let e := takeEpoch s
    let q := { q with epoch := e.2 }
    match readSlm e.1 src (count * dim * 4) with
    | (s, none) => failTaken s q stTIER_FAIL 0
    | (s, some l) =>
      match (if r.type = 4 then readSlm s src2 cbLen else (s, some [])) with
      | (s, none) => failTaken s q stTIER_FAIL 0
      | (s, some cb) =>
        let v := vectorOf .fp32 l 0 (count * dim)
        let w := vectorOf .fp32 cb 0 (cbLen / 4)
        match badElement v, badElement w with
        | some o, _ => failTaken s q stBAD_DESCRIPTOR o
        | none, some o => failTaken s q stBAD_DESCRIPTOR o
        | none, none =>
          let m := subspaces r.param
          let word (i j : Nat) : List Word := chunk (w.drop (256 * subLo dim m i)) j (subLen dim m i)
          let cents := (List.range count).map (fun c => (chunk v c dim).map (fun y => toF32 .bf16 (narrow .bf16 0 0 y).1))
          let x : Index := { rtype := r.type, id := r.id, created := true, centroids := cents
                             codebooks := if r.type = 4 then (List.range m).map (fun i => (List.range 256).map (word i)) else []
                             radius := List.replicate count zero32, nmin := List.replicate count 0x7F7FFFFF#32 }
          let t := enterQuery s { q with pendingIndex := some x }
          if centroidBytes t s.nv.layout + stagingBytes (settings s) + 64 * granule ≤ (settings s).stkWork * granule then t
          else failTaken s q 0x17 0

/-- Whether a re-form under way keeps the ring from starting a CREATE, from its first step on (R275). -/
def createHeld (s : State) : Bool := decide (3 ≤ s.loader.cmd)

/-- Starts the next descriptor of the ring where its OP is the given one, or completes it where it cannot start. -/
def startDescriptor (s : State) (op : Nat) : State :=
  let size := fld s (srcReg 0 0x18) 16 0
  if ringCount size (regNat s (srcReg 0 0x1C)) (regNat s (srcReg 0 0x20)) s.search.queries.length = 0 ∨ 3 ≤ fld s ARM_STAT 31 28 then s
  else
    let i := (regNat s (srcReg 0 0x20) + s.search.queries.length) % size
    if mappedSlm (settings s) (queryEntry s i) 128 then
      match readRange s (queryEntry s i) 128 with
      | (t, none) => failQuery t (parseQuery t i []) stTIER_FAIL 0
      | (t, some d) =>
        let q := parseQuery t i d
        let busy := decide (16 ≤ (s.search.queries.filter (fun y => !y.done && decide (2 ≤ y.op))).length)
        if s.search.cancelled.contains i ∧ q.op = 1 then failQuery t q stCANCELLED 0
        else if inRange q.op 1 4 ∧ q.op ≠ op then s
        else if !queryFieldsOk d then failQuery t q stBAD_DESCRIPTOR 0
        else if 2 ≤ q.op ∧ busy then s
        else
          match findRegion t q.rtype q.region with
          | none => failQuery t q stBAD_RANGE 0
          | some r =>
            let x := (findIndex t q.rtype q.region).getD { rtype := q.rtype, id := q.region }
            let f (o n : Nat) : Nat := fieldAt d o n
            match op with
            | 1 => startQuery t q (f 0x10 8) r x
            | 2 => startInsert t q (f 8 4) (f 0x10 8) (f 0x18 8) r x
            | 3 => startIndexDelete t q (f 8 4) (f 0x10 8) x
            | _ => if createHeld t then s else startCreate t q (f 8 4) (f 0x10 8) (f 0x18 8) r x
    else failQuery s (parseQuery s i []) stBAD_RANGE 0

/-- QUERY (R268). -/
def execQuery (s : State) : Host.Outcome State Fault Refusal := ok (Sys2Proof.wellFormed .query) (startDescriptor s 1)

/-- INSERT (R266). -/
def execInsert (s : State) : Host.Outcome State Fault Refusal := ok (Sys2Proof.wellFormed .insert) (startDescriptor s 2)

/-- INDEX_DELETE (R269). -/
def execIndexDelete (s : State) : Host.Outcome State Fault Refusal := ok (Sys2Proof.wellFormed .indexDelete) (startDescriptor s 3)

/-- CREATE (R251). -/
def execCreate (s : State) : Host.Outcome State Fault Refusal := ok (Sys2Proof.wellFormed .create) (startDescriptor s 4)

/-! ## Commits of the query ring (R219, R251, R267, R269) -/

/-- The tombstones of an index DELETE: one for each RID that has a visible entry just before its epoch. -/
def indexTombs (s : State) (q : Query) (r : Region) (x : Index) : List Tomb :=
  q.pendingTombs.filterMap (fun t =>
    match x.entries.find? (fun e => e.rid == t.rid && entryVisible s q.rtype q.region e (q.epoch - 1)) with
    | none => none
    | some e => some { t with package := homePkg r e.cluster })

/-- Enters an INSERT's entries in the write buffer as far as it takes them, and commits it once the last is in (R219, R267). -/
def commitInsert (s : State) (q : Query) (r : Region) (x : Index) : State :=
  let e := enterEntries s r x q.pendingSlabs q.entered q.pendingEntries
  let s := modQuery e.1 q.index (fun y => { y with entered := e.2 })
  if e.2 < q.pendingEntries.length then s
  else endQuery (settleEpoch (setIndex s (withEntries x q.pendingEntries q.pendingSlabs)) q.epoch) q.index 0 stOK

/-- Commits a descriptor of the query ring. -/
def commitQuery (s : State) (q : Query) : State :=
  match findRegion s q.rtype q.region with
  | none => s
  | some r =>
    let x := (findIndex s q.rtype q.region).getD { rtype := q.rtype, id := q.region }
    if !regionReady s r then s
    else if q.op = 2 then commitInsert s q r x
    else if q.op = 4 then
      match q.pendingIndex with
      | none => s
      | some y => endQuery (settleEpoch (setIndex s y) q.epoch) q.index 0 stOK
    else if s.corpus.epoch + 1 = q.epoch then
      let ts := indexTombs s q r x
      if tombsFit s r ts then
        if tombsEnter s r ts then
          let s := showTombs (addTombs s r ts)
          let s := modQuery s q.index (fun y => { y with notVisible := q.pendingTombs.length - ts.length })
          endQuery (settleEpoch s q.epoch) q.index 0 stOK
        else s
      else endQuery (settleEpoch s q.epoch) q.index 0 0x17
    else s

/-- Commits the job or the descriptor of an index: the job ring's where it has something to commit. -/
def jobCommitEff (s : State) (index : Nat) : State :=
  match s.scan.jobs.find? (fun j => j.index == index && jobCommits j) with
  | some j => commitJob s j
  | none =>
    match s.search.queries.find? (fun q => q.index == index && !q.done && decide (2 ≤ q.op)) with
    | some q => commitQuery s q
    | none => s

/-- JOB_COMMIT (R219). -/
def execJobCommit (index : Nat) (s : State) : Host.Outcome State Fault Refusal :=
  ok (Sys2Proof.wellFormed (.jobCommit index)) (jobCommitEff s index)

/-! ## Centroid scores and cluster bounds (R254, R257) -/

/-- c and Δ of a cluster: as the assist tiles form c, with the bound of its error, or the nearest word to the exact value with none. -/
def centroidScore (s : State) (q : Query) (mu : List Word) : Word × Word :=
  let dim := q.vector.length
  if assistFallback s then (wordNear (exDot q.vector mu), zero32)
  else
    let k : Ex := exAdd ((dim / 8 + 8 : Nat), -23) (1, -17)
    (assistScore q.vector mu, wordUp (exAdd (exMul k (exMul (exOf q.qn) (exOf (centroidNorm mu)))) ((dim : Nat), -148)))

/-- The upper and lower ends of c ± Δ: on the re-rank units the exact value itself. -/
def scoreEnds (s : State) (q : Query) (mu : List Word) : Ex × Ex :=
  if assistFallback s then (exOf (wordUp (exDot q.vector mu)), exOf (wordDown (exDot q.vector mu)))
  else
    let c := centroidScore s q mu
    (exAdd (exOf c.1) (exOf c.2), exSub (exOf c.1) (exOf c.2))

/-- A cluster's upper merit (R257). -/
def clusterUpper (s : State) (r : Region) (q : Query) (x : Index) (c : Nat) : Word :=
  let u := exAdd (scoreEnds s q (x.centroids.getD c [])).1 (exMul (exOf q.qn) (exOf (x.radius.getD c zero32)))
  if metricOf r.param = 2 then wordUp (exSub (exSub (2 * u.1, u.2) (exOf (x.nmin.getD c zero32))) (exOf q.q2l)) else wordUp u

/-- Centroid scores are delivered: each context takes its clusters in descending order of upper merit, then by number (R260). -/
def centroidScoresEff (s : State) (index : Nat) : State :=
  match findQuery s index with
  | none => s
  | some q =>
    match findRegion s q.rtype q.region, findIndex s q.rtype q.region with
    | some r, some x =>
      if q.done ∨ q.op ≠ 1 ∨ q.contexts.all (·.scored) then s
      else
        let all := (List.range x.centroids.length).map (fun c => (c, clusterUpper s r q x c))
        let mine (p : Nat) : List (Nat × Word) :=
          (all.filter (fun c => homePkg r c.1 == p)).mergeSort (fun a b =>
            decide (meritKey b.2 < meritKey a.2) || (meritKey a.2 == meritKey b.2 && decide (a.1 ≤ b.1)))
        let n := s.search.asks
        let s := { s with search := { s.search with asks := n + q.contexts.length } }
        modQuery s index (fun q =>
          { q with scores := x.centroids.map (centroidScore s q)
                   contexts := q.contexts.mapIdx (fun i c => { c with clusters := mine c.package, scored := true, asked := n + i }) })
    | _, _ => s

/-- CENTROID_SCORES (R254). -/
def execCentroidScores (index : Nat) (s : State) : Host.Outcome State Fault Refusal :=
  ok (Sys2Proof.wellFormed (.centroidScores index)) (centroidScoresEff s index)

/-! ## Bounds of entries (R255 to R257) -/

/-- The larger and the smaller of two words by value. -/
def minW (a b : Word) : Word := if exLt (exOf b) (exOf a) then b else a

/-- √W_A and √W_D of a sketch, rounded up (R255). -/
def sketchRoots (q : Query) (code : List Nat) : Word × Word :=
  let sq := q.vector.map (fun w => exMul (exOf w) (exOf w))
  let m := wordUp (sq.foldl (fun a b => if exLt a b then b else a) (0, 0))
  let weight (x : Ex) : Nat :=
    if isZero m then 0
    else
      let d := exDiv (255 * x.1, x.2) (exOf m)
      let up := if d.2 < 0 then ceilDiv d.1.natAbs (2 ^ d.2.natAbs) else d.1.natAbs * 2 ^ d.2.natAbs
      min 255 up
  let sgnBit (w : Word) : Nat := one (bitOf w.toNat 31)
  let parts := ((q.vector.map sgnBit).zip (sq.map weight)).zip code
  let agree := sumNat (parts.map (fun x => if x.1.1 = x.2 then x.1.2 else 0))
  let differ := sumNat (parts.map (fun x => if x.1.1 = x.2 then 0 else x.1.2))
  let w (n : Nat) : Word := minW q.q2 (wordUp (exDiv (exMul (exOf m) ((n : Int), 0)) (255, 0)))
  (sqrtUp (exOf (w agree)), sqrtUp (exOf (w differ)))

/-- L and H of a product code: sums of table entries, rounded down and up (R256). -/
def codeSums (q : Query) (x : Index) (m dim : Nat) (code : List Nat) : Word × Word :=
  (List.range m).foldl (fun (acc : Word × Word) i =>
    let d := exDot (subspace q.vector dim m i) ((x.codebooks.getD i []).getD (code.getD i 0) [])
    (wordDown (exAdd (exOf acc.1) (exOf (wordDown d))), wordUp (exAdd (exOf acc.2) (exOf (wordUp d))))) (zero32, zero32)

/-- Upper and lower merit of an entry (R257). -/
def entryBounds (s : State) (r : Region) (q : Query) (x : Index) (e : Entry) : Word × Word :=
  let ends := scoreEnds s q (x.centroids.getD e.cluster [])
  let rho := exOf e.rho
  let ul : Ex × Ex :=
    if r.type = 4 then
      let m := subspaces r.param
      let lh := codeSums q x m (dimOf r.param) e.code
      let slack := exMul (exOf q.qn) rho
      (exAdd (exAdd ends.1 (exOf lh.2)) slack, exSub (exAdd ends.2 (exOf lh.1)) slack)
    else
      let roots := sketchRoots q e.code
      (exAdd ends.1 (exMul rho (exOf roots.1)), exSub ends.2 (exMul rho (exOf roots.2)))
  let u := ul.1
  let l := ul.2
  if metricOf r.param = 2 then
    (wordUp (exSub (exSub (2 * u.1, u.2) (exOf (predWord e.n2))) (exOf q.q2l)),
     wordDown (exSub (exSub (2 * l.1, l.2) (exOf e.n2)) (exOf q.q2)))
  else (wordUp u, wordDown l)

/-! ## Threshold, rasp and polish (R258 to R262) -/

/-- What a candidate counts with in the threshold: its exact merit once polished, otherwise its lower merit (R258). -/
def worth (c : Candidate) : Word := c.polished.getD c.lower

/-- Whether a merit reaches a threshold (R259). -/
def reaches (t : Option Word) (m : Word) : Bool := match t with | none => true | some t => decide (meritKey t ≤ meritKey m)

/-- The K-th largest of a list of merits. -/
def kthLargest (k : Nat) (ms : List Word) : Option Word :=
  (ms.mergeSort (fun a b => decide (meritKey b ≤ meritKey a)))[k - 1]?

/-- The candidates of a context. -/
def candsOf (q : Query) (p : Nat) : List Candidate := q.cands.filter (fun c => c.package == p)

/-- Raises a context's threshold from the entries it has bounded. -/
def raiseCtx (q : Query) (p : Nat) : Query :=
  let t := kthLargest q.k ((candsOf q p).map worth)
  { q with contexts := updateWhere (fun c => c.package == p) (fun c => { c with threshold := raiseT c.threshold t }) q.contexts }

/-- A context's threshold. -/
def thresholdOf (q : Query) (p : Nat) : Option Word :=
  match q.contexts.find? (fun c => c.package == p) with
  | none => none
  | some c => c.threshold

/-- Order of the polish pass: descending upper merit, ties in ascending RID (R261). -/
def polishBefore (a b : Candidate) : Bool :=
  decide (meritKey b.upper < meritKey a.upper) || (meritKey a.upper == meritKey b.upper && decide (a.rid ≤ b.rid))

/-- Order of results: descending merit, ties in ascending RID, or descending under generation-8 compatibility (R245). -/
def resultBefore (gen8 : Bool) (a b : Candidate) : Bool :=
  decide (meritKey (worth b) < meritKey (worth a)) ||
  (meritKey (worth a) == meritKey (worth b) && (if gen8 then decide (b.rid ≤ a.rid) else decide (a.rid ≤ b.rid)))

/-- Whether two candidates are one entry: its position in its cluster names it. -/
def sameEntry (c x : Candidate) : Bool := x.package == c.package && x.cluster == c.cluster && x.vslot == c.vslot

/-- Polishes one candidate of a query: its exact score and merit (R244, R261). -/
def polish (param : Nat) (q : Query) (c : Candidate) : Query :=
  let sc := exactScore param q.vector c.vector
  raiseCtx { q with cands := updateWhere (sameEntry c) (fun x => { x with polished := some (meritOf param sc), score := sc }) q.cands
                    polishedCount := q.polishedCount + 1 } c.package

/-- Admitted candidates of a package that are not polished, in the order of the polish pass. -/
def unpolished (q : Query) (p : Nat) : List Candidate :=
  ((candsOf q p).filter (fun c => c.admitted && c.polished.isNone)).mergeSort polishBefore

/-! ## Vector fetches and the vector cache (R261, R265, R277) -/

/-- A candidate's vector in its package's cache. -/
def cacheKey (r : Region) (c : Candidate) : CachedVec :=
  { package := c.package, rtype := r.type, region := r.id, cluster := c.cluster, vslot := c.vslot, len := vectorLen r.param }

/-- The first of some vectors whose bytes together do not pass a room. -/
def keepRecent : Nat → List CachedVec → List CachedVec
  | _, [] => []
  | room, v :: t => if v.len ≤ room then v :: keepRecent (room - v.len) t else []

/-- A vector becomes the most recently used of its package's cache, which keeps the most recent ones that BM_VCACHE holds. -/
def cacheUse (s : State) (v : CachedVec) : State :=
  let rest := s.search.cache.filter (fun w => w != v)
  let mine := keepRecent ((boardPart (settings s) v.package).vcache * granule) (v :: rest.filter (fun w => w.package == v.package))
  { s with search := { s.search with cache := mine ++ rest.filter (fun w => w.package != v.package) } }

/-- The units of its region that a candidate's vector lies in. -/
def vectorUnits (r : Region) (x : Index) (c : Candidate) : List Nat :=
  match vectorAt r x.slabs c.cluster c.vslot with
  | none => []
  | some o => ((blocksOf o (vectorLen r.param)).map (fun b => b / 4)).eraseDups

/-- The units of a vector that cannot be read: those that are LOST or out of reach, or, where the media could not return them, those in slabs
that the command names. -/
def unitsLost (s : State) (r : Region) (slabs : List Nat) (us : List Nat) : List Nat :=
  us.filter (fun u => slabs.contains (u / 64) || !reachable s (homeOf s r u).1 ||
    (let h := homeOf s r u; (unitNow s h.1 h.2).2 != 0))

/-- Fetches the vector of a candidate and polishes it. A cached vector whose line fails is dropped and fetched from flash. A vector that cannot be
read costs the candidate, and each unit that could not be read counts once (R277). -/
def fetchVector (r : Region) (x : Index) (slabs : List Nat) (cacheBad : Bool) (a : State × Query) (c : Candidate) : State × Query :=
  let s := a.1
  let q := a.2
  let p := c.package
  let v := cacheKey r c
  if s.search.cache.contains v ∧ !cacheBad then
    (bump (add64 (cacheUse s v) (srcReg p 0x40) 1) (srcReg p 0x48), polish r.param q c)
  else
    let s := bump { s with search := { s.search with cache := s.search.cache.filter (fun w => w != v) } } (srcReg p 0x4C)
    let q := { q with vcMiss := q.vcMiss + 1 }
    let us := vectorUnits r x c
    let gone := unitsLost s r slabs us
    let s := foldState (fun s b => noteLost s (r.type, r.id, b) (gone.any (fun u => u / 64 == b))) s ((us.map (fun u => u / 64)).eraseDups)
    if gone.isEmpty then (add64 (cacheUse s v) (srcReg p 0x40) 1, polish r.param q c)
    else
      let new := gone.filter (fun u => !q.lostUnits.contains u)
      (bumpBy s (srcReg p 0x54) new.length,
       { q with lost := q.lost + new.length, lostUnits := q.lostUnits ++ new, cands := q.cands.filter (fun y => !sameEntry c y) })

/-- A round of early polishing where an admission finds the list full (R262). -/
def earlyPolish (r : Region) (x : Index) (p : Nat) (slabs : List Nat) (a : State × Query) : State × Query :=
  if (candsOf a.2 p).countP (·.admitted) < a.2.candMax then a
  else
    let b := ((unpolished a.2 p).take (a.2.candMax / 2)).foldl (fetchVector r x slabs false) a
    let s := bump b.1 (srcReg p 0x50)
    let q := { b.2 with early := b.2.early + 1 }
    let best := (((candsOf q p).filter (·.polished.isSome)).mergeSort (resultBefore (gen8Eff s))).take q.k
    let t := thresholdOf q p
    let stays (c : Candidate) : Bool :=
      c.package != p || !c.admitted || (if c.polished.isSome then best.contains c else reaches t c.upper)
    (s, { q with cands := q.cands.filter stays })

/-- Bounds one visible entry for a query and admits it where its upper merit reaches the threshold of that moment (R260). -/
def boundEntry (r : Region) (x : Index) (p : Nat) (slabs : List Nat) (a : State × Query) (e : Entry) : State × Query :=
  let b := entryBounds a.1 r a.2 x e
  let takes := reaches (thresholdOf a.2 p) b.1
  let a := if takes then earlyPolish r x p slabs a else a
  let q := a.2
  let c : Candidate := { rid := e.rid, epoch := e.epoch, package := p, cluster := e.cluster, vslot := e.vslot, vector := e.vector
                         upper := b.1, lower := b.2, admitted := takes }
  (a.1, raiseCtx { q with cands := q.cands ++ [c], rasped := q.rasped + 1, candidates := q.candidates + one takes } p)

/-- The cluster that a context visits next: none once the next upper merit is below its threshold (R260). -/
def nextCluster (c : Context) : Option Nat :=
  match c.clusters with
  | [] => none
  | (n, u) :: _ => if reaches c.threshold u then some n else none

/-- Whether a query awaits a cluster of an index in a package. -/
def awaits (q : Query) (p rtype id cluster : Nat) : Bool :=
  !q.done && q.op == 1 && q.rtype == rtype && q.region == id &&
  q.contexts.any (fun c => c.package == p && c.scored && !c.complete && nextCluster c == some cluster)

/-- A request for a list read: when it was made, and the cluster that it is for. -/
abbrev Request := Nat × Nat × Nat × Nat

/-- The requests that contexts of a package make of one scan engine: each scored context awaits its next cluster (R264, R276). -/
def requests (s : State) (p engine : Nat) : List Request :=
  s.search.queries.flatMap (fun q =>
    match findRegion s q.rtype q.region with
    | none => []
    | some r =>
      if q.done || q.op != 1 then []
      else q.contexts.filterMap (fun c =>
        match nextCluster c with
        | none => none
        | some n => if c.package == p && c.scored && !c.complete && engineOf s (homeChan r n) == engine then some (c.asked, q.rtype, q.region, n)
                    else none))

/-- The request made first. -/
def oldestRequest (l : List Request) : Option Request :=
  l.foldl (fun m a => match m with | none => some a | some b => if a.1 < b.1 then some a else some b) none

/-- When a query's context in a package made its request. -/
def askedBy (q : Query) (p : Nat) : Nat := match q.contexts.find? (fun c => c.package == p) with | none => 0 | some c => c.asked

/-- An engine has read a cluster's list slabs for one query of the batch: those that it could read are bounded, and each that it could not counts
once (R260, R277). The context then makes its next request. -/
def raspQuery (s : State) (r : Region) (x : Index) (p cluster : Nat) (slabs lost : List Nat) (q : Query) : State :=
  let es := x.entries.filter (fun e => e.cluster == cluster && !lost.contains e.slab && entryVisible s q.rtype q.region e q.epoch)
  let n := s.search.asks
  let s := { s with search := { s.search with asks := n + 1 } }
  let next (c : Context) : Context := { c with clusters := c.clusters.drop 1, asked := n }
  let q0 := { q with contexts := updateWhere (fun c => c.package == p) next q.contexts
                     clustersScanned := q.clustersScanned + 1, lost := q.lost + lost.length }
  let a := es.foldl (boundEntry r x p slabs) (s, q0)
  add64 (modQuery a.1 q.index (fun _ => a.2)) (srcReg p 0x38) es.length

/-- The evaluation time of a batch beyond the channel's: R264's rates in pairs of an entry and a query for a tick of 10 ns. -/
def raspStall (s : State) (r : Region) (p pairs bytes : Nat) : State :=
  if r.type = 4 then stallInstr s p (pairs * subspaces r.param) 240 bytes
  else stallInstr s p (pairs * max 1024 (dimOf r.param)) 15360 bytes

/-- A rasp batch (R264, R277): the engine serves its oldest request, and every query that awaits its cluster joins, oldest first, up to BATCH_MAX.
`lost` names the slabs of the region that the media could not return. The region operand is 64 × type − 192 + ID, so 0 to 63 name sketch indexes and
64 to 127 product-code indexes. -/
def raspBatchEff (s : State) (p region cluster : Nat) (lost : List Nat) : State :=
  let rtype := if region < 64 then 3 else 4
  let id := region % 64
  match findRegion s rtype id, findIndex s rtype id with
  | some r, some x =>
    let first := (oldestRequest (requests s p (engineOf s (homeChan r cluster)))).map (·.2)
    if first ≠ some (rtype, id, cluster) ∨ homePkg r cluster ≠ p ∨ scansHeld s p ∨ s.scan.rebuilding.contains (rtype, id) then s
    else
      let batch := ((s.search.queries.filter (fun q => awaits q p rtype id cluster)).mergeSort (fun a b => decide (askedBy a p ≤ askedBy b p))).take
        (fld s (srcReg p 4) 6 0)
      let lists := x.slabs.filter (fun b => b.cluster == cluster && b.vec.isNone)
      let bad := (lists.filter (fun b => lost.contains b.slab || slabUnread s r b.slab (slabHead + listFill x b.slab * entryLen r))).map (·.slab)
      let n := (x.entries.filter (fun e => e.cluster == cluster)).length
      let s := add64 s (scnReg p 0x30) (n * entryLen r)
      let s := raspStall s r p (n * batch.length) (n * entryLen r)
      let s := foldState (fun s (b : IndexSlab) => noteLost s (rtype, id, b.slab) (bad.contains b.slab)) (bumpBy s (srcReg p 0x54) bad.length) lists
      foldState (fun s (q : Query) => raspQuery s r x p cluster lost bad q) s batch
  | _, _ => s

/-- RASP_BATCH (R264). -/
def execRaspBatch (package region cluster : Nat) (lost : List Nat) (s : State) : Host.Outcome State Fault Refusal :=
  ok (Sys2Proof.wellFormed (.raspBatch package region cluster lost)) (raspBatchEff s package region cluster lost)

/-- The next candidate of a package's polish pass: none once its upper merit is below the threshold (R261). -/
def nextCandidate (q : Query) (p : Nat) : Option Candidate :=
  match unpolished q p with
  | [] => none
  | c :: _ => if reaches (thresholdOf q p) c.upper then some c else none

/-- A vector is fetched and its candidate polished (R261, R265, R277). `cacheBad` says that the line of a cached vector failed, `lost` that the media
could not return the vector's units. -/
def vectorFetchEff (s : State) (index p : Nat) (cacheBad lost : Bool) : State :=
  match findQuery s index with
  | none => s
  | some q =>
    match findRegion s q.rtype q.region, findIndex s q.rtype q.region with
    | some r, some x =>
      if q.done then s
      else
        match nextCandidate q p with
        | none => s
        | some c =>
          let a := fetchVector r x (if lost then (vectorUnits r x c).map (fun u => u / 64) else []) cacheBad (s, q) c
          modQuery a.1 index (fun _ => a.2)
    | _, _ => s

/-- VECTOR_FETCH (R265). -/
def execVectorFetch (index package : Nat) (cacheBad lost : Bool) (s : State) : Host.Outcome State Fault Refusal :=
  ok (Sys2Proof.wellFormed (.vectorFetch index package cacheBad lost)) (vectorFetchEff s index package cacheBad lost)

/-- A context's threshold reaches another context (R263). -/
def thresholdExchangeEff (s : State) (index src dst : Nat) : State :=
  modQuery s index (fun q =>
    { q with contexts := updateWhere (fun c => c.package == dst) (fun c => { c with threshold := raiseT c.threshold (thresholdOf q src) }) q.contexts })

/-- THRESHOLD_EXCHANGE (R263). -/
def execThresholdExchange (index src dst : Nat) (s : State) : Host.Outcome State Fault Refusal :=
  ok (Sys2Proof.wellFormed (.thresholdExchange index src dst)) (thresholdExchangeEff s index src dst)

/-! ## Completion (R245, R246, R263, R273, R274) -/

/-- A result entry. -/
def resultEntry (rid : Nat) (score : Word) : List Byte := leBytes 8 rid ++ leBytes 4 score.toNat ++ leBytes 4 0

/-- Writes a query's result: the K best polished entries, sentinels under compatibility, and the status (R245, R246, R277). -/
def writeResult (s : State) (q : Query) : State :=
  let g := gen8Eff s
  let best := ((q.cands.filter (·.polished.isSome)).mergeSort (resultBefore g)).take q.k
  let short := decide (best.length < q.k)
  let pad := g && short && q.lost == 0
  let body := best.flatMap (fun c => resultEntry c.rid c.score) ++
    (if pad then (List.replicate (q.k - best.length) (resultEntry (2 ^ 64 - 1) nan32)).flatten else [])
  let y := if body.isEmpty then (s, true) else slmWrite s (within q.dst) body
  let st := if !y.2 ∨ q.lost ≠ 0 then stTIER_FAIL else if short && !g then 0x16 else stOK
  endQuery y.1 q.index (if pad then q.k else best.length) st

/-- Whether a context has nothing left to do (R261). -/
def contextDone (q : Query) (c : Context) : Bool := c.scored && (nextCluster c).isNone && (nextCandidate q c.package).isNone

/-- A context completes, and with the last one the query (R263). -/
def contextCompleteEff (s : State) (index p : Nat) : State :=
  match findQuery s index with
  | none => s
  | some q =>
    if q.done ∨ !q.contexts.any (fun c => c.package == p && !c.complete && contextDone q c) then s
    else
      let done (c : Context) : Context := { c with raspDone := true, complete := true }
      let q' := { q with contexts := updateWhere (fun c => c.package == p) done q.contexts }
      let s := showSearch (add64 (modQuery s index (fun _ => q')) (srcReg p 0x30) 1)
      if q'.contexts.all (·.complete) then writeResult s q' else s

/-- QUERY_CONTEXT_COMPLETE (R263). -/
def execQueryContextComplete (index package : Nat) (s : State) : Host.Outcome State Fault Refusal :=
  ok (Sys2Proof.wellFormed (.queryContextComplete index package)) (contextCompleteEff s index package)

/-- Stops a QUERY: RETURNED 0, DST unspecified (R274, R275). -/
def stopQuery (s : State) (q : Query) (st : Nat) : State := endQuery (scramble s q.dst (16 * q.k)) q.index 0 st

/-- A QUERY's deadline expires. -/
def queryDeadlineEff (s : State) (index : Nat) : State :=
  match findQuery s index with
  | none => s
  | some q => if q.done ∨ q.op ≠ 1 ∨ !expired s q.start q.deadline then s else stopQuery s q stTIMEOUT

/-- QUERY_DEADLINE_EXPIRY (R274). -/
def execQueryDeadlineExpiry (index : Nat) (s : State) : Host.Outcome State Fault Refusal :=
  ok (Sys2Proof.wellFormed (.queryDeadlineExpiry index)) (queryDeadlineEff s index)

/-! ## Compaction (R222, R270) -/

/-- Gives the entries that a compaction keeps their new places in the lists of their cluster, the slab that it rewrites shut to them: the index with
them, and the entries; none where the channel has no slab left. -/
def moveEntries (s : State) (r : Region) (shut : Nat) : Index → List Entry → Option (Index × List Entry)
  | x, [] => some (x, [])
  | x, e :: t =>
    match listPlace s r x e.cluster (some shut) with
    | none => none
    | some (x, b) =>
      let e := { e with slab := b, pos := listFill x b }
      match moveEntries s r shut { x with entries := x.entries ++ [e] } t with
      | none => none
      | some (y, es) => some (y, e :: es)

/-- What the store of a moved entry writes: its list entry, and the header of a list slab that it opens. -/
def movedPieces (r : Region) (opened : List IndexSlab) (e : Entry) : List (Nat × List Byte) :=
  ((opened.filter (fun b => b.slab == e.slab && e.pos == 0)).map (fun b => (b.slab * slabLen, indexHeader r b))) ++ [(entryAt r e, entryBytes r e)]

/-- Rewrites a list slab of an index whose tombstoned share reaches COMPACT_PCT, and recomputes its cluster's bounds from the entries that are kept
(R222, R270). A vector slab that no entry uses any more is given up with it (log entry 135). -/
def compactList (s : State) (rtype id slab : Nat) : State :=
  match findRegion s rtype id, findIndex s rtype id with
  | some r, some x =>
    match x.slabs.find? (fun b => b.slab == slab && b.vec.isNone) with
    | none => s
    | some b =>
      let c := b.cluster
      let p := homePkg r c
      let hidden (snap : Nat) (e : Entry) : Bool :=
        s.corpus.tombs.any (fun t => t.rtype == rtype && t.region == id && t.rid == e.rid && decide (e.epoch < t.epoch) && decide (t.epoch ≤ snap))
      let mine := x.entries.filter (fun e => e.slab == slab)
      let gone := (mine.filter (hidden s.corpus.epoch)).length
      let pend := pendingFor s rtype id
      if mine.isEmpty ∨ gone * 100 < fld s (scnReg p 4) 15 8 * mine.length ∨ pend.any (fun e => e.slab == slab) ∨ !regionReady s r ∨
          s.scan.rebuilding.contains (rtype, id) then s
      else
        let keep := mine.filter (fun e => !hidden (oldestSnapshot s) e)
        let rest := x.entries.filter (fun e => e.slab != slab)
        let from_ := heldIndex s { x with entries := rest }
        match moveEntries s r slab from_ keep with
        | none => s
        | some (y, moved) =>
          let opened := y.slabs.drop from_.slabs.length
          let all := rest ++ moved
          let stays (b : IndexSlab) : Bool :=
            b.slab != slab && (match b.vec with
              | none => true
              | some k => b.cluster != c || (all ++ pend).any (fun e => e.cluster == c && e.vslot / perVec r == k))
          let x' := { x with entries := all, radius := setAt x.radius c (radiusOf all c), nmin := setAt x.nmin c (nminOf all c)
                             slabs := x.slabs.filter stays ++ opened }
          let drops (t : Tomb) : Bool := !decide (oldestSnapshot s < t.epoch) && !all.any (fun e => e.rid == t.rid && decide (e.epoch < t.epoch)) &&
            mine.any (fun e => e.rid == t.rid)
          let ps := moved.flatMap (movedPieces r opened)
          if unitsFit s (pieceUnits s r ps ++ dropUnits s r drops) then
            let t := setIndex (dropTombs (writePieces s r ps) r drops) x'
            let t := foldState (fun s (b : IndexSlab) => freeSlabUnits s r b.slab) t (x.slabs.filter (fun b => !stays b))
            let live (v : CachedVec) : Bool := v.rtype != rtype || v.region != id || v.cluster != c || (all ++ pend).any (fun e => e.cluster == c && e.vslot == v.vslot)
            showTombs (bump { t with search := { t.search with cache := t.search.cache.filter live } } (scnReg p 0x58))
          else s
  | _, _ => s

/-- Compaction of a slab of a slab region (region 0 to 63), or of a list slab of a sketch index (64 to 127) or of a
product-code index (128 to 191). -/
def compactionEff (s : State) (region slab : Nat) : State :=
  if region < 64 then compactSlab s region slab
  else if region < 128 then compactList s 3 (region - 64) slab
  else if region < 192 then compactList s 4 (region - 128) slab
  else s

/-- COMPACTION (R222). -/
def execCompaction (region slab : Nat) (s : State) : Host.Outcome State Fault Refusal :=
  ok (Sys2Proof.wellFormed (.compaction region slab)) (compactionEff s region slab)

/-! ## Register writes and re-forms (R271, R274, R275) -/

/-- A write of SRC_CTRL: BATCH_MAX out of range discards it whole; CLASS acts in SP0 only. -/
def writeSrcCtrl (s : State) (p v : Nat) : State :=
  if inRange (bitsOf v 6 0) 1 64 then setNat s (srcReg p 4) ((if p = 0 then bitsOf v 19 16 * 65536 else 0) + bitsOf v 6 0) else accErr s

/-- A write of SRC_QQ_SIZE. -/
def writeQqSize (s : State) (v : Nat) : State :=
  let n := v % 2 ^ 17
  if regNat s (srcReg 0 0x20) ≠ regNat s (srcReg 0 0x1C) ∨ !(n == 0 || powerOfTwo n 16 65536) then accErr s
  else setNat (setNat (setNat s (srcReg 0 0x18) n) (srcReg 0 0x20) 0) (srcReg 0 0x1C) 0

/-- A write of a word of SRC_QQ_BASE; its low seven bits must be 0. -/
def writeQqBase (s : State) (off v : Nat) : State :=
  if regNat s (srcReg 0 0x20) ≠ regNat s (srcReg 0 0x1C) ∨ (off = srcReg 0 0x10 ∧ v % 128 ≠ 0) then accErr s else setNat s off v

/-- A write of SRC_QQ_CANCEL: a QUERY that runs stops with CANCELLED; one that waits is cancelled when its turn comes (R274). -/
def writeQqCancel (s : State) (v : Nat) : State :=
  let i := v % 65536
  match s.search.queries.find? (fun q => q.index == i && !q.done) with
  | some q => if q.op = 1 then stopQuery s q stCANCELLED else s
  | none =>
    if ringWaits (fld s (srcReg 0 0x18) 16 0) (regNat s (srcReg 0 0x1C)) (regNat s (srcReg 0 0x20)) s.search.queries.length i then
      { s with search := { s.search with cancelled := i :: s.search.cancelled.filter (fun x => x != i) } }
    else s

/-- Ends every running QUERY with REFORM_ABORT (R275). -/
def abortQueries (s : State) : State :=
  foldState (fun s (q : Query) => if q.done ∨ q.op ≠ 1 then s else stopQuery s q stREFORM_ABORT) s s.search.queries

end Sys2Proof.Machine
end

