-- ==== Sys2Proof/Machine/Fabric.lean ====
section
/-! DEFINITION. Reduction trees: the HELLO checks, the census, windows, positions and their deadlines, the adder, steps, remote
accumulate and peer transfers (09_fabric.md, R290, R291, R294 to R316). -/
namespace Sys2Proof.Machine

/-! ## Trees -/

/-- A tree's state. -/
def tree (s : State) (t : Nat) : Tree := Sparse.get {} s.fabric.trees t

/-- Stores a tree's state. -/
def setTree (s : State) (t : Nat) (x : Tree) : State := { s with fabric := { s.fabric with trees := Sparse.set {} s.fabric.trees t x } }

/-- FAB_TREE_STAT.STATE: 0 DOWN, 1 READY, 2 ACTIVE, 3 HELD, 4 ABORTED. -/
def treeState (s : State) (t : Nat) : Nat := fld s (treeReg t 0) 31 28

/-- Stores STATE. -/
def setTreeState (s : State) (t v : Nat) : State := setFld s (treeReg t 0) 31 28 v

/-- FAB_TREE_STEP. -/
def stepOf (s : State) (t : Nat) : Nat := regNat s (treeReg t 0x8)

/-- Whether remote accumulate is in force for a tree (R313). -/
def raMode (s : State) (t : Nat) : Bool := rbit s (treeReg t 0) 27

/-- Whether a segment is one of a tree's (R294). -/
def inTree (r : TreeRec) (g : Nat) : Bool := decide (r.segFirst ≤ g) && decide (g < r.segFirst + r.segCount)

/-- Whether a segment lies within a window that begins at BASE (R296). -/
def inWin (base g : Nat) : Bool := decide (base ≤ g) && decide (g < base + 256)

/-- The ports of a tree at this node. -/
def treePorts (r : TreeRec) : List Nat := (if r.root then [] else [r.parent]) ++ r.children

/-- The entry of a tree in the last HELLO of a port's neighbour, with that HELLO. -/
def helloEntry (s : State) (p t : Nat) : Option (HelloMsg × HelloTree) :=
  match (port s p).helloGot with
  | none => none
  | some h => (h.trees.find? (fun e => e.tree == t)).map (fun e => (h, e))

/-- The child port of a port's partner in a tree: each names the other, and both run the same armature (R290, R301). -/
def partnerPort (s : State) (r : TreeRec) (p : Nat) : Option Nat :=
  match helloEntry s p r.tree with
  | none => none
  | some (h, e) =>
    if e.peerId = 0xFFFF then none
    else r.children.find? (fun q => q != p &&
      match helloEntry s q r.tree with
      | none => false
      | some (hq, eq) => hq.moduleId == e.peerId && eq.peerId == h.moduleId && hq.armId == h.armId)

/-- The place of a port in CHILD. -/
def childIndex (r : TreeRec) (p : Nat) : Nat := r.children.findIdx (fun q => q == p)

/-- Whether a child port is the second of a pair, which takes no position of its own (R298, R301). -/
def isBackup (s : State) (r : TreeRec) (p : Nat) : Bool :=
  match partnerPort s r p with
  | none => false
  | some q => decide (childIndex r q < childIndex r p)

/-- The position that a child port's copies fill: 0 is the node's own, 1 + i that of CHILD[i]. -/
def positionOf (s : State) (r : TreeRec) (p : Nat) : Nat :=
  if isBackup s r p then 1 + childIndex r ((partnerPort s r p).getD p) else 1 + childIndex r p

/-- The child port of a position. -/
def portOfPos (r : TreeRec) (i : Nat) : Nat := r.children.getD (i - 1) 0

/-- The positions of a segment, in order (R298). -/
def positionsOf (s : State) (r : TreeRec) : List Nat :=
  0 :: ((List.range r.children.length).filter (fun i => !isBackup s r (r.children.getD i 0))).map (· + 1)

/-- A segment being reduced. -/
def segOf (r : TreeRec) (x : Tree) (g : Nat) : Seg :=
  (x.segs.find? (fun y => y.seg == g)).getD { seg := g, positions := List.replicate (r.children.length + 1) {} }

/-- Stores a segment being reduced. -/
def putSeg (x : Tree) (y : Seg) : Tree := { x with segs := y :: x.segs.filter (fun z => z.seg != y.seg) }

/-- The gradient format (R60). -/
def gradFmt (s : State) : Fmt := if (settings s).gradWire = 1 then .fp16 else .bf16

/-- 2,048 elements of 16 bits from 4,096 bytes. -/
def segCodes (l : List Byte) : List Word := (List.range 2048).map (fun i => BitVec.ofNat 32 (fieldAt l (2 * i) 2))

/-- The node's own contribution, read from its gradient window, or none where it is not posted or cannot be read (R294, R295). -/
def ownCodes (s : State) (r : TreeRec) (g : Nat) : Option (List Word) :=
  let a := nat64 s (treeReg r.tree 0x14) + (g - r.segFirst) * 4096
  if (tree s r.tree).posted.contains g ∧ mappedStack (settings s) a 4096 then
    match (readRange s a 4096).2 with
    | none => none
    | some l => some (segCodes l)
  else none

/-- Sends WINDOW on a child port; a tree that is DOWN, HELD or ABORTED sends none (R296, R311). -/
def sendWindow (s : State) (r : TreeRec) (p : Nat) : State :=
  let st := treeState s r.tree
  if (st = 1 ∨ st = 2) ∧ portUp s p then
    sendCtrl s p 0x06 [r.tree, one (raMode s r.tree), stepOf s r.tree, (tree s r.tree).base]
  else s

/-- Sends WINDOW on every child port. -/
def sendWindows (s : State) (r : TreeRec) : State := foldState (fun s p => sendWindow s r p) s r.children

/-- Enters ACTIVE with the first contribution that a node receives, sends or sums; a post does it as well (log entry 30). -/
def activate (s : State) (t : Nat) : State := if treeState s t = 1 then setTreeState s t 2 else s

/-- Whether a summing adder of the tree is retired at this node or, as MODE has told it, below it (R300, R313). -/
def adderGone (s : State) (r : TreeRec) : Bool := rbit s (treeReg r.tree 0) 26 || !(tree s r.tree).raPorts.isEmpty

/-- Takes the mode of the next step: at a root its MODE bit or a retired adder, elsewhere what the parent's WINDOW carries (R313). -/
def refreshMode (s : State) (r : TreeRec) : State :=
  if r.root then setBit s (treeReg r.tree 0) 27 (rbit s (treeReg r.tree 0x4) 8 || adderGone s r)
  else
    let x := tree s r.tree
    if x.parentKnown ∧ x.parentStep = stepOf s r.tree then setBit s (treeReg r.tree 0) 27 (decide (x.parentMode = 1)) else s

/-- A tree at the start of a step: nothing staged, summed, written or missed. -/
def freshStep (s : State) (r : TreeRec) : State :=
  let x := tree s r.tree
  let s := setTree s r.tree { x with base := r.segFirst, segs := [], starts := [], finished := [], params := [], sent := false
                                     stepDropped := false, stepRa := false, stepNflags := 0, missed := [], absent := [], raAbsent := []
                                     raWaiting := [], sums := [] }
  let s := setBit (setBit (setNat s (treeReg r.tree 0x24) 0) (updReg r.tree 0) 27 false) (updReg r.tree 0) 26 false
  setBit (setNat (setNat s (updReg r.tree 0x38) 0) (updReg r.tree 0x3C) 0) UPD_STAT (16 + r.tree) false

/-- Appends an entry to the root's step log of 64 entries (R337). -/
def logStep (s : State) (r : TreeRec) (aborted : Bool) (cause cur : Nat) : State :=
  if r.root then
    let x := tree s r.tree
    let used := if rbit s (updReg r.tree 0) 27 then regNat s (updReg r.tree 0x14) else 0
    let f := one x.stepDropped + 2 * one x.stepRa + 4 * one aborted + 8 * one (aborted && decide (cause = 1)) + 16 * cause
    let e := leBytes 1 r.tree ++ leBytes 1 f ++ leBytes 1 x.stepNflags ++ leBytes 1 cur ++ leBytes 4 (stepOf s r.tree) ++
      leBytes 4 used ++ leBytes 4 (regNat s (updReg r.tree 0x38))
    let h := regNat s UPD_LOG_HEAD
    setNat { s with fabric := { s.fabric with stepLog := Sparse.set [] s.fabric.stepLog (h % 64) e } } UPD_LOG_HEAD (h + 1)
  else s

/-- Sets a bit of FAB_EVENT, and sends event C5h where the tree's control bit asks for it (R407). -/
def treeEvent (s : State) (t bit ctrl : Nat) : State :=
  let s := setBit s FAB_EVENT bit true
  if rbit s (treeReg t 0x4) ctrl then notice s 0xC5 0 else s

/-- Puts a tree at a step boundary in READY, or in HELD where a HOLD waits for one (R311); posts that it finds start their deadlines (R304). -/
def toReady (s : State) (r : TreeRec) : State :=
  if (tree s r.tree).holdAsked then setTreeState (setTree s r.tree { tree s r.tree with holdAsked := false }) r.tree 3
  else activateOnPost (setTreeState s r.tree 1) r.tree

/-- Completes a step at this member (R310): the LAST flags, CUR, the step number, the events, and READY or HELD. FAB_TREE_STEP, which counts in 32
bits, goes on from 0 after 0xFFFF_FFFF (DESIGN CHOICE, log entry 105: the manual does not say). -/
def completeStep (s : State) (r : TreeRec) : State :=
  let x := tree s r.tree
  let s := setBit (setBit s (treeReg r.tree 0) 25 x.stepDropped) (treeReg r.tree 0) 24 x.stepRa
  let cur := 1 - fld s (updReg r.tree 0x4) 0 0
  let s := setFld s (updReg r.tree 0x4) 0 0 cur
  let s := logStep s r false 0 cur
  let s := setNat s (treeReg r.tree 0x8) (stepOf s r.tree + 1)
  let s := freshStep (setTree s r.tree { x with posted := [], holdAsked := x.holdAsked || decide (treeState s r.tree = 3) }) r
  let s := treeEvent (toReady s r) r.tree r.tree 10
  sendWindows (refreshMode s r) r

/-- Ends a tree's step in ABORTED, and passes ABORT on to its other ports (R306). `cause` is that of R335. -/
def abortTree (s : State) (r : TreeRec) (origin seg cause : Nat) (came : Option Nat) : State :=
  if treeState s r.tree = 4 then s
  else
    let step := stepOf s r.tree
    let s := logStep s r true cause (fld s (updReg r.tree 0x4) 0 0)
    let s := setTree s r.tree { tree s r.tree with segs := [], starts := [], raWaiting := [], sums := [], abortedStep := step }
    let s := setBit (setBit s (updReg r.tree 0) 26 false) UPD_STAT (16 + r.tree) false
    let s := setNat (setFld (setTreeState s r.tree 4) (treeReg r.tree 0x38) 12 0 origin) (treeReg r.tree 0x3C) seg
    let s := treeEvent s r.tree (16 + r.tree) 11
    foldState (fun s p => if some p ≠ came ∧ portUp s p then sendCtrl s p 0x07 [r.tree, origin, step, seg] else s) s (treePorts r)

/-! ## Bring-up (R290, R291, R312) -/

/-- A member's tree leaves DOWN when its parent port is up. -/
def leaveDown (s : State) (r : TreeRec) : State :=
  if treeState s r.tree = 0 then sendWindows (refreshMode (toReady (freshStep s r) r) r) r else s

/-- Tells the parent whether a summing adder is retired at this node or below: when one is lost (R300), when what MODE told changes, and when the
parent's port comes up, so that a parent which knows of a module that has been re-formed or replaced learns how it stands now (R313; DEDUCED, log
entry 142). -/
def tellAdder (s : State) (r : TreeRec) : State :=
  if !r.root ∧ portUp s r.parent then sendCtrl s r.parent 0x0A [r.tree, one (adderGone s r), stepOf s r.tree] else s

/-- What MODE has told on a child port, or its end (R313). -/
def markAdder (s : State) (r : TreeRec) (p : Nat) (gone : Bool) : State :=
  let l := (tree s r.tree).raPorts.filter (fun q => q != p)
  setTree s r.tree { tree s r.tree with raPorts := if gone then l ++ [p] else l }

/-- A change of what MODE has told goes up; a root that has begun no step takes its mode at once. -/
def modeChanged (s : State) (r : TreeRec) : State :=
  if r.root then (if treeState s r.tree = 1 then sendWindows (refreshMode s r) r else s) else tellAdder s r

/-- A port comes up: its trees take note, and what waits to leave leaves. -/
def portCameUp (s : State) (p : Nat) : State :=
  pump (foldState (fun s (r : TreeRec) =>
    if !r.root && r.parent == p then updateCensus (tellAdder (leaveDown s r) r) r
    else if r.children.contains p then updateCensus (sendWindow s r p) r
    else s) s (settings s).trees) p

/-- A module that had left for a re-form is back on a child port: what MODE told of its adders is over (R313). -/
def returned (s : State) (p : Nat) : State :=
  foldState (fun s (r : TreeRec) => if (tree s r.tree).raPorts.contains p then modeChanged (markAdder s r p false) r else s) s (settings s).trees
/-- The first check of R290 that a HELLO fails at this end; 0 where it passes them all. -/
def helloCause (s : State) (p : Nat) (m : HelloMsg) : Nat :=
  let role := portRole s p
  let mine := ownTrees s p
  let has (l : List HelloTree) (t : Nat) : Bool := l.any (fun e => e.tree == t)
  let pairs : List (HelloTree × HelloTree) :=
    mine.filterMap (fun e => (m.trees.find? (fun o => o.tree == e.tree)).map (fun o => (e, o)))
  let badLevel (q : HelloTree × HelloTree) : Bool :=
    q.1.side == q.2.side || (if q.1.side = 0 then q.2.level != q.1.level + 1 else q.1.level != q.2.level + 1)
  let badLeaf (e : HelloTree) : Bool := e.side == 1 && e.peerId != 0xFFFF && e.nchild != 0
  let lonely (q : HelloTree × HelloTree) : Bool :=
    q.1.side == 0 && q.2.peerId != 0xFFFF &&
      match treeRec s q.1.tree with
      | none => false
      | some r => (partnerPort s r p).isNone
  if role = 3 then (if m.moduleId = (settings s).moduleId then 0 else 8)
  else if m.fabricId = 0 ∨ m.fabricId ≠ (settings s).fabricId then 1
  else if (role = 1 ∧ m.portRole = 2) ∨ (role = 2 ∧ m.portRole = 1) then 2
  else if mine.any (fun e => !has m.trees e.tree) ∨ m.trees.any (fun e => !has mine e.tree) then 3
  else if pairs.any badLevel then 4
  else if mine.any badLeaf ∨ m.trees.any badLeaf then 5
  else if pairs.any lonely then 6
  else 0

/-- A HELLO brings an internal port up: it meets no check, and its package is reached again (R318). -/
def internalUp (s : State) (p : Nat) : State :=
  let q := (p - 16) / 2
  pump (setPortState (setPkg s q { pkg s q with unreachNoted := false }) p 3) p

/-- A HELLO arrives: an internal port comes up, and an external one comes up, stays up, or is held (R290). -/
def helloEff (s : State) (x : Rx) (m : HelloMsg) : State :=
  let p := x.port
  if linked s p ∧ (16 ≤ p ∨ portRole s p ≠ 0) then
    let was := portState s p
    let back := (port s p).departed
    let s := arrive s x
    let s := setFld (setPort s p { port s p with helloGot := some m, departed := false }) (portReg p 0x14) 12 0 m.moduleId
    if 16 ≤ p then internalUp s p
    else
      let c := helloCause s p m
      let s := setFld s (portReg p 0x4) 31 24 c
      if c = 0 then
        let s := setPortState s p (if portRole s p = 3 then 5 else 3)
        if was = 3 ∨ portRole s p = 3 then s else portCameUp (if back then returned s p else s) p
      else
        let s := setPortState s p 4
        if was = 3 then portLeft s p else s
  else arrive s x

/-- HELLO (R290). -/
def execHello (port : Rx) (msg : HelloMsg) (s : State) : Host.Outcome State Fault Refusal :=
  ok (Sys2Proof.wellFormed (.hello port msg)) (helloEff s port msg)

/-- A neighbour leaves for a re-form: its port is held with cause 7. -/
def departEff (s : State) (x : Rx) : State :=
  let p := x.port
  let was := portState s p
  let s := arrive s x
  if linked s p ∧ (portRole s p = 1 ∨ portRole s p = 2) then
    let s := setPort s p { port s p with departed := true }
    let s := setFld (setPortState s p 4) (portReg p 0x4) 31 24 7
    if was = 3 then portLeft s p else s
  else s

/-- DEPART (R312). -/
def execDepart (port : Rx) (moduleId : Nat) (s : State) : Host.Outcome State Fault Refusal :=
  ok (Sys2Proof.wellFormed (.depart port moduleId)) (departEff s port)

/-- Sends DEPART on every port of role 1 or 2 (R312). -/
def departAll (s : State) : State :=
  foldState (fun s p => if (portRole s p = 1 ∨ portRole s p = 2) ∧ 2 ≤ portState s p then sendCtrl s p 0x08 [(settings s).moduleId] else s)
    s (List.range 16)

/-- The record of a tree that a message on one of the parent port (`up` true) or a child port may speak of. -/
def treeOn (s : State) (p t : Nat) (up : Bool) : Option TreeRec :=
  if !portUp s p then none
  else
    match treeRec s t with
    | none => none
    | some r => if (if up then !r.root && r.parent == p else r.children.contains p) then some r else none

/-- CENSUS from a child. -/
def censusEff (s : State) (x : Rx) (t count : Nat) : State :=
  let s := arrive s x
  match treeOn s x.port t false with
  | none => s
  | some r =>
    let q := port s x.port
    updateCensus (setPort s x.port { q with census := (t, count) :: q.census.filter (fun c => c.1 != t) }) r

/-- CENSUS (R291). -/
def execCensus (port : Rx) (tree count : Nat) (s : State) : Host.Outcome State Fault Refusal :=
  ok (Sys2Proof.wellFormed (.census port tree count)) (censusEff s port tree count)

/-- Whether a member may send a contribution to a segment: within its parent's window of the same STEP and MODE (R296). -/
def maySend (s : State) (r : TreeRec) (g : Nat) : Bool :=
  let x := tree s r.tree
  portUp s r.parent && x.parentKnown && decide (x.parentStep = stepOf s r.tree) && (decide (x.parentMode = 1) == raMode s r.tree) &&
    inWin x.parentBase g

/-- Forwards the remote-accumulate packets that the parent's window now admits (R296, R314). -/
def releaseRacc (s : State) (r : TreeRec) : State :=
  let l := (tree s r.tree).raWaiting
  let s := setTree s r.tree { tree s r.tree with raWaiting := l.filter (fun k => !maySend s r k.seg) }
  foldState (fun s k => sendPacket (activate s r.tree) r.parent (r.level - 1) 3 k) s (l.filter (fun k => maySend s r k.seg))

/-- WINDOW from the parent: what the member may send, and the mode (R296, R313). -/
def windowEff (s : State) (x : Rx) (t mode step base : Nat) : State :=
  let s := arrive s x
  match treeOn s x.port t true with
  | none => s
  | some r =>
    let s := setTree s t { tree s t with parentBase := base, parentStep := step, parentMode := mode, parentKnown := true }
    let was := raMode s t
    let s := refreshMode s r
    releaseRacc (if raMode s t = was then s else sendWindows s r) r

/-- WINDOW (R296). -/
def execWindow (port : Rx) (tree mode step base : Nat) (s : State) : Host.Outcome State Fault Refusal :=
  ok (Sys2Proof.wellFormed (.window port tree mode step base)) (windowEff s port tree mode step base)

/-- ABORT from a neighbour. -/
def abortFlitEff (s : State) (x : Rx) (t origin step seg : Nat) : State :=
  let s := arrive s x
  if portUp s x.port then
    match treeRec s t with
    | none => s
    | some r => if (treePorts r).contains x.port ∧ step = stepOf s t then abortTree s r origin seg 0 (some x.port) else s
  else s

/-- ABORT_FLIT (R306). -/
def execAbortFlit (port : Rx) (tree origin step seg : Nat) (s : State) : Host.Outcome State Fault Refusal :=
  ok (Sys2Proof.wellFormed (.abortFlit port tree origin step seg)) (abortFlitEff s port tree origin step seg)

/-- MODE from a child: at the root the flag selects remote accumulate from the next step; others pass it on (R300, R313). -/
def modeEff (s : State) (x : Rx) (t flag : Nat) : State :=
  let s := arrive s x
  match treeOn s x.port t false with
  | none => s
  | some r => modeChanged (markAdder s r x.port (decide (flag = 1))) r

/-- MODE (R300). -/
def execMode (port : Rx) (tree flag step : Nat) (s : State) : Host.Outcome State Fault Refusal :=
  ok (Sys2Proof.wellFormed (.mode port tree flag step)) (modeEff s port tree flag)

/-! ## Contributions (R297, R302, R303, R309) -/

/-- Counts a copy that comes after its position is resolved (R303). -/
def lateCopy (s : State) : State := bump s FAB_LATE

/-- Whether a position without a partner has expired in an earlier segment of the step, so that it is resolved at once here (R308). -/
def goneBefore (x : Tree) (i g : Nat) : Bool := x.absent.any (fun a => a.1 == i && decide (a.2 < g))

/-- The deadline of a segment starts with its first position (R304). -/
def startSeg (s : State) (t g : Nat) : State := setTree s t (startDeadline (tree s t) g s.tb)

/-- Takes a copy of a position from a child port. -/
def takeCopy (s : State) (r : TreeRec) (p : Nat) (k : Packet) : State :=
  let x := tree s r.tree
  let i := positionOf s r p
  let y := segOf r x k.seg
  let o := y.positions.getD i {}
  let c := (segCodes k.payload, k.nflags, bitOf k.flags 0)
  let store (o : Pos) : State :=
    startSeg (activate (setTree s r.tree (putSeg x { y with positions := setAt y.positions i o })) r.tree) r.tree k.seg
  if o.dropped || (o.taken.isNone && goneBefore x i k.seg) then lateCopy s
  else if isBackup s r p then
    match o.taken with
    | some _ => if o.primary.isSome ∧ o.backup.isNone then store { o with backup := some c } else lateCopy s
    | none =>
      if o.backup.isSome then lateCopy s
      else if !portUp s (portOfPos r i) || x.missed.contains i then
        bump (store { o with backup := some c, taken := some c }) (treeReg r.tree 0x2C)
      else store { o with backup := some c }
  else
    match o.taken with
    | some _ => lateCopy s
    | none => store { o with primary := some c, taken := some c }

/-- The class in which a packet of a tree comes: UP of this node's level from a child, DOWN of its level from the parent (R286). -/
def classOn (s : State) (t : Nat) (up : Bool) : Nat :=
  match treeRec s t with
  | none => 0
  | some r => if up then 3 + r.level else r.level

/-- The checks that every tree packet meets once its flits are taken: its CRC and FABRIC_ID, its tree and port, the step (R297, R306, R309). None
where the packet goes no further. -/
def treePacket (s : State) (x : Rx) (k : Packet) (up : Bool) : State × Option TreeRec :=
  let p := x.port
  let s := arrivePacket s x k (classOn s k.tree up)
  if !portUp s p then (s, none)
  else if !k.crcOk ∨ k.fabricId ≠ (settings s).fabricId then (bump s (portReg p 0x8), none)
  else
    match treeOn s p k.tree up with
    | none => (s, none)
    | some r =>
      let st := treeState s k.tree
      if k.step ≠ stepOf s k.tree then (bump s FAB_STALE, none)
      else if st = 0 ∨ st = 4 ∨ !inTree r k.seg then (s, none)
      else (s, some r)

/-- A gradient packet from a child. -/
def gradEff (s : State) (rx : Rx) (k : Packet) : State :=
  let p := rx.port
  let c := treePacket s rx k false
  match c.2 with
  | none => c.1
  | some r =>
    if raMode c.1 r.tree then c.1
    else if (tree c.1 r.tree).finished.contains k.seg then lateCopy c.1
    else if inWin (tree c.1 r.tree).base k.seg then takeCopy c.1 r p k
    else c.1

/-- GRAD (R302, R303). -/
def execGrad (port : Rx) (pkt : Packet) (s : State) : Host.Outcome State Fault Refusal :=
  ok (Sys2Proof.wellFormed (.grad port pkt)) (gradEff s port pkt)

/-! ## The adder (R298, R300) -/

/-- Adds two rows of FP32 values, element by element, with the flags raised. -/
def addWords : List Word → List Word → List Word × Nat
  | a :: as, b :: bs =>
    let r := fadd a b
    let t := addWords as bs
    (r.1 :: t.1, Nat.lor r.2 t.2)
  | _, _ => ([], 0)

/-- The sum of the present copies in order: the first unchanged, each later one added; nothing present gives +0. -/
def addCopies : List (List Word) → List Word × Nat
  | [] => (List.replicate 2048 zero32, 0)
  | c :: rest => rest.foldl (fun a d => let r := addWords a.1 d; (r.1, Nat.lor a.2 r.2)) (c, 0)

/-- Narrows a row of sums to the gradient format, with OUT_ROUND 0. -/
def narrowWords (f : Fmt) : List Word → List Byte × Nat
  | [] => ([], 0)
  | w :: t =>
    let r := narrow f 0 0 w
    let u := narrowWords f t
    (leBytes 2 r.1 ++ u.1, Nat.lor r.2 u.2)

/-- The flags that a node adds to a segment: SUM_OF and OUT_OF. -/
def nodeFlags (f : Nat) : Nat := Nat.land f (SUM_OF + OUT_OF)

/-- Widens the codes of a copy, which is exact. -/
def widen (s : State) (l : List Word) : List Word := l.map (fun w => toF32 (gradFmt s) w.toNat)

/-- The port block whose adder sums a tree (R300). -/
def adderPort (r : TreeRec) : Nat := if r.root then r.children.getD 0 0 else r.parent

/-- A tree loses its summing adder: its step is aborted whatever the policy, and the root learns of it. -/
def loseAdder (s : State) (r : TreeRec) (seg : Nat) : State :=
  let runs := decide (treeState s r.tree = 1) || decide (treeState s r.tree = 2) || decide (treeState s r.tree = 3)
  let s := setBit s (treeReg r.tree 0) 26 true
  let s := abortTree s r (settings s).moduleId seg 0 none
  tellAdder (if runs then interrupting s 6 (adderPort r) else s) r

/-- A residue error of the adder: transient, and the segment is summed again, or the adder is retired. True where the sum may go on. -/
def adderError (s : State) (r : TreeRec) (seg : Nat) : State × Bool :=
  let u := adderPort r
  let s := bump s FAB_ADDER_ERR
  if withinWindow s 4 u then
    let rec_ := faultRec s 4 2 1 u
    let s := permanentFault s 4
    let s := { s with nv := { s.nv with retiredAdders := s.nv.retiredAdders ++ [u] } }
    let s := foldState (fun s (x : TreeRec) =>
      if adderPort x = u then loseAdder s x (if x.tree = r.tree then seg else (tree s x.tree).base) else s) s (settings s).trees
    (retired s rec_, false)
  else (transientFault s 4 1 u, true)

/-- BASE past every segment that is complete (R296). -/
def advanceBase (done : List Nat) (last : Nat) : Nat → Nat → Nat
  | 0, b => b
  | n + 1, b => if b < last ∧ done.contains b then advanceBase done last n (b + 1) else b

/-- A segment is complete at this node: BASE advances, and the children learn of it. -/
def finishSeg (s : State) (r : TreeRec) (g : Nat) : State :=
  let x := tree s r.tree
  let done := x.finished ++ [g]
  let base := advanceBase done (r.segFirst + r.segCount) r.segCount x.base
  let s := setTree s r.tree { x with finished := done, segs := x.segs.filter (fun y => y.seg != g), base := base, sent := true }
  let s := setNat s (treeReg r.tree 0x24) done.length
  if base = x.base then s else sendWindows s r

/-- A header of a packet that this member sends. -/
def ownPacket (s : State) (r : TreeRec) (g flags nflags position : Nat) (payload : List Byte) : Packet :=
  { tree := r.tree, flags := flags, fmt := (settings s).gradWire, step := stepOf s r.tree, seg := g, srcModule := (settings s).moduleId
    position := position, fabricId := (settings s).fabricId, nflags := nflags, dst := 0, payload := payload, crcOk := true }

/-- Whether this member is not its pair's primary: with no partner false; the member does not see its parent's CHILD order, so with
one it is a free value of the fabric, the same for every packet (log entry 140). -/
def backupMark (s : State) (r : TreeRec) : Bool :=
  decide (r.peerId ≠ 0xFFFF) && !r.root && Config.pairBackup r.tree (settings s).moduleId r.peerId

/-- Takes the backups that the parent need not wait for: the primary's port is down or held, or it has missed a deadline (R303). -/
def takeBackups (s : State) (r : TreeRec) (g : Nat) : State :=
  foldState (fun s i =>
    let x := tree s r.tree
    let y := segOf r x g
    let o := y.positions.getD i {}
    if i ≠ 0 ∧ o.taken.isNone ∧ !o.dropped ∧ !goneBefore x i g ∧ o.backup.isSome ∧ (!portUp s (portOfPos r i) ∨ x.missed.contains i) then
      bump (setTree s r.tree (putSeg x { y with positions := setAt y.positions i { o with taken := o.backup } })) (treeReg r.tree 0x2C)
    else s) s (positionsOf s r)

/-- Whether a position of a segment is resolved. -/
def resolved (s : State) (r : TreeRec) (g i : Nat) : Bool :=
  let x := tree s r.tree
  let o := (segOf r x g).positions.getD i {}
  o.dropped || goneBefore x i g || (if i = 0 then (ownCodes s r g).isSome else o.taken.isSome)

/-- Sums a segment whose positions are all resolved, and sends the sum upward or gives it to the update unit. -/
def sumPositions (s : State) (r : TreeRec) (g : Nat) : State :=
  let x := tree s r.tree
  let y := segOf r x g
  let is := positionsOf s r
  let pos (i : Nat) : Pos := y.positions.getD i {}
  let copyOf (i : Nat) : Option (List Word × Nat × Bool) :=
    if (pos i).dropped then none
    else if i = 0 then (if goneBefore x 0 g then none else (ownCodes s r g).map (fun l => (l, 0, false)))
    else (pos i).taken
  let copies := is.filterMap copyOf
  let gone := is.filter (fun i => (copyOf i).isNone)
  let s := bumpBy s (treeReg r.tree 0x30) (gone.filter (fun i => !(pos i).dropped)).length
  let differ (i : Nat) : Bool := match (pos i).primary, (pos i).backup with | some a, some b => decide (a.1 ≠ b.1) | _, _ => false
  let s := bumpBy s FAB_PAIR_MISMATCH (is.filter differ).length
  let sum := addCopies (copies.map (fun c => widen s c.1))
  let nf := Nat.lor (copies.foldl (fun f c => Nat.lor f c.2.1) 0) (nodeFlags sum.2)
  let drop := !gone.isEmpty || copies.any (fun c => c.2.2)
  let s := activate s r.tree
  if r.root then
    finishSeg (setTree s r.tree { tree s r.tree with sums := (tree s r.tree).sums ++ [(g, sum.1, nf, one drop)] }) r g
  else
    let low := narrowWords (gradFmt s) sum.1
    let k := ownPacket s r g (one drop + 4 * one (backupMark s r)) (Nat.lor nf (nodeFlags low.2)) 0 low.1
    finishSeg (sendPacket s r.parent (r.level - 1) 1 k) r g

/-! ## Remote accumulate (R313, R314) -/

/-- Adds a copy to a segment's remote accumulator; the first is taken unchanged. -/
def raAdd (y : Seg) (c : List Word) (nflags : Nat) (dropped : Bool) : Seg :=
  let f := Nat.lor (Nat.lor y.raFlags nflags) (256 * one dropped)
  match y.raSum with
  | none => { y with raSum := some c, raFlags := f }
  | some a =>
    let r := addWords a c
    { y with raSum := some r.1, raFlags := Nat.lor f (nodeFlags r.2) }

/-- The root's own copy joins the accumulator. -/
def raTakeOwn (s : State) (r : TreeRec) (y : Seg) : Seg :=
  if y.raOwn ∨ (y.positions.getD 0 {}).dropped ∨ goneBefore (tree s r.tree) 0 y.seg then y
  else
    match ownCodes s r y.seg with
    | none => y
    | some l => { raAdd y (widen s l) 0 false with raOwn := true }

/-- A position is filled by a pair: a copy of it carries BACKUP, or two modules have sent it (log entry 143). -/
def learnPair (x : Tree) (y : Seg) (k : Packet) : Tree :=
  if (bitOf k.flags 2 || y.raHeard.any (fun h => h.1 == k.position && h.2 != k.srcModule)) && !x.raPairs.contains k.position then
    { x with raPairs := x.raPairs ++ [k.position] }
  else x

/-- A remote-accumulate packet from a child: forwarded in the next class once the parent's window admits it, or added at the root, where the order
of copies is that of their lines' grants: whether the root's own comes before this one is a free value. -/
def raccEff (s : State) (x : Rx) (k : Packet) : State :=
  let c := treePacket s x k false
  match c.2 with
  | none => c.1
  | some r =>
    let s := c.1
    if !raMode s r.tree then s
    else if !r.root then
      releaseRacc (setTree s r.tree { tree s r.tree with raWaiting := (tree s r.tree).raWaiting ++ [k] }) r
    else
      let y := segOf r (tree s r.tree) k.seg
      let x := learnPair (tree s r.tree) y k
      let s := setTree s r.tree x
      if x.finished.contains k.seg then lateCopy s
      else if !inWin x.base k.seg then s
      else if y.raHeard.any (fun h => h.1 == k.position) then lateCopy s
      else
        let s := draw s
        let y := if Config.freeBool (s.fresh - 1) then raTakeOwn s r y else y
        let y := raAdd { y with raHeard := y.raHeard ++ [(k.position, k.srcModule)] } (widen s (segCodes k.payload)) k.nflags (bitOf k.flags 0)
        startSeg (activate (setTree s r.tree (putSeg x y)) r.tree) r.tree k.seg

/-- RACC (R314). -/
def execRacc (port : Rx) (pkt : Packet) (s : State) : Host.Outcome State Fault Refusal :=
  ok (Sys2Proof.wellFormed (.racc port pkt)) (raccEff s port pkt)

/-- The primaries of the pairs among the root's own children (R301). -/
def ownPairs (s : State) (r : TreeRec) : List Nat :=
  r.children.filterMap (fun p => if (partnerPort s r p).isSome && !isBackup s r p then (port s p).helloGot.map (·.moduleId) else none)

/-- Modules of the census whose position has not reached a segment at the root, its own apart: a pair's one copy stands for both (R314). -/
def raUnheard (s : State) (r : TreeRec) (y : Seg) : Nat :=
  let pairs := (tree s r.tree).raPairs ++ ownPairs s r
  regNat s (treeReg r.tree 0x34) - 1 - sumNat (y.raHeard.map (fun h => if pairs.contains h.1 then 2 else 1))

/-- How many of them have expired in an earlier segment of the step, and are resolved at once (R308). -/
def raGone (x : Tree) (g : Nat) : Nat := x.raAbsent.foldl (fun m a => if a.2 < g then max m a.1 else m) 0

/-- Those of them that a segment still awaits. -/
def raMissing (s : State) (r : TreeRec) (y : Seg) : Nat := raUnheard s r y - raGone (tree s r.tree) y.seg

/-- A segment under remote accumulate: a member sends its own contribution; the root ends the sum once every position of the census
is resolved. -/
def raSegment (s : State) (r : TreeRec) (g : Nat) : State :=
  let x := tree s r.tree
  let y := segOf r x g
  if r.root then
    let y := raTakeOwn s r y
    if (y.raOwn ∨ (y.positions.getD 0 {}).dropped ∨ goneBefore x 0 g) ∧ (y.expired ∨ raMissing s r y = 0) then
      let lost := decide (raUnheard s r y ≠ 0) || (!y.raOwn)
      let s := if y.expired then s else bumpBy s (treeReg r.tree 0x30) (raUnheard s r y + one (!y.raOwn))
      let drop := bitOf y.raFlags 8 || y.expired || lost
      let e := (g, y.raSum.getD (List.replicate 2048 zero32), y.raFlags % 256, one drop + 2)
      let s := activate s r.tree
      finishSeg (setTree s r.tree { tree s r.tree with sums := (tree s r.tree).sums ++ [e] }) r g
    else s
  else
    match ownCodes s r g with
    | none => s
    | some l =>
      let b := backupMark s r
      let home := if b then r.peerId else (settings s).moduleId
      let k := ownPacket s r g (2 + 4 * one b) 0 home (l.foldr (fun w t => leBytes 2 w.toNat ++ t) [])
      finishSeg (sendPacket (activate s r.tree) r.parent (r.level - 1) 3 k) r g

/-! ## Sums and deadlines as events -/

/-- A node's sum of a segment: its positions are resolved, and a member's parent admits it. -/
def segmentSumEff (s : State) (t g : Nat) (residueBad : Bool) : State :=
  match treeRec s t with
  | none => s
  | some r =>
    let x := tree s t
    let st := treeState s t
    if (st ≠ 1 ∧ st ≠ 2) ∨ !inTree r g ∨ !inWin x.base g ∨ x.finished.contains g ∨ (!r.root ∧ !maySend s r g) then s
    else if raMode s t then raSegment s r g
    else if s.nv.retiredAdders.contains (adderPort r) then s
    else
      let s := takeBackups s r g
      if (positionsOf s r).all (resolved s r g) then
        if residueBad then
          let e := adderError s r g
          if e.2 then sumPositions e.1 r g else e.1
        else sumPositions s r g
      else s

/-- SEGMENT_SUM (R298, R300, R314). -/
def execSegmentSum (tree seg : Nat) (residueBad : Bool) (s : State) : Host.Outcome State Fault Refusal :=
  ok (Sys2Proof.wellFormed (.segmentSum tree seg residueBad)) (segmentSumEff s tree seg residueBad)

/-- Resolves one position at the expiry of its deadline: the backup's copy, or the policy (R303, R306 to R308). -/
def expirePosition (r : TreeRec) (g : Nat) (s : State) (i : Nat) : State :=
  if treeState s r.tree = 4 then s
  else
    let x := tree s r.tree
    let y := segOf r x g
    let o := y.positions.getD i {}
    let paired := decide (i ≠ 0) && (partnerPort s r (portOfPos r i)).isSome
    let put (x : Tree) (o : Pos) : State := setTree s r.tree (putSeg x { y with positions := setAt y.positions i o, expired := true })
    let missed := { x with missed := x.missed ++ [i] }
    if o.backup.isSome then bump (put missed { o with taken := o.backup }) (treeReg r.tree 0x2C)
    else if !rbit s (treeReg r.tree 0x10) 0 then
      let s := abortTree s r (settings s).moduleId g 0 none
      if paired ∨ i = 0 then s else interrupting s 6 (portOfPos r i)
    else
      bump (put (if paired then missed else { x with absent := x.absent ++ [(i, g)] }) { o with dropped := true }) (treeReg r.tree 0x30)

/-- Whether the deadline of a segment has expired: it runs for FAB_TREE_DEADLINE ticks of TB from its first position (R8, R9, R304). -/
def segExpired (s : State) (t g : Nat) : Bool :=
  match Sparse.get none (tree s t).starts g with
  | none => false
  | some at_ => expired s at_ (regNat s (treeReg t 0xC))

/-- A segment's deadline expires under remote accumulate, at the root. -/
def raExpiry (s : State) (r : TreeRec) (g : Nat) : State :=
  let x := tree s r.tree
  let y := segOf r x g
  let own := !(y.raOwn || (ownCodes s r g).isSome)
  let n := raMissing s r y
  if n = 0 ∧ !own then s
  else
    let s := bump s (treeReg r.tree 0x28)
    if !rbit s (treeReg r.tree 0x10) 0 then abortTree s r (settings s).moduleId g 0 none
    else
      let y := { y with expired := true, positions := if own then setAt y.positions 0 { dropped := true } else y.positions }
      let s := bumpBy s (treeReg r.tree 0x30) (n + one own)
      setTree s r.tree (putSeg { x with raAbsent := x.raAbsent ++ [(raUnheard s r y, g)], absent := if own then x.absent ++ [(0, g)] else x.absent } y)

/-- Whether a segment is open at this node, in a step under way, and its deadline has expired (R296, R304). -/
def segDue (s : State) (r : TreeRec) (g : Nat) : Bool :=
  let x := tree s r.tree
  (treeState s r.tree == 1 || treeState s r.tree == 2) && inTree r g && inWin x.base g && !x.finished.contains g && !(segOf r x g).expired &&
    segExpired s r.tree g

/-- The deadline of an open segment expires. -/
def reductionExpiry (s : State) (t g : Nat) : State :=
  match treeRec s t with
  | none => s
  | some r =>
    if !segDue s r g then s
    else if raMode s t then (if r.root then raExpiry s r g else s)
    else
      let s := takeBackups s r g
      let open_ := (positionsOf s r).filter (fun i => !resolved s r g i)
      if open_.isEmpty then s else foldState (expirePosition r g) (bump s (treeReg t 0x28)) open_

/-- REDUCTION_DEADLINE_EXPIRY (R304, R305). -/
def execReductionDeadlineExpiry (tree seg : Nat) (s : State) : Host.Outcome State Fault Refusal :=
  ok (Sys2Proof.wellFormed (.reductionDeadlineExpiry tree seg)) (reductionExpiry s tree seg)

/-! ## Parameters (R310, R320 to R322, R334) -/

/-- Bytes of an element by FMT. -/
def fmtBytes (f : Nat) : Nat := if f = 2 then 4 else 2

/-- Writes a PARAM packet's payload to half 1 − CUR of the member's parameter window. -/
def writeParam (s : State) (r : TreeRec) (k : Packet) : State :=
  let base := nat64 s (updReg r.tree 0x30)
  if base = 0 then s
  else
    let n := 2048 * fmtBytes k.fmt
    let a := base + (1 - fld s (updReg r.tree 0x4) 0 0) * r.segCount * n + (k.seg - r.segFirst) * n
    if mappedSlm (settings s) a n ∧ !touchesCopy s (slmAddr a) n then
      let w := slmWrite s a (k.payload.take n)
      if w.2 then bump w.1 (updReg r.tree 0x3C) else w.1
    else s

/-- A PARAM packet at this node: written locally, sent unchanged on every child port, and noted; the last one completes a member's
step (R310). -/
def deliverParam (s : State) (r : TreeRec) (k : Packet) : State :=
  let s := writeParam s r k
  let s := foldState (fun s p => if portUp s p then sendPacket s p (4 + r.level) 2 k else s) s r.children
  let x := tree s r.tree
  let s := setTree s r.tree { x with params := x.params ++ [k.seg], stepDropped := x.stepDropped || bitOf k.flags 0
                                     stepRa := x.stepRa || bitOf k.flags 1, stepNflags := Nat.lor x.stepNflags k.nflags }
  if r.segCount ≤ (tree s r.tree).params.length then completeStep s r else s

/-- PARAM from the parent. -/
def paramEff (s : State) (x : Rx) (k : Packet) : State :=
  let c := treePacket s x k true
  match c.2 with
  | none => c.1
  | some r => if (tree c.1 r.tree).params.contains k.seg then c.1 else deliverParam c.1 r k

/-- PARAM (R310, R334). -/
def execParam (port : Rx) (pkt : Packet) (s : State) : Host.Outcome State Fault Refusal :=
  ok (Sys2Proof.wellFormed (.param port pkt)) (paramEff s port pkt)

/-! ## The tree's registers (R295, R306, R311) -/

/-- Whether FAB_TREE_STEP, CUR and the window bases take writes now (R311, R321). -/
def stepWritable (s : State) (t : Nat) : Bool :=
  let st := treeState s t
  decide (st = 0) || decide (st = 3) || decide (st = 4) || (decide (st = 1) && !(tree s t).sent)

/-- A write of FAB_TREE_STEP. -/
def writeTreeStep (s : State) (t v : Nat) : State :=
  match treeRec s t with
  | none => accErr s
  | some r =>
    if stepWritable s t then
      let s := setNat s (treeReg t 0x8) v
      if treeState s t = 4 then s else sendWindows (refreshMode (activateOnPost (freshStep s r) t) r) r
    else accErr s

/-- A write of FAB_TREE_POST_COUNT: COUNT segments from POST_FIRST are posted; what lies outside the tree counts once. -/
def writePostCount (s : State) (t count : Nat) : State :=
  match treeRec s t with
  | none => accErr s
  | some r =>
    let first := regNat s (treeReg t 0x1C)
    let lo := max first r.segFirst
    let hi := min (first + count) (r.segFirst + r.segCount)
    let s := if first < r.segFirst ∧ count ≠ 0 ∨ r.segFirst + r.segCount < first + count then accErr s else s
    addPosts s t ((List.range (hi - lo)).map (lo + ·))

/-- A FAB_TREE_CTRL command. -/
def treeCommand (s : State) (r : TreeRec) (cmd : Nat) : State :=
  let t := r.tree
  if cmd = 0 then s
  else if cmd = 1 then abortTree s r (settings s).moduleId 0xFFFFFFFF 0 none
  else if cmd = 2 then
    if treeState s t = 4 ∧ (tree s t).abortedStep < stepOf s t then
      let s := freshStep (setTree s t { tree s t with posted := [] }) r
      sendWindows (refreshMode (toReady s r) r) r
    else accErr s
  else if cmd = 3 then
    if treeState s t = 3 then s
    else if treeState s t = 1 ∧ !(tree s t).sent then setTreeState s t 3
    else setTree s t { tree s t with holdAsked := true }
  else if cmd = 4 then
    let s := setTree s t { tree s t with holdAsked := false }
    if treeState s t = 3 then sendWindows (refreshMode (toReady s r) r) r else s
  else accErr s

/-- A write of FAB_TREE_CTRL: its RW bits, and then CMD. A root that has begun no step takes its mode at once. -/
def writeTreeCtrl (s : State) (t v : Nat) : State :=
  match treeRec s t with
  | none => accErr s
  | some r =>
    let s := setFld s (treeReg t 0x4) 11 8 (bitsOf v 11 8)
    let was := raMode s t
    let s := if r.root ∧ (treeState s t = 1 ∨ treeState s t = 3) then refreshMode s r else s
    let s := if raMode s t = was then s else sendWindows s r
    treeCommand s r (v % 16)

/-! ## Peer transfers (R316) -/

/-- The packets of a peer transfer, 4,096 bytes each at most. -/
def peerPackets (s : State) (p dst : Nat) : Nat → Nat → List Byte → State
  | 0, _, _ => s
  | n + 1, off, l =>
    let part := l.take 4096
    let k : Packet := { tree := 0, flags := 0, fmt := 0, step := 0, seg := 0, srcModule := (settings s).moduleId, position := 0
                        fabricId := (settings s).fabricId, nflags := 0, dst := dst + off, payload := part, crcOk := true }
    peerPackets (sendPacket s p 8 4 k) p dst n (off + 4096) (l.drop 4096)

/-- Ends the peer transfer with a result. -/
def endPeer (s : State) (result : Nat) : State := setNat s FAB_PEER_STAT (2 ^ 31 + result)

/-- GO: starts a transfer on the port that FAB_PEER_CTRL names. -/
def startPeer (s : State) : State :=
  let p := fld s FAB_PEER_CTRL 3 0
  let src := nat64 s FAB_PEER_SRC
  let len := regNat s FAB_PEER_LEN
  if rbit s FAB_PEER_STAT 30 then accErr s
  else if portRole s p ≠ 2 ∨ !portUp s p then endPeer s 3
  else if !mappedSlm (settings s) src len then endPeer s 2
  else
    let r := readRange s src len
    match r.2 with
    | none => endPeer r.1 2
    | some l =>
      if len = 0 then endPeer r.1 0
      else
        let s := setNat r.1 FAB_PEER_STAT (2 ^ 30)
        let s := { s with fabric := { s.fabric with peerSent := len, peerAcked := 0, peerPort := p } }
        peerPackets s p (nat64 s FAB_PEER_DST) (ceilDiv len 4096) 0 l

/-- A write of FAB_PEER_CTRL: PORT, and then GO. -/
def writePeerCtrl (s : State) (v : Nat) : State :=
  let s := setFld s FAB_PEER_CTRL 3 0 (v % 16)
  if bitOf v 8 then startPeer s else s

/-- PEER_ACK: a refusal ends the transfer, and the acknowledgement that covers its last byte completes it. -/
def peerAckEff (s : State) (x : Rx) (result bytes : Nat) : State :=
  let s := arrive s x
  if portUp s x.port ∧ rbit s FAB_PEER_STAT 30 ∧ s.fabric.peerPort = x.port then
    if result ≠ 0 then endPeer s 1
    else
      let n := s.fabric.peerAcked + bytes
      let s := { s with fabric := { s.fabric with peerAcked := n } }
      if s.fabric.peerSent ≤ n then endPeer s 0 else s
  else s

/-- PEER_ACK (R316). -/
def execPeerAck (port : Rx) (result bytes : Nat) (s : State) : Host.Outcome State Fault Refusal :=
  ok (Sys2Proof.wellFormed (.peerAck port result bytes)) (peerAckEff s port result bytes)

/-- A peer's write: into the peer window, or discarded and answered with result 1. -/
def peerWrEff (s : State) (x : Rx) (k : Packet) : State :=
  let p := x.port
  let s := arrivePacket s x k 8
  if portUp s p ∧ portRole s p = 2 then
    if !k.crcOk ∨ k.fabricId ≠ (settings s).fabricId then bump s (portReg p 0x8)
    else
      let len := k.payload.length
      let a := nat64 s FAB_PEER_WIN + k.dst
      if k.dst + len ≤ regNat s FAB_PEER_WIN_LEN * 4096 ∧ mappedSlm (settings s) a len ∧ !touchesCopy s (slmAddr a) len then
        let w := slmWrite s a k.payload
        sendCtrl w.1 p 0x0C (if w.2 then [0, len] else [1, 0])
      else sendCtrl s p 0x0C [1, 0]
  else s

/-- PEER_WR (R316). -/
def execPeerWr (port : Rx) (pkt : Packet) (s : State) : Host.Outcome State Fault Refusal :=
  ok (Sys2Proof.wellFormed (.peerWr port pkt)) (peerWrEff s port pkt)

end Sys2Proof.Machine
end

