-- ==== Sys2Proof/Machine/Update.lean ====
section
/-! DEFINITION. The update unit: program slots, the element-wise program, stochastic narrowing, the step size and its tag, and the
step log (10_update.md, R320 to R337). -/
namespace Sys2Proof.Machine

/-! ## Program slots (R323 to R326) -/

/-- A word of an update program's slot. -/
def slotWord (s : State) (n w : Nat) : Nat := regNat s (UPD_SLOT n w)

/-- The fields that an opcode uses, as a mask beside OP (R324). -/
def opUses (op : Nat) : Nat :=
  let d := 0x0E000000
  let a := 0x01C00000
  let b := 0x00380000
  let c := 0x00070000
  if op = 0 then 0
  else if op ≤ 3 ∨ op = 5 then d
  else if op = 4 then d + 7
  else if op = 9 then d + a + b + c
  else if op ≤ 0xB then d + a + b
  else if op = 0xC then d + a
  else a

/-- Whether a program word is well formed where it stands: no reserved bit, unused field or word beyond NINSTR is set (R325). -/
def progWordOk (ninstr w v : Nat) : Bool :=
  if w = 0 then decide (bitsOf v 9 8 ≠ 3) && decide (bitsOf v 13 12 ≠ 3) && Nat.land v (allBits - 0x1331F) == 0
  else if 4 ≤ w ∧ w < 4 + ninstr then Nat.land v (0x0FFFFFFF - opUses (v / 2 ^ 28)) == 0
  else if 20 ≤ w ∧ w < 28 then true
  else v == 0

/-- The places of an opcode among the instruction words. -/
def opPlaces (ws : List Nat) (n op : Nat) : List Nat := (List.range n).filterMap (fun i => if ws.getD (4 + i) 0 / 2 ^ 28 = op then some (4 + i) else none)

/-- The checks of R325 in their order: ERR, 0 where the program passes, and the failing word where a word fails. -/
def progCheck (s : State) (slot : Nat) (ws : List Nat) : Nat × Option Nat :=
  let n := bitsOf (ws.getD 0 0) 4 0
  let state := bitOf (ws.getD 0 0) 16
  let stm := opPlaces ws n 0xD
  let out := opPlaces ws n 0xF
  let lds := opPlaces ws n 3
  let sts := opPlaces ws n 0xE
  if n = 0 ∨ 16 < n then (1, some 0)
  else
    match (List.range 32).find? (fun w => !progWordOk n w (ws.getD w 0)) with
    | some w => (2, some w)
    | none =>
      if stm.length ≠ 1 ∨ out.length ≠ 1 then
        (3, ((stm.drop 1 ++ out.drop 1).mergeSort (fun a b => decide (a ≤ b))).head?)
      else
        let bad := ((if state then [] else lds ++ sts) ++ sts.drop 1).mergeSort (fun a b => decide (a ≤ b))
        match bad with
        | w :: _ => (4, some w)
        | [] =>
          if (settings s).trees.any (fun r => r.root && r.updProg == slot && treeState s r.tree == 2) then (5, none) else (0, some 0)

/-- LOAD: checks and installs the staged program. Where no single word fails, ERR_WORD is not given: a free value (log entry 8). -/
def loadProgSlot (s : State) (slot : Nat) : State :=
  let ws := (List.range 32).map (fun w => regNat s (UPD_PSTAGE w))
  let c := progCheck s slot ws
  let word := match c.2 with | some w => w | none => (Config.freeWord s.fresh).toNat % 32
  let s := if c.2.isNone then draw s else s
  let s := setFld (setFld (setBit s UPD_PROG_CTRL 31 true) UPD_PROG_CTRL 23 16 c.1) UPD_PROG_CTRL 12 8 word
  if c.1 = 0 then setBit (setWords s (UPD_SLOT slot 0) ws) UPD_PROG_VALID slot true else s

/-- A write of UPD_PROG_CTRL: DONE, SLOT and then LOAD. -/
def writeProgCtrl (s : State) (v : Nat) : State :=
  let s := if bitOf v 31 then setBit s UPD_PROG_CTRL 31 false else s
  let s := setFld s UPD_PROG_CTRL 3 0 (v % 16)
  if bitOf v 4 then loadProgSlot s (v % 16) else s

/-- A write of UPD_LOG_SEL copies an entry in one update (R337). -/
def writeUpdLogSel (s : State) (v : Nat) : State :=
  let s := setNat s UPD_LOG_SEL (v % 64)
  let e := Sparse.get [] s.fabric.stepLog (v % 64)
  setWords s UPD_LOG_DATA ((List.range 4).map (fun w => fieldAt e (4 * w) 4))

/-! ## The program on one element (R324, R329) -/

/-- The counter generator's word for an element (R329). -/
def stochWord (seed step seg i : Nat) : Nat :=
  let m := 2 ^ 64
  let z := (seed * 2 ^ 32 + step + (seg * 2048 + i + 1) * 0x9E3779B97F4A7C15) % m
  let z := Nat.xor z (z / 2 ^ 30) * 0xBF58476D1CE4E5B9 % m
  let z := Nat.xor z (z / 2 ^ 27) * 0x94D049BB133111EB % m
  Nat.xor z (z / 2 ^ 31) / 2 ^ 48

/-- F of R329 for a value between two neighbours of its format, all as magnitudes. -/
def stochF (v lo hi : Word) : Nat :=
  let x := exSub (exOf v) (exOf lo)
  let d := exSub (exOf hi) (exOf lo)
  if d.2 ≤ x.2 then (65536 * x.1.toNat * 2 ^ (x.2 - d.2).toNat) / d.1.toNat
  else 65536 * x.1.toNat / (d.1.toNat * 2 ^ (d.2 - x.2).toNat)

/-- OUT's narrowing: OFMT, ORND and the generator's word; the code and the flags raised. FP32 is the identity but for a NaN, which is the
canonical one and sets OUT_NAN (R83, R97). -/
def narrowOut (ofmt ornd r : Nat) (w : Word) : Nat × Nat :=
  let f := if ofmt = 0 then Fmt.bf16 else .fp16
  if ofmt = 2 then narrow .fp32 0 0 w
  else if ornd ≤ 1 then narrow f ornd 0 w
  else
    match fpOf w with
    | .fin n m e =>
      let lo := roundCode f .zero m e
      let low := toF32 f lo
      if f.maxCode < lo ∨ (lo = f.maxCode ∧ low ≠ fabs w) then narrow f 0 0 w
      else if low = fabs w then (signed f n lo, 0)
      else if r < stochF (fabs w) low (toF32 f (lo + 1)) then (signed f n (lo + 1), 0)
      else (signed f n lo, 0)
    | _ => narrow f 0 0 w

/-- One element while its program runs: the registers, what STM, STS and OUT gave, and the flags raised. -/
structure UpdElem where
  f : List Word := List.replicate 8 zero32
  stm : Word := 0
  sts : Option Word := none
  out : Nat := 0
  flags : Nat := 0
deriving DecidableEq, Repr

/-- What an element's program reads: the sum, master, state, step size, the constants, and the narrowing of OUT. -/
structure UpdIn where
  sum : Word
  master : Word
  state : Word
  lr : Word
  k : List Word
  ofmt : Nat
  ornd : Nat
  rnd : Nat
deriving DecidableEq, Repr

/-- One instruction of an update program (R324). A NaN that is loaded is held as the canonical one (R83). -/
def updInstr (c : UpdIn) (e : UpdElem) (v : Nat) : UpdElem :=
  let d := bitsOf v 27 25
  let a := e.f.getD (bitsOf v 24 22) 0
  let b := e.f.getD (bitsOf v 21 19) 0
  let x := e.f.getD (bitsOf v 18 16) 0
  let load (w : Word) : UpdElem := { e with f := setAt e.f d (canon32 w), flags := Nat.lor e.flags (readFlags w) }
  let res (r : Word × Nat) : UpdElem := { e with f := setAt e.f d r.1, flags := Nat.lor e.flags r.2 }
  match v / 2 ^ 28 with
  | 0x1 => load c.sum
  | 0x2 => load c.master
  | 0x3 => load c.state
  | 0x4 => load (c.k.getD (bitsOf v 2 0) 0)
  | 0x5 => load c.lr
  | 0x6 => res (fadd a b)
  | 0x7 => res (fsub a b)
  | 0x8 => res (fmul a b)
  | 0x9 => res (ffma a b x)
  | 0xA => res (fmax a b, 0)
  | 0xB => res (fmin a b, 0)
  | 0xC => res (frsqrt a)
  | 0xD => { e with stm := a }
  | 0xE => { e with sts := some a }
  | 0xF =>
    let r := narrowOut c.ofmt c.ornd c.rnd a
    { e with out := r.1, flags := Nat.lor e.flags r.2 }
  | _ => e

/-- The program on one element. -/
def updElem (prog : List Nat) (c : UpdIn) : UpdElem := prog.foldl (updInstr c) {}

/-! ## A segment (R322, R327 to R330, R332) -/

/-- An abort that the update unit raises at the root (R335). -/
def updAbort (s : State) (r : TreeRec) (g cause : Nat) : State :=
  abortTree (setFld s (updReg r.tree 0) 31 28 cause) r (settings s).moduleId g cause none

/-- Latches the committed step size for the whole of a step (R332). -/
def latchLr (s : State) (t : Nat) : State :=
  let s := setReg s (updReg t 0x14) (reg s (updReg t 0x10))
  setBit (setBit (setBit s (updReg t 0) 27 true) (updReg t 0) 26 false) UPD_STAT (16 + t) false

/-- Whether a tree's windows allow an update: MBASE is not 0, and every window that the program uses is mapped (R320, R322). -/
def windowsOk (s : State) (r : TreeRec) (ofmt : Nat) (state : Bool) : Bool :=
  let base (k : Nat) : Nat := nat64 s (updReg r.tree k)
  let half := r.segCount * 8192
  decide (base 0x20 ≠ 0) && mappedSlm (settings s) (base 0x20) (2 * half) && (!state || mappedSlm (settings s) (base 0x28) (2 * half)) &&
    (decide (base 0x30 = 0) || mappedSlm (settings s) (base 0x30) (2 * r.segCount * 2048 * fmtBytes ofmt))

/-- Runs the program over a segment whose operands are read, writes masters and state, and once both writes are complete sends the
parameters (R327). What follows where a line refuses a write is not stated: the step aborts with MASTER_UE, as where it cannot be read
(DESIGN CHOICE, log entry 117). -/
def runSegment (s : State) (r : TreeRec) (g : Nat) (sum : List Word) (nflags flags : Nat) (masters states : List Byte) : State :=
  let t := r.tree
  let w0 := slotWord s r.updProg 0
  let prog := (List.range (bitsOf w0 4 0)).map (fun i => slotWord s r.updProg (4 + i))
  let k := (List.range 8).map (fun i => reg s (UPD_SLOT r.updProg (20 + i)))
  let ofmt := bitsOf w0 9 8
  let cIn (i : Nat) : UpdIn :=
    { sum := sum.getD i 0, master := BitVec.ofNat 32 (fieldAt masters (4 * i) 4), state := BitVec.ofNat 32 (fieldAt states (4 * i) 4)
      lr := reg s (updReg t 0x14), k := k, ofmt := ofmt, ornd := bitsOf w0 13 12
      rnd := stochWord (regNat s (updReg t 0x1C)) (stepOf s t) g i }
  let es := (List.range 2048).map (fun i => updElem prog (cIn i))
  let half := r.segCount * 8192
  let at_ (base : Nat) : Nat := base + (1 - fld s (updReg t 0x4) 0 0) * half + (g - r.segFirst) * 8192
  let m := slmWrite s (at_ (nat64 s (updReg t 0x20))) (es.foldr (fun e l => leBytes 4 e.stm.toNat ++ l) [])
  let x := if es.any (fun e => e.sts.isSome) then
      slmWrite m.1 (at_ (nat64 m.1 (updReg t 0x28))) (es.foldr (fun e l => leBytes 4 (e.sts.getD 0).toNat ++ l) [])
    else (m.1, true)
  let s := x.1
  if !(m.2 && x.2) then interrupting (updAbort s r g 3) 3 allBits
  else
  let f := es.foldl (fun f e => Nat.lor f e.flags) 0
  let s := setFld s (updReg t 0) 7 0 (Nat.lor (fld s (updReg t 0) 7 0) f)
  let s := bump (add64 s UPD_SEGMENTS 1) (updReg t 0x38)
  let pkt : Packet := { ownPacket s r g flags (Nat.lor nflags f) 0 (es.foldr (fun e l => leBytes (fmtBytes ofmt) e.out ++ l) []) with fmt := ofmt }
  deliverParam (setTree s t { tree s t with sums := (tree s t).sums.drop 1 }) r pkt

/-- A segment at the root's update unit: the first sum that it has not taken. -/
def updateSegmentEff (s : State) (t g : Nat) : State :=
  match treeRec s t with
  | none => s
  | some r =>
    match (tree s t).sums with
    | [] => s
    | (h, sum, nflags, flags) :: _ =>
      if !r.root ∨ h ≠ g ∨ treeState s t = 4 ∨ treeState s t = 0 then s
      else
        let w0 := slotWord s r.updProg 0
        let ofmt := bitsOf w0 9 8
        let state := bitOf w0 16
        if !rbit s UPD_PROG_VALID r.updProg then updAbort s r g 2
        else if !windowsOk s r ofmt state then updAbort s r g 4
        else
          let first := !rbit s (updReg t 0) 27
          let s := if first ∧ !rbit s (updReg t 0) 26 then setFld s (updReg t 0) 7 0 0 else s
          if first ∧ regNat s (updReg t 0xC) ≠ stepOf s t then
            if rbit s (updReg t 0) 26 then s
            else
              let s := setTree s t { tree s t with lrWaitAt := s.tb }
              bump (setBit (setBit s (updReg t 0) 26 true) UPD_STAT (16 + t) true) UPD_STALE
          else
            let s := if first then latchLr s t else s
            let at_ (base : Nat) : Nat := base + fld s (updReg t 0x4) 0 0 * (r.segCount * 8192) + (g - r.segFirst) * 8192
            let m := readRange s (at_ (nat64 s (updReg t 0x20))) 8192
            let x := if state then readRange m.1 (at_ (nat64 s (updReg t 0x28))) 8192 else (m.1, some [])
            match m.2, x.2 with
            | some ms, some st => runSegment x.1 r g sum nflags flags ms st
            | _, _ => interrupting (updAbort x.1 r g 3) 3 allBits

/-- UPDATE_SEGMENT (R327). -/
def execUpdateSegment (tree seg : Nat) (s : State) : Host.Outcome State Fault Refusal :=
  ok (Sys2Proof.wellFormed (.updateSegment tree seg)) (updateSegmentEff s tree seg)

/-! ## The step size and its tag (R331, R333) -/

/-- A write of UPD_TREE_LR_TAG commits the pending value and the tag together; it releases a wait for its step, and one that lost to
the expiry counts. -/
def writeLrTag (s : State) (t v : Nat) : State :=
  let s := setNat (setReg s (updReg t 0x10) (reg s (updReg t 0x8))) (updReg t 0xC) v
  if (tree s t).lrExpired = some (s.tb, v) then bump s UPD_LATE_LR
  else if rbit s (updReg t 0) 26 ∧ v = stepOf s t then latchLr s t
  else s

/-- The wait for a step size expires: the root aborts the step with STALE_LR (R8, R9, R333). -/
def lrWaitEff (s : State) (t : Nat) : State :=
  match treeRec s t with
  | none => s
  | some r =>
    if rbit s (updReg t 0) 26 ∧ expired s (tree s t).lrWaitAt (regNat s (updReg t 0x18)) then
      let g := match (tree s t).sums with | (g, _) :: _ => g | [] => 0
      updAbort (setTree s t { tree s t with lrExpired := some (s.tb, stepOf s t) }) r g 1
    else s

/-- LR_WAIT_EXPIRY (R333). -/
def execLrWaitExpiry (tree : Nat) (s : State) : Host.Outcome State Fault Refusal :=
  ok (Sys2Proof.wellFormed (.lrWaitExpiry tree)) (lrWaitEff s tree)

/-- A write of UPD_TREE_CTRL.CUR or of a window base: accepted only where FAB_TREE_STEP is writable, and with the low 12 bits of a
base 0 (R321). -/
def writeUpdWindow (s : State) (t k v : Nat) : State :=
  let low := k == 0x20 || k == 0x28 || k == 0x30
  if (treeRec s t).isSome ∧ stepWritable s t ∧ !(low && decide (v % 4096 ≠ 0)) then
    setNat s (updReg t k) (if k = 0x4 then v % 2 else v)
  else accErr s

end Sys2Proof.Machine
end

