-- ==== Sys2Proof/Machine/Host.lean ====
section
/-! DEFINITION. The host interface: the link, controller resets, doorbells, fetching, queues, aborts and power states (13_host.md, R394 to
R421). -/
namespace Sys2Proof.Machine

/-! ## Controller resets (R397) -/

/-- A run whose undispatched kernels end with the re-form abort status, while those that run finish (R77 with DRAIN = 1, R397). -/
def drainRun (s : State) (id : Nat) : State :=
  let s := modRun s id (fun r => { r with tag := none, cancelled := stREFORM_ABORT
                                          kernels := updateWhere (fun k => k.status == 254) (fun k => { k with status := stREFORM_ABORT }) r.kernels })
  finishRun s id

/-- Work that the host started loses its command, which no completion will reach. -/
def dropTags (s : State) : State :=
  { s with grf := { s.grf with waiting := [], seqWaiting := []
                               runs := s.grf.runs.map (fun r => { r with tag := none })
                               seqs := s.grf.seqs.foldl (fun m e => Sparse.set {} m e.1 { e.2 with tag := none, postWait := false }) [] } }

/-- Sequences that only waited for their completion to be posted leave their entries (R177). -/
def freeEnding (s : State) : State :=
  foldState (fun s (e : Nat × Seq) => if e.2.state = 5 then setSeq s e.1 {} else s) s s.grf.seqs

/-- A test that a reset, an abort or a re-form ends is recorded with the result of the standard for its cause (R465, log entry 28). -/
def abortSelfTest (s : State) (result : Nat) : State :=
  if s.host.selfTest = 0 then s
  else { s with host := { s.host with selfTest := 0, selfTestSeg := 0, selfTestFail := 0, selfTestTile := none
                                      selfTestLog := ((s.host.selfTest, result, 0) :: s.host.selfTestLog).take 20 } }

/-- A controller reset, steps 1 to 8 of R397. -/
def controllerReset (s : State) : State :=
  let s := abortSelfTest s 2
  let s := freeEnding (dropTags s)
  let h := s.host
  let s := { s with host := { h with enabled := false, ready := false, shst := 0, sqs := [], cqs := [], ctxs := [], waitingCqes := []
                                     aers := [], events := [], held := [], features := [], errors := h.errors } }
  let s := foldState (fun s (r : Run) => drainRun s r.id) s (s.grf.runs.filter (fun r => r.job.isNone))
  let s := abortQueries (abortJobs (abortSeqs s))
  let s := setNat (setNat (setNat s TIER_MQ_SIZE 0) (scnReg 0 0x18) 0) (srcReg 0 0x18) 0
  { s with fabric := { s.fabric with trees := s.fabric.trees.foldl (fun m t => Sparse.set {} m t.1 { t.2 with posted := [] }) [] } }

/-- FLR (R397). -/
def execFlr (s : State) : Host.Outcome State Fault Refusal := ok true (controllerReset s)

/-- HOT_RESET (R397). -/
def execHotReset (s : State) : Host.Outcome State Fault Refusal := ok true (controllerReset s)

/-- DL_DOWN (R394). -/
def execDlDown (s : State) : Host.Outcome State Fault Refusal :=
  let t := bump (controllerReset s) HST_LINK_DOWN
  ok true (setFld { t with host := { t.host with retraining := false } } HST_LINK 31 23 0)

/-- CC.EN written from 1 to 0. -/
def disableEff (s : State) : State := if s.host.enabled then controllerReset s else s

/-- CONTROLLER_DISABLE (R397). -/
def execControllerDisable (s : State) : Host.Outcome State Fault Refusal := ok true (disableEff s)

/-- CC.EN written to 1, with CC.CRIME: BAR0 answers from core step 3 (R398, R444). -/
def enableEff (s : State) (crime : Bool) : State :=
  if s.power.configReady ∧ !s.host.enabled then showRdy { s with host := { s.host with enabled := true, crime := crime } } else s

/-- CONTROLLER_ENABLE (R398). -/
def execControllerEnable (crime : Bool) (s : State) : Host.Outcome State Fault Refusal := ok true (enableEff s crime)

/-! ## The link (R392 to R395) -/

/-- LINK_RETRAIN (R394): host transfers are held. -/
def execLinkRetrain (s : State) : Host.Outcome State Fault Refusal :=
  let t := bump s HST_RETRAINS
  ok true { t with host := { t.host with retraining := true } }

/-- The link has reached L0 at a rate and width: completions and transfers that waited go on (R394). -/
def linkUpEff (s : State) (gen width : Nat) (flit : Bool) : State :=
  let s := setBit (setFld (setFld s HST_LINK 31 28 gen) HST_LINK 27 24 width) HST_LINK 23 flit
  if s.host.retraining then
    let s := { s with host := { s.host with retraining := false } }
    resumeHeld (postWaiting s.host.waitingCqes.length s)
  else s

/-- LINK_UP: rates 5 to 7 and widths of 1, 2, 4 or 8 (R29, R394). -/
def execLinkUp (gen width : Nat) (flit : Bool) (s : State) : Host.Outcome State Fault Refusal :=
  ok (decide (gen < 8) && decide (width ≤ 8))
    (if (gen = 5 ∨ gen = 6 ∨ gen = 7) ∧ (width = 1 ∨ width = 2 ∨ width = 4 ∨ width = 8) then linkUpEff s gen width flit else s)

/-- A host transfer fails: nothing of it is written, and its command ends with Data Transfer Error (R395). -/
def transferFails (s : State) (tag : CmdTag) : State :=
  let s := { s with host := { s.host with held := s.host.held.filter (fun h => h.tag != tag) } }
  fail (bump s HST_XFER_ERR) tag 0 0x04 0

/-- POISONED_TLP (R395). -/
def execPoisonedTlp (tag : CmdTag) (s : State) : Host.Outcome State Fault Refusal :=
  ok (Sys2Proof.wellFormed (.poisonedTlp tag)) (transferFails s tag)

/-- COMPLETION_TIMEOUT (R395). -/
def execCompletionTimeout (tag : CmdTag) (s : State) : Host.Outcome State Fault Refusal :=
  ok (Sys2Proof.wellFormed (.completionTimeout tag)) (transferFails s tag)

/-- HOST_READ_COMPLETION_ERROR (R395). -/
def execHostReadCompletionError (tag : CmdTag) (s : State) : Host.Outcome State Fault Refusal :=
  ok (decide (tag.sq ≤ 256 ∧ tag.cid < 65536)) (transferFails s tag)

/-! ## Doorbells and fetching (R409, R410) -/

/-- A submission queue. -/
def findSq (s : State) (id : Nat) : Option SubQueue := s.host.sqs.find? (fun q => q.id == id)

/-- A submission queue tail doorbell: a value outside the queue is reported as NVMe reports it (log entry 28). -/
def sqTailEff (s : State) (sq tail : Nat) : State :=
  match findSq s sq with
  | none => wakeUp s
  | some q =>
    if tail < q.size then
      wakeUp { s with host := { s.host with sqs := updateWhere (fun x => x.id == sq) (fun x => { x with tail := tail }) s.host.sqs } }
    else raiseEvent s 0 1 1

/-- SQ_TAIL_DOORBELL (R409). -/
def execSqTailDoorbell (sq tail : Nat) (s : State) : Host.Outcome State Fault Refusal :=
  ok (Sys2Proof.wellFormed (.sqTailDoorbell sq tail)) (sqTailEff s sq tail)

/-- Serving sequences whose completion has been posted leave their entries (R177, R470). -/
def freePosted (s : State) : State :=
  foldState (fun s (e : Nat × Seq) =>
    if e.2.state = 5 ∧ e.2.postWait ∧ !s.host.waitingCqes.any (fun c => some c.tag == e.2.tag) then setSeq s e.1 {} else s) s s.grf.seqs

/-- A completion queue head doorbell: freed entries take the completions that waited. -/
def cqHeadEff (s : State) (cq head : Nat) : State :=
  match s.host.cqs.find? (fun c => c.id == cq) with
  | none => s
  | some c =>
    if head < c.size then
      let s := { s with host := { s.host with cqs := updateWhere (fun x => x.id == cq) (fun x => { x with head := head }) s.host.cqs } }
      freePosted (postWaiting s.host.waitingCqes.length s)
    else raiseEvent s 0 1 1

/-- CQ_HEAD_DOORBELL (R410). -/
def execCqHeadDoorbell (cq head : Nat) (s : State) : Host.Outcome State Fault Refusal :=
  ok (Sys2Proof.wellFormed (.cqHeadDoorbell cq head)) (cqHeadEff s cq head)

/-- Whether the admin command set has an opcode (R404, R459; the opcodes are NVMe's, log entry 28). -/
def adminOpcode (recovery : Bool) (o : Nat) : Bool :=
  if recovery then [0x02, 0x06, 0x10, 0x11].contains o
  else [0x00, 0x01, 0x02, 0x04, 0x05, 0x06, 0x08, 0x09, 0x0A, 0x0C, 0x10, 0x11, 0x14, 0x80].contains o

/-- Whether the command set of a namespace has an opcode: of the other two sets NVMe 2.1 gives the numbers, which this manual does not
repeat, so each is taken. -/
def ioOpcode (nsid o : Nat) : Bool := nsid == 129 || nsid == 130 || [0x00, 0x01, 0x02, 0x08, 0x09].contains o

/-- The most fetched commands that the device holds (R409). -/
def ctxLimit : Nat := 65536

/-- Fetches a command of a queue and admits it: it waits while the contexts are used up, its completion queue is full or commands are held;
an opcode that is not supported ends at once (R404). -/
def fetchEff (s : State) (tag : CmdTag) (opcode nsid first count : Nat) : State :=
  let full : Bool := match cqOf s tag.sq with | some c => cqFull c | none => false
  let empty : Bool := match findSq s tag.sq with | some q => q.fetched == q.tail | none => false
  if !s.host.enabled || full || empty || transfersHeld s || decide (ctxLimit ≤ s.host.ctxs.length) || s.host.ctxs.any (fun c => c.tag == tag) then s
  else
    let sqs := updateWhere (fun q => q.id == tag.sq) (fun q => { q with fetched := (q.fetched + 1) % q.size }) s.host.sqs
    let s := { s with host := { s.host with sqs := sqs, ctxs := s.host.ctxs ++
      [{ tag := tag, opcode := opcode, nsid := nsid, first := first, count := count }] } }
    if (if tag.sq = 0 then adminOpcode s.power.recovery opcode else ioOpcode nsid opcode) then s else fail s tag 0 0x01 1

/-- COMMAND_FETCH (R409). -/
def execCommandFetch (tag : CmdTag) (opcode nsid first count : Nat) (s : State) : Host.Outcome State Fault Refusal :=
  ok (Sys2Proof.wellFormed (.commandFetch tag opcode nsid first count)) (fetchEff s tag opcode nsid first count)

/-! ## Queues (R408; statuses of NVMe, log entry 28) -/

/-- Runs an admin command where the device is not in recovery (R459). -/
def adminCmd (s : State) (tag : CmdTag) (t : State) : State := if s.power.recovery then fail s tag 0 0x01 1 else t

/-- Create I/O Completion Queue. -/
def createCq (s : State) (tag : CmdTag) (qid size vector : Nat) : State :=
  if qid = 0 ∨ 256 < qid ∨ s.host.cqs.any (fun c => c.id == qid) then fail s tag 1 0x01 1
  else if size < 2 ∨ 4096 < size then fail s tag 1 0x02 1
  else if 256 < vector then fail s tag 1 0x08 1
  else complete { s with host := { s.host with cqs := s.host.cqs ++ [{ id := qid, size := size, vector := vector }] } } tag 0

/-- CREATE_IO_COMPLETION_QUEUE (R408). -/
def execCreateIoCompletionQueue (tag : CmdTag) (qid size vector : Nat) (s : State) : Host.Outcome State Fault Refusal :=
  ok (Sys2Proof.wellFormed (.createIoCompletionQueue tag qid size vector)) (adminCmd s tag (createCq s tag qid size vector))

/-- Create I/O Submission Queue. -/
def createSq (s : State) (tag : CmdTag) (qid size cqid : Nat) : State :=
  if !s.host.cqs.any (fun c => c.id == cqid) ∨ cqid = 0 then fail s tag 1 0x00 1
  else if qid = 0 ∨ 256 < qid ∨ (findSq s qid).isSome then fail s tag 1 0x01 1
  else if size < 2 ∨ 4096 < size then fail s tag 1 0x02 1
  else complete { s with host := { s.host with sqs := s.host.sqs ++ [{ id := qid, size := size, cq := cqid }] } } tag 0

/-- CREATE_IO_SUBMISSION_QUEUE (R408). -/
def execCreateIoSubmissionQueue (tag : CmdTag) (qid size cqid : Nat) (s : State) : Host.Outcome State Fault Refusal :=
  ok (Sys2Proof.wellFormed (.createIoSubmissionQueue tag qid size cqid)) (adminCmd s tag (createSq s tag qid size cqid))

/-- Delete I/O Submission Queue: commands of it that still wait end with it. -/
def deleteSq (s : State) (tag : CmdTag) (qid : Nat) : State :=
  if qid = 0 ∨ (findSq s qid).isNone then fail s tag 1 0x01 1
  else
    let mine := s.host.held.filter (fun h => h.tag.sq == qid)
    let s := { s with host := { s.host with held := s.host.held.filter (fun h => h.tag.sq != qid) } }
    let s := foldState (fun s (h : Held) => endQuiet s h.tag 0 0x08 0) s mine
    complete { s with host := { s.host with sqs := s.host.sqs.filter (fun q => q.id != qid) } } tag 0

/-- DELETE_IO_SUBMISSION_QUEUE (R408). -/
def execDeleteIoSubmissionQueue (tag : CmdTag) (qid : Nat) (s : State) : Host.Outcome State Fault Refusal :=
  ok (Sys2Proof.wellFormed (.deleteIoSubmissionQueue tag qid)) (adminCmd s tag (deleteSq s tag qid))

/-- Delete I/O Completion Queue. -/
def deleteCq (s : State) (tag : CmdTag) (qid : Nat) : State :=
  if qid = 0 ∨ !s.host.cqs.any (fun c => c.id == qid) then fail s tag 1 0x01 1
  else if s.host.sqs.any (fun q => q.cq == qid) then fail s tag 1 0x0C 1
  else complete { s with host := { s.host with cqs := s.host.cqs.filter (fun c => c.id != qid) } } tag 0

/-- DELETE_IO_COMPLETION_QUEUE (R408). -/
def execDeleteIoCompletionQueue (tag : CmdTag) (qid : Nat) (s : State) : Host.Outcome State Fault Refusal :=
  ok (Sys2Proof.wellFormed (.deleteIoCompletionQueue tag qid)) (adminCmd s tag (deleteCq s tag qid))

/-- Abort (R416): dword 0 reads 0 where the target was aborted and 1 where it was not. -/
def abortCmd (s : State) (tag target : CmdTag) : State :=
  if s.host.held.any (fun h => h.tag == target) ∧ !s.host.ctxs.any (fun c => c.tag == target) then
    let s := { s with host := { s.host with held := s.host.held.filter (fun h => h.tag != target) } }
    complete (endQuiet s target 0 0x07 0) tag 0
  else
    let r := abortExecute s target
    complete r.1 tag (one !r.2)

/-- ABORT (R416). -/
def execAbort (tag target : CmdTag) (s : State) : Host.Outcome State Fault Refusal :=
  ok (Sys2Proof.wellFormed (.abort tag target)) (adminCmd s tag (abortCmd s tag target))

/-- Asynchronous Event Request: up to 8 outstanding (R407); a ninth is refused as NVMe refuses it. -/
def aerCmd (s : State) (tag : CmdTag) : State :=
  match s.host.events with
  | e :: es => complete { s with host := { s.host with events := es } } tag (e.type + 256 * e.info + 65536 * e.log)
  | [] => if 8 ≤ s.host.aers.length then fail s tag 1 0x05 1 else { s with host := { s.host with aers := s.host.aers ++ [tag] } }

/-- ASYNCHRONOUS_EVENT_REQUEST (R407). -/
def execAsynchronousEventRequest (tag : CmdTag) (s : State) : Host.Outcome State Fault Refusal :=
  ok (Sys2Proof.wellFormed (.asynchronousEventRequest tag)) (adminCmd s tag (aerCmd s tag))

/-! ## Power states (R417 to R421) -/

/-- Whether a ring has no descriptor that waits: its head has reached its tail, or a SIZE of 0 disables it (R397). -/
def ringDone (s : State) (size tail head : Nat) : Bool := fld s size 16 0 == 0 || regNat s tail == regNat s head

/-- Whether no descriptor of a ring is unfinished: none waits, and every one that started has ended. -/
def ringsDone (s : State) : Bool :=
  ringDone s TIER_MQ_SIZE TIER_MQ_TAIL TIER_MQ_HEAD && s.mover.moves.all (fun m => m.status.isSome) &&
  ringDone s (scnReg 0 0x18) (scnReg 0 0x1C) (scnReg 0 0x20) && s.scan.jobs.all (·.done) &&
  ringDone s (srcReg 0 0x18) (srcReg 0 0x1C) (srcReg 0 0x20) && s.search.queries.all (·.done)

/-- Whether the device is idle (R419). -/
def deviceIdle (s : State) : Bool :=
  s.host.ctxs.isEmpty && s.host.held.isEmpty && s.host.waitingCqes.isEmpty && s.grf.runs.isEmpty && s.grf.waiting.isEmpty &&
  s.grf.seqs.all (fun e => e.2.state == 0) && s.grf.seqWaiting.isEmpty && ringsDone s && !rbit s FAB_PEER_STAT 30 &&
  (settings s).trees.all (fun r => treeState s r.tree != 2)

/-- Whether a port of role 1 or 2 is up, which keeps the device out of PS4 (R419). -/
def portsInUse (s : State) : Bool :=
  (List.range 16).any (fun p => (portRole s p == 1 || portRole s p == 2) && portState s p == 3)

/-- The present state. -/
def psNow (s : State) : Nat := fld s HST_PS 2 0

/-- Begins the entry to a non-operational state (R419, R420). -/
def beginEntry (s : State) (target : Nat) : State :=
  let t := if target = 4 ∧ portsInUse s then 3 else target
  if deviceIdle s ∧ !rbit s HST_PS 3 ∧ !s.host.exiting ∧ t ≠ psNow s ∧ (t = 3 ∨ t = 4) then
    setBit { s with host := { s.host with psTarget := t, psWant := none, wake := false } } HST_PS 3 true
  else s

/-- An APST idle timer expires: it acts only through the host's table (R421). -/
def apstEff (s : State) (target : Nat) : State :=
  let entry := s.host.apst.getD (psNow s) (0, 0)
  if rbit s HST_PS 4 ∧ entry.2 ≠ 0 ∧ entry.1 = target then beginEntry s target else s

/-- APST_IDLE_TIMER_EXPIRY (R420). -/
def execApstIdleTimerExpiry (target : Nat) (s : State) : Host.Outcome State Fault Refusal :=
  ok (Sys2Proof.wellFormed (.apstIdleTimerExpiry target)) (apstEff s target)

/-- The entry has completed; in PS4 CLKREQ# is released (R393); a submission that came meanwhile starts the exit (R420). -/
def psEntered (s : State) : State :=
  if rbit s HST_PS 3 then
    let s := setBit (setFld (setBit s HST_PS 3 false) HST_PS 2 0 s.host.psTarget) HST_LINK 22 (decide (s.host.psTarget = 4))
    if s.host.wake ∨ !s.host.held.isEmpty then { s with host := { s.host with wake := false, exiting := true } } else s
  else s

/-- POWER_STATE_ENTRY_DONE (R420). -/
def execPowerStateEntryDone (s : State) : Host.Outcome State Fault Refusal := ok true (psEntered s)

/-- The exit to the last operational state has completed, and commands that were held go on. -/
def psExited (s : State) : State :=
  if s.host.exiting then
    resumeHeld (setBit (setFld { s with host := { s.host with exiting := false } } HST_PS 2 0 (fld s HST_PS 10 8)) HST_LINK 22 false)
  else s

/-- POWER_STATE_EXIT_DONE (R420). -/
def execPowerStateExitDone (s : State) : Host.Outcome State Fault Refusal := ok true (psExited s)

end Sys2Proof.Machine
end

