-- ==== Sys2Proof/Machine/Admin.lean ====
section
/-! DEFINITION. The admin commands that return or set data: Identify, features, log pages, firmware, Format NVM and Device Self-test
(13_host.md, R399 to R407; 15_start_identity.md, R452 to R459, R465). Where this manual names a data structure of NVMe 2.1, its offsets
are NVMe's, and a byte that this manual does not state is a free value (log entry 28). -/
namespace Sys2Proof.Machine

/-- Puts fields over a string of bytes. -/
def overlay (base : List Byte) : List (Nat × List Byte) → List Byte
  | [] => base
  | (off, l) :: t => overlay (base.take off ++ l ++ base.drop (off + l.length)) t

/-- Completes a command with `n` bytes of data: the fields that the manual states over free bytes. -/
def giveData (s : State) (tag : CmdTag) (n : Nat) (fields : List (Nat × List Byte)) : State :=
  let s' := { s with fresh := s.fresh + n }
  complete (emit s' (.data tag ((overlay (freeBytes s.fresh n) fields).take n))) tag 0

/-- Completes a command with `n` bytes of data of which every byte that is not listed is zero. -/
def giveZeros (s : State) (tag : CmdTag) (n : Nat) (fields : List (Nat × List Byte)) : State :=
  complete (emit s (.data tag ((overlay (List.replicate n 0) fields).take n))) tag 0

/-- The image in a firmware slot. -/
def fwSlot (s : State) (n : Nat) : Option FwImage := if n = 1 then s.nv.fw1 else if n = 2 then s.nv.fw2 else none

/-- The image that runs. -/
def fwRunning (s : State) : Option FwImage := fwSlot s s.power.fwSlot

/-! ## Identify (R399 to R403) -/

/-- NSIDs that exist (R400). -/
def activeNs (s : State) : List Nat :=
  (List.range 128).filterMap (fun i => if (nsRegion s (i + 1)).isSome then some (i + 1) else none) ++ [129, 130]

/-- ASCII characters as bytes. -/
def ascii (l : List Char) : List Byte := l.map (fun c => BitVec.ofNat 8 c.toNat)

/-- Identify Controller. -/
def idController (s : State) : List (Nat × List Byte) :=
  [(0, leBytes 2 0x1F3A), (2, leBytes 2 0x1F3A), (4, (s.nv.serial ++ List.replicate 20 0).take 20), (77, [9]), (80, leBytes 4 0x20100),
   (258, [7]), (259, [7]), (260, leBytes 1 4), (262, [255]), (263, [4]), (265, [1]), (266, leBytes 2 368), (268, leBytes 2 378),
   (316, leBytes 2 25), (319, [1]), (512, [0x66]), (513, [0x44]), (516, leBytes 4 (if s.power.recovery then 0 else 130)),
   (525, [0]), (526, leBytes 2 0), (528, leBytes 2 0),
   (2048, leBytes 2 0xFFFF ++ leBytes 2 0), (2080, leBytes 2 0xFFFF ++ leBytes 2 0 ++ leBytes 4 1000 ++ leBytes 4 1000),
   (2112, leBytes 2 0xFFFF ++ leBytes 2 0 ++ leBytes 4 1000 ++ leBytes 4 1000),
   (2144, leBytes 2 45000 ++ leBytes 2 0x200 ++ leBytes 4 2000 ++ leBytes 4 5000),
   (2176, leBytes 2 8000 ++ leBytes 2 0x200 ++ leBytes 4 20000 ++ leBytes 4 150000)] ++
  (if s.power.recovery then [(64, ascii ['R', 'E', 'C', 'O', 'V', 'E', 'R', 'Y'])] else [])

/-- Mapped blocks of a region: its units that have a place or wait in a write buffer (R401). -/
def mappedBlocks (s : State) (r : Region) : Nat :=
  4 * sumNat ((packagesOf r.spMask).map (fun p =>
    let x := pkg s p
    let lo := unitsBefore p r s.nv.layout
    let mine (u : Nat) : Bool := decide (lo ≤ u) && decide (u < lo + r.sizeGib * 65536)
    (((x.map.map (·.1)) ++ x.wbuf.map (·.lunit) ++ x.heldFlushed.map (·.lunit)).filter mine).eraseDups.length))

/-- Identify Namespace of an NVM namespace (R401). -/
def idNamespace (s : State) (r : Region) : List (Nat × List Byte) :=
  [(0, leBytes 8 (regionBlocks r)), (8, leBytes 8 (regionBlocks r)), (16, leBytes 8 (mappedBlocks s r)), (24, [0]), (25, [0]), (26, [0]),
   (27, [0]), (28, [0]), (29, [0]), (33, [1]), (102, leBytes 2 r.egrp), (128, [0, 0, 12, 0])]

/-- Reports the compute engine and the program slots beside the data of an Identify, whose bytes another standard lays out (R142; log entry
129). -/
def reportCompute (s : State) (tag : CmdTag) : State := emit s (.computeReport tag 1 256)

/-- Identify: the controller, a namespace, the active namespaces, or the command sets (PRESUMED, NVMe's CNS values). -/
def identifyCmd (s : State) (tag : CmdTag) (cns nsid : Nat) : State :=
  if cns = 1 then giveData s tag 4096 (idController s)
  else if s.power.recovery then fail s tag 0 0x02 1
  else if cns = 0 ∨ cns = 5 then
    match nsRegion s nsid with
    | some r => giveData s tag 4096 (idNamespace s r)
    | none =>
      if otherSet nsid then giveData (if nsid = 129 then reportCompute s tag else s) tag 4096 [] else fail s tag 0 0x0B 1
  else if cns = 2 then
    giveZeros s tag 4096 [(0, ((activeNs s).filter (fun n => decide (nsid < n))).foldl (fun l n => l ++ leBytes 4 n) [])]
  else if cns = 6 ∨ cns = 8 ∨ cns = 0x1C then giveData (if nsid = 130 then s else reportCompute s tag) tag 4096 []
  else fail s tag 0 0x02 1

/-- IDENTIFY (R400). -/
def execIdentify (tag : CmdTag) (cns nsid : Nat) (s : State) : Host.Outcome State Fault Refusal :=
  ok (Sys2Proof.wellFormed (.identify tag cns nsid)) (identifyCmd s tag cns nsid)

/-! ## Features (R406) -/

/-- Features that hold a plain value. -/
def plainFeature (fid : Nat) : Bool := [0x01, 0x04, 0x08, 0x09, 0x0B].contains fid

/-- A plain feature's value. The over-temperature threshold starts at WCTEMP (log entry 28). -/
def featureNow (s : State) (fid : Nat) : Nat := Sparse.get (if fid = 4 then 368 else 0) s.host.features fid

/-- Get Features. -/
def getFeatureCmd (s : State) (tag : CmdTag) (fid : Nat) : State :=
  if plainFeature fid then complete s tag (featureNow s fid)
  else if fid = 2 then complete s tag (psNow s)
  else if fid = 7 then complete s tag 0x00FF00FF
  else if fid = 0x0C then
    let table := ((List.range 32).map (fun i => s.host.apst.getD i (0, 0))).foldl (fun l e => l ++ leBytes 8 (e.1 % 32 * 8 + e.2 % 2 ^ 24 * 256)) []
    complete (emit s (.data tag table)) tag (one (rbit s HST_PS 4))
  else fail s tag 0 0x02 1

/-- GET_FEATURES (R406). -/
def execGetFeatures (tag : CmdTag) (fid : Nat) (s : State) : Host.Outcome State Fault Refusal :=
  ok (Sys2Proof.wellFormed (.getFeatures tag fid)) (adminCmd s tag (getFeatureCmd s tag fid))

/-- Sets the power state: an operational one at once, another when the device is idle (R417, R419). -/
def setPowerState (s : State) (tag : CmdTag) (ps : Nat) : State :=
  if 4 < ps then fail s tag 0 0x02 1
  else if ps ≤ 2 then
    let t := { s with host := { s.host with psWant := none } }
    let t := setFld t HST_PS 10 8 ps
    if 3 ≤ psNow s then wakeUp (complete t tag 0) else complete (setFld t HST_PS 2 0 ps) tag 0
  else
    let t := complete s tag 0
    beginEntry { t with host := { t.host with psWant := some ps } } ps

/-- Set Features. -/
def setFeatureCmd (s : State) (tag : CmdTag) (fid dw11 : Nat) (apst : List (Nat × Nat)) : State :=
  if plainFeature fid then
    complete { s with host := { s.host with features := Sparse.set (if fid = 4 then 368 else 0) s.host.features fid dw11 } } tag 0
  else if fid = 2 then setPowerState s tag (dw11 % 32)
  else if fid = 7 then complete s tag 0x00FF00FF
  else if fid = 0x0C then complete (setBit { s with host := { s.host with apst := apst } } HST_PS 4 (bitOf dw11 0)) tag 0
  else fail s tag 0 0x02 1

/-- SET_FEATURES (R406). -/
def execSetFeatures (tag : CmdTag) (fid dw11 : Nat) (apst : List (Nat × Nat)) (s : State) : Host.Outcome State Fault Refusal :=
  ok (Sys2Proof.wellFormed (.setFeatures tag fid dw11 apst)) (adminCmd s tag (setFeatureCmd s tag fid dw11 apst))

/-! ## Log pages (R363, R374, R386, R405) -/

/-- An entry of the ledger or of the media loss log: bytes 0x15 and 0x16 hold the channels in the latter and are 0 in the former. -/
def lossBytes (media : Bool) (e : LossRec) : List Byte :=
  leBytes 4 e.event ++ leBytes 1 e.cause ++ leBytes 1 e.flags ++ leBytes 1 e.regionType ++ leBytes 1 e.regionId ++ leBytes 8 e.block ++
  leBytes 4 e.count ++ leBytes 1 e.package ++ (if media then leBytes 1 e.chanA ++ leBytes 1 e.chanB ++ [0] else [0, 0, 0]) ++ leBytes 8 e.stamp

/-- A loss log with its 64-byte header (R363). -/
def lossLogBytes (media : Bool) (l : LossLog) : List Byte :=
  leBytes 4 l.entries.length ++ leBytes 4 l.events ++ leBytes 8 l.blocks ++ leBytes 1 (one l.overflow) ++ List.replicate 47 0 ++
  l.entries.foldl (fun b e => b ++ lossBytes media e) []

/-- An endurance group's figures over the fitted packages (R374). -/
def mediaEntry (s : State) (g : Nat) : List Byte :=
  if (settings s).egrpCount ≤ g then List.replicate 64 0
  else
    let ps := (List.range s.build.sp).map (fun p => pkg s p)
    let tot (f : Package → List Nat) : Nat := sumNat (ps.map (fun x => (f x).getD g 0))
    let st := ps.map (fun x => eraseStats x g)
    let n := sumNat (st.map (·.1))
    let avg := if n = 0 then 0 else sumNat (st.map (fun e => e.2.1)) / n
    let day := 8640000000000
    let recent (refresh : Bool) : Nat := sumNat (ps.map (fun x => sumNat ((x.recent.filter (fun r =>
      r.2.1 == g && r.2.2.1 == refresh && decide (s.faults.ticked - r.1 < day))).map (fun r => r.2.2.2))))
    let ratio := if recent false = 0 then 0xFFFFFFFF else min 0xFFFFFFFF (recent true * 256 / recent false)
    let halves := ((List.range s.build.sp).filter (egrpIn s g)).flatMap (fun p => [sparePct s p 0, sparePct s p 1])
    leBytes 8 (tot (·.hostBytes)) ++ leBytes 8 (tot (·.refreshBytes)) ++ leBytes 8 (tot (·.gcBytes)) ++ leBytes 4 ratio ++
    leBytes 2 avg ++ leBytes 2 ((st.map (fun e => e.2.2.1)).foldl max 0) ++
    leBytes 2 (((st.filter (fun e => e.1 != 0)).map (fun e => e.2.2.2)).foldl min (((st.filter (fun e => e.1 != 0)).map (fun e => e.2.2.2)).headD 0)) ++
    leBytes 1 (min 255 (avg * 100 / 1500)) ++ leBytes 1 (halves.foldl min (halves.headD 100)) ++
    leBytes 1 ((ps.map (fun x => x.stage.getD g 0)).foldl max 0) ++ List.replicate 27 0

/-- The highest compute-die temperature, in kelvin (R405). -/
def compositeK (s : State) : Nat :=
  273 + ((List.range 8).map (fun d => fld s (if d < 4 then LED_TEMP0 else LED_TEMP1) (d % 4 * 8 + 7) (d % 4 * 8))).foldl max 0

/-- Critical Warning (R381, R436, R510): the endurance bits, temperature and volatile memory backup. -/
def criticalNow (s : State) : Nat :=
  Nat.lor s.host.critical (Nat.lor (if rbit s LED_STAT 27 then 2 else 0) (if rbit s LED_STAT 31 then 16 else 0))

/-- ALERT# is asserted while a Critical Warning bit is set or a health status change is latched (R423). -/
def showAlert (s : State) : State := setBit s HST_MI_STAT 31 (s.host.healthChange || criticalNow s != 0)

/-- An entry of the Error Information log page. -/
def errorBytes (i : Nat) (e : CmdTag × Nat × Nat × Nat) : List Byte :=
  leBytes 8 (i + 1) ++ leBytes 2 e.1.sq ++ leBytes 2 e.1.cid ++ leBytes 2 ((e.2.1 * 256 + e.2.2.1) * 2) ++ leBytes 2 0 ++ leBytes 8 e.2.2.2 ++ List.replicate 40 0

/-- What Commands Supported and Effects says of the admin commands, four bytes each: CSUPP of those that R404 supports, and nothing of the others.
What a supported command's other bits say is free. -/
def effectsFields (s : State) : List (Nat × List Byte) :=
  (List.range 256).map (fun o =>
    if adminOpcode s.power.recovery o then (4 * o, [Config.freeByte (s.fresh + 4 * o) ||| 1]) else (4 * o, [0, 0, 0, 0]))

/-- Get Log Page, and with bit 0 of the Log Specific Field the clearing of the two loss logs once they have been returned. -/
def logPageCmd (s : State) (tag : CmdTag) (lid lsp nsid : Nat) : State :=
  if s.power.recovery ∧ lid ≠ 1 ∧ lid ≠ 3 then fail s tag 0 0x02 1
  else if lid = 0x01 then
    let n := s.host.errors.length
    let l := (s.host.errors.zip (List.range n)).foldl (fun b e => b ++ errorBytes (n - 1 - e.2) e.1) []
    giveZeros s tag 16384 [(0, l)]
  else if lid = 0x02 then giveData s tag 512 [(0, leBytes 1 (criticalNow s)), (1, leBytes 2 (compositeK s)), (4, [10])]
  else if lid = 0x03 then giveData s tag 512 [(0, leBytes 1 (s.nv.fwActive + 16 * s.nv.fwPending))]
  else if lid = 0x04 then
    let l := s.host.changedNs.foldl (fun b n => b ++ leBytes 4 n) []
    let t := giveZeros s tag 4096 [(0, l)]
    { t with host := { t.host with changedNs := [] } }
  else if lid = 0x05 then giveData s tag 4096 (effectsFields s)
  else if lid = 0x06 then
    giveData s tag 564 ((0, leBytes 1 s.host.selfTest) :: ((s.host.selfTestLog.zip (List.range 20)).map (fun e =>
      (4 + 28 * e.2, leBytes 1 (e.1.2.1 + 16 * e.1.1) ++ leBytes 1 e.1.2.2))))
  else if lid = 0x09 then
    let l := mediaEntry s (nsid - 1)
    giveData s tag 512 [(3, (l.drop 0x23).take 1), (4, [10]), (5, (l.drop 0x22).take 1)]
  else if lid = 0xC1 then
    let l := lossLogBytes false s.nv.ledger
    let t := complete (emit s (.data tag l)) tag 0
    if bitOf lsp 0 then
      foldState (fun s p => setBit s (ftlReg p 0) 25 false) { t with nv := { t.nv with ledger := {} } } (List.range s.build.sp)
    else t
  else if lid = 0xC2 then giveZeros s tag 512 [(0, (List.range 8).foldl (fun b g => b ++ mediaEntry s g) [])]
  else if lid = 0xC3 then
    let l := lossLogBytes true s.nv.lossLog
    let t := complete (emit s (.data tag l)) tag 0
    if bitOf lsp 0 then { t with nv := { t.nv with lossLog := {} } } else t
  else fail s tag 1 0x09 1

/-- GET_LOG_PAGE (R405). -/
def execGetLogPage (tag : CmdTag) (lid lsp nsid : Nat) (s : State) : Host.Outcome State Fault Refusal :=
  ok (Sys2Proof.wellFormed (.getLogPage tag lid lsp nsid)) (logPageCmd s tag lid lsp nsid)

/-! ## Firmware (R452 to R459) -/

/-- The largest firmware image. -/
def fwMax : Nat := 67108864

/-- Firmware Image Download: a piece at a multiple of 4 KiB (R456). -/
def fwDownload (s : State) (tag : CmdTag) (off : Nat) (data : List Byte) : State :=
  if off % 4096 ≠ 0 ∨ data.length % 4 ≠ 0 ∨ data.isEmpty ∨ fwMax < off + data.length ∨ 2097152 < data.length then fail s tag 0 0x02 1
  else complete { s with host := { s.host with fwStage := Memory.setBytes s.host.fwStage off data
                                               fwStageLen := max s.host.fwStageLen (off + data.length) } } tag 0

/-- FIRMWARE_IMAGE_DOWNLOAD (R456). -/
def execFirmwareImageDownload (tag : CmdTag) (offset : Nat) (data : List Byte) (s : State) : Host.Outcome State Fault Refusal :=
  ok (Sys2Proof.wellFormed (.firmwareImageDownload tag offset data)) (fwDownload s tag offset data)

/-- The staged image as the checks of R453 see it. -/
def parseFw (img : List Byte) : FwImage :=
  let len := fieldAt img 0x10 4
  let form := decide (fieldAt img 0 4 = 0x464C5053) && decide (fieldAt img 4 2 = 1) && decide (len % 64 = 0) && decide (1152 ≤ len) &&
    decide (len ≤ fwMax) && decide (len ≤ img.length)
  let modulus := (img.drop 0x40).take 512
  let signed := img.take (len - 576)
  let digest := BitVec.ofNat 512 (fieldAt img (len - 576) 64)
  { series := fieldAt img 6 2, revision := fieldAt img 8 4, svn := fieldAt img 0xC 4, keyId := fieldAt img 0x14 4
    revoke := fieldAt img 0x18 1 % 16, formOk := form
    keyOk := decide (fieldAt img 0x14 4 < 4) && Config.sha512 modulus == Config.romKeyDigest (fieldAt img 0x14 4)
    digestOk := Config.sha512 signed == digest, sigOk := Config.rsaOk modulus signed ((img.drop (len - 512)).take 512), digest := digest }

/-- The first check of R453 that an image fails, as its NVMe status: 1h with 07h or 13h. -/
def fwFails (s : State) (f : FwImage) : Option Nat :=
  if !f.formOk then some 0x07
  else if 4 ≤ f.keyId ∨ bitOf s.nv.revokedKeys f.keyId ∨ !f.keyOk then some 0x07
  else if !f.digestOk ∨ !f.sigOk ∨ f.series ≠ 3 then some 0x07
  else if f.svn < s.nv.svnMin then some 0x13
  else none

/-- Shows the pending activation in GLB_BOOT (R454). -/
def showPending (s : State) : State := setFld (setBit s GLB_BOOT 28 (s.nv.fwPending != 0)) GLB_BOOT 27 26 s.nv.fwPending

/-- Stores an image in a slot. -/
def storeFw (s : State) (slot : Nat) (f : FwImage) : State :=
  { s with nv := if slot = 1 then { s.nv with fw1 := some f } else { s.nv with fw2 := some f } }

/-- Names a slot PENDING, or none. -/
def namePending (s : State) (slot : Nat) : State := showPending { s with nv := { s.nv with fwPending := slot } }

/-- Firmware Commit in recovery: both slots are written, and 100 ms later the core stage starts again with the image ACTIVE (R459). -/
def recoveryCommit (s : State) (tag : CmdTag) (action : Nat) : State :=
  if action ≠ 1 ∧ action ≠ 3 then fail s tag 0 0x02 1
  else
    let f := parseFw (Memory.bytes s.host.fwStage 0 s.host.fwStageLen)
    match fwFails s f with
    | some sc => fail s tag 1 sc 1
    | none =>
      let s := storeFw (storeFw s 1 f) 2 f
      let s := namePending { s with nv := { s.nv with fwActive := 1 } } 0
      complete { s with power := { s.power with restartPending := true } } tag 0

/-- Firmware Commit (R456). Slot 0 leaves the choice to the controller, which takes the slot that is not ACTIVE. -/
def fwCommit (s : State) (tag : CmdTag) (slot action : Nat) : State :=
  if s.power.recovery then recoveryCommit s tag action
  else
    let slot := if slot = 0 then (if s.nv.fwActive = 1 then 2 else 1) else slot
    if 2 < slot then fail s tag 1 0x06 1
    else if 3 < action then fail s tag 0 0x02 1
    else if action = 2 then
      if slot = s.nv.fwActive then complete (namePending s 0) tag 0
      else
        match fwSlot s slot with
        | none => fail s tag 1 0x07 1
        | some f => match fwFails s f with | some sc => fail s tag 1 sc 1 | none => complete (namePending s slot) tag 0
    else if slot = s.nv.fwActive then fail s tag 1 0x06 1
    else
      let f := parseFw (Memory.bytes s.host.fwStage 0 s.host.fwStageLen)
      match fwFails s f with
      | some sc => fail s tag 1 sc 1
      | none =>
        let s := storeFw s slot f
        if action = 0 then complete s tag 0
        else if action = 1 then complete (namePending s slot) tag 0
        else endQuiet (namePending s slot) tag 1 0x0B 0

/-- FIRMWARE_COMMIT (R456). -/
def execFirmwareCommit (tag : CmdTag) (slot action : Nat) (s : State) : Host.Outcome State Fault Refusal :=
  ok (Sys2Proof.wellFormed (.firmwareCommit tag slot action)) (fwCommit s tag slot action)

/-! ## Format NVM and Device Self-test (R404, R465) -/

/-- FORMAT_NVM (R404). -/
def execFormatNvm (tag : CmdTag) (nsid ses : Nat) (s : State) : Host.Outcome State Fault Refusal :=
  ok (Sys2Proof.wellFormed (.formatNvm tag nsid ses))
    (adminCmd s tag (formatCommand s { tag := tag, kind := kFormat, nsid := nsid, slba := 0, nlb := ses }))

/-- Device Self-test: a short or extended test begins with segment 1, or the test under way is aborted. -/
def selfTestCmd (s : State) (tag : CmdTag) (stc : Nat) : State :=
  if stc = 0xF then complete (abortSelfTest s 1) tag 0
  else if stc ≠ 1 ∧ stc ≠ 2 then fail s tag 0 0x02 1
  else if s.host.selfTest ≠ 0 then fail s tag 1 0x1D 0
  else complete { s with host := { s.host with selfTest := stc, selfTestSeg := 1, selfTestFail := 0 } } tag 0

/-- DEVICE_SELF_TEST (R465). -/
def execDeviceSelfTest (tag : CmdTag) (stc : Nat) (s : State) : Host.Outcome State Fault Refusal :=
  ok (Sys2Proof.wellFormed (.deviceSelfTest tag stc)) (adminCmd s tag (selfTestCmd s tag stc))

end Sys2Proof.Machine
end

