-- ==== Sys2Proof/Machine/Power.lean ====
section
/-! DEFINITION. The loss of power: the sequence of R354 in every package, PWRDIS, the overcurrent shutdown and the thermal trip, and what
the core loses whenever it is powered down or reset (R354, R355, R437, R443, R488, R491). -/
namespace Sys2Proof.Machine

/-! ## What a reset of the core clears -/

/-- The host interface after a reset: the sideband's settings, the health bits that follow the flash, and the logs stay. -/
def hostAfter (h : HostIf) : HostIf :=
  { mtu := h.mtu, critical := h.critical, selfTestLog := h.selfTestLog, errors := h.errors }

/-- The loader after a reset: no command runs; a slot that was staged stays staged (R75). -/
def loaderAfter (l : Loader) : Loader := { settings := l.settings, source := l.source, stagedA := l.stagedA, stagedB := l.stagedB }

/-- The ledger after a reset of the core: the hold-up bank, the budgets and the coolant are not the core's (R510). -/
def ledgerAfter (l : Ledger) : Ledger :=
  { l with windowIn := [], windowDom := [[], [], [], [], [], [], []], inRem := 0, domRem := [0, 0, 0, 0, 0, 0, 0]
           sampleIn := 0, sampleCompute := 0, projAtSample := 0, ceilingMv := 0, dieWarm := false, coolRun := 0
           holdEmpty := false, stopAdmission := false, sampledSteps := [] }

/-- Everything that the core held is gone: tiles, runs, rings, jobs, queries, ports and trees (R397, R444). -/
def clearCore (s : State) : State :=
  { s with tiles := [], store := [], grf := {}, mover := {}, scan := {}, search := {}, fabric := {}
           host := hostAfter s.host, loader := loaderAfter s.loader, ledger := ledgerAfter s.ledger
           sec := { s.sec with doe := {}, fwHi := [] }
           dram := { s.dram with reached := [] }
           power := { s.power with core := 0, linkDetect := false, configReady := false, railsUp := false } }

/-! ## The sequence of R354 -/

/-- Whether a package's power-failure sequence has ended, or never had anything to do. -/
def flushOver (x : Package) : Bool := decide (x.flush = .none) || decide (x.flush = .done)

/-- Step 2 in a package: programs, batches and erases are abandoned, and what was dirty stays dirty. A package that was still in recovery
starts it again (R358). -/
def packageDown (s : State) (p : Nat) : State :=
  let x := pkg s p
  let y :=
    if alive s p then
      { x with flush := .listing, page := []
               orphans := x.orphans ++ (x.page.filter (fun r => r.type == 2)).map (fun r => (r.lunit, r.new))
               wbuf := x.wbuf.map (fun d => { d with programmed := none })
               blocks := x.blocks.foldl (fun m b => Sparse.set {} m b.1 { b.2 with state := if b.2.state = 4 then 3 else b.2.state
                                                                                   releasing := false }) []
               exposedAtLoss := exposed s p, flushing := [], closing := false, recovery := 0 }
    else { x with closing := false, flushing := [], recovery := if x.recovery < 6 then 0 else x.recovery }
  showFlushing (setBit (setBit (setPkg s p y) (ftlReg p 0) 31 false) (ftlReg p 0) 30 false) p

/-- The module right before standby step 1: flash, the option area and OTP keep what they hold, the pins are as they are, and everything
else starts afresh. GLB_CORE tells of the retirement record from the start, so that its sum holds at every read (R40, R41); GLB_BUILD and
GLB_ID read 0 until standby step 5 sets them, which the spec does not state (DESIGN CHOICE, log entry 106). -/
def beginStandby (s : State) : State :=
  showCore
    { build := s.build, nv := s.nv, packages := s.packages, corpus := s.corpus
      power := { input := true, refclk := s.power.refclk, perst := s.power.perst, pwrdis := s.power.pwrdis, strapNow := s.power.strapNow
                 standby := 1 }
      loader := { settings := maquetteOf s, stagedA := s.loader.stagedA, stagedB := s.loader.stagedB }
      host := { selfTestLog := s.host.selfTestLog, critical := s.host.critical }
      fresh := s.fresh, out := s.out, pending := s.pending }

/-- The module with every converter off: as before standby step 1, but the stage has not begun. -/
def poweredOff (s : State) : State :=
  let t := beginStandby s
  { t with power := { t.power with standby := 0, input := s.power.input, overcurrent := s.power.overcurrent } }

/-- What follows once every package's sequence has ended: a thermal trip leaves the sideband powered, everything else turns the module off,
and the standby stage begins where the input is present and nothing forbids it (R354, R437, R488, R491). -/
def downEnds (s : State) : State :=
  match s.power.down with
  | none => s
  | some c =>
    if (List.range s.build.sp).all (fun p => flushOver (pkg s p)) then
      if c = .trip ∧ s.power.input ∧ !s.power.pwrdis then s
      else if s.power.input ∧ !s.power.pwrdis ∧ !s.power.overcurrent then beginStandby s
      else poweredOff s
    else s

/-- Power lost during the commit may leave the selector's copy then being written, the older one, with a CRC that fails; the other copy,
which names the previous image, stays in force (R73, R79). Whether a copy was being written is a free value. -/
def tearSelector (s : State) : State :=
  if fld s ARM_STAT 31 28 = 5 then
    let torn (c : SelCopy) : SelCopy := { c with crcOk := c.crcOk && Config.freeBool (fresh s) }
    let both := s.nv.selA.crcOk && s.nv.selB.crcOk
    draw (if both then { s with nv := if s.nv.selB.seq < s.nv.selA.seq then { s.nv with selB := torn s.nv.selB } else { s.nv with selA := torn s.nv.selA } }
      else s)
  else s

/-- The power-failure sequence begins, or the cause joins the one that runs (R354, R437, R488). -/
def powerDown (s : State) (c : DownCause) : State :=
  match s.power.down with
  | some _ => downEnds { s with power := { s.power with down := some c } }
  | none =>
    let s := tearSelector { s with power := { s.power with down := some c } }
    let s := foldState packageDown s (List.range s.build.sp)
    let s := clearCore s
    downEnds (setNat { s with dram := {} } HST_LINK 0)

/-- POWER_FAILURE (R354, R443): the input has been below 37 V for 10 µs. -/
def powerFailureEff (s : State) : State :=
  let t := { s with power := { s.power with input := false, overcurrent := false } }
  if s.power.standby = 0 then t else powerDown t .inputLost

/-- POWER_FAILURE. -/
def execPowerFailure (s : State) : Host.Outcome State Fault Refusal := ok (Sys2Proof.wellFormed .powerFailure) (powerFailureEff s)

/-- Step 3: the LUNIT of every dirty unit, in admission order, four bytes each in units of KIND 5. -/
def dirtyListEff (s : State) (p : Nat) : State :=
  let x := pkg s p
  if fitted s p ∧ x.flush = .listing then
    setPkg s p { x with flush := .flushing, dirtyList := x.wbuf.map (·.lunit), wseq := x.wseq + ceilDiv (4 * x.wbuf.length) 16384 }
  else s

/-- DIRTY_LIST_WRITTEN (R354). -/
def execDirtyListWritten (package : Nat) (s : State) : Host.Outcome State Fault Refusal :=
  ok (Sys2Proof.wellFormed (.dirtyListWritten package)) (dirtyListEff s package)

/-- Units flushed into hold-up blocks beside those that these hold already: the newest copy of each unit counts. -/
def holdUnits : List DirtyUnit → List DirtyUnit → List DirtyUnit
  | held, [] => held
  | held, d :: t => holdUnits (held.filter (fun h => h.lunit != d.lunit) ++ [d]) t

/-- The `n` oldest dirty units are flushed into hold-up blocks, in order (R354 step 4, R355). -/
def flushOldest (x : Package) (n : Nat) : Package :=
  { x with heldFlushed := holdUnits x.heldFlushed (x.wbuf.take n), dirtyList := (x.wbuf.drop n).map (·.lunit)
           wseq := x.wseq + (x.wbuf.take n).length, wbuf := []
           stripeLost := x.stripeLost.filter x.recoveredLost.contains }

/-- The dirty units that are not lost are flushed into hold-up blocks; those that a second fault of their parity group lost stay on the dirty list
(R355). -/
def flushBut (x : Package) (lost : List Nat) : Package :=
  let y := flushOldest { x with wbuf := x.wbuf.filter (fun d => !lost.contains d.lunit) } x.wbuf.length
  let gone := (x.wbuf.filter (fun d => lost.contains d.lunit)).map (·.lunit)
  { y with wseq := x.wseq + x.wbuf.length, dirtyList := gone, stripeLost := y.stripeLost ++ gone }

/-- Step 4 ends with every dirty unit flushed, but for those that second faults lost. -/
def holdupDoneEff (s : State) (p : Nat) (lost : List Nat) : State :=
  let x := pkg s p
  if fitted s p ∧ x.flush = .flushing then showDirty (setPkg s p { flushBut x lost with flush := .sealing }) p else s

/-- HOLDUP_FLUSH_DONE (R354, R355). -/
def execHoldupFlushDone (package : HoldupFlush) (s : State) : Host.Outcome State Fault Refusal :=
  ok (Sys2Proof.wellFormed (.holdupFlushDone package)) (holdupDoneEff s package.package package.lost)

/-- Steps 5 and 6: SEAL with CLEAN 0 is journalled, and the package is powered down. -/
def sealEff (s : State) (p : Nat) : State :=
  let x := pkg s p
  if fitted s p ∧ x.flush = .sealing then
    let q := x.wseq + 1
    let page : JPage := { wseq := q, recs := [{ type := 6, lunit := 0, clean := false }] }
    downEnds (setPkg s p { x with flush := .done, wseq := q, jseq := q, sealClean := false, journal := x.journal ++ [page] })
  else s

/-- SEAL_WRITTEN (R354). -/
def execSealWritten (package : Nat) (s : State) : Host.Outcome State Fault Refusal :=
  ok (Sys2Proof.wellFormed (.sealWritten package)) (sealEff s package)

/-- HOLDUP_EXHAUSTED (R355): the energy ends during step 4 with only the oldest units flushed. How many is not stated: a free value. On
main power there is no such end. -/
def exhaustedEff (s : State) (p : Nat) : State :=
  let x := pkg s p
  if fitted s p ∧ x.flush = .flushing ∧ (s.power.down = some .inputLost ∨ s.power.down = some .overcurrent) then
    let n := (Config.freeWord (fresh s)).toNat % (x.wbuf.length + 1)
    downEnds (setPkg (draw s) p { flushOldest x n with flush := .done })
  else s

/-- HOLDUP_EXHAUSTED. -/
def execHoldupExhausted (package : Nat) (s : State) : Host.Outcome State Fault Refusal :=
  ok (decide (package < 4)) (exhaustedEff s package)

/-! ## PWRDIS and the overcurrent shutdown -/

/-- PWRDIS has been high for 10 µs (R488). -/
def pwrdisEff (s : State) : State :=
  let t := { s with power := { s.power with pwrdis := true } }
  if s.power.standby = 0 then t
  else powerDown t (match s.power.down with | some .inputLost => .inputLost | some .overcurrent => .overcurrent | _ => .pwrdis)

/-- PWRDIS_ASSERT (R488). -/
def execPwrdisAssert (s : State) : Host.Outcome State Fault Refusal := ok (Sys2Proof.wellFormed .pwrdisAssert) (pwrdisEff s)

/-- PWRDIS has fallen: with the module off, start-up begins as if the input had just risen; during its sequence, once that has ended
(R488). -/
def pwrdisDownEff (s : State) : State :=
  let t := { s with power := { s.power with pwrdis := false } }
  if s.power.pwrdis ∧ s.power.standby = 0 ∧ s.power.input ∧ !s.power.overcurrent then beginStandby t else t

/-- PWRDIS_DEASSERT (R488). -/
def execPwrdisDeassert (s : State) : Host.Outcome State Fault Refusal := ok (Sys2Proof.wellFormed .pwrdisDeassert) (pwrdisDownEff s)

/-- OVERCURRENT_SHUTDOWN (R491): R354 runs as on a loss of input, and only a fall of the input and its return start the module again. -/
def overcurrentEff (s : State) : State :=
  if s.power.standby = 0 then s
  else powerDown { s with power := { s.power with overcurrent := true } } (if s.power.down = some .inputLost then .inputLost else .overcurrent)

/-- OVERCURRENT_SHUTDOWN. -/
def execOvercurrentShutdown (s : State) : Host.Outcome State Fault Refusal :=
  ok (Sys2Proof.wellFormed .overcurrentShutdown) (overcurrentEff s)

/-! ## The thermal trip -/

/-- A thermal trip (R437): it is an interrupting fault where the coolant was within its limits (R482, R495). Trips that meet produce
one. -/
def tripNow (s : State) (interrupts : Bool) : State :=
  if s.power.trip || s.power.down.isSome || decide (s.power.standby < 2) then s
  else
    let s := if interrupts then interrupting s 8 allBits else s
    powerDown (setBit { s with power := { s.power with trip := true } } LED_STAT 25 true) .trip

/-- LOW_FLOW_TRIP (R495): flow below 1.0 L/min for 2 s. -/
def execLowFlowTrip (s : State) : Host.Outcome State Fault Refusal := ok (Sys2Proof.wellFormed .lowFlowTrip) (tripNow s false)

end Sys2Proof.Machine
end

