-- ==== Sys2Proof/Machine/LedgerSteps.lean ====
section
/-! DEFINITION. The energy ledger at work: the 100 µs sample, the comparator, the measurement of the hold-up bank and the coolant
(14_energy.md, R425 to R441 and R510; R130, R417, R418, R482, R495). -/
namespace Sys2Proof.Machine

/-! ## Meters -/

/-- The last ten samples with one more (R427). -/
def slide (l : List Nat) (w : Nat) : List Nat := (w :: l).take 10


/-- Writes a domain's power and energy registers; a sample of `w` W is `w` tenths of a mJ. -/
def meterDomain (r : Readings) (s : State) (d : Nat) : State :=
  if unfittedOffset s.build (LED_DOM_PWR d) then s
  else
    let w := r.domW.getD d 0
    let win := slide (s.ledger.windowDom.getD d []) w
    let t := s.ledger.domRem.getD d 0 + w
    let s := { s with ledger := { s.ledger with windowDom := setAt s.ledger.windowDom d win, domRem := setAt s.ledger.domRem d (t % 10) } }
    add64 (setNat s (LED_DOM_PWR d) (average win % 65536 * 65536 + w % 65536)) (LED_DOM_ENERGY d) (t / 10)

/-- Writes the meters, the voltages and the temperatures of a sample. -/
def meterAll (r : Readings) (s : State) : State :=
  let win := slide s.ledger.windowIn r.inputW
  let t := s.ledger.inRem + r.inputW
  let s := { s with ledger := { s.ledger with windowIn := win, inRem := t % 10, etaMilli := r.etaMilli } }
  let s := add64 (setNat s LED_PWR (average win % 65536 * 65536 + r.inputW % 65536)) LED_ENERGY (t / 10)
  let s := foldState (meterDomain r) s (List.range 7)
  let temp (lo : Nat) : Nat := sumNat ((List.range 4).map (fun i => min 255 (r.dieC.getD (lo + i) 0) * 256 ^ i))
  let s := setNat (setNat (setNat s LED_VIN (r.bankMv % 65536 * 65536 + r.inputMv % 65536)) LED_TEMP0 (temp 0)) LED_TEMP1 (temp 4)
  let s := setFld s LED_VNOW 9 0 r.sensedMv
  setNat s LED_COOLANT (r.inletC % 256 * 2 ^ 24 + r.outletC % 256 * 65536 + r.flow % 65536)

/-! ## Rates and the energy of kernels (R130, R432) -/

/-- A tile's TIL_RATE at the end of a window of 100 µs: 0 for a tile that is retired or fenced. -/
def showRate (r : Readings) (s : State) (t : Nat) : State :=
  if tileLive s t then
    let x := tile s t
    let n := nat64 s (tilReg t 0x20)
    let pot := match r.potential.find? (fun e => e.1 == t) with | some e => e.2 | none => potential s t
    let s := if x.stepsAtSample = n then s else setTile s t { x with stepsAtSample := n }
    setNat s (tilReg t 0x10) (min 65535 ((n - x.stepsAtSample) / 100) * 65536 + pot % 65536)
  else setNat s (tilReg t 0x10) 0

/-- A kernel's share of the window's output energy above idle, in nJ, also as input energy and brought to nominal. -/
def attribute_ (e total eta v : Nat) (s : State) (k : Nat × Nat) : State :=
  if k.1 = 0 ∨ total = 0 then s
  else
    let share := e * k.2 / total
    modKernel s ((k.1 - 1) / 65536) ((k.1 - 1) % 65536) (fun x =>
      { x with inNj := x.inNj + share * 1000 / max eta 1
               outNomNj := x.outNomNj + (if v = 0 then 0 else share * 562500 / (v * v)) })

/-- Divides the window's output energy above idle among the kernels by their tiles' weighted steps; 1 mW over a window is 100 nJ. -/
def attributeAll (r : Readings) (s : State) : State :=
  let steps := s.ledger.sampledSteps
  let total := sumNat (steps.map (·.2))
  let s := foldState (attribute_ ((r.computeOutMw - r.idleOutMw) * 100) total r.etaMilli (vNow s)) s steps
  { s with ledger := { s.ledger with sampledSteps := [] } }

/-! ## Budgets (R427, R428, R436) -/

/-- The cap of the present power state in W (R417). -/
def stateCap (s : State) : Nat := if psNow s = 0 then (settings s).totalW else regNat s (HST_PS_CAP (psNow s))

/-- The device budget: the lowest of TOTAL_W, LED_BUDGET and the cap of the power state. -/
def budgetNow (s : State) : Nat := min (settings s).totalW (min (fld s LED_BUDGET 11 0) (stateCap s))

/-- The budget of a domain: that of a hot storage package is halved. -/
def domainBudget (s : State) (d : Nat) : Nat :=
  let w := fld s (LED_DOM_BUDGET d) 11 0
  if 3 ≤ d ∧ s.ledger.packageHot.getD (d - 3) false then w / 2 else w

/-- The budgets that were written take effect. A domain's floor is the part of its draw that cannot be held; the manual gives it a figure
for the compute domain alone, so for another domain whose draw exceeds its budget the bit is a free value. -/
def applyBudgets (r : Readings) (s : State) : State :=
  let s := { s with ledger := { s.ledger with budgets := (List.range 7).map (domainBudget s) } }
  let s := setFld s LED_STAT 11 0 (budgetNow s)
  let s := { s with ledger := { s.ledger with sampleIn := r.inputW, sampleCompute := r.domW.getD 0 0, projAtSample := runningUw s (vNow s) } }
  let above := [1, 2, 3, 4, 5, 6].any (fun d => decide (s.ledger.budgets.getD d 0 < r.domW.getD d 0))
  let floorOver := decide (computeBudget s < floorUw s) || (above && Config.freeBool (fresh s))
  setBit (draw s) LED_STAT 26 floorOver

/-! ## Setpoints (R433, R434) and the thermal ceiling (R436) -/

/-- The highest setpoint allowed now. -/
def vCeil (s : State) : Nat :=
  if s.ledger.ceilingMv = 0 then vHigh s else max (vLow s) (min s.ledger.ceilingMv (vHigh s))

/-- Demand: every running part, and the first queued part of each tile that runs none. -/
def demand (s : State) : List (Nat × PartRef) :=
  s.tiles.filterMap (fun x =>
    match x.2.part with
    | some p => some (x.1, p.ref)
    | none => match x.2.queue with | [] => none | r :: _ => some (x.1, r))

/-- The first setpoint from the highest downward at which all demand fits, or the lowest. -/
def chooseMv (s : State) : Nat :=
  let top := vCeil s
  let tries := (List.range ((top - vLow s) / 10 + 1)).map (fun i => top - 10 * i)
  match tries.find? (fun v => demandFits s (sumNat ((demand s).map (fun e => partUw s e.2 e.1 v))) v) with
  | some v => v
  | none => vLow s

/-- The setpoint of a boundary: raised by at most 10 mV, lowered by any amount. -/
def nextMv (s : State) (crit backstop : Bool) : Nat :=
  if 3 ≤ psNow s ∨ s.ledger.holdEmpty ∨ crit then vLow s
  else if backstop then max (vLow s) (min (vNow s - 50) (vCeil s))
  else
    let want := if rbit s LED_CTRL 0 then max (vLow s) (min (fld s LED_VSET 9 0) (vCeil s)) else chooseMv s
    if vNow s < want then min want (vNow s + 10) else want

/-- The thermal ceiling after a sample: lowered while a die is at or above 95 °C, raised by 10 mV in each budget window while every die
reads below 92 °C, and gone once it reaches the highest setpoint. -/
def ceilingStep (s : State) (top : Nat) : State :=
  let l := s.ledger
  if 95 ≤ top then
    let from_ := if l.dieWarm then vCeil s else min (vCeil s) (vNow s)
    { s with ledger := { l with dieWarm := true, coolRun := 0, ceilingMv := max (vLow s) (from_ - 10) } }
  else if l.ceilingMv = 0 ∨ 92 ≤ top then { s with ledger := { l with dieWarm := false, coolRun := 0 } }
  else if l.coolRun < 9 then { s with ledger := { l with dieWarm := false, coolRun := l.coolRun + 1 } }
  else { s with ledger := { l with dieWarm := false, coolRun := 0, ceilingMv := if vHigh s ≤ l.ceilingMv + 10 then 0 else l.ceilingMv + 10 } }

/-- Sets a warning bit of LED_STAT, with its event when it becomes 1. -/
def thermBit (s : State) (bit event : Nat) (on : Bool) : State :=
  let s := if on ∧ !rbit s LED_STAT bit then setBit s LED_EVENT event true else s
  setBit s LED_STAT bit on

/-- The conditions of R436 on dies, stacks and packages, with their reports. -/
def thermal (r : Readings) (s : State) : State :=
  let top := r.dieC.foldl max 0
  let hot := (List.range 8).map (fun d => decide (105 ≤ r.dieC.getD d 0) || (s.ledger.dieHot.getD d false && decide (100 ≤ r.dieC.getD d 0)))
  let pkgHot := (List.range 4).map (fun p =>
    decide (80 ≤ r.packageC.getD p 0) || (s.ledger.packageHot.getD p false && decide (75 ≤ r.packageC.getD p 0)))
  let hotStacks := r.stackC.map (fun c => decide (95 ≤ c))
  let all := r.dieC ++ r.stackC ++ r.packageC
  let s := { s with ledger := { s.ledger with dieHot := hot, packageHot := pkgHot, stackHot := hotStacks
                                              cool := all.all (fun c => decide (c < 85))
                                              coolantOk := decide (15 ≤ r.inletC) && decide (r.inletC ≤ 40) && decide (240 ≤ r.flow) } }
  let warn := decide (95 ≤ top) || hotStacks.any (fun b => b) || r.packageC.any (fun c => decide (80 ≤ c))
  thermBit (thermBit s 28 2 warn) 27 3 (decide (105 ≤ top))

/-- Whether a sensor has reached its trip limit (R436). -/
def tripLimit (r : Readings) : Bool :=
  r.dieC.any (fun c => decide (115 ≤ c)) || r.stackC.any (fun c => decide (115 ≤ c)) || r.packageC.any (fun c => decide (90 ≤ c))

/-- The part of a sample that controls the core, once an armature's settings are loaded. -/
def controlCore (r : Readings) (s : State) : State :=
  let back := decide (fld s LED_STAT 11 0 * 105 < r.inputW * 100)
  let s := applyBudgets r (attributeAll r s)
  let s := ceilingStep s (r.dieC.foldl max 0)
  let s := { s with ledger := { s.ledger with stopAdmission := back } }
  let s := if back then setBit (bump s LED_OVERSHOOT) LED_EVENT 1 true else s
  let v := nextMv s (r.dieC.any (fun c => decide (105 ≤ c))) back
  setFld s LED_VNOW 25 16 v

/-- LEDGER_SAMPLE (R427): the meters are read whenever standby power is up, and the rates of the tiles once they are powered. -/
def sampleEff (r : Readings) (s : State) : State :=
  if s.power.standby < 2 then s
  else
    let was := criticalNow s
    let t := thermal r (meterAll r s)
    let t := if s.power.railsUp then foldState (showRate r) t (List.range 1024) else t
    let t := if 10 ≤ s.power.core then controlCore r t else t
    let t := showAlert (if Nat.lor was (criticalNow t) = was then t else healthChanged t)
    if tripLimit r then tripNow t t.ledger.coolantOk else t

/-- LEDGER_SAMPLE. -/
def execLedgerSample (r : Readings) (s : State) : Host.Outcome State Fault Refusal :=
  ok (Sys2Proof.wellFormed (.ledgerSample r)) (sampleEff r s)

/-! ## The input comparator (R435) -/

/-- The comparator trips: every tile issues only empty slots, and the setpoint goes to its lowest. -/
def comparatorEff (s : State) : State :=
  if s.power.core < 5 then s
  else
    let t := setBit (bump s LED_OVERSHOOT) LED_EVENT 1 true
    setFld { t with ledger := { t.ledger with holdEmpty := true } } LED_VNOW 25 16 (vLow s)

/-- INPUT_COMPARATOR_TRIP (R435). -/
def execInputComparatorTrip (s : State) : Host.Outcome State Fault Refusal :=
  ok (Sys2Proof.wellFormed .inputComparatorTrip) (comparatorEff s)

/-- COMPARATOR_HOLD_END (R435): 100 µs have passed. -/
def execComparatorHoldEnd (s : State) : Host.Outcome State Fault Refusal :=
  ok (Sys2Proof.wellFormed .comparatorHoldEnd) { s with ledger := { s.ledger with holdEmpty := false } }

/-! ## The hold-up bank (R438 to R440, R510) -/

/-- A measurement begins: the substitute for E_u is applied, and the watermarks follow it (R439). -/
def beginMeasure (s : State) : State :=
  if rbit s LED_STAT 29 || !s.power.bankFull || s.power.down.isSome then s
  else rewatermarkAll (setBit { s with ledger := { s.ledger with huStep := 1, huRetry := false } } LED_STAT 29 true)

/-- BANK_CHARGED (R492): the bank reaches 54.0 V, and the first measurement starts. -/
def bankChargedEff (s : State) : State :=
  if 2 ≤ s.power.standby ∧ !s.power.bankFull then beginMeasure { s with power := { s.power with bankFull := true } } else s

/-- BANK_CHARGED. -/
def execBankCharged (s : State) : Host.Outcome State Fault Refusal := ok true (bankChargedEff s)

/-- HU_PERIOD_EXPIRY (R438). -/
def execHuPeriodExpiry (s : State) : Host.Outcome State Fault Refusal := ok (Sys2Proof.wellFormed .huPeriodExpiry) (beginMeasure s)

/-- HU_RETRY_TIMER (R440): 60 s after a measurement that failed. -/
def execHuRetryTimer (s : State) : Host.Outcome State Fault Refusal :=
  ok (Sys2Proof.wellFormed .huRetryTimer) (if s.ledger.huRetry then beginMeasure s else s)

/-- The load is applied, once no package is exposed; the step in bank voltage gives the ESR. -/
def loadEff (s : State) (esr : Nat) : State :=
  if s.ledger.huStep = 1 ∧ s.power.down.isNone ∧ (List.range s.build.sp).all (fun p => !exposed s p) then
    setNat { s with ledger := { s.ledger with huStep := 2, huEsr := esr } } LED_HU_ESR (min 65535 esr)
  else s

/-- HU_LOAD_APPLIED (R438, R439). -/
def execHuLoadApplied (esrMohm : Nat) (s : State) : Host.Outcome State Fault Refusal :=
  ok (Sys2Proof.wellFormed (.huLoadApplied esrMohm)) (loadEff s esrMohm)

/-- The fall from 54.0 V to 51.0 V has been timed: C_meas in µF is 2 × Δt ÷ 3 with Δt in µs. -/
def fallEff (s : State) (us : Nat) : State :=
  if s.ledger.huStep = 2 then setNat { s with ledger := { s.ledger with huStep := 3, huFallUs := us } } LED_HU_CAP (min allBits (2 * us / 3))
  else s

/-- HU_FALL_TIMED (R438). -/
def execHuFallTimed (fallUs : Nat) (s : State) : Host.Outcome State Fault Refusal :=
  ok (Sys2Proof.wellFormed (.huFallTimed fallUs)) (fallEff s fallUs)

/-- E_u in mJ from Δt in µs: 0.94 × ½ × 0.97 × C_meas × (54.0² − 30.0²), rounded down (R438). -/
def euOfFall (us : Nat) : Nat := us * 2 * 4559 * 2016 / 30000000

/-- Whether a measurement fails (R440). -/
def measureFails (s : State) (full : Bool) : Bool :=
  decide (s.ledger.huFallUs < 100000) || decide (2000000 < s.ledger.huFallUs) || decide (250 < s.ledger.huEsr) || !full

/-- HU_LOW, HU_ZERO and their reports for a measurement's E_u (R510). -/
def showHoldup (s : State) (eu : Nat) : State :=
  let low := decide (eu < 96000)
  let zero := decide (eu ≤ 48000)
  let rise := low && !rbit s LED_STAT 31
  let s := setBit (setBit (setNat s LED_HU_ENERGY eu) LED_STAT 31 low) LED_STAT 30 zero
  let since := if zero then (match s.ledger.huZeroSince with | some t => some t | none => some s.tb) else none
  let s := { s with ledger := { s.ledger with huZeroSince := since } }
  if rise then raiseEvent (healthChanged (setBit s LED_EVENT 4 true)) 1 0 2 else s

/-- A measurement ends with the bank charged again or not. -/
def measureEnds (s : State) (full : Bool) : State :=
  if s.ledger.huStep = 3 then
    let bad := measureFails s full
    let eu := if bad then 0 else min allBits (euOfFall s.ledger.huFallUs)
    let s := { s with ledger := { s.ledger with huStep := 0, huFirst := true, huRetry := bad, huCapUf := regNat s LED_HU_CAP } }
    let s := setBit (setBit s LED_STAT 29 false) LED_EVENT (if bad then 5 else 6) true
    resumeHeld (rewatermarkAll (showHoldup s eu))
  else s

/-- HU_RECHARGED (R438 step 5, R440). -/
def execHuRecharged (good : Bool) (s : State) : Host.Outcome State Fault Refusal :=
  ok (Sys2Proof.wellFormed (.huRecharged good)) (measureEnds s good)

/-! ## Coolant (R495) -/

/-- COOLANT_FAULT: inlet or flow out of limits for 1 s. -/
def execCoolantFault (s : State) : Host.Outcome State Fault Refusal :=
  ok (Sys2Proof.wellFormed .coolantFault) (if s.power.standby < 2 then s else { s with ledger := { s.ledger with coolBad := true } })

/-- COOLANT_RECOVERED: both within limits for 10 s. -/
def execCoolantRecovered (s : State) : Host.Outcome State Fault Refusal :=
  ok (Sys2Proof.wellFormed .coolantRecovered) { s with ledger := { s.ledger with coolBad := false } }

end Sys2Proof.Machine
end

