-- ==== Sys2Proof/Machine/Settings.lean ====
section
/-! DEFINITION. Putting an armature in force: the registers marked "arm", the partitions, the regions, the tiles, the ports and the trees,
at the end of start-up and at step 7 of a re-form (R18, R49, R55, R63, R66, R76, R78, R124, R190, R312). -/
namespace Sys2Proof.Machine

/-! ## The layout record (R52, R53, R55, R338) -/

/-- The bytes of a region record. -/
def regionBytes (r : Region) : List Byte :=
  leBytes 1 r.type ++ leBytes 1 r.id ++ leBytes 1 r.egrp ++ leBytes 1 r.spMask ++ leBytes 4 r.sizeGib ++ leBytes 4 r.flags ++
  leBytes 4 r.param ++ List.replicate 16 0

/-- The FLASH section that the layout record holds. -/
def layoutBytes (nv : Nv) : List Byte :=
  leBytes 2 nv.layout.length ++ leBytes 1 nv.layoutEgrps ++ [0] ++
  (List.range 8).flatMap (fun g => leBytes 4 (nv.layoutRr.getD g 0) ++ leBytes 2 (nv.layoutWl.getD g 0)) ++
  List.replicate 12 0 ++ nv.layout.flatMap regionBytes

/-- LAYOUT_DIGEST of the layout record: the first 32 bytes of the section's digest. -/
def layoutDigest (s : State) : Nat := (Config.sha512 (layoutBytes s.nv)).toNat % 2 ^ 256

/-- The number of a package unit under a new layout; none where its region loses its data (R55). -/
def newUnit (p : Nat) (old new : List Region) (u : Nat) : Option Nat :=
  match regionOf p u old 0 with
  | none => none
  | some (r, _) => if keepsData r new then some (u - unitsBefore p r old + unitsBefore p r new) else none

/-- Renames the keys of a sparse map, and drops those that have no new name. -/
def renameKeys {β : Type} [DecidableEq β] (d : β) (f : Nat → Option Nat) (m : Sparse β) : Sparse β :=
  m.foldl (fun acc e => match f e.1 with | none => acc | some k => Sparse.set d acc k e.2) []

/-- Renames the unit of a record that names one. -/
def renameRec (f : Nat → Option Nat) (r : JRec) : Option JRec :=
  if r.type = 1 ∨ r.type = 2 ∨ r.type = 7 then (f r.lunit).map (fun u => { r with lunit := u }) else some r

/-- Renames the unit of a dirty unit. -/
def renameDirty (f : Nat → Option Nat) (d : DirtyUnit) : Option DirtyUnit := (f d.lunit).map (fun u => { d with lunit := u })

/-- A package whose units take the numbers of a new layout: regions that keep their data keep it, and those that lose it leave no entry. A
footer whose unit is gone names none. -/
def renumber (f : Nat → Option Nat) (x : Package) : Package :=
  { x with map := renameKeys entryUnmapped f x.map
           nand := x.nand.map (fun n => (n.1, n.2.map (fun y => { y with lunit := (f y.lunit).getD (2 ^ 32) })))
           wbuf := x.wbuf.filterMap (renameDirty f), heldFlushed := x.heldFlushed.filterMap (renameDirty f)
           page := x.page.filterMap (renameRec f)
           journal := x.journal.map (fun j => { j with recs := j.recs.filterMap (renameRec f) })
           casts := x.casts.foldl (fun m c => Sparse.set {} m c.1 { c.2 with changed := true }) []
           dirtyList := x.dirtyList.filterMap f, flushing := x.flushing.filterMap f, recoveredLost := x.recoveredLost.filterMap f
           stripeLost := x.stripeLost.filterMap f
           orphans := x.orphans.filterMap (fun o => (f o.1).map (fun u => (u, o.2))) }

/-- The corpora of the regions that keep their data. -/
def keepCorpus (old new : List Region) (c : Corpus) : Corpus :=
  let keeps (type id : Nat) : Bool := old.any (fun r => r.type == type && r.id == id && keepsData r new)
  { c with records := c.records.filter (fun x => keeps 2 x.region), tombs := c.tombs.filter (fun t => keeps t.rtype t.region)
           nextRid := c.nextRid.filter (fun e => keeps 2 e.1), openSlab := c.openSlab.filter (fun e => keeps 2 e.1)
           indexes := c.indexes.filter (fun x => keeps x.rtype x.id)
           lostNoted := c.lostNoted.filter (fun e => keeps e.1 e.2.1) }

/-- An endurance group that comes to be takes the value that its RATIO_24H has then, above which its stage 1 begins (R381). -/
def formRatios (s : State) (old new p : Nat) : State :=
  let x := pkg s p
  setPkg s p { x with ratioFormed := (List.range 8).map (fun g => if old ≤ g ∧ g < new then ratio24 s x g else x.ratioFormed.getD g allBits) }

/-- Writes the layout record for an armature's FLASH section (R55, R76 step 6). -/
def writeLayout (s : State) (a : Armature) : State :=
  let old := s.nv.layout
  let new := a.regions
  let s := if old = new then s
    else
      let s := foldState (fun s p => setPkg s p (renumber (newUnit p old new) (pkg s p))) s (List.range s.build.sp)
      { s with corpus := keepCorpus old new s.corpus }
  let s := if s.nv.layoutEgrps < a.egrpCount then foldState (fun s p => formRatios s s.nv.layoutEgrps a.egrpCount p) s (List.range s.build.sp) else s
  let s := { s with nv := { s.nv with layout := new, layoutEgrps := a.egrpCount, layoutRr := a.rrLimit, layoutWl := a.wlSpread } }
  foldState showDirty s (List.range s.build.sp)

/-! ## Registers marked "arm" -/

/-- What the newest copy of the selector whose check passes names (R71, R73). -/
def selectorOf (nv : Nv) : Option Selected :=
  match nv.selA.crcOk, nv.selB.crcOk with
  | true, true => some (if nv.selA.seq < nv.selB.seq then nv.selB.names else nv.selA.names)
  | true, false => some nv.selA.names
  | false, true => some nv.selB.names
  | false, false => none

/-- Shows ARM_STAT.SOURCE and FALLBACK, which is 1 exactly when what is in force is not what the selector names (R507). -/
def showSource (s : State) : State :=
  let src := if s.loader.inForce then (match s.loader.source with | .slotA => 0 | .slotB => 1 | .maquette => 2) else 3
  let same := s.loader.inForce && selectorOf s.nv == some s.loader.source
  setBit (setFld s ARM_STAT 27 24 src) ARM_STAT 12 (!same)

/-- The slots of the option area. -/
def showSlots (s : State) : State :=
  setNat (setNat s ARM_SLOT_A (one s.nv.slotA.valid * 2 ^ 31 + s.nv.slotA.seq % 2 ^ 31)) ARM_SLOT_B
    (one s.nv.slotB.valid * 2 ^ 31 + s.nv.slotB.seq % 2 ^ 31)

/-- The registers of a package that the armature sets. -/
def loadPackageRegs (s : State) (p : Nat) : State :=
  let a := settings s
  let s := setNat s (ftlReg p 0x18) ((boardPart a p).wbuf * 4096)
  let lim (g : Nat) (l : List Nat) : Nat := if g < a.egrpCount then l.getD g 0 else 0
  let s := foldState (fun s g => setNat (setNat s (medReg p (0x10 + 4 * g)) (lim g a.rrLimit)) (medReg p (0x30 + 4 * g)) (lim g a.wlSpread)) s
    (List.range 8)
  rewatermark s p

/-- The registers of a tree that the armature sets; those of a tree that does not exist read 0. -/
def loadTreeRegs (s : State) (t : Nat) : State :=
  match treeRec s t with
  | some r => setBit (setNat (setNat s (treeReg t 0xC) r.deadline) (treeReg t 0x10) r.policy) UPD_STAT t r.root
  | none => setBit (setNat (setNat s (treeReg t 0xC) 0) (treeReg t 0x10) 0) UPD_STAT t false

/-- Loads every register marked "arm" from the settings (R18). -/
def loadArmRegs (s : State) : State :=
  let a := settings s
  let s := set64 s ARM_ACTIVE (if s.loader.inForce then a.armId else 0)
  let s := setNat s ARM_LOCK a.lockMask
  let s := foldState (fun s c => setNat (set64 s (GLB_FW_WINDOW c) (a.faultWindow.getD c 0)) (GLB_FW_RETRY c) (a.faultRetry.getD c 0)) s [0, 1, 2, 3]
  let s := { s with sec := { s.sec with fwHi := [] } }
  let s := setNat (setNat s LED_BUDGET a.totalW) LED_VLIMIT (a.vmaxMv * 65536 + a.vminMv)
  let s := foldState (fun s d => if unfittedOffset s.build (LED_DOM_BUDGET d) then s else setNat s (LED_DOM_BUDGET d) (a.domW.getD d 0)) s (List.range 7)
  let s := setFld (setNat s (HST_PS_CAP 0) a.totalW) LED_STAT 11 0 (min a.totalW (if psNow s = 0 then a.totalW else regNat s (HST_PS_CAP (psNow s))))
  let s := { s with ledger := { s.ledger with budgets := a.domW } }
  foldState loadTreeRegs (foldState loadPackageRegs s (List.range s.build.sp)) (List.range 16)

/-! ## Partitions and the directory (R78, R190, R202) -/

/-- Where a package's Subsystem Local Memory begins in its board memory, and its size, in granules. -/
def boardPlace (a : Armature) (n : Nat) : Nat × Nat := (boardParts a n).getD 4 (0, 0)
/-- Where the stack windows lie, with the interleave that places their lines. -/
def stackPlace (a : Armature) : Nat × Nat := (a.stkSlm, a.stkIlv)

/-- Where working memory lies in the stacks. -/
def workPlace (a : Armature) : Nat × Nat × Nat := (a.stkSlm + a.stkWeight, a.stkWork, a.stkIlv)

/-- The granule number of the first granule of a package's partition: board SLM by its window, the others by their place. -/
def partGranule (a : Armature) (n i : Nat) : Nat :=
  if i = 4 then (boardBase + n * boardStride) / granule else hiddenBoard n 0 / granule + ((boardParts a n).getD i (0, 0)).1

/-- What a package's board memory held in a partition that is cleared goes with it: a vector cache holds nothing afterwards (R78, R265). -/
def emptyCache (s : State) (n i : Nat) : State :=
  if i = 2 then { s with search := { s.search with cache := s.search.cache.filter (fun v => v.package != n) } } else s

/-- Clears every partition that moves or changes size (R78, R202): those of the stacks, but for the weight cache (R190), and those of each
package's board memory. -/
def clearMoved (old new : Armature) (s : State) : State :=
  let s := if stackPlace old = stackPlace new then s else clearGranules new.stkSlm s 0
  let s := if workPlace old = workPlace new then s
    else foldState (fun s p => clearGranules 16 s (hiddenStack p 0 / granule)) s (List.range 1280)
  foldState (fun s n => foldState (fun s i =>
    let b := (boardParts new n).getD i (0, 0)
    if (boardParts old n).getD i (0, 0) = b then s else emptyCache (clearGranules b.2 s (partGranule new n i)) n i) s [0, 1, 2, 3, 4]) s
    (List.range s.build.sp)

/-- The model region's place under a layout. -/
def modelPlace (rs : List Region) : List (Nat × Nat × Nat) :=
  match rs.find? (fun r => r.type == 5) with
  | none => []
  | some r => (packagesOf r.spMask).map (fun p => (p, unitsBefore p r rs, r.sizeGib))

/-- The directory at a re-form: kept where nothing that it names has moved, otherwise emptied with the weight cache. -/
def keepDirectory (old new : Armature) (s : State) : State :=
  let same := stackPlace old == stackPlace new && old.stkWeight == new.stkWeight && modelPlace old.regions == modelPlace new.regions &&
    (List.range 4).all (fun n => boardPlace old n == boardPlace new n) &&
    s.mover.dir.all (fun e => moveMapped s e.home e.len && moveMapped s e.copy e.len)
  if same then s
  else showDir (clearGranules new.stkWeight { s with mover := { s.mover with dir := [] } } (weightBase / granule))

/-! ## Tiles, ports and trees -/

/-- Binds the tiles: a tile whose role changes has its store zeroed, and substitution ends (R124, R139). -/
def bindTiles (old new : Armature) (start : Bool) (s : State) : State :=
  let moved := (List.range 1024).filter (fun t => start || old.roles.getD t 0 != new.roles.getD t 0)
  let s := foldState (fun s t => setTile (storeClear s t) t { scrubAt := (tile s t).scrubAt, stepsAtSample := (tile s t).stepsAtSample }) s moved
  showAssist { s with grf := { s.grf with subst := [], residents := s.grf.residents.filter (fun x => !moved.contains x.tile) } }

/-- GEN8_EFF (R63): where it changes, every histogram is cleared (R105). -/
def bindGen8 (s : State) : State :=
  let eff := (settings s).gen8 || ((settings s).honorStrap && s.power.strapTaken)
  if gen8Eff s = eff then s else foldState histWordsClear (setBit s ARM_STAT 15 eff) (List.range 1024)

/-- An external port under new settings: one of a role trains again, any other is down (R290); its lanes stay as they are (R288). -/
def bindPort (s : State) (p : Nat) : State :=
  if portFitted s.build p then
    let s := setNat (setNat (setPort s p { retrain := (port s p).retrain }) (portReg p 0x4) 0) (portReg p 0x14) 0
    showLanes (setPortState s p (if portRole s p = 0 then 0 else 1)) p
  else s

/-- A tree under new settings: step 0, nothing in progress, its adder lost where it is retired; a root's tree leaves DOWN at once, and
another's when its parent port is up (R291, R300, R312). -/
def bindTree (s : State) (t : Nat) : State :=
  match treeRec s t with
  | none => { s with fabric := { s.fabric with trees := Sparse.set {} s.fabric.trees t {} } }
  | some r =>
    let lost := s.nv.retiredAdders.contains (adderPort r)
    let s := setNat (setTree s t { raPorts := (tree s t).raPorts.filter (fun p => r.children.contains p) }) (treeReg t 0x8) 0
    let s := setBit (setFld (setFld s (treeReg t 0) 31 28 0) (treeReg t 0) 27 27 0) (treeReg t 0) 26 lost
    let s := updateCensus (freshStep s r) r
    if r.root then leaveDown s r else s

/-- The namespaces that a re-form adds, removes or changes are listed, and the host is told (R403). -/
def noteNamespaces (old new : List Region) (s : State) : State :=
  let diff (a b : List Region) : List Nat := (a.filter (fun r => r.type == 1 && !b.any (fun q => q == r))).map (·.id)
  let ids := (diff old new ++ diff new old).eraseDups
  if ids.isEmpty then s
  else notice { s with host := { s.host with changedNs := (s.host.changedNs ++ ids).eraseDups } } 0 4

/-! ## Putting an armature in force -/

/-- The loader with a slot staged or no longer staged (R75). -/
def markStaged (l : Loader) (x : Selected) (b : Bool) : Loader :=
  match x with
  | .slotA => { l with stagedA := b }
  | .slotB => { l with stagedB := b }
  | .maquette => l

/-- Step 7 of R76, and core step 9: everything that an armature sets, from `a`, whose regions are those of the layout record. -/
def bind (s : State) (a : Armature) (src : Selected) (inForce start : Bool) : State :=
  let old := settings s
  let a := { a with regions := s.nv.layout }
  let l := { s.loader with settings := a, source := src, inForce := inForce }
  let s := { s with loader := if inForce then markStaged l src false else l }
  let s := if start then s else keepDirectory old a (clearMoved old a s)
  let s := bindGen8 (bindTiles old a start s)
  let s := showCore (setBit (if start then s else setBit s GLB_CORE 31 false) ARM_STAT 13 false)
  let s := showSource (loadArmRegs (checkStrength s))
  let s := foldState bindTree (foldState bindPort s (List.range 16)) (List.range 16)
  if start then s else noteNamespaces old.regions a.regions s

end Sys2Proof.Machine
end

