-- ==== Sys2Proof/Machine/Arm.lean ====
section
/-! DEFINITION. The armature loader's commands: validation, staging and re-form, from the write of ARM_CTRL to DONE (R67, R72 to R80, R508,
R509). -/
namespace Sys2Proof.Machine

/-! ## Slots -/

/-- The user slot in force. -/
def userInForce (s : State) : Option Selected :=
  if s.loader.inForce then (match s.loader.source with | .maquette => none | x => some x) else none

/-- The slot that a stage writes: the one not in force, or the one of the lower sequence number, slot A where they are equal (R72). -/
def stageSlot (s : State) : Selected :=
  match userInForce s with
  | some .slotA => .slotB
  | some .slotB => .slotA
  | _ => if s.nv.slotA.seq ≤ s.nv.slotB.seq then .slotA else .slotB

/-- The slot that CMD 6 names: the other one, or the one of the higher sequence number, slot B where they are equal (R75). -/
def otherSlot (s : State) : Selected :=
  match userInForce s with
  | some .slotA => .slotB
  | some .slotB => .slotA
  | _ => if s.nv.slotA.seq ≤ s.nv.slotB.seq then .slotB else .slotA

/-- The staged slot that CMD 3 puts in force; where both slots are staged, the one of the higher sequence number (R72, R75; DEDUCED, log
entry 107). -/
def stagedSlot (l : Loader) (nv : Nv) : Option Selected :=
  match l.stagedA, l.stagedB with
  | true, true => some (if nv.slotA.seq ≤ nv.slotB.seq then .slotB else .slotA)
  | true, false => some .slotA
  | false, true => some .slotB
  | false, false => none

/-- What a slot holds; the maquette's place holds no user image. -/
def slotOf (s : State) : Selected → ArmSlot
  | .slotA => s.nv.slotA
  | .slotB => s.nv.slotB
  | .maquette => {}

/-- Whether the maquette passes its check: its bytes are whole, and one of its copies, on FC000 and FC016, can be read (R67, R74). -/
def maquetteGood (s : State) : Bool := s.nv.maquetteOk && !(chanRetired s 0 0 && chanRetired s 0 16)

/-- A failed check of the maquette: FORMAT, SECTION or DIGEST of the copy on FC016; which, and where, depends on bytes that the spec does not
give (R74). -/
def maquetteFailure (s : State) : Check :=
  { holds := false, cause := 1 + (Config.freeWord (fresh s)).toNat % 3, sec := (Config.freeWord (fresh s + 1)).toNat % 256
    off := (Config.freeWord (fresh s + 2)).toNat % 2 ^ 24 }

/-- The maquette, or its failure. -/
def checkMaquette (s : State) : State × (Armature ⊕ Check) :=
  if maquetteGood s then (s, .inl (maquetteOf s)) else (draw (draw (draw s)), .inr (maquetteFailure s))

/-! ## Reading the image -/

/-- Reads an image line by line from Subsystem Local Memory: its bytes, or the index of the first unreadable line (R509). -/
def readImage : Nat → State → Nat → Nat → State × (List Byte ⊕ Nat)
  | 0, s, _, _ => (s, .inl [])
  | n + 1, s, line, i =>
    match readLine s line with
    | (t, none) => (reachUe t (line * 64) 64, .inr i)
    | (t, some l) =>
      match readImage n t (line + 1) (i + 1) with
      | (u, .inr j) => (u, .inr j)
      | (u, .inl r) => (u, .inl (l ++ r))

/-! ## Beginning and end of a command -/

/-- ARM_STAT.STATE. -/
def armState (s : State) : Nat := fld s ARM_STAT 31 28

/-- Sets ARM_STAT.STATE. -/
def setArmState (s : State) (v : Nat) : State := setFld s ARM_STAT 31 28 v

/-- Records the result of a validation or of a command check. -/
def armResult (s : State) (cause detail : Nat) : State := setNat (setFld s ARM_STAT 23 16 cause) ARM_DETAIL detail

/-- The command ends: STATE 0 and DONE. -/
def armDone (s : State) : State :=
  setBit (setArmState { s with loader := { s.loader with cmd := 0, drain := false, target := none, next := none, image := [], expiredAt := none } } 0)
    ARM_STAT 11 true

/-- The command fails before anything has changed. -/
def armFails (s : State) (cause detail : Nat) : State := armDone (armResult s cause detail)

/-- The SOURCE check of R75 on the registers: the address, the length and the window. -/
def sourceOk (s : State) : Bool :=
  let a := nat64 s ARM_SRC
  let n := regNat s ARM_SRC_LEN
  a % 64 == 0 && n != 0 && decide (n ≤ 16777216) && n % 64 == 0 && mappedSlm (settings s) a n

/-- The command check of R75: none where it passes, otherwise the cause and the detail. TOTAL_LEN is read from the image's header, which may
meet a bus error (R509). -/
def commandCheck (s : State) (cmd : Nat) : State × Option Nat :=
  if cmd = 1 ∨ cmd = 2 ∨ cmd = 4 then
    if sourceOk s then
      match readImage 1 s (nat64 s ARM_SRC / 64) 0 with
      | (t, .inr _) => (t, some 0x0D)
      | (t, .inl l) => (t, if fieldAt l 8 4 = regNat s ARM_SRC_LEN then none else some 0x0D)
    else (s, some 0x0D)
  else if cmd = 3 then (s, if (stagedSlot s.loader s.nv).isSome then none else some 0x0E)
  else if cmd = 6 then (s, if (slotOf s (otherSlot s)).valid then none else some 0x0E)
  else (s, none)

/-- What a command will put in force, or store. -/
def commandTarget (s : State) (cmd : Nat) : Option Selected :=
  if cmd = 2 ∨ cmd = 4 then some (stageSlot s)
  else if cmd = 3 then stagedSlot s.loader s.nv
  else if cmd = 5 then some .maquette
  else if cmd = 6 then some (otherSlot s)
  else none

/-- A write of ARM_CTRL. While a command runs, and before core step 10, a command is refused (R80); 7 to 15 are discarded and counted. -/
def armCommand (s : State) (cmd : Nat) (drain : Bool) : State :=
  if cmd = 0 then s
  else if 7 ≤ cmd then accErr s
  else if s.power.core < 10 ∨ s.loader.cmd ≠ 0 then setBit s ARM_STAT 10 true
  else
    match commandCheck s cmd with
    | (t, some cause) => armFails t cause 0
    | (t, none) => setArmState { t with loader := { t.loader with cmd := cmd, drain := drain, target := commandTarget t cmd } } 1

/-! ## Quiesce (R77) -/

/-- Whether a run has a kernel that runs. -/
def runRuns (r : Run) : Bool := !(kernelsWith r 255).isEmpty

/-- Whether a scan job waits for a kernel of its batch. -/
def jobRuns (s : State) (j : Job) : Bool := s.grf.runs.any (fun r => r.job == some j.index && runRuns r)

/-- Whether a sequence's slot has a kernel that runs. -/
def seqRuns (s : State) (q : Seq) : Bool := s.grf.runs.any (fun r => r.serving && r.slot == q.slot && runRuns r)

/-- Whether a sequence is in being. -/
def seqLives (q : Seq) : Bool := q.state != 0 && q.state != 5

/-- Ends with REFORM_ABORT every graph, scan job, query and sequence that has not finished and has no kernel that runs (R77, R178, R242,
R275). -/
def abortUnfinished (s : State) : State :=
  let seqs := s.grf.seqs.filter (fun e => seqLives e.2 && !seqRuns s e.2)
  let jobs := s.scan.jobs.filter (fun j => !j.done && decide (3 ≤ j.op) && !jobRuns s j)
  let any := !seqs.isEmpty || !jobs.isEmpty || s.grf.runs.any (fun r => !runRuns r) || !s.grf.waiting.isEmpty ||
    !s.grf.seqWaiting.isEmpty || s.search.queries.any (fun q => !q.done && q.op == 1)
  let ws := s.grf.seqWaiting
  let s := abortRuns s
  let s := foldState (fun s (e : Nat × Seq) => if seqLives (seqAt s e.1) then endSeq s e.1 stREFORM_ABORT 5 else s) s seqs
  let s := showSeqs (foldState (fun s w => completeStatusOpt s w.tag stREFORM_ABORT) { s with grf := { s.grf with seqWaiting := [] } } ws)
  let s := foldState (fun s (j : Job) => stopJob s j stREFORM_ABORT 0) s jobs
  let s := abortQueries s
  if any then setBit s ARM_STAT 8 true else s

/-- Steps 3 and 4 begin: admission is closed, and a self-test ends (R76, R77, R465). -/
def beginQuiesce (s : State) : State :=
  let s := abortSelfTest (setArmState s 3) 8
  let s := { s with loader := { s.loader with quiesceAt := s.tb } }
  if s.loader.drain then abortUnfinished s else s

/-- Whether nothing is left to finish: jobs, queries and moves that run to their end under either rule, kernels, and with DRAIN 0 every
graph, job, query and sequence. -/
def quiesced (s : State) : Bool :=
  let all := !s.loader.drain
  !kernelsRunning s && s.mover.moves.all (fun m => m.status.isSome) &&
  s.scan.jobs.all (fun j => j.done || (!all && decide (3 ≤ j.op))) &&
  s.search.queries.all (fun q => q.done || (!all && q.op == 1)) &&
  (!all || (s.grf.runs.isEmpty && s.grf.waiting.isEmpty && s.grf.seqs.all (fun e => !seqLives e.2) && s.grf.seqWaiting.isEmpty))

/-! ## Validation and storing -/

/-- The image that the command under way names, with the state after reading it: the armature, or the cause and detail of its failure. -/
def validateCommand (s : State) : State × (Armature ⊕ Check) × List Byte :=
  let c := s.loader.cmd
  if c = 5 then ((checkMaquette s).1, (checkMaquette s).2, [])
  else if c = 3 ∨ c = 6 then
    let img := (slotOf s (s.loader.target.getD .maquette)).image
    (s, validateImage s img, img)
  else
    match readImage (regNat s ARM_SRC_LEN / 64) s (nat64 s ARM_SRC / 64) 0 with
    | (t, .inr i) => (t, .inr { holds := false, cause := 0x0D, sec := 0, off := 64 * i }, [])
    | (t, .inl img) => (t, validateImage t img, img)

/-- Validation ends (R74): a failure ends the command; a pass ends CMD 1, begins the store of CMD 2 and 4, and begins the quiesce of a
re-form. -/
def validationEff (s : State) : State :=
  if armState s = 1 then
    match validateCommand s with
    | (t, .inr c, _) => armFails t c.cause (detailOf c.sec c.off)
    | (t, .inl a, img) =>
      let t := armResult t 0 0
      if t.loader.cmd = 1 then armDone t
      else
        let t := { t with loader := { t.loader with next := some a, image := img } }
        if t.loader.cmd = 2 ∨ t.loader.cmd = 4 then setArmState t 2 else beginQuiesce t
  else s

/-- VALIDATION_DONE (R74). -/
def execValidationDone (s : State) : Host.Outcome State Fault Refusal := ok (Sys2Proof.wellFormed .validationDone) (validationEff s)

/-- The image is stored in the slot, which takes the next sequence number and is staged (R72, R75). -/
def storeImage (s : State) : State :=
  let slot : ArmSlot := { valid := true, seq := max s.nv.slotA.seq s.nv.slotB.seq + 1, image := s.loader.image }
  let nv := match s.loader.target with
    | some .slotA => { s.nv with slotA := slot }
    | some .slotB => { s.nv with slotB := slot }
    | _ => s.nv
  showSlots { s with nv := nv, loader := match s.loader.target with | none => s.loader | some x => markStaged s.loader x true }

/-- The store of a staged image ends: so does CMD 2, and CMD 4 goes on to its re-form. -/
def storingEff (s : State) : State :=
  if armState s = 2 then
    let s := storeImage s
    if s.loader.cmd = 2 then armDone s else beginQuiesce s
  else s

/-- STORING_DONE (R72). -/
def execStoringDone (s : State) : Host.Outcome State Fault Refusal := ok (Sys2Proof.wellFormed .storingDone) (storingEff s)

/-! ## Quiesce, drain, commit -/

/-- The last work of the quiesce has finished: what did not finish is aborted, DEPART leaves on every tree port, and the write buffers are
flushed (R76, R77, R312). -/
def quiesceEff (s : State) : State :=
  if armState s = 3 ∧ quiesced s then
    let s := if s.loader.drain then abortUnfinished s else s
    let s := departAll (setArmState s 4)
    foldState (fun s p => if alive s p then showFlushing (setPkg s p { pkg s p with flushing := (pkg s p).wbuf.map (·.lunit) }) p else s) s
      (List.range s.build.sp)
  else s

/-- QUIESCE_DONE (R77). -/
def execQuiesceDone (s : State) : Host.Outcome State Fault Refusal := ok (Sys2Proof.wellFormed .quiesceDone) (quiesceEff s)

/-- ARM_QLIMIT expires during the quiesce: from then on the rule is that of DRAIN = 1 (R8, R9, R77). -/
def qlimitEff (s : State) : State :=
  if armState s = 3 ∧ expired s s.loader.quiesceAt (regNat s ARM_QLIMIT) ∧ !s.loader.drain then
    abortUnfinished { s with loader := { s.loader with drain := true, expiredAt := some s.tb } }
  else s

/-- ARM_QLIMIT_EXPIRY (R77). -/
def execArmQlimitExpiry (s : State) : Host.Outcome State Fault Refusal := ok (Sys2Proof.wellFormed .armQlimitExpiry) (qlimitEff s)

/-- The drain ends once every write buffer has been flushed; the fault times are saved (R76, R479). -/
def drainEff (s : State) : State :=
  if armState s = 4 ∧ (List.range s.build.sp).all (fun p => (pkg s p).flushing.isEmpty) then setArmState (saveFaultTimes s) 5 else s

/-- DRAIN_DONE (R76). -/
def execDrainDone (s : State) : Host.Outcome State Fault Refusal := ok (Sys2Proof.wellFormed .drainDone) (drainEff s)

/-- The selector's copies written with what a commit names: each takes the next sequence number, one after the other (R73). -/
def writeSelector (nv : Nv) (x : Selected) : Nv :=
  let n := max nv.selA.seq nv.selB.seq + 1
  { nv with selA := { seq := n, names := x }, selB := { seq := n, names := x } }

/-- The commit: the layout record, which the maquette leaves as it is (R69), then the selector (R73). -/
def commitEff (s : State) : State :=
  if armState s = 5 then
    match s.loader.next with
    | none => s
    | some a =>
      let s := if s.loader.target = some .maquette then s else writeLayout s a
      setArmState { s with nv := match s.loader.target with | none => s.nv | some x => writeSelector s.nv x } 6
  else s

/-- COMMIT_DONE (R76). -/
def execCommitDone (s : State) : Host.Outcome State Fault Refusal := ok (Sys2Proof.wellFormed .commitDone) (commitEff s)

/-! ## Rebind (R76 steps 7 and 8, R508) -/

/-- Whether every storage package that an image's REQ_SP names is reachable (R26, R508). -/
def reqReachable (s : State) (a : Armature) : Bool := (List.range 4).all (fun p => !bitOf a.reqSp p || reachable s p)

/-- The rebind, with what becomes of a hardware fault, which an unreachable package of REQ_SP is: back to the previous image without a new
commit, and where that fails too, the maquette, or no image where it fails its check (R70, R508). -/
def rebind (s : State) (a : Armature) (src : Selected) (inForce start hwFault againFault : Bool) (prev : Armature)
    (prevSrc : Selected) (prevIn : Bool) : State :=
  let fails := hwFault || !reqReachable s a
  let failsAgain := againFault || !reqReachable s prev
  let s := bind s a src inForce start
  if fails then
    let s := setBit (bind s prev prevSrc prevIn start) ARM_STAT 9 true
    if failsAgain then bind s (maquetteOf s) .maquette (maquetteGood s) start else s
  else s

/-- Step 8: STATE 0, DONE, the asynchronous event, and admission open again; commands that were held run (R76, R78, R407). -/
def rebindEff (s : State) (hwFault againFault : Bool) : State :=
  if armState s = 6 then
    match s.loader.next, s.loader.target with
    | some a, some src =>
      let s := rebind s a src true false hwFault againFault (settings s) s.loader.source s.loader.inForce
      resumeHeld (notice (armDone (bump s ARM_REFORMS)) 0xC0 0)
    | _, _ => s
  else s

/-- REBIND_DONE (R76, R508). -/
def execRebindDone (hwFault againFault : Bool) (s : State) : Host.Outcome State Fault Refusal :=
  ok (Sys2Proof.wellFormed (.rebindDone hwFault againFault)) (rebindEff s hwFault againFault)

end Sys2Proof.Machine
end

