-- ==== Sys2Proof/Machine/Startup.lean ====
section
/-! DEFINITION. Start-up and resets: the standby stage, the core stage, PERST#, the NVM Subsystem Reset, firmware selection and recovery
(R18, R63, R71, R203, R359, R397, R437, R442 to R459, R489, R507). -/
namespace Sys2Proof.Machine

/-! ## What registers show of the option area and OTP (R18) -/

/-- The registers whose Reset column is "from option area" or "from OTP". -/
def showOption (s : State) : State :=
  let s := showEpoch (showSlots (showPcs (showCore (showPending s))))
  let s := setNat (setNat (setNat (showHours s) GLB_INTR s.nv.intr) GLB_FREC_HEAD s.nv.frecHead) GLB_OWN_SEQ s.nv.owner.seq
  let s := setNat (setBit (setBit s GLB_BOOT 25 (ownerKey s.nv.owner)) GLB_BOOT 24 (s.nv.owner.policy == 1)) GLB_SVN_MIN s.nv.svnMin
  let s := foldState (fun s c => setNat s (GLB_FT_PERM c) (s.nv.ftPerm.getD c 0)) s [0, 1, 2, 3, 4]
  let s := foldState (fun s p => if portFitted s.build p then showLanes s p else s) s (List.range 24)
  showOptSingle (foldState (fun s p => showJournal (showStages (showChans s p) p) p) s (List.range s.build.sp))

/-- The registers that a reset leaves: they tell of the bank, of OTP, of the firmware, of the sideband endpoint, which works through PERST#
(R422), or of counts since manufacture. -/
def keptRegs : List Nat :=
  [HST_MI_STAT, LED_HU_ENERGY, LED_HU_CAP, LED_HU_ESR, GLB_BOOT, GLB_PWRON, GLB_ID, GLB_BUILD, GLB_FW, GLB_FW_REV, GLB_FT_TRANS 0, GLB_FT_TRANS 1,
   GLB_FT_TRANS 2, GLB_FT_TRANS 3, GLB_FT_TRANS 4]

/-- Every register takes its Reset value (R18, R397, R510). -/
def resetRegs (s : State) : State :=
  let hu := fld s LED_STAT 31 29
  let s := { s with regs := s.regs.filter (fun r => keptRegs.contains r.1), latch := [], readData := 0 }
  let s := loadArmRegs (showOption (setFld s LED_STAT 31 29 hu))
  rewatermarkAll (setBit s ARM_STAT 14 s.power.strapTaken)

/-! ## Firmware (R453 to R459) -/

/-- GLB_FW and GLB_FW_REV of the running image. -/
def showFirmware (s : State) : State :=
  match fwRunning s with
  | none => s
  | some f => setNat (setNat s GLB_FW (f.series * 65536 + f.svn * 256 + s.power.fwSlot)) GLB_FW_REV f.revision

/-- Whether the option area can be read at all (R389). -/
def optionReadable (s : State) : Bool := s.nv.optHome.any (fun h => h.isSome)

/-- Whether a slot's image passes R453. -/
def fwGood (s : State) (slot : Nat) : Bool :=
  optionReadable s && (match fwSlot s slot with | none => false | some f => (fwFails s f).isNone)

/-- The other slot. -/
def otherFw (slot : Nat) : Nat := if slot = 1 then 2 else 1

/-- The device enters recovery (R459, R482). -/
def enterRecovery (s : State) : State :=
  interrupting (setBit { s with power := { s.power with recovery := true, fwSlot := 0 } } GLB_BOOT 31 true) 9 allBits

/-- The ROM takes the slot, or the other one, or enters recovery (R455). -/
def takeOther (s : State) (other : Nat) : State :=
  if fwGood s other then
    let s := namePending { s with power := { s.power with fwSlot := other } } 0
    interrupting (setBit s GLB_BOOT 30 true) 9 allBits
  else enterRecovery s

/-- The PENDING slot if one is named, and otherwise the ACTIVE slot, with its fallback. -/
def chooseFw (s : State) : State :=
  let first := if s.nv.fwPending ≠ 0 then s.nv.fwPending else s.nv.fwActive
  if fwGood s first then { s with power := { s.power with fwSlot := first } } else takeOther s (otherFw first)

/-! ## The core stage begins and stops (R359, R444, R445, R447) -/

/-- Core step 4 where firmware runs and no activation is pending. -/
def tryFirmware (s : State) : State :=
  if s.power.core = 1 ∧ s.power.standby = 7 ∧ s.nv.fwPending = 0 ∧ !s.power.recovery then { s with power := { s.power with core := 4 } } else s

/-- Core step 1. -/
def startCore (s : State) : State :=
  tryFirmware (setBit { s with power := { s.power with core := 1, coreStart := s.tb } } ARM_STAT 14 s.power.strapTaken)

/-- A package whose recovery starts again (R447). -/
def restartRecovery (s : State) (p : Nat) : State :=
  if alive s p then s else setPkg s p { pkg s p with recovery := 0 }

/-- The core stage stops: the write-buffer flush is owed in every package that is in service, and every register takes its Reset value. -/
def stopCore (s : State) : State :=
  let owes := (List.range s.build.sp).any (alive s)
  let s := foldState restartRecovery (clearCore s) (List.range s.build.sp)
  let s := resetRegs { s with power := { s.power with owesFlush := owes } }
  foldState beginClose s (List.range s.build.sp)

/-- Whether the module is powered, past standby step 2 and not on its way down. -/
def running (s : State) : Bool := decide (2 ≤ s.power.standby) && s.power.down.isNone

/-- PERST# falls. -/
def perstAssertEff (s : State) : State :=
  if s.power.perst then s
  else
    let t := { s with power := { s.power with perst := true } }
    if running s then stopCore t else t

/-- PERST_ASSERT (R447). -/
def execPerstAssert (s : State) : Host.Outcome State Fault Refusal := ok (Sys2Proof.wellFormed .perstAssert) (perstAssertEff s)

/-- The recovery that a commit has ended: the image of slot 1 is ACTIVE (R459). -/
def leaveRecovery (s : State) : State :=
  if s.power.restartPending then
    let s := setBit { s with power := { s.power with recovery := false, restartPending := false, fwSlot := s.nv.fwActive } } GLB_BOOT 31 false
    if s.power.standby = 7 then showFirmware s else s
  else s

/-- A thermal trip ends at PERST# with every sensor below 85 °C and the sequence ended (R437). -/
def leaveTrip (s : State) : State :=
  if s.power.down = some .trip ∧ s.ledger.cool ∧ (List.range s.build.sp).all (fun p => flushOver (pkg s p)) then
    resetRegs { s with power := { s.power with down := none, trip := false } }
  else s

/-- PERST# rises: GEN8_N is sampled, and the core stage begins once standby step 2 is reached (R63, R444). -/
def perstDeassertEff (s : State) (strapLow : Bool) : State :=
  if s.power.perst then
    let s := leaveRecovery (leaveTrip { s with power := { s.power with perst := false } })
    let s := if decide (2 ≤ s.power.standby) then { s with power := { s.power with strapTaken := strapLow } } else s
    if running s then startCore s else s
  else s

/-- PERST_DEASSERT (R444). -/
def execPerstDeassert (strapLow : Bool) (s : State) : Host.Outcome State Fault Refusal :=
  ok (Sys2Proof.wellFormed (.perstDeassert strapLow)) (perstDeassertEff s strapLow)

/-- An NVM Subsystem Reset: as PERST#, with power present (R397). GEN8_N is not sampled. -/
def subsystemReset (s : State) : State :=
  if running s then
    let s := leaveRecovery (stopCore s)
    if s.power.perst then s else startCore s
  else s

/-- NVM_SUBSYSTEM_RESET (R397). -/
def execNvmSubsystemReset (s : State) : Host.Outcome State Fault Refusal := ok (Sys2Proof.wellFormed .nvmSubsystemReset) (subsystemReset s)

/-! ## The standby stage (R442) -/

/-- The input rises through 40 V. -/
def inputRiseEff (s : State) : State :=
  let t := { s with power := { s.power with input := true } }
  if s.power.standby = 0 ∧ s.power.down.isNone ∧ !s.power.input ∧ !s.power.pwrdis ∧ !s.power.overcurrent then beginStandby t else t

/-- INPUT_RISE (R442). -/
def execInputRise (s : State) : Host.Outcome State Fault Refusal := ok (Sys2Proof.wellFormed .inputRise) (inputRiseEff s)

/-- Stores a standby step. -/
def atStandby (s : State) (n : Nat) : State := { s with power := { s.power with standby := n } }

/-- Standby step 2: TB starts at 0 (R7), and the core stage may begin. -/
def regulatedEff (s : State) : State :=
  if s.power.standby = 1 then
    let s := { atStandby s 2 with tb := 0, faults := { powered := s.nv.poweredTicks, ticked := s.nv.tickedTicks } }
    if s.power.perst then s else startCore s
  else s

/-- STANDBY_REGULATED (R442). -/
def execStandbyRegulated (s : State) : Host.Outcome State Fault Refusal := ok (Sys2Proof.wellFormed .standbyRegulated) (regulatedEff s)

/-- Standby step 3. -/
def otpEff (s : State) (strapLow : Bool) : State :=
  if s.power.standby = 2 then
    let s := atStandby s 3
    let s := { s with power := { s.power with strapTaken := strapLow } }
    setNat (setBit s ARM_STAT 14 strapLow) GLB_SVN_MIN s.nv.svnMin
  else s

/-- OTP_READ (R442, R489). -/
def execOtpRead (strapLow : Bool) (s : State) : Host.Outcome State Fault Refusal :=
  ok (Sys2Proof.wellFormed (.otpRead strapLow)) (otpEff s strapLow)

/-- Standby step 4: the option area's records are loaded, and each copy of the selector passes its check or fails it. A selector that fails
in both copies names nothing until the next commit (R71, R73). -/
def optionEff (s : State) (copyA copyB : Bool) : State :=
  if s.power.standby = 3 then
    let s := atStandby s 4
    let s := { s with nv := { s.nv with selA := { s.nv.selA with crcOk := s.nv.selA.crcOk && copyA }
                                        selB := { s.nv.selB with crcOk := s.nv.selB.crcOk && copyB } }
                      faults := { s.faults with ages := s.nv.faultAges } }
    let s := foldState (fun s c => setNat s (GLB_FT_TRANS c) (s.nv.ftTrans.getD c 0)) s [0, 1, 2, 3, 4]
    rewatermarkAll (loadArmRegs (showOption s))
  else s

/-- OPTION_AREA_LOADED (R388). -/
def execOptionAreaLoaded (copies : CopiesRead) (s : State) : Host.Outcome State Fault Refusal :=
  ok (Sys2Proof.wellFormed (.optionAreaLoaded copies)) (optionEff s copies.copyA copies.copyB)

/-- GLB_BUILD of the build (R40). -/
def buildWord (b : Build) : Nat := one (decide (b.sp = 4)) * 2 ^ 28 + (2 ^ b.xp - 1) * 4096 + (2 ^ (2 * b.sp) - 1) * 16 + (2 ^ b.sp - 1)

/-- Standby step 5: the identity page is lost where no copy matches, or where both copies' channels are retired (R389, R451). -/
def identityEff (s : State) (copyMatches : Bool) : State :=
  if s.power.standby = 4 then
    let lost := !copyMatches || (chanRetired s 0 0 && chanRetired s 0 16)
    let s := setNat (setNat (atStandby s 5) GLB_ID (0x98300900 + s.nv.stepping % 256)) GLB_BUILD (buildWord s.build)
    setBit s GLB_BOOT 29 lost
  else s

/-- IDENTITY_CHECKED (R451). -/
def execIdentityChecked (copyMatches : Bool) (s : State) : Host.Outcome State Fault Refusal :=
  ok (Sys2Proof.wellFormed (.identityChecked copyMatches)) (identityEff s copyMatches)

/-- Standby step 6, or core step 4 with an activation pending (R455). -/
def verifiedEff (s : State) : State :=
  if s.power.standby = 5 then chooseFw (atStandby s 6)
  else if s.power.standby = 7 ∧ s.power.core = 1 ∧ s.nv.fwPending ≠ 0 ∧ !s.power.recovery then
    let s := chooseFw s
    if s.power.recovery then s else showFirmware { s with power := { s.power with core := 4 } }
  else s

/-- FIRMWARE_VERIFIED (R455). -/
def execFirmwareVerified (s : State) : Host.Outcome State Fault Refusal := ok (Sys2Proof.wellFormed .firmwareVerified) (verifiedEff s)

/-- Standby step 7: the power-on count rises (R442). -/
def fwRunningEff (s : State) : State :=
  if s.power.standby = 6 ∧ !s.power.recovery then
    let n := satInc s.nv.pwron
    let s := { atStandby s 7 with nv := { s.nv with pwron := n } }
    let s := showFirmware (setNat s GLB_PWRON n)
    if s.power.core = 1 then { s with power := { s.power with core := 4 } } else s
  else s

/-- FIRMWARE_RUNNING (R442). -/
def execFirmwareRunning (s : State) : Host.Outcome State Fault Refusal := ok (Sys2Proof.wellFormed .firmwareRunning) (fwRunningEff s)

/-! ## The core stage (R444) -/

/-- LINK_DETECT (R444): core step 2, from core step 1 onward. -/
def execLinkDetect (s : State) : Host.Outcome State Fault Refusal :=
  ok (Sys2Proof.wellFormed .linkDetect) (if 1 ≤ s.power.core then { s with power := { s.power with linkDetect := true } } else s)

/-- CONFIGURATION_READY (R444): core step 3. -/
def execConfigurationReady (s : State) : Host.Outcome State Fault Refusal :=
  ok (Sys2Proof.wellFormed .configurationReady) (if s.power.linkDetect then { s with power := { s.power with configReady := true } } else s)

/-- Core step 5. -/
def railsEff (s : State) : State :=
  if s.power.core = 4 then
    let s := setFld { s with power := { s.power with core := 5, railsUp := true } } LED_VNOW 25 16 750
    foldState (fun s p => if portFitted s.build p then trainingEff s p else s) s (List.range' 16 8)
  else s

/-- CORE_RAILS_UP (R444). -/
def execCoreRailsUp (s : State) : Host.Outcome State Fault Refusal := ok (Sys2Proof.wellFormed .coreRailsUp) (railsEff s)

/-- Core step 6: every line of the stacks has VALID 0 (R203), and their patrol scrub begins at line 0 (R205). -/
def stacksEff (s : State) : State :=
  if s.power.core = 5 then
    let s := initLines { s with power := { s.power with core := 6 } } (fun l => !onBoard l)
    showInit { s with dram := { s.dram with sweeps := s.dram.sweeps.filter (fun x => decide (1280 ≤ x.1)) } }
  else s

/-- STACKS_TRAINED (R203). -/
def execStacksTrained (s : State) : Host.Outcome State Fault Refusal := ok (Sys2Proof.wellFormed .stacksTrained) (stacksEff s)

/-- Core step 7: the tiles that the retirement record does not name and that fail the self-test are retired, or fenced, with cause 4
(R446), and every tile store is zeroed (R124). -/
def selfTestEff (s : State) (failed : List Nat) : State :=
  if s.power.core = 6 then
    let bad := failed.eraseDups.filter (fun t => tileLive s t)
    let s := { s with power := { s.power with core := 7 }, tiles := [], store := [] }
    let s := foldState (fun s t => tileFault s t 4) s bad
    setFld s GLB_BOOT 23 16 (min bad.length 255)
  else s

/-- TILE_SELF_TEST_DONE (R446). -/
def execTileSelfTestDone (failed : List Nat) (s : State) : Host.Outcome State Fault Refusal :=
  ok (Sys2Proof.wellFormed (.tileSelfTestDone failed)) (selfTestEff s failed)

/-- The checks that a user slot passes at start-up: it holds an image, the image passes R74, and its layout is that of the layout record
(R71). The failure's cause and detail otherwise. -/
def slotCheck (s : State) (x : Selected) : Armature ⊕ (Nat × Nat) :=
  let slot := slotOf s x
  if slot.valid then
    match validateImage s slot.image with
    | .inr c => .inr (c.cause, detailOf c.sec c.off)
    | .inl a =>
      if a.regions = s.nv.layout ∧ a.egrpCount = s.nv.layoutEgrps ∧ a.rrLimit = s.nv.layoutRr ∧ a.wlSpread = s.nv.layoutWl then .inl a
      else .inr (10, detailOf 0 0x20)
  else .inr (0x0E, 0)

/-- The other user slot. -/
def otherUser : Selected → Selected
  | .slotA => .slotB
  | .slotB => .slotA
  | .maquette => .maquette

/-- What the start puts in force. -/
def takeImage (s : State) (a : Armature) (src : Selected) : State :=
  { s with loader := { s.loader with next := some a, target := some src } }

/-- The maquette, or no image at all with the maquette's values (R70). -/
def takeMaquette (s : State) (good : Bool) : State :=
  { s with loader := { s.loader with next := some (maquetteOf s), target := if good then some .maquette else none } }

/-- Core step 8: selection (R71), and what ARM_STAT says of it (R507). -/
def selectEff (s : State) (maquetteOk : Bool) : State :=
  if s.power.core = 7 then
    let s := { s with power := { s.power with core := 8 }, nv := { s.nv with maquetteOk := s.nv.maquetteOk && maquetteOk } }
    let good := maquetteGood s
    match selectorOf s.nv with
    | none => takeMaquette (armResult s 0x0E 0) good
    | some .maquette =>
      match checkMaquette s with
      | (t, .inl _) => takeMaquette (armResult t 0 0) true
      | (t, .inr c) => takeMaquette (armResult t c.cause (detailOf c.sec c.off)) false
    | some x =>
      match slotCheck s x with
      | .inl a => takeImage (armResult s 0 0) a x
      | .inr (cause, detail) =>
        let s := armResult s cause detail
        match slotCheck s (otherUser x) with
        | .inl a => takeImage s a (otherUser x)
        | .inr _ => takeMaquette s good
  else s

/-- ARMATURE_SELECTED (R71, R507). -/
def execArmatureSelected (maquetteOk : Bool) (s : State) : Host.Outcome State Fault Refusal :=
  ok (Sys2Proof.wellFormed (.armatureSelected maquetteOk)) (selectEff s maquetteOk)

/-- A PENDING image that reaches core step 10 becomes ACTIVE: the minimum SVN rises to its SVN, and the keys that it names are revoked,
never its own (R455, R457, R458). -/
def activateFw (s : State) : State :=
  match fwRunning s with
  | none => s
  | some f =>
    if s.nv.fwPending ≠ 0 ∧ s.nv.fwPending = s.power.fwSlot then
      let own := 2 ^ f.keyId
      let keys := if bitOf f.revoke f.keyId then f.revoke % 16 - own else f.revoke % 16
      let s := { s with nv := { s.nv with fwActive := s.power.fwSlot, svnMin := max s.nv.svnMin (min f.svn 64), revokedKeys := Nat.lor s.nv.revokedKeys keys } }
      setNat (namePending s 0) GLB_SVN_MIN s.nv.svnMin
    else s

/-- Core steps 9 and 10. Where the rebind fails on a hardware fault, an unreachable package of REQ_SP included (R508), there is no previous
image, and the maquette is put in force. -/
def coreRebindEff (s : State) (hwFault : Bool) : State :=
  if s.power.core = 8 then
    match s.loader.next with
    | none => s
    | some a =>
      let src := s.loader.target.getD .maquette
      let inForce := s.loader.target.isSome
      let fails := hwFault || !reqReachable s a
      let s := bind s a src inForce true
      let s := if fails then setBit (bind s (maquetteOf s) .maquette (maquetteGood s) true) ARM_STAT 9 true else s
      let s := { s with power := { s.power with core := 10 }, loader := { s.loader with next := none, target := none } }
      resumeHeld (showRdy (activateFw s))
  else s

/-- CORE_REBIND_DONE (R444, R455, R457, R458). -/
def execCoreRebindDone (hwFault againFault : Bool) (s : State) : Host.Outcome State Fault Refusal :=
  ok (Sys2Proof.wellFormed (.coreRebindDone hwFault againFault)) (coreRebindEff s hwFault)

/-! ## Watchdog and recovery (R455, R459) -/

/-- An image misses a bound of the boot watchdog: the ROM starts again from the other slot. -/
def watchdogBootEff (s : State) : State :=
  if running s ∧ !s.power.recovery ∧ !s.power.perst ∧ s.power.standby = 7 ∧ 1 ≤ s.power.core ∧ s.power.core < 10 then
    let s := takeOther (stopCore s) (otherFw s.power.fwSlot)
    if s.power.recovery then { s with power := { s.power with core := 1, coreStart := s.tb } } else showFirmware (startCore s)
  else if running s ∧ !s.power.recovery ∧ s.power.standby = 6 then takeOther s (otherFw s.power.fwSlot)
  else s

/-- BOOT_WATCHDOG_EXPIRY (R455). -/
def execBootWatchdogExpiry (s : State) : Host.Outcome State Fault Refusal :=
  ok (Sys2Proof.wellFormed .bootWatchdogExpiry) (watchdogBootEff s)

/-- RECOVERY_RESTART (R459): the core stage starts again as under PERST#. -/
def execRecoveryRestart (s : State) : Host.Outcome State Fault Refusal :=
  ok (Sys2Proof.wellFormed .recoveryRestart)
    (if running s ∧ s.power.restartPending then
      let s := leaveRecovery (stopCore s)
      if s.power.perst then s else startCore s
     else s)

end Sys2Proof.Machine
end

