-- ==== Sys2Proof/Machine/Sideband.lean ====
section
/-! DEFINITION. The sideband endpoint and the SPDM responder: MCTP control messages, NVMe-MI commands and attestation (R422 to R424, R442,
R459, R463, R464). The codes and layouts of NVMe-MI, MCTP and SPDM are PRESUMED (log entry 28). -/
namespace Sys2Proof.Machine

/-! ## The endpoint -/

/-- Whether the endpoint answers: from standby step 2, while the input is present, and not under PWRDIS (R422, R442, R488). -/
def endpointUp (s : State) : Bool := decide (2 ≤ s.power.standby) && s.power.input && !s.power.pwrdis

/-- Whether the subsystem is in full service: firmware runs, and neither recovery nor a trip holds it (R437, R442, R459). -/
def inService (s : State) : Bool := decide (7 ≤ s.power.standby) && !s.power.recovery && s.power.down.isNone

/-- An answer of the endpoint. -/
def miAnswer (s : State) (status : Nat) (bytes : List Byte) : State := emit s (.mi status bytes)

/-- An MCTP control message of the bus owner: the endpoint ID that it assigns is shown (R422). An ID of 0 asks for none. -/
def mctpEff (s : State) (eid : Nat) : State :=
  if endpointUp s then
    let s := if eid = 0 then s else setFld s HST_MI_STAT 23 16 eid
    emit s (.mctp [0, fld s HST_MI_STAT 23 16])
  else s

/-- MCTP_CONTROL_MESSAGE (R422). -/
def execMctpControlMessage (eid : Nat) (s : State) : Host.Outcome State Fault Refusal := ok (decide (eid < 256)) (mctpEff s eid)

/-! ## NVMe-MI (R423) -/

/-- A temperature in degrees Celsius as NVMe-MI codes it. -/
def miTemp (s : State) : Nat := min 126 (compositeK s - 273)

/-- The largest PCT_USED of any group. -/
def pctWorst (s : State) : Nat :=
  ((List.range s.build.sp).flatMap (fun p => (List.range 8).map (fun g => pctUsed (pkg s p) g))).foldl max 0

/-- The NVM Subsystem Health data structure: functional and ready bits, the complemented Critical Warning, the temperature and the wear. -/
def healthBytes (s : State) : List Byte :=
  let ready := inService s && s.host.ready
  let link := decide (fld s HST_LINK 31 28 ≠ 0)
  leBytes 1 (one (inService s) * 32 + 16 + one link * 8) ++ leBytes 1 (255 - criticalNow s % 256) ++ leBytes 1 (miTemp s) ++
  leBytes 1 (pctWorst s) ++ leBytes 2 (one ready + one s.host.healthChange * 32) ++ [0, 0]

/-- Clears a latched health status change, and ALERT# with it where no Critical Warning bit is set. -/
def clearHealth (s : State) (clear : Bool) : State :=
  if clear then showAlert { s with host := { s.host with healthChange := false } } else s

/-- NVM Subsystem Health Status Poll: it is answered during start-up and in recovery too. -/
def subsystemPoll (s : State) (clear : Bool) : State :=
  if endpointUp s then clearHealth (miAnswer s 0 (healthBytes s)) clear else s

/-- NVM_SUBSYSTEM_HEALTH_STATUS_POLL (R423). -/
def execNvmSubsystemHealthStatusPoll (clear : Bool) (s : State) : Host.Outcome State Fault Refusal :=
  ok (Sys2Proof.wellFormed (.nvmSubsystemHealthStatusPoll clear)) (subsystemPoll s clear)

/-- The Controller Health data structure: the controller, its status, the temperature, the wear, the spare and the Critical Warning. -/
def controllerBytes (s : State) : List Byte :=
  let spare := ((List.range s.build.sp).flatMap (fun p => [sparePct s p 0, sparePct s p 1])).foldl min 100
  leBytes 2 0 ++ leBytes 2 (one s.host.ready + s.host.shst * 4 + one s.host.healthChange * 32) ++ leBytes 2 (compositeK s) ++
  leBytes 1 (pctWorst s) ++ leBytes 1 spare ++ leBytes 1 (criticalNow s) ++ List.replicate 7 0

/-- Controller Health Status Poll: in full service, and in recovery (R459). -/
def controllerPoll (s : State) (clear : Bool) : State :=
  if endpointUp s ∧ (inService s ∨ s.power.recovery) then clearHealth (miAnswer s 0 (controllerBytes s)) clear else s

/-- CONTROLLER_HEALTH_STATUS_POLL (R423). -/
def execControllerHealthStatusPoll (clear : Bool) (s : State) : Host.Outcome State Fault Refusal :=
  ok (Sys2Proof.wellFormed (.controllerHealthStatusPoll clear)) (controllerPoll s clear)

/-- The rest of the management commands need the endpoint in full service. -/
def miCommand (s : State) (go : State) : State := if endpointUp s && inService s then go else s

/-- Read NVMe-MI Data Structure: the subsystem (0), a port (1), the controllers (2), a controller (3) and the supported commands (4).
What the spec does not give of them is free (log entry 8). -/
def miStructure (s : State) (dtyp : Nat) : State :=
  if 5 ≤ dtyp then miAnswer s 4 []
  else if dtyp = 0 then miAnswer s 0 ([1, 2, 0] ++ List.replicate 29 0)
  else if dtyp = 2 then miAnswer s 0 (leBytes 2 1 ++ leBytes 2 0)
  else if dtyp = 4 then miAnswer s 0 (leBytes 2 7 ++ [0, 1, 2, 3, 4, 5, 7])
  else
    let t := { s with fresh := s.fresh + 32 }
    miAnswer t 0 (freeBytes s.fresh 32)

/-- READ_NVME_MI_DATA_STRUCTURE (R423). -/
def execReadNvmeMiDataStructure (dtyp : Nat) (s : State) : Host.Outcome State Fault Refusal :=
  ok (Sys2Proof.wellFormed (.readNvmeMiDataStructure dtyp)) (miCommand s (miStructure s dtyp))

/-- Configuration Get: the SMBus frequency (1), health status change (2) and the MCTP transmission unit size (3). -/
def configGet (s : State) (item : Nat) : State :=
  if item = 1 then miAnswer s 0 (leBytes 3 (fld s HST_MI_STAT 1 0 + 1))
  else if item = 2 then miAnswer s 0 [0, 0, 0]
  else if item = 3 then miAnswer s 0 (leBytes 3 s.host.mtu)
  else miAnswer s 4 []

/-- CONFIGURATION_GET (R423). -/
def execConfigurationGet (item : Nat) (s : State) : Host.Outcome State Fault Refusal :=
  ok (Sys2Proof.wellFormed (.configurationGet item)) (miCommand s (configGet s item))

/-- Configuration Set: a frequency of 1 to 3 for 100 kHz, 400 kHz and 1 MHz; health status change, which clears the latched change; a unit
size of at least the base of 64 bytes. -/
def configSet (s : State) (item value : Nat) : State :=
  if item = 1 ∧ 1 ≤ value ∧ value ≤ 3 then miAnswer (setFld s HST_MI_STAT 1 0 (value - 1)) 0 []
  else if item = 2 then miAnswer (clearHealth s (value != 0)) 0 []
  else if item = 3 ∧ 64 ≤ value ∧ value < 65536 then miAnswer { s with host := { s.host with mtu := value } } 0 []
  else miAnswer s 4 []

/-- CONFIGURATION_SET (R423). -/
def execConfigurationSet (item value : Nat) (s : State) : Host.Outcome State Fault Refusal :=
  ok (Sys2Proof.wellFormed (.configurationSet item value)) (miCommand s (configSet s item value))

/-- VPD_READ (R423): bytes of the vital product data. -/
def execVpdRead (offset len : Nat) (s : State) : Host.Outcome State Fault Refusal :=
  ok (Sys2Proof.wellFormed (.vpdRead offset len)) (miCommand s (miAnswer s 0 ((List.range len).map (fun i => Config.vpdByte (offset + i)))))

/-- RESET (R423): an NVM Subsystem Reset. -/
def execReset (s : State) : Host.Outcome State Fault Refusal :=
  ok (Sys2Proof.wellFormed .reset) (miCommand s (subsystemReset (miAnswer s 0 [])))

/-! ## SPDM (R463) -/

/-- A transport's connection. -/
def spdmOf (s : State) : Transport → Spdm
  | .mctp => s.sec.mctp
  | .doe => s.sec.doe

/-- Stores a transport's connection. -/
def setSpdm (s : State) (via : Transport) (c : Spdm) : State :=
  match via with
  | .mctp => { s with sec := { s.sec with mctp := c } }
  | .doe => { s with sec := { s.sec with doe := c } }

/-- Whether the responder can be reached: the firmware holds it, MCTP needs the sideband and DOE the link's configuration space. -/
def spdmUp (s : State) (via : Transport) : Bool :=
  inService s && (match via with | .mctp => endpointUp s | .doe => s.power.configReady)

/-- A response. -/
def spdmAnswer (s : State) (via : Transport) (code : Nat) (bytes : List Byte) : State := emit s (.spdm via code bytes)

/-- ERROR with a code: 1 InvalidRequest, 4 UnexpectedRequest, 7 UnsupportedRequest. -/
def spdmError (s : State) (via : Transport) (code : Nat) : State := spdmAnswer s via 0x7F (leBytes 1 code)

/-- A request that the responder receives. -/
def spdmRequest (s : State) (via : Transport) (go : State) : State := if spdmUp s via then go else s

/-- A request that needs the connection to have come as far as `need`. -/
def spdmStage (s : State) (via : Transport) (need : Spdm → Bool) (go : State) : State :=
  spdmRequest s via (if need (spdmOf s via) then go else spdmError s via 4)

/-- Whether the algorithms have been selected. -/
def negotiated (c : Spdm) : Bool := c.version && c.caps && c.asym != 0 && c.hash != 0

/-- GET_VERSION starts a connection afresh: versions 1.2 and 1.3. -/
def execGetVersion (via : Transport) (s : State) : Host.Outcome State Fault Refusal :=
  ok (Sys2Proof.wellFormed (.getVersion via))
    (spdmRequest s via (spdmAnswer (setSpdm s via { version := true }) via 0x04 (leBytes 2 0x1200 ++ leBytes 2 0x1300)))

/-- GET_CAPABILITIES: CTExponent 20, CERT, CHAL, MEAS with signature and MEAS_FRESH, and messages of 4,096 bytes. -/
def execGetCapabilities (via : Transport) (s : State) : Host.Outcome State Fault Refusal :=
  ok (Sys2Proof.wellFormed (.getCapabilities via))
    (spdmStage s via (·.version) (spdmAnswer (setSpdm s via { spdmOf s via with caps := true }) via 0x61
      (leBytes 1 20 ++ leBytes 4 0x36 ++ leBytes 4 4096 ++ leBytes 4 4096)))

/-- The algorithm that the responder selects of those that the requester offers: RSASSA_4096 before RSAPSS_4096. -/
def selectAsym (asym : Nat) : Nat := if bitOf asym 5 then 32 else if bitOf asym 6 then 64 else 0

/-- The hash that it selects: SHA_512. -/
def selectHash (hash : Nat) : Nat := if bitOf hash 2 then 4 else 0

/-- NEGOTIATE_ALGORITHMS. -/
def execNegotiateAlgorithms (via : Transport) (asym hash : Nat) (s : State) : Host.Outcome State Fault Refusal :=
  ok (Sys2Proof.wellFormed (.negotiateAlgorithms via asym hash))
    (spdmStage s via (fun c => c.version && c.caps)
      (spdmAnswer (setSpdm s via { spdmOf s via with asym := selectAsym asym, hash := selectHash hash }) via 0x63
        (leBytes 4 (selectAsym asym) ++ leBytes 4 (selectHash hash))))

/-- The digest of slot 0's certificate chain. -/
def chainDigest : List Byte := leBytes 64 (Config.sha512 Config.certificateChain).toNat

/-- GET_DIGESTS: slot 0 alone. -/
def execGetDigests (via : Transport) (s : State) : Host.Outcome State Fault Refusal :=
  ok (Sys2Proof.wellFormed (.getDigests via)) (spdmStage s via negotiated (spdmAnswer s via 0x01 ([1] ++ chainDigest)))

/-- GET_CERTIFICATE: a part of slot 0's chain, at most 4,096 bytes, with the length of what is left. -/
def certificate (s : State) (via : Transport) (slot offset len : Nat) : State :=
  let chain := Config.certificateChain
  if slot ≠ 0 ∨ chain.length ≤ offset then spdmError s via 1
  else
    let part := (chain.drop offset).take (min len 4096)
    spdmAnswer s via 0x02 (leBytes 2 part.length ++ leBytes 2 (chain.length - offset - part.length) ++ part)

/-- GET_CERTIFICATE. -/
def execGetCertificate (via : Transport) (slot offset len : Nat) (s : State) : Host.Outcome State Fault Refusal :=
  ok (Sys2Proof.wellFormed (.getCertificate via slot offset len)) (spdmStage s via negotiated (certificate s via slot offset len))

/-- A response with a fresh nonce of the responder and a signature over the requester's nonce and all that goes before it. -/
def signedAnswer (s : State) (via : Transport) (code : Nat) (nonce body : List Byte) : State :=
  let msg := body ++ freeBytes s.fresh 32
  spdmAnswer { s with fresh := s.fresh + 32 } via code (msg ++ Config.deviceSignature (nonce ++ msg))

/-- CHALLENGE: the digest of the chain, signed. -/
def execChallenge (via : Transport) (nonce : List Byte) (s : State) : Host.Outcome State Fault Refusal :=
  ok (Sys2Proof.wellFormed (.challenge via nonce)) (spdmStage s via negotiated (signedAnswer s via 0x03 nonce chainDigest))

/-! ## Measurements (R464) -/

/-- The DIGEST of the image in force: a user image's, the maquette's, or none, for which the spec gives no value. -/
def armatureDigest (s : State) : List Byte :=
  if !s.loader.inForce then freeBytes (fresh s) 64
  else if s.loader.source = .maquette then leBytes 64 Config.maquetteDigest.toNat
  else leBytes 64 (settings s).digest.toNat

/-- The owner record's bytes 0x000 to 0x207; with no record installed, no key and policy OPEN (R460). -/
def ownerBytes (s : State) : List Byte :=
  if s.nv.owner.bytes.isEmpty then List.replicate 520 0 else s.nv.owner.bytes.take 520

/-- A measurement's value. -/
def measurement (s : State) (i : Nat) : List Byte :=
  if i = 1 then leBytes 64 Config.bootRomDigest.toNat
  else if i = 2 then leBytes 64 (match fwRunning s with | none => 0 | some f => f.digest.toNat)
  else if i = 3 then (match fwRunning s with | none => List.replicate 10 0 | some f => leBytes 2 f.series ++ leBytes 4 f.revision ++ leBytes 4 f.svn)
  else if i = 4 then (if rbit s GLB_BOOT 29 then List.replicate 64 0 else leBytes 64 Config.identityDigest.toNat)
  else if i = 5 then leBytes 8 (nat64 s ARM_ACTIVE) ++ leBytes 1 (fld s ARM_STAT 27 24) ++ armatureDigest s
  else if i = 6 then leBytes 32 (layoutDigest s)
  else if i = 7 then leBytes 64 (Config.sha512 (ownerBytes s)).toNat
  else leBytes 4 (regNat s GLB_BUILD) ++ leBytes 4 (regNat s GLB_CORE) ++ leBytes 1 (one (gen8Eff s))

/-- A measurement block: its index, its length and its value. -/
def measurementBlock (s : State) (i : Nat) : List Byte := leBytes 1 i ++ leBytes 2 (measurement s i).length ++ measurement s i

/-- GET_MEASUREMENTS: their number (0), one of them, or all (0xFF); signed where the request carries a nonce. -/
def measurements (s : State) (via : Transport) (index : Nat) (nonce : List Byte) : State :=
  if 9 ≤ index ∧ index ≠ 0xFF then spdmError s via 1
  else
    let body := if index = 0 then [8] else if index = 0xFF then [8] ++ (List.range 8).flatMap (fun i => measurementBlock s (i + 1))
                else [1] ++ measurementBlock s index
    let t := if s.loader.inForce then s else { s with fresh := s.fresh + 64 }
    if nonce.isEmpty then spdmAnswer t via 0x60 body else signedAnswer t via 0x60 nonce body

/-- GET_MEASUREMENTS (R464). -/
def execGetMeasurements (via : Transport) (index : Nat) (nonce : List Byte) (s : State) : Host.Outcome State Fault Refusal :=
  ok (Sys2Proof.wellFormed (.getMeasurements via index nonce)) (spdmStage s via negotiated (measurements s via index nonce))

/-- UNSUPPORTED_REQUEST (R463). -/
def execUnsupportedRequest (via : Transport) (code : Nat) (s : State) : Host.Outcome State Fault Refusal :=
  ok (Sys2Proof.wellFormed (.unsupportedRequest via code)) (spdmRequest s via (spdmError s via 7))

end Sys2Proof.Machine
end

