-- ==== Sys2Proof/Machine/Glb.lean ====
section
/-! DEFINITION. The GLB region's acts and the pins: identity words, the owner record, the fault log and the fault times, the panel, REFCLK,
and the segments of a self-test (R9, R10, R449, R451, R460 to R462, R465, R479, R480, R485, R489, R490, R505, R506). -/
namespace Sys2Proof.Machine

/-! ## Pins -/

/-- REFCLK_STOP (R9): TB stops. -/
def execRefclkStop (s : State) : Host.Outcome State Fault Refusal :=
  ok (Sys2Proof.wellFormed .refclkStop) { s with power := { s.power with refclk := false } }

/-- REFCLK_START (R9): TB resumes. -/
def execRefclkStart (s : State) : Host.Outcome State Fault Refusal :=
  ok (Sys2Proof.wellFormed .refclkStart) { s with power := { s.power with refclk := true } }

/-- GEN8_N_CHANGE (R489): STRAP_NOW follows the pin. -/
def execGen8NChange (low : Bool) (s : State) : Host.Outcome State Fault Refusal :=
  ok true { s with power := { s.power with strapNow := low } }

/-- A write of GLB_PANEL.IDENT: 3 is discarded and counted. In blink mode the lamp stays as it is until the next half second (R490). -/
def writePanel (s : State) (v : Nat) : State :=
  let m := v % 4
  if m = 3 then accErr s
  else setNat { s with power := { s.power with identLit := if m = 2 then s.power.identLit else m == 1 } } GLB_PANEL m

/-- IDENT_BLINK (R490): in blink mode the lamp toggles. -/
def execIdentBlink (s : State) : Host.Outcome State Fault Refusal :=
  ok (Sys2Proof.wellFormed .identBlink)
    (if fld s GLB_PANEL 1 0 = 2 then { s with power := { s.power with identLit := !s.power.identLit } } else s)

/-- GLB_PANEL.CAUSE as it reads now: recovery, ID_LOST, RETIRE_LIMIT, PC_LIMIT, a half read-only, HU_ZERO for more than 60 s after the
first measurement of a start, and the coolant (R490, R495). -/
def panelCause (s : State) : Nat :=
  let half := (List.range s.build.sp).any (fun p => halfReadOnly s p 0 || halfReadOnly s p 1)
  let zero := match s.ledger.huZeroSince with | none => false | some t => s.ledger.huFirst && decide (6000000000 < s.tb - t)
  one s.power.recovery + 2 * one (rbit s GLB_BOOT 29) + 4 * one (rbit s GLB_CORE 31) + 8 * one (rbit s TIER_STAT 31) + 16 * one half +
  32 * one zero + 64 * one s.ledger.coolBad

/-- FAULT_N: asserted while a cause is set and during a thermal trip, released under PWRDIS and below 37 V (R490). -/
def faultN (s : State) : Bool := s.power.input && !s.power.pwrdis && (panelCause s != 0 || s.power.trip)

/-! ## Identity words and the fault log -/

/-- A write of GLB_IDSEL copies an identity word in one update; above 1,975 it is discarded and counted (R449, R451). -/
def writeIdSel (s : State) (v : Nat) : State :=
  let i := v % 2048
  if 1975 < i then accErr s
  else set64 (setNat s GLB_IDSEL i) GLB_IDWORD (if rbit s GLB_BOOT 29 then 0 else Sparse.get 0 s.nv.idWords i)

/-- The bytes of a fault-log entry (R485). -/
def faultBytes (r : FaultRec) : List Byte :=
  leBytes 4 r.event ++ leBytes 4 0 ++ leBytes 8 r.time ++ leBytes 1 r.cls ++ leBytes 1 r.kind ++ leBytes 1 r.cause ++ leBytes 1 0 ++
  leBytes 4 r.unit ++ leBytes 4 r.elapsed ++ leBytes 4 0

/-- A write of GLB_FREC_SEL copies a fault-log entry in one update. -/
def writeFrecSel (s : State) (v : Nat) : State :=
  let i := v % 4096
  setWords (setNat s GLB_FREC_SEL i) GLB_FREC_DATA (wordsOf (faultBytes (Sparse.get {} s.nv.faultLog i)) 8)

/-! ## Fault windows (R479, R480, R505, R506) -/

/-- A resource's window passes without a further transient fault. -/
def windowLapse (s : State) (cls unit : Nat) : State :=
  match ageOf s cls unit with
  | none => s
  | some a =>
    if windowOf s cls ≤ elapsedOf s a then
      let ages := updateWhere (fun x => x.cls == cls && x.unit == unit) (fun x => { x with lapsed := true }) s.faults.ages
      { s with faults := { s.faults with ages := ages } }
    else s

/-- FAULT_WINDOW_LAPSE (R479). -/
def execFaultWindowLapse (cls unit : Nat) (s : State) : Host.Outcome State Fault Refusal :=
  ok (Sys2Proof.wellFormed (.faultWindowLapse cls unit)) (windowLapse s cls unit)

/-- FAULT_TIME_SAVE (R479, R506): the firmware saves. -/
def execFaultTimeSave (s : State) : Host.Outcome State Fault Refusal :=
  ok (Sys2Proof.wellFormed .faultTimeSave) (if s.power.standby = 7 then showHours (saveFaultTimes s) else s)

/-- A write of GLB_FW_WINDOW_HI is held for the next write of LO of its class (R505). -/
def writeWindowHi (s : State) (c : Nat) (v : Word) : State :=
  { s with sec := { s.sec with fwHi := Sparse.set none s.sec.fwHi c (some v) } }

/-- A write of GLB_FW_WINDOW_LO forms the WINDOW with the HI that is held, or with HI's present value, and applies it or discards the pair:
lock bit 7, and the range of R61. -/
def writeWindowLo (s : State) (c : Nat) (v : Word) : State :=
  let hi := match Sparse.get none s.sec.fwHi c with | some h => h.toNat | none => regNat s (GLB_FW_WINDOW c + 4)
  let w := v.toNat + 2 ^ 32 * hi
  let s := { s with sec := { s.sec with fwHi := Sparse.set none s.sec.fwHi c none } }
  if bitOf (settings s).lockMask 7 ∨ w < 100000000 ∨ 60480000000000 < w then accErr s else set64 s (GLB_FW_WINDOW c) w

/-! ## The owner record (R460, R461) -/

/-- The RESULT of an owner record: 0 where it passes. -/
def ownerResult (s : State) (r : List Byte) : Nat :=
  let modulus := r.take 512
  let zero := modulus.all (fun b => b == 0)
  let policy := fieldAt r 0x200 1
  let quiet (off n : Nat) : Bool := ((r.drop off).take n).all (fun b => b == 0)
  if !(quiet 0x201 3 && quiet 0x218 40) ∨ 1 < policy ∨ (zero ∧ policy ≠ 0) then 1
  else if fieldAt r 0x204 4 ≠ s.nv.owner.seq + 1 then 2
  else if (r.drop 0x208).take 16 ≠ (s.nv.serial ++ List.replicate 16 0).take 16 then 3
  else
    let sig := (r.drop 0x240).take 512
    let good := if ownerKey s.nv.owner then Config.rsaOk s.nv.owner.modulus (r.take 0x240) sig else sig.all (fun b => b == 0)
    if good then 0 else 4

/-- An install ends with a RESULT. -/
def installDone (s : State) (result : Nat) : State := setFld (setBit s GLB_OWN_STAT 31 true) GLB_OWN_STAT 2 0 result

/-- INSTALL: the record is checked and stored in one step. What RESULT says where the record cannot be read is not stated: a free code of
failure. -/
def installEff (s : State) : State :=
  if armState s ≠ 0 then installDone s 5
  else
    let a := nat64 s GLB_OWN_SRC
    let r := if 10 ≤ s.power.core ∧ mappedSlm (settings s) a 1088 then readRange s a 1088 else (s, none)
    match r.2 with
    | none => installDone (draw r.1) (1 + (Config.freeWord (fresh r.1)).toNat % 4)
    | some l =>
      let s := r.1
      let k := ownerResult s l
      if k ≠ 0 then installDone s k
      else
        let o : Owner := { modulus := l.take 512, policy := fieldAt l 0x200 1, seq := fieldAt l 0x204 4, bytes := l.take 0x208 }
        let s := { s with nv := { s.nv with owner := o } }
        let s := setBit (setBit (setNat s GLB_OWN_SEQ o.seq) GLB_BOOT 25 (ownerKey o)) GLB_BOOT 24 (o.policy == 1)
        installDone s 0

/-- A write of GLB_OWN_CTRL. -/
def writeOwnCtrl (s : State) (v : Nat) : State := if bitOf v 0 then installEff s else s

/-! ## Self-test (R465) -/

/-- The test ends, and its log says which segment failed first. -/
def endSelfTest (s : State) : State :=
  let h := s.host
  let entry := (h.selfTest, if h.selfTestFail = 0 then 0 else 7, h.selfTestFail)
  let log := (entry :: h.selfTestLog).take 20
  { s with host := { h with selfTest := 0, selfTestSeg := 0, selfTestFail := 0, selfTestTile := none, selfTestLog := log } }

/-- Notes a segment that failed, the first one alone. -/
def noteSegment (s : State) (good : Bool) : State :=
  if good ∨ s.host.selfTestFail ≠ 0 then s else { s with host := { s.host with selfTestFail := s.host.selfTestSeg } }

/-- The next idle live tile that segment 2 tests, from tile `t` on. -/
def nextTest (s : State) (t : Nat) : Option Nat :=
  (List.range' t (1024 - t)).find? (fun u => tileLive s u && (tile s u).part.isNone)

/-- Segment 3 begins with a measurement. -/
def beginSegment3 (s : State) : State :=
  beginMeasure { s with host := { s.host with selfTestSeg := 3, selfTestTile := none } }

/-- Segment 2 goes on from tile `t`, or segment 3 begins. -/
def beginTile (s : State) (t : Nat) : State :=
  match nextTest s t with
  | some u => { s with host := { s.host with selfTestSeg := 2, selfTestTile := some u } }
  | none => beginSegment3 s

/-- A segment ends, or a tile's test within segment 2. -/
def segmentEff (s : State) (good : Bool) (t : Nat) : State :=
  if s.host.selfTest = 0 then s
  else if s.host.selfTestSeg = 2 then
    if s.host.selfTestTile = some t then
      let s := noteSegment s good
      beginTile (if good then s else tileFault s t 4) (t + 1)
    else s
  else
    let s := noteSegment s good
    if s.host.selfTestSeg = 1 then beginTile s 0
    else if s.host.selfTestSeg = 3 ∧ s.host.selfTest = 2 then { s with host := { s.host with selfTestSeg := 4 } }
    else endSelfTest s

/-- SELF_TEST_SEGMENT_DONE (R465). -/
def execSelfTestSegmentDone (ok_ : Bool) (tile_ : Nat) (s : State) : Host.Outcome State Fault Refusal :=
  ok (decide (tile_ < 1024)) (segmentEff s ok_ tile_)

end Sys2Proof.Machine
end

