-- ==== Sys2Proof/Machine/Window.lean ====
section
/-! DEFINITION. The control window as the host meets it: which accesses are served, what a read gives and leaves, and what a write of each
register does (R3, R12 to R18, R37 to R39, R66, R80, R459). -/
namespace Sys2Proof.Machine

/-! ## Which accesses are served -/

/-- The registers that answer in recovery (R459). -/
def recoveryRegs : List Nat := [GLB_ID, GLB_BUILD, GLB_BOOT, GLB_PWRON]

/-- Whether the host reaches the window: the module is powered, not on its way down, and its PCI function is configured (R396, R447). -/
def windowOpen (s : State) : Bool := running s && s.power.configReady

/-- Serves an access: nothing happens in the region of an unfitted unit (R3); an access of another size or alignment (R12), of a reserved
range (R38), or in recovery of a register that does not answer (R459), counts in GLB_ACC_ERR. -/
def serve (s : State) (off size : Nat) (go : State → State) : State :=
  if s.power.recovery && !recoveryRegs.contains off then accErr s
  else if unfittedOffset s.build off then s
  else if size = 4 ∧ off % 4 = 0 ∧ (regRow off).isSome then go s
  else accErr s

/-! ## Reads -/

/-- Whether an offset lies in the FAB block of a tree that the armature does not define; such a block reads 0. -/
def undefinedTree (s : State) (off : Nat) : Bool :=
  decide (0x50400 ≤ off) && decide (off < 0x50800) && (treeRec s ((off - 0x50400) / 64)).isNone

/-- What a tile's register reads: TIL_STAT shows the role and the state as they are now (R503). -/
def tileNow (s : State) (off : Nat) : Nat :=
  let t := (off - 0x1000000) / 0x1000
  if (off - 0x1000000) % 0x1000 = 0 then putField (putField (regNat s off) 6 4 (tileRole s t)) 3 0 (tileState s t (tile s t)) else regNat s off

/-- What a register reads now: what the device holds, but for those that show something that moves with time or with a pin, and those that
are write-only. -/
def regNow (s : State) (off : Nat) : Nat :=
  if off = GLB_PANEL then fld s GLB_PANEL 1 0 + 4 * one s.power.strapNow + 65536 * panelCause s
  else if off = GLB_HOURS then min (s.faults.powered / 360000000000) allBits
  else if off = FAB_TIME then s.fabric.ft
  else if off = FAB_TIME + 4 then s.fabric.ft / 2 ^ 32
  else if off = FAB_TIME_SET ∨ off = FAB_TIME_SET + 4 then 0
  else if undefinedTree s off then 0
  else if 0x100000 ≤ off ∧ off < 0x200000 ∧ (off - 0x100000) % 0x40000 = 0x2000C then castAge s ((off - 0x100000) / 0x40000)
  else if 0x1000000 ≤ off then tileNow s off
  else regNat s off

/-- A read that is served: a counter that a read clears is left at 0; the low word of a 64-bit counter latches the high word, and the next
read of the high word gives what was latched (R13, R17). -/
def readServed (off : Nat) (s : State) : State :=
  let now : Word := BitVec.ofNat 32 (regNow s off)
  match regRow off with
  | none => s
  | some r =>
    if r.rc then setReg { s with readData := now } off 0
    else if r.low64 then
      { s with readData := now, latch := Sparse.set none s.latch (off + 4) (some (BitVec.ofNat 32 (regNow s (off + 4)))) }
    else { s with readData := (Sparse.get none s.latch off).getD now, latch := Sparse.set none s.latch off none }

/-- A read of the window. What is not served reads 0, a read of another size or alignment among it (R12). -/
def busRead (s : State) (off size : Nat) : State := if windowOpen s then serve { s with readData := 0 } off size (readServed off) else s

/-! ## Writes -/

/-- A register's word after a write: its RW bits take the value, its W1C bits clear where the value has a 1, and all others stay (R13, R14). -/
def written (r : RegRow) (old v : Word) : Word :=
  let rw : Word := BitVec.ofNat 32 r.rw
  (old &&& ~~~rw &&& ~~~(BitVec.ofNat 32 r.w1c &&& v)) ||| (v &&& rw)

/-- A write that only stores. -/
def store (s : State) (off v : Nat) : State :=
  match regRow off with
  | none => s
  | some r => setReg s off (written r (reg s off) (BitVec.ofNat 32 v))

/-- A write of an address whose low `n` bits must be 0. -/
def storeAligned (s : State) (off n v : Nat) : State := if v % 2 ^ n = 0 then store s off v else accErr s

/-- A write of a register that the armature sets: discarded and counted during step 7 of a re-form (R80), under its lock bit, or out of
bounds (R66). -/
def storeArm (s : State) (bit : Nat) (good : Bool) (off v : Nat) : State :=
  if armState s = 6 ∨ bitOf (settings s).lockMask bit = true ∨ good = false then accErr s else store s off v

/-- The lower bound of a domain's budget (R59). -/
def domFloor (d : Nat) : Nat := if d = 0 then 200 else if d = 1 then 100 else if d = 2 then 40 else 30

/-- A write in GLB. -/
def writeGlb (s : State) (off v : Nat) : State :=
  if off = GLB_PANEL then writePanel s v
  else if off = GLB_IDSEL then writeIdSel s v
  else if off = GLB_OWN_SRC then storeAligned s off 6 v
  else if off = GLB_OWN_CTRL then writeOwnCtrl s v
  else if 0x80 ≤ off ∧ off < 0xA0 then
    (if armState s = 6 then accErr s
     else if off % 8 = 0 then writeWindowLo s ((off - 0x80) / 8) (BitVec.ofNat 32 v)
     else writeWindowHi s ((off - 0x80) / 8) (BitVec.ofNat 32 v))
  else if 0xA0 ≤ off ∧ off < 0xB0 then storeArm s 7 (v % 16 != 0) off v
  else if off = GLB_FREC_SEL then writeFrecSel s v
  else store s off v

/-- A write in LED. -/
def writeLed (s : State) (off v : Nat) : State :=
  let a := settings s
  if off = LED_CTRL then
    let s := setBit s LED_CTRL 0 (bitOf v 0)
    if bitOf v 8 then beginMeasure s else s
  else if off = LED_BUDGET then storeArm s 0 (inRange (v % 4096) 800 a.totalW) off v
  else if off = LED_VLIMIT then
    storeArm s 2 (decide (a.vminMv ≤ bitsOf v 9 0) && decide (bitsOf v 9 0 ≤ bitsOf v 25 16) && decide (bitsOf v 25 16 ≤ a.vmaxMv)) off v
  else if off = LED_VSET then
    (if v % 1024 % 10 = 0 ∧ inRange (v % 1024) (fld s LED_VLIMIT 9 0) (fld s LED_VLIMIT 25 16) then store s off v else accErr s)
  else if off = LED_HU_PERIOD then (if inRange (v % 256) 1 168 then store s off v else accErr s)
  else if 0x10100 ≤ off ∧ off < 0x10170 ∧ off % 16 = 0 then
    let d := (off - 0x10100) / 16
    storeArm s 1 (inRange (v % 4096) (domFloor d) (a.domW.getD d 0)) off v
  else store s off v

/-- A write in ARM. -/
def writeArm (s : State) (off v : Nat) : State := if off = ARM_CTRL then armCommand s (v % 16) (bitOf v 8) else store s off v

/-- A write in GRF. -/
def writeGrf (s : State) (off v : Nat) : State :=
  if off = GRF_SEQ_SEL then writeSeqSel s v
  else if 0x30100 ≤ off ∧ off < 0x30140 then writeClassCtrl s ((off - 0x30100) / 4) v
  else store s off v

/-- A write in TIER. -/
def writeTier (s : State) (off v : Nat) : State :=
  if off = TIER_MQ_BASE ∨ off = TIER_MQ_BASE + 4 then writeMqBase s off v
  else if off = TIER_MQ_SIZE then writeMqSize s v
  else if off = TIER_MQ_TAIL then writeMqTail s v
  else if off = TIER_CHK_CTRL then writeChkCtrl s v
  else store s off v

/-- A write in a tree's FAB block. -/
def writeTree (s : State) (t k v : Nat) : State :=
  if (treeRec s t).isNone then accErr s
  else if k = 0x4 then writeTreeCtrl s t v
  else if k = 0x8 then writeTreeStep s t v
  else if k = 0xC then storeArm s 3 (v != 0) (treeReg t k) v
  else if k = 0x10 then storeArm s 4 true (treeReg t k) v
  else if k = 0x14 then storeAligned s (treeReg t k) 12 v
  else if k = 0x20 then writePostCount s t v
  else store s (treeReg t k) v

/-- A write in FAB. -/
def writeFab (s : State) (off v : Nat) : State :=
  if off = FAB_TIME_SET ∨ off = FAB_TIME_SET + 4 then writeTimeSet s off v
  else if 0x50400 ≤ off ∧ off < 0x50800 then writeTree s ((off - 0x50400) / 64) ((off - 0x50400) % 64) v
  else if off = FAB_PEER_SRC ∨ off = FAB_PEER_DST then storeAligned s off 6 v
  else if off = FAB_PEER_LEN then storeAligned s off 6 v
  else if off = FAB_PEER_CTRL then writePeerCtrl s v
  else if off = FAB_PEER_WIN then storeAligned s off 12 v
  else store s off v

/-- A write in UPD. -/
def writeUpd (s : State) (off v : Nat) : State :=
  let t := (off - 0x60C00) / 64
  let k := (off - 0x60C00) % 64
  if off = UPD_PROG_CTRL then writeProgCtrl s v
  else if off = UPD_LOG_SEL then writeUpdLogSel s v
  else if off < 0x60C00 then store s off v
  else if k = 0xC then writeLrTag s t v
  else if k = 0x4 ∨ 0x20 ≤ k ∧ k < 0x38 then writeUpdWindow s t k v
  else store s off v

/-- What a flash read of a raw command answers where the command came as a plain register write: free values. -/
def freeStage (f : Nat) : ReadStage :=
  let n := (Config.freeWord f).toNat % 5
  if n = 0 then .hard
  else if n = 1 then .retry (1 + (Config.freeWord (f + 1)).toNat % 7) ((Config.freeWord (f + 2)).toNat % 8)
  else if n = 2 then .soft
  else if n = 3 then .rebuilt
  else .unreadable

/-- A plain register write of MED_RAW_CTRL. -/
def writeRawFree (s : State) (p v : Nat) : State :=
  if bitsOf v 1 0 = 1 ∨ bitsOf v 1 0 = 2 then
    writeRawCtrl { s with fresh := s.fresh + 19000 } p v (freeStage (fresh s)) (freeBytes (fresh s + 3) 18592)
  else writeRawCtrl s p v .hard []

/-- A write in the MED sub-block of a package. -/
def writeMed (s : State) (p k v : Nat) : State :=
  let a := settings s
  if k = 0x4 then writeMedCtrl s p v
  else if 0x10 ≤ k ∧ k < 0x30 then
    storeArm s 5 (decide ((k - 0x10) / 4 < a.egrpCount) && inRange (v % 262144) 10000 200000) (medReg p k) v
  else if 0x30 ≤ k ∧ k < 0x50 then
    storeArm s 6 (decide ((k - 0x30) / 4 < a.egrpCount) && inRange (v % 2048) 50 2000) (medReg p k) v
  else if k = 0x50 then writeBlkSel s p v
  else if k = 0x60 then writeRawFree s p v
  else if k = 0x6C then storeAligned s (medReg p k) 6 v
  else store s (medReg p k) v

/-- A write in a package's block. -/
def writePackage (s : State) (p k v : Nat) : State :=
  let off := packageBase p + k
  if k = 0x4 then writeScnCtrl s p v
  else if k = 0x10 ∨ k = 0x14 then writeJqBase s off v
  else if k = 0x18 then writeJqSize s v
  else if k = 0x24 then writeJqCancel s v
  else if k = 0x10004 then writeSrcCtrl s p v
  else if k = 0x10010 ∨ k = 0x10014 then writeQqBase s off v
  else if k = 0x10018 then writeQqSize s v
  else if k = 0x10024 then writeQqCancel s v
  else if k = 0x20004 then writeFtlCtrl s p v
  else if k = 0x20008 then writeCastCycle s p v
  else if 0x30000 ≤ k then writeMed s p (k - 0x30000) v
  else store s off v

/-- The control registers of a tile (R39). -/
def tileControls : List Nat := [0x4, 0x14, 0x18, 0x80]

/-- A write in a tile's block. -/
def writeTile (s : State) (t k v : Nat) : State :=
  if !tileLive s t && tileControls.contains k then accErr s
  else if k = 0x4 then writeTilCtrl s t v
  else if k = 0x14 then writeTilRamp s t v
  else if k = 0x18 then writeTilWdog s t v
  else if k = 0x80 then writeHistCtrl s t v
  else store s (tilReg t k) v

/-- The registers marked "arm" that are read-only (R18): ARM_ACTIVE, ARM_LOCK, LED_STAT, HST_PS_CAP0, UPD_STAT, each FTL_WBUF_CAP and each
TIL_STAT. -/
def armReadOnly (off : Nat) : Bool :=
  off == ARM_ACTIVE || off == ARM_ACTIVE + 4 || off == ARM_LOCK || off == LED_STAT || off == HST_PS_CAP 0 || off == UPD_STAT ||
  (decide (0x100000 ≤ off) && decide (off < 0x200000) && decide ((off - 0x100000) % 0x40000 = 0x20018)) ||
  (decide (0x1000000 ≤ off) && decide ((off - 0x1000000) % 0x1000 = 0))

/-- A write by the register region that its offset lies in (R37). -/
def writeRegister (off v : Nat) (s : State) : State :=
  if off < 0x10000 then writeGlb s off v
  else if off < 0x20000 then writeLed s off v
  else if off < 0x30000 then writeArm s off v
  else if off < 0x40000 then writeGrf s off v
  else if off < 0x50000 then writeTier s off v
  else if off < 0x60000 then writeFab s off v
  else if off < 0x70000 then writeUpd s off v
  else if off < 0x100000 then store s off v
  else if off < 0x200000 then writePackage s ((off - 0x100000) / 0x40000) ((off - 0x100000) % 0x40000) v
  else writeTile s ((off - 0x1000000) / 0x1000) ((off - 0x1000000) % 0x1000) v

/-- A write that is served. During step 7 of a re-form a write of a read-only register marked "arm" counts like one of any other "arm"
register (R80). -/
def writeServed (off v : Nat) (s : State) : State := if armState s = 6 ∧ armReadOnly off then accErr s else writeRegister off v s

/-- A write of the window. -/
def busWriteSized (s : State) (off size v : Nat) : State := if windowOpen s then serve s off size (writeServed off v) else s

/-- A 32-bit write of the window. -/
def busWrite (s : State) (off v : Nat) : State := busWriteSized s off 4 v

end Sys2Proof.Machine
end

