-- ==== Sys2Proof/Machine/Writes.lean ====
section
/-! DEFINITION. The commands that are writes or reads of the control window: each composes the value and makes the access. -/
namespace Sys2Proof.Machine

/-! ## The control window (R12, R13, R17) -/

/-- REGISTER_WRITE (R12, R13, R37). -/
def execRegisterWrite (off : Nat) (size : Nat) (val : Word) (s : State) : Host.Outcome State Fault Refusal :=
  ok (Sys2Proof.wellFormed (.registerWrite off size val))
    (busWriteSized s off size val.toNat)

/-- RC_COUNTER_READ (R13, R16): the counter is read and cleared. -/
def execRcCounterRead (off : ReadAt) (s : State) : Host.Outcome State Fault Refusal :=
  ok (Sys2Proof.wellFormed (.rcCounterRead off))
    (busRead s off.off off.size)

/-- LOW_WORD_READ (R17): the low word is read and the high word latched. -/
def execLowWordRead (off : ReadAt) (s : State) : Host.Outcome State Fault Refusal :=
  ok (Sys2Proof.wellFormed (.lowWordRead off))
    (busRead s off.off off.size)

/-! ## ARM_CTRL (R75, R76, R80) -/

/-- VALIDATE (R75): CMD 1 checks an image. -/
def execValidate (drain : Bool) (s : State) : Host.Outcome State Fault Refusal :=
  ok (Sys2Proof.wellFormed (.validate drain))
    (busWrite s ARM_CTRL (1 + 256 * one drain))

/-- STAGE (R75): CMD 2 checks an image and stores it in a slot. -/
def execStage (drain : Bool) (s : State) : Host.Outcome State Fault Refusal :=
  ok (Sys2Proof.wellFormed (.stage drain))
    (busWrite s ARM_CTRL (2 + 256 * one drain))

/-- REFORM (R75): CMD 3 re-forms to the staged image. -/
def execReform (drain : Bool) (s : State) : Host.Outcome State Fault Refusal :=
  ok (Sys2Proof.wellFormed (.reform drain))
    (busWrite s ARM_CTRL (3 + 256 * one drain))

/-- STAGE_AND_REFORM (R75): CMD 4 stages an image and re-forms to it. -/
def execStageAndReform (drain : Bool) (s : State) : Host.Outcome State Fault Refusal :=
  ok (Sys2Proof.wellFormed (.stageAndReform drain))
    (busWrite s ARM_CTRL (4 + 256 * one drain))

/-- REFORM_TO_MAQUETTE (R75): CMD 5 re-forms to the maquette. -/
def execReformToMaquette (drain : Bool) (s : State) : Host.Outcome State Fault Refusal :=
  ok (Sys2Proof.wellFormed (.reformToMaquette drain))
    (busWrite s ARM_CTRL (5 + 256 * one drain))

/-- REFORM_TO_OTHER_SLOT (R75): CMD 6 re-forms to the other slot. -/
def execReformToOtherSlot (drain : Bool) (s : State) : Host.Outcome State Fault Refusal :=
  ok (Sys2Proof.wellFormed (.reformToOtherSlot drain))
    (busWrite s ARM_CTRL (6 + 256 * one drain))

/-! ## Tiles (R138, R140, R141) -/

/-- RETIRE (R138). -/
def execRetire (tile : Nat) (key : Nat) (s : State) : Host.Outcome State Fault Refusal :=
  ok (Sys2Proof.wellFormed (.retire tile key))
    (busWrite s (tilReg tile 4) (key % 256 * 2 ^ 24 + 1))

/-- HISTOGRAM_CLEAR (R141). -/
def execHistogramClear (tile : Nat) (freeze : Bool) (mode : Nat) (s : State) : Host.Outcome State Fault Refusal :=
  ok (Sys2Proof.wellFormed (.histogramClear tile freeze mode))
    (busWrite s (tilReg tile 0x80) (512 + 256 * one freeze + mode))

/-- FREEZE (R140): MODE stays as it is. -/
def execFreeze (tile : Nat) (on : Bool) (s : State) : Host.Outcome State Fault Refusal :=
  ok (Sys2Proof.wellFormed (.freeze tile on))
    (busWrite s (tilReg tile 0x80) (256 * one on + fld s (tilReg tile 0x80) 1 0))

/-- HISTOGRAM_MODE (R140): FREEZE stays as it is. -/
def execHistogramMode (tile : Nat) (mode : Nat) (s : State) : Host.Outcome State Fault Refusal :=
  ok (Sys2Proof.wellFormed (.histogramMode tile mode))
    (busWrite s (tilReg tile 0x80) (256 * fld s (tilReg tile 0x80) 8 8 + mode))

/-! ## Graph engine and tiers (R172, R193, R211) -/

/-- GRF_SEQ_SEL (R172). -/
def execGrfSeqSel (index : Nat) (s : State) : Host.Outcome State Fault Refusal :=
  ok (Sys2Proof.wellFormed (.grfSeqSel index))
    (busWrite s GRF_SEQ_SEL index)

/-- TIER_MQ_TAIL (R193). -/
def execTierMqTail (index : Nat) (s : State) : Host.Outcome State Fault Refusal :=
  ok (Sys2Proof.wellFormed (.tierMqTail index))
    (busWrite s TIER_MQ_TAIL index)

/-- TIER_MQ_SIZE (R193). -/
def execTierMqSize (entries : Nat) (s : State) : Host.Outcome State Fault Refusal :=
  ok (Sys2Proof.wellFormed (.tierMqSize entries))
    (busWrite s TIER_MQ_SIZE entries)

/-- CHECKER_ENABLE (R211): EN alone. -/
def execCheckerEnable (key : Nat) (en : Bool) (s : State) : Host.Outcome State Fault Refusal :=
  ok (Sys2Proof.wellFormed (.checkerEnable key en))
    (busWrite s TIER_CHK_CTRL (key % 256 * 2 ^ 24 + one en))

/-- WRITE_RAW (R211): a line is stored without encoding. -/
def execWriteRaw (key : Nat) (en : Bool) (s : State) : Host.Outcome State Fault Refusal :=
  ok (Sys2Proof.wellFormed (.writeRaw key en))
    (busWrite s TIER_CHK_CTRL (key % 256 * 2 ^ 24 + 1 * 16 + one en))

/-- READ_RAW (R211): a line is read as stored. -/
def execReadRaw (key : Nat) (en : Bool) (s : State) : Host.Outcome State Fault Refusal :=
  ok (Sys2Proof.wellFormed (.readRaw key en))
    (busWrite s TIER_CHK_CTRL (key % 256 * 2 ^ 24 + 2 * 16 + one en))

/-- CHECKER_READ (R211): a line is read through the code. -/
def execCheckerRead (key : Nat) (en : Bool) (s : State) : Host.Outcome State Fault Refusal :=
  ok (Sys2Proof.wellFormed (.checkerRead key en))
    (busWrite s TIER_CHK_CTRL (key % 256 * 2 ^ 24 + 3 * 16 + one en))

/-! ## Scan and search rings (R223, R241, R271, R274) -/

/-- SCN_JQ_TAIL (R223). -/
def execScnJqTail (index : Nat) (s : State) : Host.Outcome State Fault Refusal :=
  ok (Sys2Proof.wellFormed (.scnJqTail index))
    (busWrite s (scnReg 0 0x1C) index)

/-- SCN_JQ_SIZE (R223). -/
def execScnJqSize (entries : Nat) (s : State) : Host.Outcome State Fault Refusal :=
  ok (Sys2Proof.wellFormed (.scnJqSize entries))
    (busWrite s (scnReg 0 0x18) entries)

/-- SCN_JQ_CANCEL (R241). -/
def execScnJqCancel (index : Nat) (s : State) : Host.Outcome State Fault Refusal :=
  ok (Sys2Proof.wellFormed (.scnJqCancel index))
    (busWrite s (scnReg 0 0x24) index)

/-- SRC_QQ_TAIL (R271). -/
def execSrcQqTail (index : Nat) (s : State) : Host.Outcome State Fault Refusal :=
  ok (Sys2Proof.wellFormed (.srcQqTail index))
    (busWrite s (srcReg 0 0x1C) index)

/-- SRC_QQ_SIZE (R271). -/
def execSrcQqSize (entries : Nat) (s : State) : Host.Outcome State Fault Refusal :=
  ok (Sys2Proof.wellFormed (.srcQqSize entries))
    (busWrite s (srcReg 0 0x18) entries)

/-- SRC_QQ_CANCEL (R274). -/
def execSrcQqCancel (index : Nat) (s : State) : Host.Outcome State Fault Refusal :=
  ok (Sys2Proof.wellFormed (.srcQqCancel index))
    (busWrite s (srcReg 0 0x24) index)

/-! ## Trees, fabric time and the peer engine (R292, R295, R306, R311, R316) -/

/-- POST (R295): COUNT segments from POST_FIRST. -/
def execPost (tree : Nat) (count : Nat) (s : State) : Host.Outcome State Fault Refusal :=
  ok (Sys2Proof.wellFormed (.post tree count))
    (busWrite s (treeReg tree 0x20) count)

/-- A write of FAB_TREE_CTRL that gives a command and keeps the tree's settings. -/
def treeCmd (s : State) (t cmd : Nat) : State := busWrite s (treeReg t 0x4) (fld s (treeReg t 0x4) 11 8 * 256 + cmd)

/-- HOST_ABORT (R306). -/
def execHostAbort (tree : Nat) (s : State) : Host.Outcome State Fault Refusal :=
  ok (Sys2Proof.wellFormed (.hostAbort tree))
    (treeCmd s tree 1)

/-- RESUME (R311). -/
def execResume (tree : Nat) (s : State) : Host.Outcome State Fault Refusal :=
  ok (Sys2Proof.wellFormed (.resume tree))
    (treeCmd s tree 2)

/-- HOLD (R311). -/
def execHold (tree : Nat) (s : State) : Host.Outcome State Fault Refusal :=
  ok (Sys2Proof.wellFormed (.hold tree))
    (treeCmd s tree 3)

/-- RELEASE (R311). -/
def execRelease (tree : Nat) (s : State) : Host.Outcome State Fault Refusal :=
  ok (Sys2Proof.wellFormed (.release tree))
    (treeCmd s tree 4)

/-- FAB_TIME_SET (R292): HI, and then LO. -/
def execFabTimeSet (hi : Word) (lo : Word) (s : State) : Host.Outcome State Fault Refusal :=
  ok (Sys2Proof.wellFormed (.fabTimeSet hi lo))
    (busWrite (busWrite s (FAB_TIME_SET + 4) hi.toNat) FAB_TIME_SET lo.toNat)

/-- GO (R316). -/
def execGo (port : Nat) (s : State) : Host.Outcome State Fault Refusal :=
  ok (Sys2Proof.wellFormed (.go port))
    (busWrite s FAB_PEER_CTRL (256 + port))

/-! ## Update unit (R325, R331, R337) -/

/-- LOAD (R325). -/
def execLoad (slot : Nat) (s : State) : Host.Outcome State Fault Refusal :=
  ok (Sys2Proof.wellFormed (.load slot))
    (busWrite s UPD_PROG_CTRL (16 + slot))

/-- LR_TAG_COMMIT (R331). -/
def execLrTagCommit (tree : Nat) (step : Word) (s : State) : Host.Outcome State Fault Refusal :=
  ok (Sys2Proof.wellFormed (.lrTagCommit tree step))
    (busWrite s (updReg tree 0xC) step.toNat)

/-- UPD_LOG_SEL (R337). -/
def execUpdLogSel (index : Nat) (s : State) : Host.Outcome State Fault Refusal :=
  ok (Sys2Proof.wellFormed (.updLogSel index))
    (busWrite s UPD_LOG_SEL index)

/-! ## Flash (R345, R352, R374, R377) -/

/-- WRITE_BUFFER_FLUSH (FTL_CTRL.FLUSH): WM_PCT stays as it is. -/
def execWriteBufferFlush (package : Nat) (s : State) : Host.Outcome State Fault Refusal :=
  ok (Sys2Proof.wellFormed (.writeBufferFlush package))
    (busWrite s (ftlReg package 4) (256 + fld s (ftlReg package 4) 7 0))

/-- CAST_NOW (FTL_CTRL.CAST_NOW, R345): WM_PCT stays as it is. -/
def execCastNow (package : Nat) (s : State) : Host.Outcome State Fault Refusal :=
  ok (Sys2Proof.wellFormed (.castNow package))
    (busWrite s (ftlReg package 4) (512 + fld s (ftlReg package 4) 7 0))

/-- A write of MED_RAW_CTRL, with what the medium answers. -/
def rawWriteBus (s : State) (p key cmd : Nat) (stage : ReadStage) (sensed : List Byte) : State :=
  if windowOpen s then serve s (medReg p 0x60) 4 (fun s => writeRawCtrl s p (key % 256 * 2 ^ 24 + cmd) stage sensed) else s

/-- RAW_READ (R377). -/
def execRawRead (package : Nat) (key : Nat) (stage : ReadStage) (s : State) : Host.Outcome State Fault Refusal :=
  ok (Sys2Proof.wellFormed (.rawRead package key stage))
    (rawWriteBus s package key 1 stage [])

/-- READ_NOECC (R377). -/
def execReadNoecc (package : Nat) (key : Nat) (sensed : List Byte) (s : State) : Host.Outcome State Fault Refusal :=
  ok (Sys2Proof.wellFormed (.readNoecc package key sensed))
    (rawWriteBus s package key 2 .hard sensed)

/-- MED_BLK_SEL (R374). -/
def execMedBlkSel (package : Nat) (val : Word) (s : State) : Host.Outcome State Fault Refusal :=
  ok (Sys2Proof.wellFormed (.medBlkSel package val))
    (busWrite s (medReg package 0x50) val.toNat)

/-! ## Ledger, owner record, identity and fault registers (R438, R449, R461, R485, R505) -/

/-- HU_NOW (R438): VMODE stays as it is. -/
def execHuNow (s : State) : Host.Outcome State Fault Refusal :=
  ok (Sys2Proof.wellFormed .huNow)
    (busWrite s LED_CTRL (256 + fld s LED_CTRL 0 0))

/-- INSTALL (R461). -/
def execInstall (s : State) : Host.Outcome State Fault Refusal :=
  ok (Sys2Proof.wellFormed .install)
    (busWrite s GLB_OWN_CTRL 1)

/-- GLB_IDSEL (R449). -/
def execGlbIdsel (index : Nat) (s : State) : Host.Outcome State Fault Refusal :=
  ok (Sys2Proof.wellFormed (.glbIdsel index))
    (busWrite s GLB_IDSEL index)

/-- FW_WINDOW_HI (R505). -/
def execFwWindowHi (cls : Nat) (val : Word) (s : State) : Host.Outcome State Fault Refusal :=
  ok (decide (cls < 4))
    (busWrite s (GLB_FW_WINDOW cls + 4) val.toNat)

/-- FW_WINDOW_LO (R505). -/
def execFwWindowLo (cls : Nat) (val : Word) (s : State) : Host.Outcome State Fault Refusal :=
  ok (decide (cls < 4))
    (busWrite s (GLB_FW_WINDOW cls) val.toNat)

/-- GLB_FREC_SEL (R485). -/
def execGlbFrecSel (index : Nat) (s : State) : Host.Outcome State Fault Refusal :=
  ok (decide (index < 4096))
    (busWrite s GLB_FREC_SEL index)

end Sys2Proof.Machine
end

