-- ==== Sys2Proof/Machine/Dispatch.lean ====
section
/-! DEFINITION. One arm per command: each calls its own meaning. -/
namespace Sys2Proof.Machine

/-- The effect of a command on everything but the queue. -/
def exec (i : Instr) (s : State) : Host.Outcome State Fault Refusal :=
  match i with
  | .registerWrite off size val => Sys2Proof.Machine.execRegisterWrite off size val s
  | .rcCounterRead off => Sys2Proof.Machine.execRcCounterRead off s
  | .lowWordRead off => Sys2Proof.Machine.execLowWordRead off s
  | .refclkStop => Sys2Proof.Machine.execRefclkStop s
  | .refclkStart => Sys2Proof.Machine.execRefclkStart s
  | .validate drain => Sys2Proof.Machine.execValidate drain s
  | .stage drain => Sys2Proof.Machine.execStage drain s
  | .reform drain => Sys2Proof.Machine.execReform drain s
  | .stageAndReform drain => Sys2Proof.Machine.execStageAndReform drain s
  | .reformToMaquette drain => Sys2Proof.Machine.execReformToMaquette drain s
  | .reformToOtherSlot drain => Sys2Proof.Machine.execReformToOtherSlot drain s
  | .validationDone => Sys2Proof.Machine.execValidationDone s
  | .storingDone => Sys2Proof.Machine.execStoringDone s
  | .quiesceDone => Sys2Proof.Machine.execQuiesceDone s
  | .armQlimitExpiry => Sys2Proof.Machine.execArmQlimitExpiry s
  | .drainDone => Sys2Proof.Machine.execDrainDone s
  | .commitDone => Sys2Proof.Machine.execCommitDone s
  | .rebindDone hwFault againFault => Sys2Proof.Machine.execRebindDone hwFault againFault s
  | .stream tile => Sys2Proof.Machine.execStream tile s
  | .loadw tile => Sys2Proof.Machine.execLoadw tile s
  | .swap tile => Sys2Proof.Machine.execSwap tile s
  | .vec tile => Sys2Proof.Machine.execVec tile s
  | .send tile => Sys2Proof.Machine.execSend tile s
  | .sync tile => Sys2Proof.Machine.execSync tile s
  | .tileEnd tile => Sys2Proof.Machine.execTileEnd tile s
  | .rowStep tile parityBad upset => Sys2Proof.Machine.execRowStep tile parityBad upset s
  | .vectorStep tile upset => Sys2Proof.Machine.execVectorStep tile upset s
  | .shadowFillDone tile upset => Sys2Proof.Machine.execShadowFillDone tile upset s
  | .sendComplete tile upset => Sys2Proof.Machine.execSendComplete tile upset s
  | .syncRelease tile => Sys2Proof.Machine.execSyncRelease tile s
  | .rampStageEnd tile => Sys2Proof.Machine.execRampStageEnd tile s
  | .idleGapEnd tile => Sys2Proof.Machine.execIdleGapEnd tile s
  | .arrayRefillDone tile => Sys2Proof.Machine.execArrayRefillDone tile s
  | .tileStoreScrub tile upset => Sys2Proof.Machine.execTileStoreScrub tile upset s
  | .watchdogExpiry tile => Sys2Proof.Machine.execWatchdogExpiry tile s
  | .lateAck tile => Sys2Proof.Machine.execLateAck tile s
  | .retire tile key => Sys2Proof.Machine.execRetire tile key s
  | .histogramClear tile freeze mode => Sys2Proof.Machine.execHistogramClear tile freeze mode s
  | .freeze tile on => Sys2Proof.Machine.execFreeze tile on s
  | .histogramMode tile mode => Sys2Proof.Machine.execHistogramMode tile mode s
  | .loadProgram tag slot image => Sys2Proof.Machine.execLoadProgram tag slot image s
  | .programActivationManagement tag slot activate => Sys2Proof.Machine.execProgramActivationManagement tag slot activate s
  | .memoryRangeSetManagement tag id ranges => Sys2Proof.Machine.execMemoryRangeSetManagement tag id ranges s
  | .executeProgram tag slot mrs block => Sys2Proof.Machine.execExecuteProgram tag slot mrs block s
  | .kernelDispatch => Sys2Proof.Machine.execKernelDispatch s
  | .partAdmission => Sys2Proof.Machine.execPartAdmission s
  | .kernelDeadlineExpiry run kernel => Sys2Proof.Machine.execKernelDeadlineExpiry run kernel s
  | .runDeadlineExpiry run => Sys2Proof.Machine.execRunDeadlineExpiry run s
  | .preemption cls => Sys2Proof.Machine.execPreemption cls s
  | .stepBoundary slot => Sys2Proof.Machine.execStepBoundary slot s
  | .grfSeqSel index => Sys2Proof.Machine.execGrfSeqSel index s
  | .tierMqTail index => Sys2Proof.Machine.execTierMqTail index s
  | .tierMqSize entries => Sys2Proof.Machine.execTierMqSize entries s
  | .copy => Sys2Proof.Machine.execCopy s
  | .place => Sys2Proof.Machine.execPlace s
  | .evict => Sys2Proof.Machine.execEvict s
  | .clear => Sys2Proof.Machine.execClear s
  | .moveComplete index => Sys2Proof.Machine.execMoveComplete index s
  | .directoryLookupDone piece => Sys2Proof.Machine.execDirectoryLookupDone piece s
  | .pieceArrival piece dst result => Sys2Proof.Machine.execPieceArrival piece dst result s
  | .mvLimitExpiry piece => Sys2Proof.Machine.execMvLimitExpiry piece s
  | .memoryPatrolScrub board unit pc line found => Sys2Proof.Machine.execMemoryPatrolScrub board unit pc line found s
  | .pseudoChannelFault stack pc cause exhausted => Sys2Proof.Machine.execPseudoChannelFault stack pc cause exhausted s
  | .migrationDone stack pc => Sys2Proof.Machine.execMigrationDone stack pc s
  | .checkerEnable key en => Sys2Proof.Machine.execCheckerEnable key en s
  | .writeRaw key en => Sys2Proof.Machine.execWriteRaw key en s
  | .readRaw key en => Sys2Proof.Machine.execReadRaw key en s
  | .checkerRead key en => Sys2Proof.Machine.execCheckerRead key en s
  | .scnJqTail index => Sys2Proof.Machine.execScnJqTail index s
  | .scnJqSize entries => Sys2Proof.Machine.execScnJqSize entries s
  | .append => Sys2Proof.Machine.execAppend s
  | .delete => Sys2Proof.Machine.execDelete s
  | .filter => Sys2Proof.Machine.execFilter s
  | .embed => Sys2Proof.Machine.execEmbed s
  | .jobCommit index => Sys2Proof.Machine.execJobCommit index s
  | .slabScan index slab lost crcBad => Sys2Proof.Machine.execSlabScan index slab lost crcBad s
  | .jobComplete index energyUj => Sys2Proof.Machine.execJobComplete index energyUj s
  | .compaction region slab => Sys2Proof.Machine.execCompaction region slab s
  | .scnJqCancel index => Sys2Proof.Machine.execScnJqCancel index s
  | .srcQqTail index => Sys2Proof.Machine.execSrcQqTail index s
  | .srcQqSize entries => Sys2Proof.Machine.execSrcQqSize entries s
  | .query => Sys2Proof.Machine.execQuery s
  | .insert => Sys2Proof.Machine.execInsert s
  | .indexDelete => Sys2Proof.Machine.execIndexDelete s
  | .create => Sys2Proof.Machine.execCreate s
  | .centroidScores index => Sys2Proof.Machine.execCentroidScores index s
  | .raspBatch package region cluster lost => Sys2Proof.Machine.execRaspBatch package region cluster lost s
  | .vectorFetch index package cached lost => Sys2Proof.Machine.execVectorFetch index package cached lost s
  | .thresholdExchange index src dst => Sys2Proof.Machine.execThresholdExchange index src dst s
  | .queryContextComplete index package => Sys2Proof.Machine.execQueryContextComplete index package s
  | .queryDeadlineExpiry index => Sys2Proof.Machine.execQueryDeadlineExpiry index s
  | .srcQqCancel index => Sys2Proof.Machine.execSrcQqCancel index s
  | .trainingDone port => Sys2Proof.Machine.execTrainingDone port s
  | .hello port msg => Sys2Proof.Machine.execHello port msg s
  | .helloResend port => Sys2Proof.Machine.execHelloResend port s
  | .flitDiscard port => Sys2Proof.Machine.execFlitDiscard port s
  | .idle port ack cvc credits payloadDiffers => Sys2Proof.Machine.execIdle port ack cvc credits payloadDiffers s
  | .nak port expected => Sys2Proof.Machine.execNak port expected s
  | .replayLimit port => Sys2Proof.Machine.execReplayLimit port s
  | .laneMap port mask firstSeq => Sys2Proof.Machine.execLaneMap port mask firstSeq s
  | .tsReq port t1 t2 => Sys2Proof.Machine.execTsReq port t1 t2 s
  | .tsRsp port t1 t2 t3 t4 => Sys2Proof.Machine.execTsRsp port t1 t2 t3 t4 s
  | .timeSync => Sys2Proof.Machine.execTimeSync s
  | .window port tree mode step base => Sys2Proof.Machine.execWindow port tree mode step base s
  | .abortFlit port tree origin step seg => Sys2Proof.Machine.execAbortFlit port tree origin step seg s
  | .depart port moduleId => Sys2Proof.Machine.execDepart port moduleId s
  | .census port tree count => Sys2Proof.Machine.execCensus port tree count s
  | .mode port tree flag step => Sys2Proof.Machine.execMode port tree flag step s
  | .creditInit port pool escape => Sys2Proof.Machine.execCreditInit port pool escape s
  | .peerAck port result bytes => Sys2Proof.Machine.execPeerAck port result bytes s
  | .grad port pkt => Sys2Proof.Machine.execGrad port pkt s
  | .racc port pkt => Sys2Proof.Machine.execRacc port pkt s
  | .param port pkt => Sys2Proof.Machine.execParam port pkt s
  | .peerWr port pkt => Sys2Proof.Machine.execPeerWr port pkt s
  | .lossOfLock lane => Sys2Proof.Machine.execLossOfLock lane s
  | .fecErrorLimit lane codewords => Sys2Proof.Machine.execFecErrorLimit lane codewords s
  | .laneRetrainDone lane ok => Sys2Proof.Machine.execLaneRetrainDone lane ok s
  | .reductionDeadlineExpiry tree seg => Sys2Proof.Machine.execReductionDeadlineExpiry tree seg s
  | .segmentSum tree seg residueBad => Sys2Proof.Machine.execSegmentSum tree seg residueBad s
  | .post tree count => Sys2Proof.Machine.execPost tree count s
  | .hostAbort tree => Sys2Proof.Machine.execHostAbort tree s
  | .resume tree => Sys2Proof.Machine.execResume tree s
  | .hold tree => Sys2Proof.Machine.execHold tree s
  | .release tree => Sys2Proof.Machine.execRelease tree s
  | .fabTimeSet hi lo => Sys2Proof.Machine.execFabTimeSet hi lo s
  | .go port => Sys2Proof.Machine.execGo port s
  | .load slot => Sys2Proof.Machine.execLoad slot s
  | .updateSegment tree seg => Sys2Proof.Machine.execUpdateSegment tree seg s
  | .lrTagCommit tree step => Sys2Proof.Machine.execLrTagCommit tree step s
  | .lrWaitExpiry tree => Sys2Proof.Machine.execLrWaitExpiry tree s
  | .updLogSel index => Sys2Proof.Machine.execUpdLogSel index s
  | .writeAdmission package => Sys2Proof.Machine.execWriteAdmission package s
  | .nandProgramDone package lunit place ok => Sys2Proof.Machine.execNandProgramDone package lunit place ok s
  | .journalCommit package verified => Sys2Proof.Machine.execJournalCommit package verified s
  | .castWrite package => Sys2Proof.Machine.execCastWrite package s
  | .gcBatch package src places => Sys2Proof.Machine.execGcBatch package src places s
  | .blockErase package group => Sys2Proof.Machine.execBlockErase package group s
  | .eraseDone package blk ok => Sys2Proof.Machine.execEraseDone package blk ok s
  | .eraseSuspend package blk => Sys2Proof.Machine.execEraseSuspend package blk s
  | .powerFailure => Sys2Proof.Machine.execPowerFailure s
  | .dirtyListWritten package => Sys2Proof.Machine.execDirtyListWritten package s
  | .holdupFlushDone package => Sys2Proof.Machine.execHoldupFlushDone package s
  | .sealWritten package => Sys2Proof.Machine.execSealWritten package s
  | .journalHeadsLocated package => Sys2Proof.Machine.execJournalHeadsLocated package s
  | .castsLoaded package => Sys2Proof.Machine.execCastsLoaded package s
  | .journalReplayed package => Sys2Proof.Machine.execJournalReplayed package s
  | .dirtyListsReconciled package => Sys2Proof.Machine.execDirtyListsReconciled package s
  | .validCountsRebuilt package => Sys2Proof.Machine.execValidCountsRebuilt package s
  | .packageReady package ms => Sys2Proof.Machine.execPackageReady package ms s
  | .mapLineRebuild package line castReadable => Sys2Proof.Machine.execMapLineRebuild package line castReadable s
  | .writeBufferFlush package => Sys2Proof.Machine.execWriteBufferFlush package s
  | .castNow package => Sys2Proof.Machine.execCastNow package s
  | .shutdownNotification package => Sys2Proof.Machine.execShutdownNotification package s
  | .nandReadDone package lunit stage => Sys2Proof.Machine.execNandReadDone package lunit stage s
  | .retentionPatrol package blk refresh => Sys2Proof.Machine.execRetentionPatrol package blk refresh s
  | .rawRead package key stage => Sys2Proof.Machine.execRawRead package key stage s
  | .readNoecc package key sensed => Sys2Proof.Machine.execReadNoecc package key sensed s
  | .medBlkSel package val => Sys2Proof.Machine.execMedBlkSel package val s
  | .dieBusyTimeout package chan exhausted => Sys2Proof.Machine.execDieBusyTimeout package chan exhausted s
  | .channelTransientFault package chan cause exhausted => Sys2Proof.Machine.execChannelTransientFault package chan cause exhausted s
  | .rebuildGroupDone package => Sys2Proof.Machine.execRebuildGroupDone package s
  | .perstAssert => Sys2Proof.Machine.execPerstAssert s
  | .perstDeassert strapLow => Sys2Proof.Machine.execPerstDeassert strapLow s
  | .nvmSubsystemReset => Sys2Proof.Machine.execNvmSubsystemReset s
  | .flr => Sys2Proof.Machine.execFlr s
  | .hotReset => Sys2Proof.Machine.execHotReset s
  | .dlDown => Sys2Proof.Machine.execDlDown s
  | .linkRetrain => Sys2Proof.Machine.execLinkRetrain s
  | .controllerDisable => Sys2Proof.Machine.execControllerDisable s
  | .controllerEnable crime => Sys2Proof.Machine.execControllerEnable crime s
  | .poisonedTlp tag => Sys2Proof.Machine.execPoisonedTlp tag s
  | .completionTimeout tag => Sys2Proof.Machine.execCompletionTimeout tag s
  | .sqTailDoorbell sq tail => Sys2Proof.Machine.execSqTailDoorbell sq tail s
  | .cqHeadDoorbell cq head => Sys2Proof.Machine.execCqHeadDoorbell cq head s
  | .commandFetch tag opcode nsid first count => Sys2Proof.Machine.execCommandFetch tag opcode nsid first count s
  | .identify tag cns nsid => Sys2Proof.Machine.execIdentify tag cns nsid s
  | .getFeatures tag fid => Sys2Proof.Machine.execGetFeatures tag fid s
  | .setFeatures tag fid dw11 apst => Sys2Proof.Machine.execSetFeatures tag fid dw11 apst s
  | .getLogPage tag lid lsp nsid => Sys2Proof.Machine.execGetLogPage tag lid lsp nsid s
  | .createIoSubmissionQueue tag qid size cqid => Sys2Proof.Machine.execCreateIoSubmissionQueue tag qid size cqid s
  | .createIoCompletionQueue tag qid size vector => Sys2Proof.Machine.execCreateIoCompletionQueue tag qid size vector s
  | .deleteIoSubmissionQueue tag qid => Sys2Proof.Machine.execDeleteIoSubmissionQueue tag qid s
  | .deleteIoCompletionQueue tag qid => Sys2Proof.Machine.execDeleteIoCompletionQueue tag qid s
  | .abort tag target => Sys2Proof.Machine.execAbort tag target s
  | .asynchronousEventRequest tag => Sys2Proof.Machine.execAsynchronousEventRequest tag s
  | .firmwareImageDownload tag offset data => Sys2Proof.Machine.execFirmwareImageDownload tag offset data s
  | .firmwareCommit tag slot action => Sys2Proof.Machine.execFirmwareCommit tag slot action s
  | .formatNvm tag nsid ses => Sys2Proof.Machine.execFormatNvm tag nsid ses s
  | .deviceSelfTest tag stc => Sys2Proof.Machine.execDeviceSelfTest tag stc s
  | .read tag nsid slba nlb => Sys2Proof.Machine.execRead tag nsid slba nlb s
  | .write tag nsid slba data => Sys2Proof.Machine.execWrite tag nsid slba data s
  | .flush tag nsid => Sys2Proof.Machine.execFlush tag nsid s
  | .writeZeroes tag nsid slba nlb deallocate => Sys2Proof.Machine.execWriteZeroes tag nsid slba nlb deallocate s
  | .datasetManagement tag nsid ranges => Sys2Proof.Machine.execDatasetManagement tag nsid ranges s
  | .memoryRead tag addr len => Sys2Proof.Machine.execMemoryRead tag addr len s
  | .memoryWrite tag addr data => Sys2Proof.Machine.execMemoryWrite tag addr data s
  | .memoryCopy tag nsid ranges dst => Sys2Proof.Machine.execMemoryCopy tag nsid ranges dst s
  | .apstIdleTimerExpiry target => Sys2Proof.Machine.execApstIdleTimerExpiry target s
  | .powerStateEntryDone => Sys2Proof.Machine.execPowerStateEntryDone s
  | .powerStateExitDone => Sys2Proof.Machine.execPowerStateExitDone s
  | .readNvmeMiDataStructure dtyp => Sys2Proof.Machine.execReadNvmeMiDataStructure dtyp s
  | .nvmSubsystemHealthStatusPoll clear => Sys2Proof.Machine.execNvmSubsystemHealthStatusPoll clear s
  | .controllerHealthStatusPoll clear => Sys2Proof.Machine.execControllerHealthStatusPoll clear s
  | .configurationGet item => Sys2Proof.Machine.execConfigurationGet item s
  | .configurationSet item value => Sys2Proof.Machine.execConfigurationSet item value s
  | .vpdRead offset len => Sys2Proof.Machine.execVpdRead offset len s
  | .reset => Sys2Proof.Machine.execReset s
  | .getVersion via => Sys2Proof.Machine.execGetVersion via s
  | .getCapabilities via => Sys2Proof.Machine.execGetCapabilities via s
  | .negotiateAlgorithms via asym hash => Sys2Proof.Machine.execNegotiateAlgorithms via asym hash s
  | .getDigests via => Sys2Proof.Machine.execGetDigests via s
  | .getCertificate via slot offset len => Sys2Proof.Machine.execGetCertificate via slot offset len s
  | .challenge via nonce => Sys2Proof.Machine.execChallenge via nonce s
  | .getMeasurements via index nonce => Sys2Proof.Machine.execGetMeasurements via index nonce s
  | .unsupportedRequest via code => Sys2Proof.Machine.execUnsupportedRequest via code s
  | .ledgerSample r => Sys2Proof.Machine.execLedgerSample r s
  | .inputComparatorTrip => Sys2Proof.Machine.execInputComparatorTrip s
  | .comparatorHoldEnd => Sys2Proof.Machine.execComparatorHoldEnd s
  | .huNow => Sys2Proof.Machine.execHuNow s
  | .huPeriodExpiry => Sys2Proof.Machine.execHuPeriodExpiry s
  | .huLoadApplied esrMohm => Sys2Proof.Machine.execHuLoadApplied esrMohm s
  | .huFallTimed fallUs => Sys2Proof.Machine.execHuFallTimed fallUs s
  | .huRecharged ok => Sys2Proof.Machine.execHuRecharged ok s
  | .huRetryTimer => Sys2Proof.Machine.execHuRetryTimer s
  | .inputRise => Sys2Proof.Machine.execInputRise s
  | .standbyRegulated => Sys2Proof.Machine.execStandbyRegulated s
  | .otpRead strapLow => Sys2Proof.Machine.execOtpRead strapLow s
  | .optionAreaLoaded copies => Sys2Proof.Machine.execOptionAreaLoaded copies s
  | .identityChecked copyMatches => Sys2Proof.Machine.execIdentityChecked copyMatches s
  | .firmwareVerified => Sys2Proof.Machine.execFirmwareVerified s
  | .firmwareRunning => Sys2Proof.Machine.execFirmwareRunning s
  | .linkDetect => Sys2Proof.Machine.execLinkDetect s
  | .configurationReady => Sys2Proof.Machine.execConfigurationReady s
  | .coreRailsUp => Sys2Proof.Machine.execCoreRailsUp s
  | .stacksTrained => Sys2Proof.Machine.execStacksTrained s
  | .tileSelfTestDone failed => Sys2Proof.Machine.execTileSelfTestDone failed s
  | .armatureSelected maquetteOk => Sys2Proof.Machine.execArmatureSelected maquetteOk s
  | .coreRebindDone hwFault againFault => Sys2Proof.Machine.execCoreRebindDone hwFault againFault s
  | .bootWatchdogExpiry => Sys2Proof.Machine.execBootWatchdogExpiry s
  | .recoveryRestart => Sys2Proof.Machine.execRecoveryRestart s
  | .install => Sys2Proof.Machine.execInstall s
  | .glbIdsel index => Sys2Proof.Machine.execGlbIdsel index s
  | .faultWindowLapse cls unit => Sys2Proof.Machine.execFaultWindowLapse cls unit s
  | .faultTimeSave => Sys2Proof.Machine.execFaultTimeSave s
  | .fwWindowHi cls val => Sys2Proof.Machine.execFwWindowHi cls val s
  | .fwWindowLo cls val => Sys2Proof.Machine.execFwWindowLo cls val s
  | .glbFrecSel index => Sys2Proof.Machine.execGlbFrecSel index s
  | .pwrdisAssert => Sys2Proof.Machine.execPwrdisAssert s
  | .pwrdisDeassert => Sys2Proof.Machine.execPwrdisDeassert s
  | .overcurrentShutdown => Sys2Proof.Machine.execOvercurrentShutdown s
  | .coolantFault => Sys2Proof.Machine.execCoolantFault s
  | .coolantRecovered => Sys2Proof.Machine.execCoolantRecovered s
  | .lowFlowTrip => Sys2Proof.Machine.execLowFlowTrip s
  | .identBlink => Sys2Proof.Machine.execIdentBlink s
  | .fillerStep tile => Sys2Proof.Machine.execFillerStep tile s
  | .holdupExhausted package => Sys2Proof.Machine.execHoldupExhausted package s
  | .bankCharged => Sys2Proof.Machine.execBankCharged s
  | .gen8NChange low => Sys2Proof.Machine.execGen8NChange low s
  | .linkUp gen width flit => Sys2Proof.Machine.execLinkUp gen width flit s
  | .hostReadCompletionError tag => Sys2Proof.Machine.execHostReadCompletionError tag s
  | .mctpControlMessage eid => Sys2Proof.Machine.execMctpControlMessage eid s
  | .optionAreaMoveDone half => Sys2Proof.Machine.execOptionAreaMoveDone half s
  | .selfTestSegmentDone ok tile => Sys2Proof.Machine.execSelfTestSegmentDone ok tile s

end Sys2Proof.Machine
end

