-- ==== Sys2Proof/Machine/Tick.lean ====
section
/-! DEFINITION. What one tick of 10 ns does on its own: the timebase, the powered time and fabric time move, and every counter of ticks whose
condition holds counts one (R7, R9, R10, R163, R166, R168, R195, R292, R506). A step on an empty queue is one such tick (log entry 16). -/
namespace Sys2Proof.Machine

/-! ## Fabric time (R292) -/

/-- Fabric time advances by one, holds still for as long as a step backward is owed, and takes out an offset by at most one in 2,000 ticks
(±500 ppm). -/
def ftTick (tb : Nat) (f : Fabric) : Fabric :=
  if f.ftHold ≠ 0 then { f with ftHold := f.ftHold - 1 }
  else if tb % 2000 = 0 ∧ 0 < f.ftSlew then { f with ft := (f.ft + 2) % 2 ^ 64, ftSlew := f.ftSlew - 1 }
  else if tb % 2000 = 0 ∧ f.ftSlew < 0 then { f with ftSlew := f.ftSlew + 1 }
  else { f with ft := (f.ft + 1) % 2 ^ 64 }

/-! ## Stalls of tiles (R109, R159, R195) -/
/-- Whether a tile waits at SYNC TRANSFER for a SEND of another part to it. -/
def awaitsSend (s : State) (t : Nat) (x : Tile) : Bool :=
  match x.part with
  | none => false
  | some p => x.syncWait == some 1 && (kernelParts s p.ref).any (fun q => q.1.sends.any (fun v => v.dest == t))

/-- The cause that a tile's input stall counts under, the highest that applies, or none where it does not wait for input. -/
def stallCause (s : State) (t : Nat) (x : Tile) : Option Nat :=
  match awaited s t x with
  | [] => if awaitsSend s t x then some 9 else none
  | l => some (l.foldl (fun m q => min m q.cause) 9)

/-- Whether a shadow fill holds up a SWAP or a LOADW; the time in which a SWAP also waits for its STREAM does not count. -/
def shadowStall (x : Tile) : Bool := x.filling.isSome && ((x.swapWait && x.stream.isNone) || x.loadWait)


/-- One tick of one tile. -/
def tileTick (s : State) (e : Nat × Tile) : State :=
  let t := e.1
  let x := e.2
  let s := if shadowStall x then bump s (tilReg t 0x40) else s
  let s := if energyStall s t x then bump s (tilReg t 0x4C) else s
  match stallCause s t x, x.part with
  | some c, some p => modKernel (bump (bump s (tilReg t 0x44)) (TIER_STALL (c - 1))) p.ref.run p.ref.kernel (fun k => { k with stallTier := k.stallTier + 1 })
  | _, _ => s

/-! ## Runs (R168) -/

/-- Whether other graphs' parts or reservations hold a ready kernel of a run. -/
def shareWaits (s : State) (r : Run) : Bool :=
  (readyKernels s r).any (fun k => match kernelOf s r k with
    | none => false
    | some kd => !(blockers s r.slot kd).isEmpty || kd.places.any (fun pl => match (tile s (actualTile s pl.tile)).part with
        | none => false
        | some p => match findRun s p.ref.run with | none => false | some q => q.slot != r.slot))

/-- Whether the ledger withholds a part of a run. -/
def energyWaits (s : State) (r : Run) : Bool :=
  s.tiles.any (fun e => energyStall s e.1 e.2 && (match e.2.queue.head? with | none => false | some q => q.run == r.id))

/-- Whether a part of a run stalls on input. -/
def tierWaits (s : State) (r : Run) : Bool :=
  s.tiles.any (fun e => (match e.2.part with | none => false | some p => p.ref.run == r.id) && (stallCause s e.1 e.2).isSome)

/-- One tick of a run. -/
def runTick (s : State) (r : Run) : Run :=
  { r with waitShare := r.waitShare + one (shareWaits s r), waitEnergy := r.waitEnergy + one (energyWaits s r)
           waitTier := r.waitTier + one (tierWaits s r)
           restream := r.restream + one (s.mover.pieces.any (fun q => q.run == r.id && q.restream)) }

/-! ## Classes (R163, R166) -/

/-- The wait of each ready kernel on reserved ranges; one that does not wait starts again from 0. -/
def classTick (s : State) : State :=
  let waits := s.grf.runs.flatMap (fun r => (blockedOf s r).map (fun x => kernelKey r.id x.1))
  { s with grf := { s.grf with kernelWait := waits.foldl (fun m w => Sparse.set 0 m w (Sparse.get 0 s.grf.kernelWait w + 1)) [] } }

/-- Adds one tick of a reserved tile to its class, and to the run of the slot; 100 ticks are a microsecond. -/
def useTick (s : State) (slot : Nat) : State :=
  let c := classOf s slot
  let n := Sparse.get 0 s.grf.useTicks c + 1
  let runs := updateWhere (fun r => r.slot == slot) (fun r =>
    { r with resTicks := (r.resTicks + 1) % 100, tileUs := r.tileUs + (r.resTicks + 1) / 100 }) s.grf.runs
  let s := { s with grf := { s.grf with useTicks := Sparse.set 0 s.grf.useTicks c (n % 100), runs := runs } }
  if 100 ≤ n then add64 s (GRF_CLASS_USE c) 1 else s

/-- The reserved tiles that run no part of their graph, each once for its slot (R163). -/
def idleReserved (s : State) : List (Nat × Nat) :=
  ((s.grf.residents.filter (fun x => x.loaded && !holderRuns s x)).map (fun x => (x.slot, x.tile))).eraseDups

/-! ## The tick -/

/-- Counts one where a condition holds. -/
def bumpIf (b : Bool) (s : State) (off : Nat) : State := if b then bump s off else s

/-- Whether the next descriptor of the query ring is a QUERY that waits for a context in a package of its index (R271). -/
def contextsWait (s : State) : Bool :=
  let size := fld s (srcReg 0 0x18) 16 0
  let i := (regNat s (srcReg 0 0x20) + s.search.queries.length) % size
  if ringCount size (regNat s (srcReg 0 0x1C)) (regNat s (srcReg 0 0x20)) s.search.queries.length = 0 ∨ 3 ≤ fld s ARM_STAT 31 28 ∨
      s.search.cancelled.contains i then false
  else
    match (readRange s (queryEntry s i) 128).2 with
    | none => false
    | some d =>
      let q := parseQuery s i d
      q.op == 1 && queryFieldsOk d && (match findRegion s q.rtype q.region with | none => false | some r => contextsFull s r)

/-- What a tick of TB counts (R195, R409, R410, R430, R436). -/
def countTick (s : State) : State :=
  let u := s
  let s := foldState tileTick s s.tiles
  let s := { s with grf := { s.grf with runs := s.grf.runs.map (fun r => runTick u r) } }
  let s := foldState useTick (classTick s) ((idleReserved s).map (·.1))
  let s := bumpIf (u.tiles.any (fun e => energyStall u e.1 e.2)) s LED_ADMIT_WAIT
  let s := bumpIf (u.ledger.ceilingMv != 0) s LED_THERM_TICKS
  let s := bumpIf (!u.host.waitingCqes.isEmpty) s HST_CQ_WAIT
  let s := bumpIf (decide (65536 ≤ u.host.ctxs.length)) s HST_FETCH_HELD
  let s := bumpIf (contextsWait u) s (srcReg 0 0x2C)
  foldState (fun s p => bumpIf (exposed u p) (bumpIf (rbit u (ftlReg p 0) 27) s (ftlReg p 0x30)) (ftlReg p 0x34)) s (List.range s.build.sp)

/-- A tick of TB. -/
def tbTick (s : State) : State :=
  countTick { s with tb := (s.tb + 1) % 2 ^ 64, fabric := ftTick s.tb s.fabric }

/-- An entry to a power state that waits for the device to be idle begins once it is (R419). -/
def psTick (s : State) : State :=
  match s.host.psWant with
  | some t => if deviceIdle s then beginEntry s t else s
  | none => s

/-- The standby timebase beside a tick of TB: its crystal gives 32,768 periods in 10^8 ticks (R10). -/
def standbyTick (x : Security) : Security :=
  if 100000000 ≤ x.standbyPhase + 32768 then
    { x with standbyTb := x.standbyTb + 1, standbyPhase := x.standbyPhase + 32768 - 100000000 }
  else { x with standbyPhase := x.standbyPhase + 32768 }

/-- A tick of TB adds one to the powered time. -/
def onTb (s : State) : State :=
  tbTick { s with faults := { s.faults with powered := s.faults.powered + 1, ticked := s.faults.ticked + 1 }, sec := standbyTick s.sec }

/-- A period of the standby timebase while TB is stopped adds its equivalent, ⌊10^8 ÷ 32,768⌋ = 3,051 ticks, to the intervals of R10's list:
of those the powered time counts here, and the others are commands of their own. -/
def onStandby (s : State) : State :=
  { s with faults := { s.faults with powered := s.faults.powered + 3051 }, sec := { s.sec with standbyTb := s.sec.standbyTb + 1 } }

/-! ## Intervals that have run out (R8) -/

/-- An interval that a register or a descriptor gives in ticks of TB: the quiesce limit, a tile's watchdog, the deadlines of a kernel and of a run,
the limit of a piece, the deadlines of a query and of a segment, and the wait for a step size. -/
inductive Expiry where
  | quiesce
  | watchdog (tile : Nat)
  | kernel (run kernel : Nat)
  | run (run : Nat)
  | piece (piece : Nat)
  | query (index : Nat)
  | segment (tree seg : Nat)
  | stepSize (tree : Nat)
deriving DecidableEq, Repr

/-- What the end of an interval does: the same as the command that tells of it. -/
def fire (s : State) : Expiry → State
  | .quiesce => qlimitEff s
  | .watchdog t => watchdogEff s t
  | .kernel r k => kernelDeadlineEff s r k
  | .run r => runDeadlineEff s r
  | .piece p => mvLimitEff s p
  | .query i => queryDeadlineEff s i
  | .segment t g => reductionExpiry s t g
  | .stepSize t => lrWaitEff s t

/-- The deadlines of a run that have passed. -/
def runDue (s : State) (r : Run) : List Expiry :=
  match graphOf s r.slot with
  | none => []
  | some g =>
    (if expired s r.start g.deadline ∧ !r.timedOut then [.run r.id] else []) ++
    (kernelsWith r 255).filterMap (fun k => match kernelOf s r k, r.kernels[k]? with
      | some kd, some kr => if expired s (r.start + kr.first) kd.deadline then some (.kernel r.id k) else none
      | _, _ => none)

/-- The deadlines of a tree that have passed. -/
def treeDue (s : State) (r : TreeRec) : List Expiry :=
  (((tree s r.tree).starts.map (·.1)).filter (segDue s r)).map (.segment r.tree) ++
  (if rbit s (updReg r.tree 0) 26 ∧ expired s (tree s r.tree).lrWaitAt (regNat s (updReg r.tree 0x18)) then [.stepSize r.tree] else [])

/-- The intervals that have run out and that no command has ended yet. -/
def due (s : State) : List Expiry :=
  (if armState s = 3 ∧ expired s s.loader.quiesceAt (regNat s ARM_QLIMIT) ∧ !s.loader.drain then [.quiesce] else []) ++
  (s.tiles.filter (fun e => tileLive s e.1 && e.2.part.isSome && opOverdue s e.1)).map (fun e => .watchdog e.1) ++
  s.grf.runs.flatMap (runDue s) ++
  (s.mover.pieces.filter (fun q => expired s q.at_ (regNat s TIER_MV_LIMIT) && q.looked && !q.reissued && (coverOf s q.addr q.len).isSome)).map
    (fun q => .piece q.id) ++
  (s.search.queries.filter (fun q => !q.done && q.op == 1 && expired s q.start q.deadline)).map (fun q => .query q.index) ++
  (settings s).trees.flatMap (treeDue s)

/-- Ends the intervals that have run out: an interval of n ticks ends at the tick that finds TB at its start + n or beyond, unless its command has
ended it already (log entry 118). -/
def fireDue (s : State) : State := foldState fire s (due s)

/-- The event of a SYNC has come: the watchdog times its acknowledgement from now on (R132). -/
def stampSyncs (s : State) : State :=
  foldState (fun s e => match e.2.part, e.2.syncWait, e.2.syncAt with
    | some p, some v, none => if eventCame s e.1 p v then setTile s e.1 { tile s e.1 with syncAt := some s.tb } else s
    | _, _, _ => s) s s.tiles

/-! ## Writes that wait (R351) -/

/-- The package units of the next entry that an insert writes. -/
def entryWrite (s : State) (r : Region) (x : Index) (opened : List IndexSlab) (n : Nat) (es : List Entry) : List (Nat × Nat) :=
  match es[n]? with
  | some e => pieceUnits s r (entryPieces r (heldIndex s x).slabs opened e)
  | none => []

/-- The package units of the next record that an APPEND writes, or of its slabs' headers once every record is in. -/
def appendWrite (s : State) (j : Job) (g : Region) : List (Nat × Nat) :=
  match j.pending[j.entered]? with
  | some r => pieceUnits s g (recordPieces r)
  | none =>
    if j.pending.isEmpty then []
    else pieceUnits s g (headerPieces { s with corpus := { s.corpus with records := s.corpus.records ++ j.pending } } j.region
      (j.pending.map (·.slab)).eraseDups)

/-- The package units that tombstones of a region write, where their epoch is next and their tables take them. -/
def tombWrite (s : State) (r : Region) (epoch : Nat) (ts : List Tomb) : List (Nat × Nat) :=
  if s.corpus.epoch + 1 = epoch ∧ tombsFit s r ts then growthUnits s r ts else []

/-- What a job of the ring goes on to write. -/
def jobWrite (s : State) (j : Job) : List (Nat × Nat) :=
  if !jobCommits j then []
  else if j.op = 4 then
    match embedIndex s j with
    | some (r, x) => if j.batchEpoch.isSome ∧ regionReady s r then entryWrite s r x j.pendingSlabs j.entered j.pendingEntries else []
    | none => []
  else
    match findRegion s 2 j.region with
    | some g => if !regionReady s g then [] else if j.op = 1 then appendWrite s j g else tombWrite s g j.epoch (deleteTombs s j g)
    | none => []

/-- What a descriptor of the query ring goes on to write. -/
def queryWrite (s : State) (q : Query) : List (Nat × Nat) :=
  match findRegion s q.rtype q.region with
  | none => []
  | some r =>
    let x := (findIndex s q.rtype q.region).getD { rtype := q.rtype, id := q.region }
    if q.done ∨ !regionReady s r then []
    else if q.op = 2 then entryWrite s r x q.pendingSlabs q.entered q.pendingEntries
    else if q.op = 3 then tombWrite s r q.epoch (indexTombs s q r x)
    else []

/-- What a started COPY goes on to write to the model region. -/
def moveWrite (s : State) (m : Move) : List (Nat × Nat) :=
  match modelRegion s with
  | some r =>
    if m.status.isNone ∧ m.op = 1 ∧ selector m.dst = 0xFD then unitsOf s r (within (m.dst + m.moved) / 4096) 1 else []
  | none => []

/-- The writes under way, whatever their requester. -/
def writesNow (s : State) : List (List (Nat × Nat)) :=
  heldWrites s ++ s.scan.jobs.map (jobWrite s) ++ s.search.queries.map (queryWrite s) ++ s.mover.moves.map (moveWrite s)

/-- FTL_STAT.THROTTLED of each package: whether a write waits for its watermark, whatever its requester. -/
def showWaits (s : State) : State :=
  let ws := writesNow s
  foldState (fun t p => if rbit t (ftlReg p 0) 27 = ws.any (waitsOn s p) then t else setBit t (ftlReg p 0) 27 (ws.any (waitsOn s p))) s
    (List.range s.build.sp)

/-- What the device does of itself as a tick passes: intervals end, events of SYNCs are noted, IDLE flits carry what is owed, a table that was
being rebuilt is whole again (R239; log entry 132), and the writes that wait show (R351). -/
def ownTick (s : State) : State :=
  let s := linkTick (stampSyncs (fireDue s))
  showWaits { s with scan := { s.scan with rebuilding := [] } }

/-- One tick: of TB while REFCLK runs and the standby stage has reached its step 2 (R7, R9), and otherwise of the standby timebase (R10,
R506). -/
def tick (s : State) : State :=
  if 2 ≤ s.power.standby then psTick (if s.power.refclk then onTb (ownTick s) else onStandby s) else s

end Sys2Proof.Machine
end

