-- ==== Sys2Proof/Safety.lean ====
section
/-! DEFINITION. What counts as a safe state and as a safe step, in the terms that claims use. -/
set_option Elab.async false
namespace Sys2Proof.Machine

/-- The canonical form of a map whose unlisted keys read as `d` of the key: the keys are above a bound and strictly rising, and no
entry equals what its key reads as when it is unlisted. -/
def canonicalFrom {β : Type} [DecidableEq β] (d : Nat → β) : Nat → Sparse β → Bool
  | _, [] => true
  | lo, (k, v) :: t => decide (lo ≤ k) && decide (v ≠ d k) && canonicalFrom d (k + 1) t

/-- The register file is in its canonical form: no entry equals its register's Reset value (R18). -/
def regsWf (s : State) : Bool := canonicalFrom regDefault 0 s.regs

/-- Every memory that a command addresses is in its canonical form: the tile stores, Subsystem Local Memory with the stacks and the board
memory, the check bits held for it, and its assignment counts. -/
def memoriesWf (s : State) : Bool :=
  Memory.wf s.store && Memory.wf s.dram.bytes && Sparse.wf (0 : Byte) s.dram.tags && Sparse.wf (0 : Nat) s.dram.gens

/-- What the option area and OTP never lose: the identity words set at final test (R40), the retirement of tiles (R20), pseudo-channels,
lanes, adders and flash channels, the minimum SVN and the revoked keys (R457, R458), and the counts since manufacture (R442, R482). -/
structure NvLasts (a b : Nv) : Prop where
  serial : b.serial = a.serial
  idWords : b.idWords = a.idWords
  stepping : b.stepping = a.stepping
  tiles : a.retiredTiles ⊆ b.retiredTiles
  fencedTiles : a.fencedTiles ⊆ b.fencedTiles
  pcs : a.retiredPcs ⊆ b.retiredPcs
  fencedPcs : a.fencedPcs ⊆ b.fencedPcs
  lanes : a.retiredLanes ⊆ b.retiredLanes
  adders : a.retiredAdders ⊆ b.retiredAdders
  chans : a.retiredChans ⊆ b.retiredChans
  svnMin : a.svnMin ≤ b.svnMin
  revoked : ∀ i, a.revokedKeys.testBit i → b.revokedKeys.testBit i
  intr : a.intr ≤ b.intr
  pwron : a.pwron ≤ b.pwron

/-- What no command and no tick takes back: the build, what the option area and OTP hold for good, the places for storage packages (R2), each
package's write sequence number (R344), and the epochs already given (R219). -/
structure Lasts (s t : State) : Prop where
  build : t.build = s.build
  nv : NvLasts s.nv t.nv
  storage : t.packages.length = s.packages.length
  wseq : ∀ p, (pkg s p).wseq ≤ (pkg t p).wseq
  epochs : s.corpus.nextEpoch ≤ t.corpus.nextEpoch

/-! ## Where an instruction of a tile stands -/

/-- A tile's sequencer stands at an instruction of an opcode, which lies in the store, has no bad word and may issue (R110, R111, R122). -/
abbrev standsAt (s : State) (t op : Nat) (p : Part) : Prop :=
  canIssue s t = true ∧ (tile s t).part = some p ∧ p.pc + 16 ≤ storeLen ∧ badIn (tile s t) [{ lo := p.pc, len := 16 }] = none ∧
    bitsOf (storeNat s t p.pc 8) 63 56 = op

/-- What the SEC-DED check finds on the words of a step leaves the step to go on: nothing, or a bit that it corrects (R122). -/
abbrev stepGoesOn : Upset → Bool
  | .double _ => false
  | _ => true

/-- A part's kernel adds no bias, so that a retry reads no operand of USE 4 (R134, R155). -/
abbrev unbiased (s : State) (r : PartRef) : Bool :=
  match findRun s r.run with
  | none => true
  | some u => match kernelOf s u r.kernel with | none => true | some k => !bitOf k.kflags 2

/-- Every byte of the tile stores outside a list of ranges of one tile reads the same in two states. -/
def storeSameOutside (s t : State) (x : Nat) (rs : List Range) : Prop :=
  ∀ k, (∀ r ∈ rs, ∀ i < r.count, ¬(storeKey x (r.lo + i * r.stride) ≤ k ∧ k < storeKey x (r.lo + i * r.stride) + r.len)) →
    Memory.byte t.store k = Memory.byte s.store k

/-- A completion that a command posts between two states: it goes out at once, or waits where its queue takes none (R394, R410). -/
abbrev answered (s t : State) (c : Cqe) : Prop :=
  if canPostTo s c.tag.sq = true then t.out = s.out ++ [.cqe c] else t.host.waitingCqes = s.host.waitingCqes ++ [c]

/-- A command of the NVM set that has nothing to wait for: its namespace exists and holds its blocks, transfers are not held, every package
is ready, those of the namespace are reachable and take writes, no command before it must end first, and its new dirty units fit (R351,
R356, R401, R411, R412, R415). -/
abbrev admits (s : State) (r : Region) (h : Held) : Prop :=
  nsRegion s h.nsid = some r ∧ (∀ x ∈ heldRanges h, x.1 + x.2 ≤ regionBlocks r) ∧ transfersHeld s = false ∧ allReady s = true ∧
    (packagesOf r.spMask).all (fun p => pkgReady s p && reachable s p) = true ∧ mustFollow s h = false ∧
    (isWriteKind h.kind = true → writeProtected s r = false ∧ unitsFit s (writeUnits s r h) = true)

/-- The data that a command is given between two states: what leaves first, where that is data under its tag, and otherwise nothing. -/
abbrev gave (s t : State) (tag : CmdTag) : List Byte :=
  match (t.out.drop s.out.length).head? with
  | some (.data g l) => if g = tag then l else []
  | _ => []

/-- The next descriptor of the job ring: ring entry `i`, read as `d`, names an operation and a slab region, and may start (R223, R224). -/
abbrev nextJob (s u : State) (op i : Nat) (d : List Byte) (g : Region) : Prop :=
  ringCount (fld s (scnReg 0 0x18) 16 0) (regNat s (scnReg 0 0x1C)) (regNat s (scnReg 0 0x20)) s.scan.jobs.length ≠ 0 ∧
    fld s ARM_STAT 31 28 < 3 ∧ jobsRunning s < 16 ∧ i = (regNat s (scnReg 0 0x20) + s.scan.jobs.length) % fld s (scnReg 0 0x18) 16 0 ∧
    s.scan.cancelled.contains i = false ∧ mappedSlm (settings s) (jobEntry s i) 128 = true ∧ readRange s (jobEntry s i) 128 = (u, some d) ∧
    fieldAt d 0 1 = op ∧ jobFieldsOk d = true ∧ findRegion u 2 (fieldAt d 2 1) = some g

/-- The next descriptor of the query ring: ring entry `i`, read as `d`, names an operation and an index region, and may start (R271,
R272). -/
abbrev nextQuery (s u : State) (op i : Nat) (d : List Byte) (r : Region) : Prop :=
  ringCount (fld s (srcReg 0 0x18) 16 0) (regNat s (srcReg 0 0x1C)) (regNat s (srcReg 0 0x20)) s.search.queries.length ≠ 0 ∧
    fld s ARM_STAT 31 28 < 3 ∧ i = (regNat s (srcReg 0 0x20) + s.search.queries.length) % fld s (srcReg 0 0x18) 16 0 ∧
    s.search.cancelled.contains i = false ∧ mappedSlm (settings s) (queryEntry s i) 128 = true ∧
    readRange s (queryEntry s i) 128 = (u, some d) ∧ fieldAt d 0 1 = op ∧ queryFieldsOk d = true ∧
    (s.search.queries.filter (fun y => !y.done && decide (2 ≤ y.op))).length < 16 ∧
    findRegion u (if bitOf (fieldAt d 3 1) 0 then 4 else 3) (fieldAt d 2 1) = some r

/-- A port that carries flits, with nothing waiting to leave and room for one flit more (R284). -/
abbrev quietPort (s : State) (p : Nat) : Prop :=
  linked s p = true ∧ (port s p).ctrlQueue = [] ∧ (port s p).txQueue = [] ∧ (port s p).mapsNext = [] ∧ hasRoom (port s p) 1 = true

/-- The control flit that leaves a quiet port with a payload: the port's next SEQ, its ACK, and the oldest credits owed (R280, R285). -/
abbrev ctrlFlit (s : State) (p : Nat) (payload : List Byte) : Out :=
  .flit p (laneOf s p (port s p).txSeq) (flitBytes (ackOf (port s p)) (stampFlit (port s p) { ftype := 5, payload := payload }))

/-- The write buffer takes the rest of an APPEND's records now, and the headers of their slabs; `u` is the state with the records in (R215,
R219). -/
abbrev appendEnters (s u : State) (j : Job) (g : Region) : Prop :=
  enterAll g s j.entered ((j.pending.drop j.entered).map recordPieces) = (u, j.pending.length) ∧
    unitsFit u (pieceUnits u g (headerPieces { u with corpus := { u.corpus with records := u.corpus.records ++ j.pending } } j.region
      (j.pending.map (·.slab)).eraseDups)) = true

/-- Whether a record of a slab region is under a tombstone that a snapshot sees (R220, R222). -/
abbrev buried (s : State) (region snap : Nat) (r : Record) : Bool :=
  s.corpus.tombs.any (fun t => t.rtype == 2 && t.region == region && t.rid == r.rid && decide (t.epoch ≤ snap))

/-! ## Frames -/

/-- The parts of the state that a frame speaks of. `owner`, `firmware`, `slots`, `layout`, `retire`, `log`, `life` and `opt` are what the
option area and OTP hold: the owner record, the firmware slots with SVN and revocation, the armature slots with the selector, the layout
record, the retirement record, the fault log with its counts and the loss logs, the counts of starts and of powered time, and the homes
of the option area itself. `bus` is what the register window answers, and `out` what has left the module. The registers are told apart by
the regions of R37: GLB, LED, ARM, GRF, TIER, FAB, UPD, HST, a package's SCN, SRC, FTL and MED, and the tiles. -/
inductive Component where
  | owner | firmware | slots | layout | retire | log | life | opt
  | packages | corpus | power | time | bus | loader | tiles | store | dram | grf | mover | scan | search | fabric | host | ledger
  | sec | faults | out
  | regGlb | regLed | regArm | regGrf | regTier | regFab | regUpd | regHst | regScn | regSrc | regFtl | regMed | regTil
deriving DecidableEq, Repr

/-- The register region that an offset of BAR2 lies in (R37); a reserved range belongs to the region below it. -/
def regBlock (off : Nat) : Component :=
  if off < 0x10000 then .regGlb
  else if off < 0x20000 then .regLed
  else if off < 0x30000 then .regArm
  else if off < 0x40000 then .regGrf
  else if off < 0x50000 then .regTier
  else if off < 0x60000 then .regFab
  else if off < 0x70000 then .regUpd
  else if off < 0x100000 then .regHst
  else if 0x1000000 ≤ off then .regTil
  else if (off - 0x100000) % 0x40000 < 0x10000 then .regScn
  else if (off - 0x100000) % 0x40000 < 0x20000 then .regSrc
  else if (off - 0x100000) % 0x40000 < 0x30000 then .regFtl
  else .regMed

/-- The register regions. -/
def Component.registers : List Component :=
  [.regGlb, .regLed, .regArm, .regGrf, .regTier, .regFab, .regUpd, .regHst, .regScn, .regSrc, .regFtl, .regMed, .regTil]

/-- Every register of a region reads the same in two states. -/
def regionSame (s t : State) (b : Component) : Prop := ∀ off, regBlock off = b → reg t off = reg s off

/-- A part of one state is as it is in another. -/
def Component.same (s t : State) : Component → Prop
  | .owner => t.nv.owner = s.nv.owner
  | .firmware => t.nv.fw1 = s.nv.fw1 ∧ t.nv.fw2 = s.nv.fw2 ∧ t.nv.fwActive = s.nv.fwActive ∧ t.nv.fwPending = s.nv.fwPending ∧
      t.nv.svnMin = s.nv.svnMin ∧ t.nv.revokedKeys = s.nv.revokedKeys
  | .slots => t.nv.selA = s.nv.selA ∧ t.nv.selB = s.nv.selB ∧ t.nv.slotA = s.nv.slotA ∧ t.nv.slotB = s.nv.slotB ∧ t.nv.maquetteOk = s.nv.maquetteOk
  | .layout => t.nv.layout = s.nv.layout ∧ t.nv.layoutEgrps = s.nv.layoutEgrps ∧ t.nv.layoutRr = s.nv.layoutRr ∧
      t.nv.layoutWl = s.nv.layoutWl
  | .retire => t.nv.retiredTiles = s.nv.retiredTiles ∧ t.nv.fencedTiles = s.nv.fencedTiles ∧ t.nv.retiredPcs = s.nv.retiredPcs ∧
      t.nv.fencedPcs = s.nv.fencedPcs ∧ t.nv.retiredLanes = s.nv.retiredLanes ∧ t.nv.retiredAdders = s.nv.retiredAdders ∧
      t.nv.retiredChans = s.nv.retiredChans
  | .log => t.nv.faultLog = s.nv.faultLog ∧ t.nv.frecHead = s.nv.frecHead ∧ t.nv.intr = s.nv.intr ∧ t.nv.ftTrans = s.nv.ftTrans ∧
      t.nv.ftPerm = s.nv.ftPerm ∧ t.nv.faultAges = s.nv.faultAges ∧ t.nv.ledger = s.nv.ledger ∧ t.nv.lossLog = s.nv.lossLog
  | .life => t.nv.pwron = s.nv.pwron ∧ t.nv.poweredTicks = s.nv.poweredTicks ∧ t.nv.tickedTicks = s.nv.tickedTicks
  | .opt => t.nv.optHome = s.nv.optHome ∧ t.nv.optMoves = s.nv.optMoves ∧ t.nv.optMoving = s.nv.optMoving
  | .packages => t.packages = s.packages
  | .corpus => t.corpus = s.corpus
  | .power => t.power = s.power
  | .time => t.tb = s.tb
  | .bus => t.latch = s.latch ∧ t.readData = s.readData
  | .loader => t.loader = s.loader
  | .tiles => t.tiles = s.tiles
  | .store => t.store = s.store
  | .dram => t.dram = s.dram
  | .grf => t.grf = s.grf
  | .mover => t.mover = s.mover
  | .scan => t.scan = s.scan
  | .search => t.search = s.search
  | .fabric => t.fabric = s.fabric
  | .host => t.host = s.host
  | .ledger => t.ledger = s.ledger
  | .sec => t.sec = s.sec
  | .faults => t.faults = s.faults
  | .out => t.out = s.out
  | .regGlb => regionSame s t .regGlb
  | .regLed => regionSame s t .regLed
  | .regArm => regionSame s t .regArm
  | .regGrf => regionSame s t .regGrf
  | .regTier => regionSame s t .regTier
  | .regFab => regionSame s t .regFab
  | .regUpd => regionSame s t .regUpd
  | .regHst => regionSame s t .regHst
  | .regScn => regionSame s t .regScn
  | .regSrc => regionSame s t .regSrc
  | .regFtl => regionSame s t .regFtl
  | .regMed => regionSame s t .regMed
  | .regTil => regionSame s t .regTil

/-- Nothing but the listed parts differs: memory, the registers of every other region, and all else that is not listed, is as it was. -/
def ChangesOnly (l : List Component) (s t : State) : Prop := ∀ p, p ∉ l → Component.same s t p

/-- What recording a fault of a unit in use can change: its retirement, the logs and counts, the operands that waited on it, and the
notices to the host (R479 to R485). -/
def faultParts : List Component := [.retire, .log, .dram, .mover, .host, .faults, .out, .regGlb, .regTier]

/-- What the end of a run can change, where a command may end one: the tiles and their queues, the waiting work that takes their
place, the task graphs, and the completions (R163, R164, R173). -/
def runParts : List Component :=
  [.packages, .tiles, .dram, .grf, .mover, .scan, .fabric, .host, .faults, .out, .retire, .log, .regGlb, .regArm, .regGrf, .regTier, .regFab,
    .regFtl, .regTil]

/-- What the core holds, which a reset of the core begins afresh. -/
def coreParts : List Component :=
  [.time, .bus, .loader, .tiles, .store, .dram, .grf, .mover, .scan, .search, .fabric, .host, .ledger, .sec]

/-- The parts that a command may change. Every other part is as it was, whatever the command did. -/
def touches : Instr → List Component
  | .registerWrite _ _ _ => Component.registers ++ [.owner, .retire, .log, .packages, .power, .loader, .tiles, .store, .dram, .grf, .mover, .scan, .search, .fabric, .host, .ledger, .sec, .faults, .out]
  | .rcCounterRead _ => Component.registers ++ [.bus]
  | .lowWordRead _ => Component.registers ++ [.bus]
  | .refclkStop => [.power]
  | .refclkStart => [.power]
  | .validate _ => faultParts ++ [.loader, .regArm]
  | .stage _ => faultParts ++ [.loader, .regArm]
  | .reform _ => faultParts ++ [.loader, .regArm]
  | .stageAndReform _ => faultParts ++ [.loader, .regArm]
  | .reformToMaquette _ => faultParts ++ [.loader, .regArm]
  | .reformToOtherSlot _ => faultParts ++ [.loader, .regArm]
  | .validationDone => runParts ++ [.corpus, .loader, .search, .regScn, .regSrc]
  | .storingDone => runParts ++ [.slots, .corpus, .loader, .search, .regScn, .regSrc]
  | .quiesceDone => runParts ++ [.corpus, .search, .regScn, .regSrc]
  | .armQlimitExpiry => runParts ++ [.corpus, .loader, .search, .regScn, .regSrc]
  | .drainDone => [.log, .life, .faults, .regGlb, .regArm]
  | .commitDone => [.slots, .layout, .packages, .corpus, .regArm, .regFtl]
  | .rebindDone _ _ => faultParts ++ [.packages, .loader, .tiles, .store, .grf, .search, .fabric, .ledger, .sec, .regLed, .regArm, .regFab, .regUpd, .regHst, .regSrc, .regFtl, .regMed, .regTil]
  | .stream _ => runParts ++ [.store, .regSrc]
  | .loadw _ => runParts ++ [.store, .regSrc]
  | .swap _ => runParts ++ [.store, .regSrc]
  | .vec _ => runParts ++ [.store, .regSrc]
  | .send _ => runParts ++ [.store, .regSrc]
  | .sync _ => runParts ++ [.store, .regSrc]
  | .tileEnd _ => runParts ++ [.store, .regSrc]
  | .rowStep _ _ _ => runParts ++ [.store, .ledger, .regSrc]
  | .vectorStep _ _ => runParts ++ [.store, .ledger, .regSrc]
  | .shadowFillDone _ _ => runParts ++ [.store, .ledger, .regSrc]
  | .sendComplete _ _ => runParts ++ [.store, .regSrc]
  | .syncRelease _ => [.tiles, .regTil]
  | .rampStageEnd _ => [.tiles, .regTil]
  | .idleGapEnd _ => [.tiles, .regTil]
  | .arrayRefillDone _ => runParts ++ [.store, .regSrc]
  | .tileStoreScrub _ _ => [.tiles, .regTil]
  | .watchdogExpiry _ => runParts ++ [.store, .regSrc]
  | .lateAck _ => [.tiles, .regTil]
  | .retire _ _ => runParts ++ [.store, .regSrc]
  | .histogramClear _ _ _ => [.tiles, .regGlb, .regTil]
  | .freeze _ _ => [.tiles, .regGlb, .regTil]
  | .histogramMode _ _ => [.tiles, .regGlb, .regTil]
  | .loadProgram _ _ _ => [.grf, .host, .out, .regGrf]
  | .programActivationManagement _ _ _ => faultParts ++ [.packages, .grf, .scan, .regGrf, .regFtl]
  | .memoryRangeSetManagement _ _ _ => [.grf, .host, .out]
  | .executeProgram _ _ _ _ => faultParts ++ [.packages, .grf, .scan, .regGrf, .regFtl]
  | .kernelDispatch => runParts ++ [.regLed]
  | .partAdmission => runParts ++ [.store]
  | .kernelDeadlineExpiry _ _ => runParts
  | .runDeadlineExpiry _ => runParts
  | .preemption _ => runParts ++ [.regLed]
  | .stepBoundary _ => faultParts ++ [.packages, .grf, .regGrf, .regFtl]
  | .grfSeqSel _ => [.regGlb, .regGrf]
  | .tierMqTail _ => [.regGlb, .regTier]
  | .tierMqSize _ => [.regGlb, .regTier]
  | .copy => faultParts
  | .place => faultParts
  | .evict => faultParts
  | .clear => faultParts
  | .moveComplete _ => faultParts ++ [.packages, .regFtl]
  | .directoryLookupDone _ => [.mover, .fabric, .out, .regTier, .regFab]
  | .pieceArrival _ _ _ => runParts ++ [.store]
  | .mvLimitExpiry _ => [.mover, .fabric, .out, .regFab]
  | .memoryPatrolScrub _ _ _ _ _ => runParts ++ [.search, .regHst, .regScn]
  | .pseudoChannelFault _ _ _ _ => [.retire, .log, .mover, .host, .faults, .out, .regGlb, .regTier]
  | .migrationDone _ _ => faultParts
  | .checkerEnable _ _ => faultParts
  | .writeRaw _ _ => faultParts
  | .readRaw _ _ => faultParts
  | .checkerRead _ _ => faultParts
  | .scnJqTail _ => [.regGlb, .regScn]
  | .scnJqSize _ => [.regGlb, .regScn]
  | .append => faultParts ++ [.corpus, .scan, .regScn]
  | .delete => faultParts ++ [.corpus, .scan, .regScn]
  | .filter => faultParts ++ [.corpus, .scan, .regScn]
  | .embed => faultParts ++ [.corpus, .scan, .regScn]
  | .jobCommit _ => faultParts ++ [.packages, .corpus, .grf, .scan, .search, .regGrf, .regScn, .regSrc, .regFtl]
  | .slabScan _ _ _ _ => faultParts ++ [.packages, .corpus, .grf, .scan, .regGrf, .regScn, .regFtl]
  | .jobComplete _ _ => faultParts ++ [.corpus, .scan, .regScn]
  | .compaction _ _ => [.packages, .corpus, .search, .regScn, .regFtl]
  | .scnJqCancel _ => [.scan, .regGlb]
  | .srcQqTail _ => [.regGlb, .regSrc]
  | .srcQqSize _ => [.regGlb, .regSrc]
  | .query => faultParts ++ [.corpus, .search, .regScn, .regSrc]
  | .insert => faultParts ++ [.corpus, .search, .regScn, .regSrc]
  | .indexDelete => faultParts ++ [.corpus, .search, .regScn, .regSrc]
  | .create => faultParts ++ [.corpus, .search, .regScn, .regSrc]
  | .centroidScores _ => [.search]
  | .raspBatch _ _ _ _ => [.log, .corpus, .search, .regGlb, .regScn, .regSrc]
  | .vectorFetch _ _ _ _ => [.log, .corpus, .search, .regGlb, .regSrc]
  | .thresholdExchange _ _ _ => [.search]
  | .queryContextComplete _ _ => faultParts ++ [.search, .regSrc]
  | .queryDeadlineExpiry _ => faultParts ++ [.packages, .search, .regSrc, .regFtl]
  | .srcQqCancel _ => faultParts ++ [.packages, .search, .regSrc, .regFtl]
  | .trainingDone _ => [.fabric, .out, .regFab]
  | .hello _ _ => [.packages, .fabric, .out, .regFab, .regUpd]
  | .helloResend _ => [.fabric, .out, .regFab]
  | .flitDiscard _ => [.fabric, .out, .regFab]
  | .idle _ _ _ _ _ => [.fabric, .out, .regFab]
  | .nak _ _ => [.fabric, .out, .regFab]
  | .replayLimit _ => [.retire, .log, .mover, .fabric, .host, .faults, .out, .regGlb, .regFab]
  | .laneMap _ _ _ => [.mover, .fabric, .out, .regFab]
  | .tsReq _ _ _ => [.fabric, .out, .regFab]
  | .tsRsp _ _ _ _ _ => [.fabric, .out, .regFab]
  | .timeSync => [.fabric, .out, .regFab]
  | .window _ _ _ _ _ => [.fabric, .out, .regFab]
  | .abortFlit _ _ _ _ _ => [.fabric, .host, .out, .regFab, .regUpd]
  | .depart _ _ => [.fabric, .out, .regFab]
  | .census _ _ _ => [.fabric, .out, .regFab]
  | .mode _ _ _ _ => [.fabric, .out, .regFab]
  | .creditInit _ _ _ => [.fabric, .out, .regFab]
  | .peerAck _ _ _ => [.fabric, .out, .regFab]
  | .grad _ _ => [.fabric, .out, .regFab]
  | .racc _ _ => [.fabric, .out, .regFab]
  | .param _ _ => faultParts ++ [.fabric, .regFab, .regUpd]
  | .peerWr _ _ => faultParts ++ [.fabric, .regFab]
  | .lossOfLock _ => [.retire, .log, .mover, .fabric, .host, .faults, .out, .regGlb, .regFab]
  | .fecErrorLimit _ _ => [.retire, .log, .mover, .fabric, .host, .faults, .out, .regGlb, .regFab]
  | .laneRetrainDone _ _ => [.retire, .log, .mover, .fabric, .host, .faults, .out, .regGlb, .regFab]
  | .reductionDeadlineExpiry _ _ => [.log, .fabric, .host, .out, .regGlb, .regFab, .regUpd]
  | .segmentSum _ _ _ => [.retire, .log, .fabric, .host, .faults, .out, .regGlb, .regFab, .regUpd]
  | .post _ _ => [.fabric, .regGlb, .regFab]
  | .hostAbort _ => [.fabric, .host, .out, .regGlb, .regFab, .regUpd]
  | .resume _ => [.fabric, .host, .out, .regGlb, .regFab, .regUpd]
  | .hold _ => [.fabric, .host, .out, .regGlb, .regFab, .regUpd]
  | .release _ => [.fabric, .host, .out, .regGlb, .regFab, .regUpd]
  | .fabTimeSet _ _ => [.fabric, .regGlb, .regFab]
  | .go _ => faultParts ++ [.fabric, .regFab]
  | .load _ => [.regGlb, .regUpd]
  | .updateSegment _ _ => faultParts ++ [.fabric, .regFab, .regUpd]
  | .lrTagCommit _ _ => [.regGlb, .regUpd]
  | .lrWaitExpiry _ => [.fabric, .host, .out, .regFab, .regUpd]
  | .updLogSel _ => [.regGlb, .regUpd]
  | .writeAdmission _ => faultParts ++ [.packages, .regFtl]
  | .nandProgramDone _ _ _ _ => [.packages, .host, .out, .regHst, .regMed]
  | .journalCommit _ _ => faultParts ++ [.life, .packages, .power, .regFtl]
  | .castWrite _ => [.packages, .regFtl]
  | .gcBatch _ _ _ => [.packages, .regFtl, .regMed]
  | .blockErase _ _ => [.packages]
  | .eraseDone _ _ _ => [.packages, .host, .out, .regHst, .regMed]
  | .eraseSuspend _ _ => [.packages, .regMed]
  | .powerFailure => Component.registers ++ coreParts ++ [.slots, .packages, .power, .faults]
  | .dirtyListWritten _ => [.packages]
  | .holdupFlushDone _ => [.packages, .regFtl]
  | .sealWritten _ => Component.registers ++ coreParts ++ [.packages, .power, .faults]
  | .journalHeadsLocated _ => [.packages, .dram, .search, .regTier, .regFtl]
  | .castsLoaded _ => [.packages, .regMed]
  | .journalReplayed _ => [.packages, .corpus, .regFtl]
  | .dirtyListsReconciled _ => [.packages, .regFtl]
  | .validCountsRebuilt _ => [.packages, .regFtl]
  | .packageReady _ _ => faultParts ++ [.packages, .regScn, .regFtl]
  | .mapLineRebuild _ _ _ => [.log, .packages, .host, .out, .regGlb, .regFtl]
  | .writeBufferFlush _ => [.packages, .regGlb, .regFtl]
  | .castNow _ => [.packages, .regGlb, .regFtl]
  | .shutdownNotification _ => [.log, .life, .packages, .host, .faults, .regGlb, .regFtl]
  | .nandReadDone _ _ _ => [.log, .packages, .mover, .host, .out, .regGlb, .regMed]
  | .retentionPatrol _ _ _ => [.packages, .regHst, .regMed]
  | .rawRead _ _ _ => faultParts ++ [.packages, .regMed]
  | .readNoecc _ _ _ => faultParts ++ [.packages, .regMed]
  | .medBlkSel _ _ => [.regGlb, .regMed]
  | .dieBusyTimeout _ _ _ => [.retire, .log, .opt, .packages, .host, .faults, .out, .regGlb, .regHst, .regScn, .regFtl, .regMed]
  | .channelTransientFault _ _ _ _ => [.retire, .log, .opt, .packages, .host, .faults, .out, .regGlb, .regHst, .regScn, .regFtl, .regMed]
  | .rebuildGroupDone _ => [.packages, .regScn, .regMed]
  | .perstAssert => Component.registers ++ [.packages, .power, .bus, .loader, .tiles, .store, .dram, .grf, .mover, .scan, .search, .fabric, .host, .ledger, .sec]
  | .perstDeassert _ => Component.registers ++ [.power, .bus, .ledger, .sec]
  | .nvmSubsystemReset => Component.registers ++ [.packages, .power, .bus, .loader, .tiles, .store, .dram, .grf, .mover, .scan, .search, .fabric, .host, .ledger, .sec]
  | .flr => faultParts ++ [.packages, .corpus, .grf, .scan, .search, .fabric, .regArm, .regGrf, .regScn, .regSrc, .regFtl]
  | .hotReset => faultParts ++ [.packages, .corpus, .grf, .scan, .search, .fabric, .regArm, .regGrf, .regScn, .regSrc, .regFtl]
  | .dlDown => faultParts ++ [.packages, .corpus, .grf, .scan, .search, .fabric, .regArm, .regGrf, .regHst, .regScn, .regSrc, .regFtl]
  | .linkRetrain => [.host, .regHst]
  | .controllerDisable => faultParts ++ [.packages, .corpus, .grf, .scan, .search, .fabric, .regArm, .regGrf, .regScn, .regSrc, .regFtl]
  | .controllerEnable _ => [.host]
  | .poisonedTlp _ => [.host, .out, .regHst]
  | .completionTimeout _ => [.host, .out, .regHst]
  | .sqTailDoorbell _ _ => [.host, .out]
  | .cqHeadDoorbell _ _ => [.grf, .host, .out, .regGrf]
  | .commandFetch _ _ _ _ _ => [.host, .out]
  | .identify _ _ _ => [.host, .out]
  | .getFeatures _ _ => [.host, .out]
  | .setFeatures _ _ _ _ => [.host, .out, .regHst]
  | .getLogPage _ _ _ _ => [.log, .host, .out, .regFtl]
  | .createIoSubmissionQueue _ _ _ _ => [.host, .out]
  | .createIoCompletionQueue _ _ _ _ => [.host, .out]
  | .deleteIoSubmissionQueue _ _ => [.host, .out]
  | .deleteIoCompletionQueue _ _ => [.host, .out]
  | .abort _ _ => runParts
  | .asynchronousEventRequest _ => [.host, .out]
  | .firmwareImageDownload _ _ _ => [.host, .out]
  | .firmwareCommit _ _ _ => [.firmware, .power, .host, .out, .regGlb]
  | .formatNvm _ _ _ => [.packages, .host, .out, .regFtl]
  | .deviceSelfTest _ _ => [.host, .out]
  | .read _ _ _ _ => faultParts ++ [.packages, .regFtl]
  | .write _ _ _ _ => faultParts ++ [.packages, .regFtl]
  | .flush _ _ => [.host, .out]
  | .writeZeroes _ _ _ _ _ => faultParts ++ [.packages, .regFtl]
  | .datasetManagement _ _ _ => faultParts ++ [.packages, .regFtl]
  | .memoryRead _ _ _ => faultParts
  | .memoryWrite _ _ _ => faultParts
  | .memoryCopy _ _ _ _ => faultParts ++ [.packages, .regFtl]
  | .apstIdleTimerExpiry _ => [.host, .regHst]
  | .powerStateEntryDone => [.host, .regHst]
  | .powerStateExitDone => faultParts ++ [.packages, .regHst, .regFtl]
  | .readNvmeMiDataStructure _ => [.out]
  | .nvmSubsystemHealthStatusPoll _ => [.host, .out, .regHst]
  | .controllerHealthStatusPoll _ => [.host, .out, .regHst]
  | .configurationGet _ => [.out]
  | .configurationSet _ _ => [.host, .out, .regHst]
  | .vpdRead _ _ => [.out]
  | .reset => Component.registers ++ [.packages, .power, .bus, .loader, .tiles, .store, .dram, .grf, .mover, .scan, .search, .fabric, .host, .ledger, .sec, .out]
  | .getVersion _ => [.sec, .out]
  | .getCapabilities _ => [.sec, .out]
  | .negotiateAlgorithms _ _ _ => [.sec, .out]
  | .getDigests _ => [.out]
  | .getCertificate _ _ _ _ => [.out]
  | .challenge _ _ => [.out]
  | .getMeasurements _ _ _ => [.out]
  | .unsupportedRequest _ _ => [.out]
  | .ledgerSample _ => Component.registers ++ coreParts ++ [.slots, .log, .packages, .power, .faults]
  | .inputComparatorTrip => [.ledger, .regLed]
  | .comparatorHoldEnd => [.ledger]
  | .huNow => [.ledger, .regGlb, .regLed, .regFtl]
  | .huPeriodExpiry => [.ledger, .regLed, .regFtl]
  | .huLoadApplied _ => [.ledger, .regLed]
  | .huFallTimed _ => [.ledger, .regLed]
  | .huRecharged _ => faultParts ++ [.packages, .ledger, .regLed, .regHst, .regFtl]
  | .huRetryTimer => [.ledger, .regLed, .regFtl]
  | .inputRise => Component.registers ++ coreParts ++ [.power, .faults]
  | .standbyRegulated => [.power, .time, .faults, .regArm]
  | .otpRead _ => [.power, .regGlb, .regArm]
  | .optionAreaLoaded _ => [.slots, .power, .ledger, .sec, .faults, .regGlb, .regLed, .regArm, .regTier, .regFab, .regUpd, .regHst, .regScn, .regFtl, .regMed]
  | .identityChecked _ => [.power, .regGlb]
  | .firmwareVerified => [.firmware, .log, .power, .regGlb]
  | .firmwareRunning => [.life, .power, .regGlb]
  | .linkDetect => [.power]
  | .configurationReady => [.power]
  | .coreRailsUp => [.power, .fabric, .out, .regLed, .regFab]
  | .stacksTrained => [.power, .dram, .regTier]
  | .tileSelfTestDone _ => runParts ++ [.power, .store, .regSrc]
  | .armatureSelected _ => [.slots, .power, .loader, .regArm]
  | .coreRebindDone _ _ => faultParts ++ [.firmware, .packages, .power, .loader, .tiles, .store, .grf, .search, .fabric, .ledger, .sec, .regLed, .regArm, .regFab, .regUpd, .regHst, .regSrc, .regFtl, .regMed, .regTil]
  | .bootWatchdogExpiry => Component.registers ++ [.firmware, .log, .packages, .power, .bus, .loader, .tiles, .store, .dram, .grf, .mover, .scan, .search, .fabric, .host, .ledger, .sec]
  | .recoveryRestart => Component.registers ++ [.packages, .power, .bus, .loader, .tiles, .store, .dram, .grf, .mover, .scan, .search, .fabric, .host, .ledger, .sec]
  | .install => faultParts ++ [.owner]
  | .glbIdsel _ => [.regGlb]
  | .faultWindowLapse _ _ => [.faults]
  | .faultTimeSave => [.log, .life, .faults, .regGlb]
  | .fwWindowHi _ _ => [.sec, .regGlb]
  | .fwWindowLo _ _ => [.sec, .regGlb]
  | .glbFrecSel _ => [.regGlb]
  | .pwrdisAssert => Component.registers ++ coreParts ++ [.slots, .packages, .power, .faults]
  | .pwrdisDeassert => Component.registers ++ coreParts ++ [.power, .faults]
  | .overcurrentShutdown => Component.registers ++ coreParts ++ [.slots, .packages, .power, .faults]
  | .coolantFault => [.ledger]
  | .coolantRecovered => [.ledger]
  | .lowFlowTrip => Component.registers ++ coreParts ++ [.slots, .log, .packages, .power, .faults]
  | .identBlink => [.power]
  | .fillerStep _ => [.tiles, .ledger, .regTil]
  | .holdupExhausted _ => Component.registers ++ coreParts ++ [.packages, .power, .faults]
  | .bankCharged => [.power, .ledger, .regLed, .regFtl]
  | .gen8NChange _ => [.power]
  | .linkUp _ _ _ => faultParts ++ [.packages, .regHst, .regFtl]
  | .hostReadCompletionError _ => [.host, .out, .regHst]
  | .mctpControlMessage _ => [.out, .regHst]
  | .optionAreaMoveDone _ => [.opt, .regMed]
  | .selfTestSegmentDone _ _ => runParts ++ [.store, .ledger, .regLed, .regSrc]

end Sys2Proof.Machine
end

