-- ==== Sys2Proof/Certificates/Slice0/Obligations.lean ====
section
/-! DEFINITION. The statements for the provers. -/
set_option Elab.async false
section
open Sys2Proof Sys2Proof.Machine

/-- With a command at the front of the queue, one step is exec of that command on the state whose queue is the rest. -/
def Obligations.StepRunsFrontCommand : Prop :=
  ∀ (c : Instr) (rest : List Instr) (s : State),
    step { s with pending := c :: rest } = exec c { s with pending := rest }

/-- The model's own choice (log entries 16, 118, 119): a step on an empty queue is one tick, and an interval that has run out ends at a tick.
Before standby step 2 nothing moves. From it on, while REFCLK runs TB advances by one modulo 2^64 (R7); while it is absent TB stays (R9),
and a period of the standby timebase adds ⌊10^8 ÷ 32,768⌋ = 3,051 ticks to the powered time (R10, R506) and nothing that TB times ends.
Where no interval has run out, the tick adds one to the powered time while REFCLK runs, writes no memory, and changes only what counts, the
synchronisation of the tiles, what a link sends of itself, and whether a write waits for a watermark. -/
def Obligations.EmptyQueueStepIsOneTick : Prop :=
  ∀ s : State, s.pending = [] →
    ∃ t, step s = .next t ∧ t.pending = [] ∧ (s.power.standby < 2 → t = s) ∧
      (2 ≤ s.power.standby → s.power.refclk = true → t.tb = (s.tb + 1) % 2 ^ 64 ∧ (due s = [] → t.faults.powered = s.faults.powered + 1)) ∧
      (2 ≤ s.power.standby → s.power.refclk = false → t.tb = s.tb ∧ t.faults.powered = s.faults.powered + 3051 ∧
        t.sec.standbyTb = s.sec.standbyTb + 1 ∧ ChangesOnly [.host, .sec, .faults, .regHst] s t) ∧
      (due s = [] → ChangesOnly [.time, .tiles, .grf, .scan, .fabric, .host, .sec, .faults, .out, .regLed, .regGrf, .regTier, .regFab, .regHst,
        .regSrc, .regFtl, .regTil] s t) ∧
      ChangesOnly [.retire, .log, .packages, .corpus, .time, .loader, .tiles, .store, .dram, .grf, .mover, .scan, .search, .fabric, .host,
        .sec, .faults, .out, .regGlb, .regLed, .regArm, .regGrf, .regTier, .regFab, .regUpd, .regHst, .regScn, .regSrc, .regFtl, .regTil] s t

/-- Every register reads the value of its Reset column (R18), the queue and every memory are empty, the module has no input power and PERST# is
held low (R442, R487), the factory layout and the maquette are what the option area names (R55, R73), no owner key is set and the policy is
OPEN (R460), no tile, pseudo-channel or channel is retired, and TB is 0. The build SPL-9830-S4-O16 is the model's choice (log entry 2). -/
def Obligations.ResetState : Prop :=
  (∀ off, reg State.reset off = regDefault off) ∧ State.reset.pending = [] ∧ State.reset.store = [] ∧ State.reset.dram = {} ∧
    State.reset.out = [] ∧ State.reset.tb = 0 ∧ State.reset.build = { sp := 4, xp := 16 } ∧
    State.reset.power.standby = 0 ∧ State.reset.power.core = 0 ∧ State.reset.power.input = false ∧ State.reset.power.perst = true ∧
    selectorOf State.reset.nv = some .maquette ∧ State.reset.nv.layout = [factoryRegion 15] ∧
    State.reset.nv.owner = {} ∧ State.reset.nv.retiredTiles = [] ∧ State.reset.nv.retiredPcs = [] ∧ State.reset.nv.retiredChans = [] ∧
    State.reset.nv.svnMin = 0 ∧ State.reset.nv.revokedKeys = 0

/-- No command is ever refused. A command whose operands name units and indexes that R19 and the register maps give answers a next state whose
queue is the one it was given. A command with an operand out of range stops with noSuchUnit. -/
def Obligations.EveryCommandAnswers : Prop :=
  ∀ (c : Instr) (s : State),
    (wellFormed c = true → ∃ t, exec c s = .next t ∧ t.pending = s.pending) ∧
    (wellFormed c = false → exec c s = .fault .noSuchUnit)

/-- For every command, where it answers a next state, every part of the state outside the list that `touches` gives it is as it was: memory, the
flash packages, what the option area holds, the queues and engines, and the registers of every other region (R37). -/
def Obligations.EveryCommandChangesOnlyItsParts : Prop :=
  ∀ (c : Instr) (s t : State), exec c s = .next t → ChangesOnly (touches c) s t

/-- After reset, every memory that a command addresses and the register file are in their canonical forms. -/
def Obligations.ResetIsCanonical : Prop :=
  memoriesWf State.reset = true ∧ regsWf State.reset = true

/-- The invariant: the tile stores, Subsystem Local Memory with the stacks and the board memory, the check bits held for it, its assignment
counts and the register file list no entry that equals what an unlisted address reads as, in strictly rising order. Every command and every
tick keep it. -/
def Obligations.EveryStepKeepsCanonicalForms : Prop :=
  ∀ s t : State, memoriesWf s = true → regsWf s = true → step s = .next t → memoriesWf t = true ∧ regsWf t = true

/-- Over every step: the build and the identity words stay (R40, R448); a retired or fenced tile, pseudo-channel, lane, adder or flash channel
stays retired (R20, R481); the minimum SVN never falls (R457) and a revoked key stays revoked (R458); the power-on count and GLB_INTR never
fall (R442, R482); no package's WSEQ falls (R344); and the next epoch never falls (R219). -/
def Obligations.NoStepTakesBackWhatLasts : Prop :=
  ∀ s t : State, step s = .next t → Lasts s t

/-- The table gives its rows no bits (log entry 4): the decoder reads no command from any word, and putting one at the front of the queue leaves
the state as it is. -/
def Obligations.NoWordSpellsACommand : Prop :=
  ∀ (nbits w : Nat) (s : State), decodeTableWord nbits w = none ∧ s.withFetchWord nbits w = s

/-- INPUT_RISE with the module off begins step 1 with everything but flash, the option area and the pins afresh. STANDBY_REGULATED at step 1
reaches step 2: TB starts at 0 (R7), the powered time goes on from what the option area holds, and the core stage begins where PERST# is
high. OTP_READ reaches step 3, samples GEN8_N (R489) and shows the minimum SVN. OPTION_AREA_LOADED reaches step 4 and loads the fault times
and the transient counts; a copy of the selector whose CRC-32C fails names nothing from then on, and what is named is what the newest copy
that passes names (R71, R73). IDENTITY_CHECKED reaches step 5 and sets GLB_ID, GLB_BUILD and GLB_BOOT.ID_LOST (R451). -/
def Obligations.StandbyStageSteps : Prop :=
  (∀ s : State, s.power.standby = 0 → s.power.down = none → s.power.input = false → s.power.pwrdis = false → s.power.overcurrent = false →
    ∃ t, exec .inputRise s = .next t ∧ t.power.standby = 1 ∧ t.power.input = true ∧ t.power.perst = s.power.perst ∧ t.tb = 0 ∧
      t.nv = s.nv ∧ t.packages = s.packages ∧ t.corpus = s.corpus ∧ t.tiles = [] ∧ t.store = [] ∧ t.dram = {} ∧ t.grf = {} ∧ t.host.sqs = [] ∧ (∀ off, reg t off = reg (showCore { s with regs := [] }) off)) ∧
  (∀ s : State, s.power.standby = 1 →
    ∃ t, exec .standbyRegulated s = .next t ∧ t.power.standby = 2 ∧ t.tb = 0 ∧ t.faults.powered = s.nv.poweredTicks ∧
      t.power.core = (if s.power.perst = true then s.power.core else 1)) ∧
  (∀ (strap : Bool) (s : State), s.power.standby = 2 →
    ∃ t, exec (.otpRead strap) s = .next t ∧ t.power.standby = 3 ∧ t.power.strapTaken = strap ∧ rbit t ARM_STAT 14 = strap ∧
      regNat t GLB_SVN_MIN = s.nv.svnMin % 2 ^ 32) ∧
  (∀ (copies : CopiesRead) (s : State), s.power.standby = 3 →
    ∃ t, exec (.optionAreaLoaded copies) s = .next t ∧ t.power.standby = 4 ∧ t.nv.selA = { s.nv.selA with crcOk := s.nv.selA.crcOk && copies.copyA } ∧
      t.nv.selB = { s.nv.selB with crcOk := s.nv.selB.crcOk && copies.copyB } ∧ t.nv.slotA = s.nv.slotA ∧ t.nv.slotB = s.nv.slotB ∧ t.faults.ages = s.nv.faultAges ∧
      (copies.copyA = false → copies.copyB = false → selectorOf t.nv = none)) ∧
  (∀ (good : Bool) (s : State), s.power.standby = 4 →
    ∃ t, exec (.identityChecked good) s = .next t ∧ t.power.standby = 5 ∧ regNat t GLB_ID = 0x98300900 + s.nv.stepping % 256 ∧
      regNat t GLB_BUILD = buildWord s.build % 2 ^ 32 ∧ rbit t GLB_BOOT 29 = (!good || (chanRetired s 0 0 && chanRetired s 0 16)))

/-- FIRMWARE_VERIFIED at step 5 takes the PENDING slot, or else the ACTIVE slot, where its image passes R453; otherwise the other slot with
PENDING cleared and FW_FALLBACK set; otherwise the device is in recovery. FIRMWARE_RUNNING at step 6 reaches step 7, raises the power-on
count by one and shows it in GLB_PWRON. BOOT_WATCHDOG_EXPIRY between core steps 1 and 9 starts again from the other slot, where that image
passes. RECOVERY_RESTART leaves a recovery that a commit has ended, with the ACTIVE slot running. -/
def Obligations.FirmwareIsChosenAndRuns : Prop :=
  (∀ s : State, s.power.standby = 5 → fwGood s (if s.nv.fwPending ≠ 0 then s.nv.fwPending else s.nv.fwActive) = true →
    ∃ t, exec .firmwareVerified s = .next t ∧ t.power.standby = 6 ∧
      t.power.fwSlot = (if s.nv.fwPending ≠ 0 then s.nv.fwPending else s.nv.fwActive) ∧ t.nv = s.nv ∧ t.regs = s.regs) ∧
  (∀ s : State, s.power.standby = 5 → fwGood s (if s.nv.fwPending ≠ 0 then s.nv.fwPending else s.nv.fwActive) = false → fwGood s (otherFw (if s.nv.fwPending ≠ 0 then s.nv.fwPending else s.nv.fwActive)) = true →
    ∃ t, exec .firmwareVerified s = .next t ∧ t.power.standby = 6 ∧
      t.power.fwSlot = otherFw (if s.nv.fwPending ≠ 0 then s.nv.fwPending else s.nv.fwActive) ∧ t.nv.fwPending = 0 ∧ rbit t GLB_BOOT 30 = true) ∧
  (∀ s : State, s.power.standby = 5 → fwGood s 1 = false → fwGood s 2 = false → (s.nv.fwPending = 0 ∨ s.nv.fwPending = 1 ∨ s.nv.fwPending = 2) → (s.nv.fwActive = 1 ∨ s.nv.fwActive = 2) →
    ∃ t, exec .firmwareVerified s = .next t ∧ t.power.recovery = true ∧ rbit t GLB_BOOT 31 = true) ∧
  (∀ s : State, s.power.standby = 6 → s.power.recovery = false →
    ∃ t, exec .firmwareRunning s = .next t ∧ t.power.standby = 7 ∧ t.nv.pwron = satInc s.nv.pwron ∧
      regNat t GLB_PWRON = satInc s.nv.pwron % 2 ^ 32 ∧ t.power.core = (if s.power.core = 1 then 4 else s.power.core)) ∧
  (∀ s : State, running s = true → s.power.recovery = false → s.power.perst = false → s.power.standby = 7 → 1 ≤ s.power.core → s.power.core < 10 → fwGood s (otherFw s.power.fwSlot) = true →
    ∃ t, exec .bootWatchdogExpiry s = .next t ∧ t.power.fwSlot = otherFw s.power.fwSlot ∧ t.nv.fwPending = 0 ∧ t.power.core = 4 ∧ t.power.coreStart = s.tb ∧ rbit t GLB_BOOT 30 = true ∧ t.nv.pwron = s.nv.pwron) ∧
  (∀ s : State, running s = true → s.power.restartPending = true →
    ∃ t, exec .recoveryRestart s = .next t ∧ t.power.recovery = false ∧ t.power.restartPending = false ∧ t.power.fwSlot = s.nv.fwActive ∧
      t.tiles = [] ∧ t.store = [])

/-- PERST_DEASSERT samples GEN8_N and begins the core stage, at step 4 at once where firmware runs and no activation is pending. LINK_DETECT and
CONFIGURATION_READY open the link and configuration space. CORE_RAILS_UP reaches step 5 with the rails at 750 mV. STACKS_TRAINED reaches
step 6, and every line of the stacks is initialised (R203). TILE_SELF_TEST_DONE reaches step 7, zeroes every tile store (R124) and counts
the tiles that failed, at most 255, in BIST_FAILED. ARMATURE_SELECTED reaches step 8 with an armature to put in force, the maquette where
the selector names nothing (R71). CORE_REBIND_DONE reaches step 10 with that armature in force, over the layout of the layout record. -/
def Obligations.CoreStageSteps : Prop :=
  (∀ (strap : Bool) (s : State), s.power.perst = true → 2 ≤ s.power.standby → s.power.down = none → s.power.restartPending = false →
    ∃ t, exec (.perstDeassert strap) s = .next t ∧ t.power.perst = false ∧ t.power.strapTaken = strap ∧ t.power.coreStart = s.tb ∧
      rbit t ARM_STAT 14 = strap ∧
      t.power.core = (if s.power.standby = 7 ∧ s.nv.fwPending = 0 ∧ s.power.recovery = false then 4 else 1)) ∧
  (∀ s : State, 1 ≤ s.power.core →
    exec .linkDetect s = .next ({ s with power := { s.power with linkDetect := true } })) ∧
  (∀ s : State, s.power.linkDetect = true →
    exec .configurationReady s = .next ({ s with power := { s.power with configReady := true } })) ∧
  (∀ s : State, s.power.core = 4 →
    ∃ t, exec .coreRailsUp s = .next t ∧ t.power.core = 5 ∧ t.power.railsUp = true ∧ fld t LED_VNOW 25 16 = 750) ∧
  (∀ s : State, s.power.core = 5 →
    ∃ t, exec .stacksTrained s = .next t ∧ t.power.core = 6 ∧ t.dram.bytes = s.dram.bytes ∧
      t.dram.tags = s.dram.tags.filter (fun e => onBoard e.1) ∧ t.dram.raws = s.dram.raws.filter (fun e => onBoard e.1)) ∧
  (∀ (failed : List Nat) (s : State), s.power.core = 6 →
    ∃ t, exec (.tileSelfTestDone failed) s = .next t ∧ t.power.core = 7 ∧ t.store = [] ∧
      fld t GLB_BOOT 23 16 = min (failed.eraseDups.filter (fun x => tileLive s x)).length 255) ∧
  (∀ (good : Bool) (s : State), s.power.core = 7 → selectorOf s.nv = none →
    ∃ t, exec (.armatureSelected good) s = .next t ∧ t.power.core = 8 ∧ t.nv.maquetteOk = (s.nv.maquetteOk && good) ∧
      t.loader.next = some (maquetteOf s)) ∧
  (∀ (again : Bool) (s : State) (a : Armature), s.power.core = 8 → s.loader.next = some a → reqReachable s a = true →
    ∃ t, exec (.coreRebindDone false again) s = .next t ∧ t.power.core = 10 ∧ t.loader.settings = { a with regions := s.nv.layout } ∧
      t.loader.source = s.loader.target.getD .maquette ∧ t.loader.inForce = s.loader.target.isSome ∧ t.loader.next = none)

/-- PERST_ASSERT takes the core stage back to its start: tiles, runs, rings, jobs, queries, ports, trees, queues and the command of the loader
are gone; the option area is as it was; the bytes of the stacks and of board memory are as they were, and a flush is owed where a package
was in service. NVM_SUBSYSTEM_RESET does the same with PERST# high and begins the core stage again. -/
def Obligations.ResetsStopTheCore : Prop :=
  (∀ s : State, running s = true → s.power.perst = false →
    ∃ t, exec .perstAssert s = .next t ∧ t.power.perst = true ∧ t.power.core = 0 ∧ t.power.linkDetect = false ∧ t.power.configReady = false ∧
      t.power.railsUp = false ∧ t.power.owesFlush = (List.range s.build.sp).any (alive s) ∧ t.tiles = [] ∧ t.store = [] ∧ t.grf = {} ∧
      t.mover = {} ∧ t.scan = {} ∧ t.search = {} ∧ t.fabric = {} ∧ t.host.sqs = [] ∧ t.host.enabled = false ∧ t.loader.cmd = 0 ∧
      t.dram.bytes = s.dram.bytes ∧ t.nv = s.nv) ∧
  (∀ s : State, running s = true → s.power.perst = false → s.power.restartPending = false →
    ∃ t, exec .nvmSubsystemReset s = .next t ∧ t.power.perst = false ∧ t.power.coreStart = s.tb ∧
      t.power.core = (if s.power.standby = 7 ∧ s.nv.fwPending = 0 ∧ s.power.recovery = false then 4 else 1) ∧ t.power.strapTaken = s.power.strapTaken ∧
      t.tiles = [] ∧ t.store = [] ∧ t.grf = {} ∧ t.mover = {} ∧ t.scan = {} ∧ t.search = {} ∧ t.fabric = {} ∧ t.host.sqs = [] ∧ t.loader.cmd = 0 ∧
      t.dram.bytes = s.dram.bytes)

/-- With the module on and a package in service, each of the four causes takes the core down at once: every package in service lists its dirty
units, and the tiles, the memories of the core and all work in progress are gone. Flash is as it was, and so is the option area, but that a
loss during the commit may leave one copy of the selector torn (R73, R79). -/
def Obligations.PowerGoesDown : Prop :=
  (∀ (p : Nat) (s : State), s.power.standby ≠ 0 → s.power.down = none → p < s.build.sp → p < s.packages.length → alive s p = true →
    ∃ t, exec .powerFailure s = .next t ∧ t.power.input = false ∧ t.power.down = some .inputLost ∧ t.power.core = 0 ∧ t.tiles = [] ∧
      t.store = [] ∧ t.dram = {} ∧ t.host.sqs = [] ∧ (fld s ARM_STAT 31 28 ≠ 5 → t.nv = s.nv) ∧ t.corpus = s.corpus ∧ (pkg t p).flush = .listing ∧ (pkg t p).map = (pkg s p).map ∧ (pkg t p).nand = (pkg s p).nand) ∧
  (∀ (p : Nat) (s : State), s.power.standby ≠ 0 → s.power.down = none → p < s.build.sp → p < s.packages.length → alive s p = true →
    ∃ t, exec .pwrdisAssert s = .next t ∧ t.power.pwrdis = true ∧ t.power.down = some .pwrdis ∧ t.power.core = 0 ∧ t.tiles = [] ∧ t.dram = {} ∧
      (fld s ARM_STAT 31 28 ≠ 5 → t.nv = s.nv) ∧ (pkg t p).flush = .listing) ∧
  (∀ (p : Nat) (s : State), s.power.standby ≠ 0 → s.power.down = none → p < s.build.sp → p < s.packages.length → alive s p = true →
    ∃ t, exec .overcurrentShutdown s = .next t ∧ t.power.overcurrent = true ∧ t.power.down = some .overcurrent ∧ t.power.core = 0 ∧ t.tiles = [] ∧
      t.dram = {} ∧ (fld s ARM_STAT 31 28 ≠ 5 → t.nv = s.nv) ∧ (pkg t p).flush = .listing) ∧
  (∀ (p : Nat) (s : State), 2 ≤ s.power.standby → s.power.down = none → s.power.trip = false → p < s.build.sp → p < s.packages.length → alive s p = true →
    ∃ t, exec .lowFlowTrip s = .next t ∧ t.power.trip = true ∧ t.power.down = some .trip ∧ t.power.core = 0 ∧ rbit t LED_STAT 25 = true ∧
        t.tiles = [] ∧ t.dram = {} ∧ (fld s ARM_STAT 31 28 ≠ 5 → t.nv = s.nv) ∧ (pkg t p).flush = .listing)

/-- DIRTY_LIST_WRITTEN lists the dirty units in admission order. HOLDUP_FLUSH_DONE flushes them all into hold-up blocks, the newest copy of
each. SEAL_WRITTEN journals SEAL with CLEAN 0, and the package's sequence ends. HOLDUP_EXHAUSTED ends step 4 with only the oldest units
flushed; how many is a free value (log entry 24). PWRDIS_DEASSERT with the module off and the input present begins standby step 1. -/
def Obligations.FlushSequenceSteps : Prop :=
  (∀ (p q : Nat) (s : State), p < 4 → p < s.packages.length → fitted s p = true → (pkg s p).flush = .listing → q ≠ p →
    ∃ t, exec (.dirtyListWritten p) s = .next t ∧ (pkg t p).flush = .flushing ∧ (pkg t p).dirtyList = (pkg s p).wbuf.map (·.lunit) ∧
      (pkg t p).wseq = (pkg s p).wseq + ceilDiv (4 * (pkg s p).wbuf.length) 16384 ∧ (pkg t p).wbuf = (pkg s p).wbuf ∧ pkg t q = pkg s q) ∧
  (∀ (p : Nat) (l : List Nat) (s : State), p < 4 → p < s.packages.length → fitted s p = true → (pkg s p).flush = .flushing →
    ∃ t, exec (.holdupFlushDone { package := p, lost := l }) s = .next t ∧ (pkg t p).flush = .sealing ∧ (pkg t p).wbuf = [] ∧
      (pkg t p).heldFlushed = holdUnits (pkg s p).heldFlushed ((pkg s p).wbuf.filter (fun d => !l.contains d.lunit)) ∧ (pkg t p).dirtyList = ((pkg s p).wbuf.filter (fun d => l.contains d.lunit)).map (·.lunit) ∧ (∀ u ∈ (pkg t p).dirtyList, (pkg t p).stripeLost.contains u = true) ∧
      (pkg t p).wseq = (pkg s p).wseq + (pkg s p).wbuf.length ∧ (pkg t p).map = (pkg s p).map) ∧
  (∀ (p : Nat) (s : State), p < 4 → p < s.packages.length → fitted s p = true → (pkg s p).flush = .sealing →
    ∃ t, exec (.sealWritten p) s = .next t ∧ (pkg t p).flush = .done ∧ (pkg t p).sealClean = false ∧ (pkg t p).wseq = (pkg s p).wseq + 1 ∧
      (pkg t p).journal = (pkg s p).journal ++ [{ wseq := (pkg s p).wseq + 1, recs := [{ type := 6, lunit := 0, clean := false }] }]) ∧
  (∀ (p : Nat) (s : State), p < 4 → p < s.packages.length → fitted s p = true → (pkg s p).flush = .flushing → s.power.down = some .inputLost →
    ∃ t, exec (.holdupExhausted p) s = .next t ∧ ∃ n, n ≤ (pkg s p).wbuf.length ∧ pkg t p = { flushOldest (pkg s p) n with flush := .done }) ∧
  (∀ s : State, s.power.pwrdis = true → s.power.standby = 0 → s.power.input = true → s.power.overcurrent = false →
    ∃ t, exec .pwrdisDeassert s = .next t ∧ t.power.pwrdis = false ∧ t.power.standby = 1 ∧ t.nv = s.nv ∧ t.packages = s.packages)

/-- While REFCLK is stopped a tick leaves TB as it is, and once it runs a tick advances TB by one, modulo 2^64 (R9). GEN8_N shows in
GLB_PANEL.STRAP_NOW as read, and the sampled strap stays (R489). In blink mode the lamp toggles (R490). The coolant out of its limits sets
bit 6 of GLB_PANEL.CAUSE as read and asserts FAULT_N while the input is present and PWRDIS is low; recovered, the bit is clear (R495). After
the comparator's hold ends, tiles issue again (R435). -/
def Obligations.PinsLampsAndCoolant : Prop :=
  (∀ s : State, ∃ t, exec .refclkStop s = .next t ∧ (tick t).tb = s.tb ∧ t.regs = s.regs) ∧
  (∀ s : State, 2 ≤ s.power.standby →
    ∃ t, exec .refclkStart s = .next t ∧ (tick t).tb = (s.tb + 1) % 2 ^ 64 ∧ t.regs = s.regs) ∧
  (∀ (low : Bool) (s : State), ∃ t, exec (.gen8NChange low) s = .next t ∧ bitOf (regNow t GLB_PANEL) 2 = low ∧ t.power.strapTaken = s.power.strapTaken ∧ t.regs = s.regs) ∧
  (∀ s : State, fld s GLB_PANEL 1 0 = 2 →
    ∃ t, exec .identBlink s = .next t ∧ t.power.identLit = !s.power.identLit ∧ t.regs = s.regs) ∧
  (∀ s : State, 2 ≤ s.power.standby →
    ∃ t, exec .coolantFault s = .next t ∧ bitOf (panelCause t) 6 = true ∧ faultN t = (s.power.input && !s.power.pwrdis) ∧ t.regs = s.regs) ∧
  (∀ s : State, ∃ t, exec .coolantRecovered s = .next t ∧ bitOf (panelCause t) 6 = false ∧ t.regs = s.regs) ∧
  (∀ s : State, ∃ t, exec .comparatorHoldEnd s = .next t ∧ t.ledger = { s.ledger with holdEmpty := false } ∧ t.regs = s.regs)

/-- BANK_CHARGED, HU_PERIOD_EXPIRY, HU_NOW and, after a measurement that failed, HU_RETRY_TIMER begin a measurement where the bank is full, none
runs and no power-failure sequence runs: LED_STAT.MEASURING is set. HU_LOAD_APPLIED, with no package exposed, stores the ESR, at most
65,535. HU_FALL_TIMED stores C_meas = 2 × Δt ÷ 3, which saturates. HU_RECHARGED ends it: E_u is 0 where the measurement failed and otherwise
what R438 computes; HU_LOW below 96 J, HU_ZERO at or below 48 J, an event bit for a failure or a success, and a retry exactly after a
failure. -/
def Obligations.HoldupMeasurement : Prop :=
  (∀ s : State, 2 ≤ s.power.standby → s.power.bankFull = false → rbit s LED_STAT 29 = false → s.power.down = none →
    ∃ t, exec .bankCharged s = .next t ∧ t.power.bankFull = true ∧ t.ledger.huStep = 1 ∧ rbit t LED_STAT 29 = true) ∧
  (∀ s : State, s.power.bankFull = true → rbit s LED_STAT 29 = false → s.power.down = none →
    ∃ t, exec .huPeriodExpiry s = .next t ∧ t.ledger.huStep = 1 ∧ rbit t LED_STAT 29 = true ∧ t.power = s.power) ∧
  (∀ s : State, windowOpen s = true → s.power.recovery = false → s.power.bankFull = true → rbit s LED_STAT 29 = false → s.power.down = none →
    ∃ t, exec .huNow s = .next t ∧ t.ledger.huStep = 1 ∧ rbit t LED_STAT 29 = true ∧ t.power = s.power ∧
      rbit t LED_CTRL 0 = rbit s LED_CTRL 0) ∧
  (∀ s : State, s.ledger.huRetry = true → s.power.bankFull = true → rbit s LED_STAT 29 = false → s.power.down = none →
    ∃ t, exec .huRetryTimer s = .next t ∧ t.ledger.huStep = 1 ∧ t.ledger.huRetry = false ∧ rbit t LED_STAT 29 = true) ∧
  (∀ (esr : Nat) (s : State), s.ledger.huStep = 1 → s.power.down = none → (List.range s.build.sp).all (fun p => !exposed s p) = true →
    ∃ t, exec (.huLoadApplied esr) s = .next t ∧ t.ledger.huStep = 2 ∧ t.ledger.huEsr = esr ∧ regNat t LED_HU_ESR = min 65535 esr) ∧
  (∀ (us : Nat) (s : State), s.ledger.huStep = 2 →
    ∃ t, exec (.huFallTimed us) s = .next t ∧ t.ledger.huStep = 3 ∧ t.ledger.huFallUs = us ∧ regNat t LED_HU_CAP = min allBits (2 * us / 3)) ∧
  (∀ (full : Bool) (s : State), s.ledger.huStep = 3 →
    ∃ t, exec (.huRecharged full) s = .next t ∧ t.ledger.huStep = 0 ∧ t.ledger.huFirst = true ∧ t.ledger.huRetry = measureFails s full ∧
      rbit t LED_STAT 29 = false ∧ rbit t LED_EVENT (if measureFails s full = true then 5 else 6) = true ∧
      regNat t LED_HU_ENERGY = (if measureFails s full = true then 0 else min allBits (euOfFall s.ledger.huFallUs)) ∧
      rbit t LED_STAT 31 = decide (regNat t LED_HU_ENERGY < 96000) ∧ rbit t LED_STAT 30 = decide (regNat t LED_HU_ENERGY ≤ 48000))

/-- A sample from standby step 2 on, with no sensor at its trip limit, enters the input power in the window of the last ten samples, adds it to
LED_ENERGY, and writes the present and the average power, the input and bank voltages and the coolant readings. From core step 10 on it
stops admission exactly where the input power exceeds 105 % of the budget in force and counts that in LED_OVERSHOOT. The comparator's trip
makes every tile issue empty slots, counts in LED_OVERSHOOT and takes the setpoint to its lowest. -/
def Obligations.LedgerSamplesAndComparator : Prop :=
  (∀ (r : Readings) (s : State), 2 ≤ s.power.standby → tripLimit r = false →
    ∃ t, exec (.ledgerSample r) s = .next t ∧ t.ledger.windowIn = slide s.ledger.windowIn r.inputW ∧ t.ledger.inRem = (s.ledger.inRem + r.inputW) % 10 ∧
      nat64 t LED_ENERGY = (nat64 s LED_ENERGY + (s.ledger.inRem + r.inputW) / 10) % 2 ^ 64 ∧
      regNat t LED_PWR = (average (slide s.ledger.windowIn r.inputW) % 65536 * 65536 + r.inputW % 65536) ∧
      regNat t LED_VIN = r.bankMv % 65536 * 65536 + r.inputMv % 65536 ∧
      regNat t LED_COOLANT = r.inletC % 256 * 2 ^ 24 + r.outletC % 256 * 65536 + r.flow % 65536 ∧ fld t LED_VNOW 9 0 = r.sensedMv % 1024 ∧ t.power = s.power) ∧
  (∀ (r : Readings) (s : State), 10 ≤ s.power.core → 2 ≤ s.power.standby → tripLimit r = false →
    ∃ t, exec (.ledgerSample r) s = .next t ∧ t.ledger.stopAdmission = decide (fld s LED_STAT 11 0 * 105 < r.inputW * 100) ∧
      regNat t LED_OVERSHOOT = (if fld s LED_STAT 11 0 * 105 < r.inputW * 100 then min (regNat s LED_OVERSHOOT + 1) allBits else regNat s LED_OVERSHOOT) ∧
      fld t LED_STAT 11 0 = budgetNow s % 4096) ∧
  (∀ s : State, 5 ≤ s.power.core →
    ∃ t, exec .inputComparatorTrip s = .next t ∧ t.ledger = { s.ledger with holdEmpty := true } ∧ regNat t LED_OVERSHOOT = min (regNat s LED_OVERSHOOT + 1) allBits ∧
      rbit t LED_EVENT 1 = true ∧ fld t LED_VNOW 25 16 = vLow s % 1024 ∧ fld t LED_VNOW 9 0 = fld s LED_VNOW 9 0)

/-- FAULT_WINDOW_LAPSE marks a resource's last transient fault as lapsed once its window has passed. FAULT_TIME_SAVE at standby step 7 writes
every entry that waits, the fault times, the counts of transient faults and the powered time to the option area, and shows the powered
hours. A write of GLB_FW_WINDOW_HI is only held; a write of LO forms the window with the HI that is held, or with HI's present value, and
applies it where it lies in the range of R61 and lock bit 7 is clear; otherwise the pair is discarded and the access counted. Both hold
outside step 7 of a re-form. -/
def Obligations.FaultTimesAndWindows : Prop :=
  (∀ (cls unit : Nat) (s : State) (a : FaultAge), cls < 5 → ageOf s cls unit = some a → windowOf s cls ≤ elapsedOf s a →
    ∃ t, exec (.faultWindowLapse cls unit) s = .next t ∧ ageOf t cls unit = some { a with lapsed := true } ∧ t.nv = s.nv ∧ t.regs = s.regs) ∧
  (∀ s : State, s.power.standby = 7 →
    ∃ t, exec .faultTimeSave s = .next t ∧ t.faults.unsaved = [] ∧ t.faults.ages = s.faults.ages ∧ t.nv.faultAges = s.faults.ages ∧ t.nv.poweredTicks = s.faults.powered ∧
      regNat t GLB_HOURS = s.faults.powered / 360000000000 % 2 ^ 32 ∧ t.nv.ftTrans = [0, 1, 2, 3, 4].map (fun c => regNat s (GLB_FT_TRANS c))) ∧
  (∀ (cls : Nat) (val : Word) (s : State), cls < 4 → windowOpen s = true → s.power.recovery = false → armState s ≠ 6 →
    ∃ t, exec (.fwWindowHi cls val) s = .next t ∧ Sparse.get none t.sec.fwHi cls = some val ∧ t.regs = s.regs) ∧
  (∀ (cls w : Nat) (val : Word) (s : State), cls < 4 → windowOpen s = true → s.power.recovery = false → armState s ≠ 6 → bitOf (settings s).lockMask 7 = false → w = val.toNat + 2 ^ 32 * (match Sparse.get none s.sec.fwHi cls with | some h => h.toNat | none => regNat s (GLB_FW_WINDOW cls + 4)) → 100000000 ≤ w → w ≤ 60480000000000 →
    ∃ t, exec (.fwWindowLo cls val) s = .next t ∧ nat64 t (GLB_FW_WINDOW cls) = w ∧ Sparse.get none t.sec.fwHi cls = none ∧ regNat t GLB_ACC_ERR = regNat s GLB_ACC_ERR) ∧
  (∀ (cls w : Nat) (val : Word) (s : State), cls < 4 → windowOpen s = true → s.power.recovery = false → armState s ≠ 6 → w = val.toNat + 2 ^ 32 * (match Sparse.get none s.sec.fwHi cls with | some h => h.toNat | none => regNat s (GLB_FW_WINDOW cls + 4)) → (bitOf (settings s).lockMask 7 = true ∨ w < 100000000 ∨ 60480000000000 < w) →
    ∃ t, exec (.fwWindowLo cls val) s = .next t ∧ nat64 t (GLB_FW_WINDOW cls) = nat64 s (GLB_FW_WINDOW cls) ∧ Sparse.get none t.sec.fwHi cls = none ∧ regNat t GLB_ACC_ERR = min (regNat s GLB_ACC_ERR + 1) allBits)

/-- A write of GLB_IDSEL up to 1,975 copies that identity word, low word first, or 0 where the identity page is lost; above 1,975 it is
discarded and counted. A write of GLB_FREC_SEL copies the eight words of the entry: EVENT in the first, the time in the third and fourth. -/
def Obligations.IdentityWordsAndFaultLog : Prop :=
  (∀ (index : Nat) (s : State), index ≤ 1975 → windowOpen s = true → s.power.recovery = false →
    ∃ t, exec (.glbIdsel index) s = .next t ∧ regNat t GLB_IDSEL = index ∧
      nat64 t GLB_IDWORD = (if rbit s GLB_BOOT 29 = true then 0 else Sparse.get 0 s.nv.idWords index % 2 ^ 64) ∧ t.nv = s.nv) ∧
  (∀ (index : Nat) (s : State), 1975 < index → index < 2048 → windowOpen s = true → s.power.recovery = false →
    exec (.glbIdsel index) s = .next (accErr s)) ∧
  (∀ (index : Nat) (s : State), index < 4096 → windowOpen s = true → s.power.recovery = false →
    ∃ t, exec (.glbFrecSel index) s = .next t ∧ regNat t GLB_FREC_SEL = index ∧
      regNat t GLB_FREC_DATA = (Sparse.get {} s.nv.faultLog index).event % 2 ^ 32 ∧ nat64 t (GLB_FREC_DATA + 8) = (Sparse.get {} s.nv.faultLog index).time % 2 ^ 64 ∧ t.nv = s.nv)

/-- A record in mapped Subsystem Local Memory that reads whole and passes its checks replaces the owner record: its key, its policy and its SEQ,
which GLB_OWN_SEQ shows; RESULT is 0 and DONE is set. A record that fails gives the RESULT of the first check that fails and changes
nothing. While ARM_STAT.STATE is not 0 the RESULT is 5. -/
def Obligations.OwnerRecordInstalled : Prop :=
  (∀ (s : State) (l : List Byte), windowOpen s = true → s.power.recovery = false → armState s = 0 → 10 ≤ s.power.core → mappedSlm (settings s) (nat64 s GLB_OWN_SRC) 1088 = true → (readRange s (nat64 s GLB_OWN_SRC) 1088).2 = some l → ownerResult s l = 0 →
    ∃ t, exec .install s = .next t ∧ t.nv.owner = { modulus := l.take 512, policy := fieldAt l 0x200 1, seq := fieldAt l 0x204 4, bytes := l.take 0x208 } ∧
      regNat t GLB_OWN_SEQ = fieldAt l 0x204 4 % 2 ^ 32 ∧ fld t GLB_OWN_STAT 2 0 = 0 ∧ rbit t GLB_OWN_STAT 31 = true) ∧
  (∀ (s : State) (l : List Byte), windowOpen s = true → s.power.recovery = false → armState s = 0 → 10 ≤ s.power.core → mappedSlm (settings s) (nat64 s GLB_OWN_SRC) 1088 = true → (readRange s (nat64 s GLB_OWN_SRC) 1088).2 = some l → ownerResult s l ≠ 0 →
    ∃ t, exec .install s = .next t ∧ t.nv.owner = s.nv.owner ∧ regNat t GLB_OWN_SEQ = regNat s GLB_OWN_SEQ ∧
      fld t GLB_OWN_STAT 2 0 = ownerResult s l ∧ rbit t GLB_OWN_STAT 31 = true) ∧
  (∀ s : State, windowOpen s = true → s.power.recovery = false → armState s ≠ 0 →
    ∃ t, exec .install s = .next t ∧ t.nv = s.nv ∧ fld t GLB_OWN_STAT 2 0 = 5 ∧ rbit t GLB_OWN_STAT 31 = true)

/-- With the window open and the module not in recovery: a write or a read that is not a naturally aligned 32-bit access, outside the region of
an unfitted unit, is discarded or reads 0, is counted in GLB_ACC_ERR and changes nothing else (R12); a write of LED_BUDGET from 800 W to
TOTAL_W, with lock bit 0 clear, stores the budget and leaves the register's other bits; a read of an RC counter gives its value and leaves
0; a read of the low word of a 64-bit counter latches the high word for the read that follows. With the window closed a write changes
nothing. -/
def Obligations.WindowAccess : Prop :=
  (∀ (off size : Nat) (val : Word) (s : State), off < 0x4000000 → size ≤ 64 → windowOpen s = true → s.power.recovery = false → unfittedOffset s.build off = false → (size ≠ 4 ∨ off % 4 ≠ 0) →
    exec (.registerWrite off size val) s = .next (accErr s)) ∧
  (∀ (val : Word) (s : State), windowOpen s = true → s.power.recovery = false → armState s ≠ 6 → bitOf (settings s).lockMask 0 = false → 800 ≤ val.toNat % 4096 → val.toNat % 4096 ≤ (settings s).totalW →
    ∃ t, exec (.registerWrite LED_BUDGET 4 val) s = .next t ∧ fld t LED_BUDGET 11 0 = val.toNat % 4096 ∧ fld t LED_BUDGET 31 12 = fld s LED_BUDGET 31 12 ∧ regNat t GLB_ACC_ERR = regNat s GLB_ACC_ERR) ∧
  (∀ (off : Nat) (r : RegRow) (s : State), off < 0x4000000 → off % 4 = 0 → windowOpen s = true → s.power.recovery = false → unfittedOffset s.build off = false → regRow off = some r → r.rc = true →
    ∃ t, exec (.rcCounterRead ⟨off, 4⟩) s = .next t ∧ t.readData = BitVec.ofNat 32 (regNow s off) ∧ reg t off = 0 ∧ t.latch = s.latch) ∧
  (∀ (off : Nat) (r : RegRow) (s : State), off < 0x4000000 → off % 4 = 0 → windowOpen s = true → s.power.recovery = false → unfittedOffset s.build off = false → regRow off = some r → r.rc = false → r.low64 = true →
    ∃ t, exec (.lowWordRead ⟨off, 4⟩) s = .next t ∧ t.readData = BitVec.ofNat 32 (regNow s off) ∧ Sparse.get none t.latch (off + 4) = some (BitVec.ofNat 32 (regNow s (off + 4))) ∧ t.regs = s.regs) ∧
  (∀ (off size : Nat) (s : State), off < 0x4000000 → size ≤ 64 → windowOpen s = true → s.power.recovery = false → unfittedOffset s.build off = false → (size ≠ 4 ∨ off % 4 ≠ 0) →
    exec (.rcCounterRead ⟨off, size⟩) s = .next (accErr { s with readData := 0 })) ∧
  (∀ (off size : Nat) (s : State), off < 0x4000000 → size ≤ 64 → windowOpen s = true → s.power.recovery = false → unfittedOffset s.build off = false → (size ≠ 4 ∨ off % 4 ≠ 0) →
    exec (.lowWordRead ⟨off, size⟩) s = .next (accErr { s with readData := 0 })) ∧
  (∀ (off size : Nat) (val : Word) (s : State), off < 0x4000000 → size ≤ 64 → windowOpen s = false →
    exec (.registerWrite off size val) s = .next (s))

/-- R38, with the window open and the module not in recovery (where R459 governs). A read of a reserved range reads 0 and a write of one is
discarded; either is counted in GLB_ACC_ERR, and nothing else changes: no fault, no completion. In the region of an unfitted unit a read
reads 0 and a write is discarded, and nothing is counted. -/
def Obligations.ReservedRangesRefuse : Prop :=
  ∀ (off : Nat) (val : Word) (s : State), off < 0x4000000 → windowOpen s = true → s.power.recovery = false →
    (unfittedOffset s.build off = false → regRow off = none →
      exec (.registerWrite off 4 val) s = .next (accErr s) ∧ exec (.rcCounterRead ⟨off, 4⟩) s = .next (accErr { s with readData := 0 }) ∧
      exec (.lowWordRead ⟨off, 4⟩) s = .next (accErr { s with readData := 0 })) ∧
    (unfittedOffset s.build off = true →
      exec (.registerWrite off 4 val) s = .next s ∧ exec (.rcCounterRead ⟨off, 4⟩) s = .next { s with readData := 0 } ∧
      exec (.lowWordRead ⟨off, 4⟩) s = .next { s with readData := 0 })

/-- A tile that passes its test hands segment 2 on to the next idle live tile. Segment 3 ends the short test and begins segment 4 of the
extended one. A test that ends enters its code and its first failed segment at the front of the log, of 20 entries. The move of a half that
is under way ends with a copy of the option area on the lowest live channel of the half that holds none, with one move counted, and
OPT_SINGLE shows whether a half still has no home. -/
def Obligations.SelfTestAndOptionMove : Prop :=
  (∀ (x u : Nat) (s : State), x < 1024 → s.host.selfTest ≠ 0 → s.host.selfTestSeg = 2 → s.host.selfTestTile = some x → nextTest s (x + 1) = some u →
    exec (.selfTestSegmentDone true x) s = .next ({ s with host := { s.host with selfTestTile := some u } })) ∧
  (∀ (good : Bool) (x : Nat) (s : State), x < 1024 → s.host.selfTest = 1 → s.host.selfTestSeg = 3 → s.host.selfTestFail = 0 →
    ∃ t, exec (.selfTestSegmentDone good x) s = .next t ∧ t.host.selfTest = 0 ∧ t.host.selfTestSeg = 0 ∧
      t.host.selfTestLog = ((1, (if good = true then 0 else 7), (if good = true then 0 else 3)) :: s.host.selfTestLog).take 20) ∧
  (∀ (good : Bool) (x : Nat) (s : State), x < 1024 → s.host.selfTest = 2 → s.host.selfTestSeg = 3 →
    ∃ t, exec (.selfTestSegmentDone good x) s = .next t ∧ t.host.selfTest = 2 ∧ t.host.selfTestSeg = 4) ∧
  (∀ (h c : Nat) (s : State), h < 2 → s.nv.optMoving.getD h false = true → optTarget s h = some c → s.nv.optHome.length = 2 → s.nv.optMoves.length = 2 →
    ∃ t, exec (.optionAreaMoveDone h) s = .next t ∧ t.nv.optHome.getD h none = some c ∧ t.nv.optHome.getD (1 - h) none = s.nv.optHome.getD (1 - h) none ∧ t.nv.optMoving.getD h true = false ∧ t.nv.optMoves.getD h 0 = s.nv.optMoves.getD h 0 + 1 ∧
      rbit t (medReg 0 0) 30 = t.nv.optHome.any (fun x => x.isNone) ∧ t.nv.retiredChans = s.nv.retiredChans ∧ t.packages = s.packages)

/-- From core step 10 on, with no command under way, VALIDATE, STAGE and STAGE_AND_REFORM begin where the source passes and its header gives
TOTAL_LEN equal to ARM_SRC_LEN; REFORM begins where an image is staged, which of two staged images it takes being the model's reading (log
entry 107), REFORM_TO_OTHER_SLOT where the other slot is valid, and REFORM_TO_MAQUETTE always: STATE is 1, the command's slot is its target,
DRAIN is taken with the command, and what is in force and what the slots hold stay. Where ARM_SRC and ARM_SRC_LEN fail the SOURCE check, or
the slot that CMD 3 or CMD 6 names holds no image, nothing changes but the result: STATE 0, DONE, the cause and ARM_DETAIL 0. Before core
step 10, or while a command runs, each of the six sets REFUSED and does nothing else. -/
def Obligations.LoaderCommandsBegin : Prop :=
  (∀ (drain : Bool) (l : List Byte) (s : State), windowOpen s = true → s.power.recovery = false → 10 ≤ s.power.core → s.loader.cmd = 0 → sourceOk s = true → (readImage 1 s (nat64 s ARM_SRC / 64) 0).2 = .inl l → fieldAt l 8 4 = regNat s ARM_SRC_LEN →
    ∃ t, exec (.validate drain) s = .next t ∧ t.loader.cmd = 1 ∧ t.loader.target = none ∧ t.loader.drain = drain ∧ armState t = 1 ∧ t.nv.slotA = s.nv.slotA ∧ t.nv.slotB = s.nv.slotB ∧ t.loader.settings = s.loader.settings ∧ t.loader.source = s.loader.source ∧ t.loader.inForce = s.loader.inForce) ∧
  (∀ (drain : Bool) (l : List Byte) (s : State), windowOpen s = true → s.power.recovery = false → 10 ≤ s.power.core → s.loader.cmd = 0 → sourceOk s = true → (readImage 1 s (nat64 s ARM_SRC / 64) 0).2 = .inl l → fieldAt l 8 4 = regNat s ARM_SRC_LEN →
    ∃ t, exec (.stage drain) s = .next t ∧ t.loader.cmd = 2 ∧ t.loader.target = some (stageSlot s) ∧ t.loader.drain = drain ∧ armState t = 1 ∧ t.nv.slotA = s.nv.slotA ∧ t.nv.slotB = s.nv.slotB ∧ t.loader.settings = s.loader.settings ∧ t.loader.source = s.loader.source ∧ t.loader.inForce = s.loader.inForce) ∧
  (∀ (drain : Bool) (l : List Byte) (s : State), windowOpen s = true → s.power.recovery = false → 10 ≤ s.power.core → s.loader.cmd = 0 → sourceOk s = true → (readImage 1 s (nat64 s ARM_SRC / 64) 0).2 = .inl l → fieldAt l 8 4 = regNat s ARM_SRC_LEN →
    ∃ t, exec (.stageAndReform drain) s = .next t ∧ t.loader.cmd = 4 ∧ t.loader.target = some (stageSlot s) ∧ t.loader.drain = drain ∧ armState t = 1 ∧ t.nv.slotA = s.nv.slotA ∧ t.nv.slotB = s.nv.slotB ∧ t.loader.settings = s.loader.settings ∧ t.loader.source = s.loader.source ∧ t.loader.inForce = s.loader.inForce) ∧
  (∀ (drain : Bool) (x : Selected) (s : State), windowOpen s = true → s.power.recovery = false → 10 ≤ s.power.core → s.loader.cmd = 0 → stagedSlot s.loader s.nv = some x →
    ∃ t, exec (.reform drain) s = .next t ∧ t.loader.cmd = 3 ∧ t.loader.target = some x ∧ t.loader.drain = drain ∧ armState t = 1 ∧ t.nv = s.nv ∧ t.loader.settings = s.loader.settings ∧ t.loader.source = s.loader.source ∧ t.loader.inForce = s.loader.inForce) ∧
  (∀ (drain : Bool) (s : State), windowOpen s = true → s.power.recovery = false → 10 ≤ s.power.core → s.loader.cmd = 0 →
    ∃ t, exec (.reformToMaquette drain) s = .next t ∧ t.loader.cmd = 5 ∧ t.loader.target = some .maquette ∧ t.loader.drain = drain ∧ armState t = 1 ∧ t.nv = s.nv ∧ t.loader.settings = s.loader.settings ∧ t.loader.source = s.loader.source ∧ t.loader.inForce = s.loader.inForce) ∧
  (∀ (drain : Bool) (s : State), windowOpen s = true → s.power.recovery = false → 10 ≤ s.power.core → s.loader.cmd = 0 → (slotOf s (otherSlot s)).valid = true →
    ∃ t, exec (.reformToOtherSlot drain) s = .next t ∧ t.loader.cmd = 6 ∧ t.loader.target = some (otherSlot s) ∧ t.loader.drain = drain ∧ armState t = 1 ∧ t.nv = s.nv ∧ t.loader.settings = s.loader.settings ∧ t.loader.source = s.loader.source ∧ t.loader.inForce = s.loader.inForce) ∧
  (∀ (drain : Bool) (s : State), windowOpen s = true → s.power.recovery = false → 10 ≤ s.power.core → s.loader.cmd = 0 → sourceOk s = false →
    ∃ t, exec (.validate drain) s = .next t ∧ armState t = 0 ∧ rbit t ARM_STAT 11 = true ∧ fld t ARM_STAT 23 16 = 0x0D ∧ regNat t ARM_DETAIL = 0 ∧ t.loader.cmd = 0 ∧ t.nv = s.nv ∧ t.loader.settings = s.loader.settings ∧ t.dram = s.dram) ∧
  (∀ (drain : Bool) (s : State), windowOpen s = true → s.power.recovery = false → 10 ≤ s.power.core → s.loader.cmd = 0 → sourceOk s = false →
    ∃ t, exec (.stage drain) s = .next t ∧ armState t = 0 ∧ rbit t ARM_STAT 11 = true ∧ fld t ARM_STAT 23 16 = 0x0D ∧ regNat t ARM_DETAIL = 0 ∧ t.loader.cmd = 0 ∧ t.nv = s.nv ∧ t.loader.settings = s.loader.settings ∧ t.dram = s.dram) ∧
  (∀ (drain : Bool) (s : State), windowOpen s = true → s.power.recovery = false → 10 ≤ s.power.core → s.loader.cmd = 0 → sourceOk s = false →
    ∃ t, exec (.stageAndReform drain) s = .next t ∧ armState t = 0 ∧ rbit t ARM_STAT 11 = true ∧ fld t ARM_STAT 23 16 = 0x0D ∧ regNat t ARM_DETAIL = 0 ∧ t.loader.cmd = 0 ∧ t.nv = s.nv ∧ t.loader.settings = s.loader.settings ∧ t.dram = s.dram) ∧
  (∀ (drain : Bool) (s : State), windowOpen s = true → s.power.recovery = false → 10 ≤ s.power.core → s.loader.cmd = 0 → stagedSlot s.loader s.nv = none →
    ∃ t, exec (.reform drain) s = .next t ∧ armState t = 0 ∧ rbit t ARM_STAT 11 = true ∧ fld t ARM_STAT 23 16 = 0x0E ∧ regNat t ARM_DETAIL = 0 ∧ t.loader.cmd = 0 ∧ t.nv = s.nv ∧ t.loader.settings = s.loader.settings ∧ t.dram = s.dram) ∧
  (∀ (drain : Bool) (s : State), windowOpen s = true → s.power.recovery = false → 10 ≤ s.power.core → s.loader.cmd = 0 → (slotOf s (otherSlot s)).valid = false →
    ∃ t, exec (.reformToOtherSlot drain) s = .next t ∧ armState t = 0 ∧ rbit t ARM_STAT 11 = true ∧ fld t ARM_STAT 23 16 = 0x0E ∧ regNat t ARM_DETAIL = 0 ∧ t.loader.cmd = 0 ∧ t.nv = s.nv ∧ t.loader.settings = s.loader.settings ∧ t.dram = s.dram) ∧
  (∀ (drain : Bool) (s : State), windowOpen s = true → s.power.recovery = false → (s.power.core < 10 ∨ s.loader.cmd ≠ 0) →
    exec (.validate drain) s = .next (setBit s ARM_STAT 10 true)) ∧
  (∀ (drain : Bool) (s : State), windowOpen s = true → s.power.recovery = false → (s.power.core < 10 ∨ s.loader.cmd ≠ 0) →
    exec (.stage drain) s = .next (setBit s ARM_STAT 10 true)) ∧
  (∀ (drain : Bool) (s : State), windowOpen s = true → s.power.recovery = false → (s.power.core < 10 ∨ s.loader.cmd ≠ 0) →
    exec (.reform drain) s = .next (setBit s ARM_STAT 10 true)) ∧
  (∀ (drain : Bool) (s : State), windowOpen s = true → s.power.recovery = false → (s.power.core < 10 ∨ s.loader.cmd ≠ 0) →
    exec (.stageAndReform drain) s = .next (setBit s ARM_STAT 10 true)) ∧
  (∀ (drain : Bool) (s : State), windowOpen s = true → s.power.recovery = false → (s.power.core < 10 ∨ s.loader.cmd ≠ 0) →
    exec (.reformToMaquette drain) s = .next (setBit s ARM_STAT 10 true)) ∧
  (∀ (drain : Bool) (s : State), windowOpen s = true → s.power.recovery = false → (s.power.core < 10 ∨ s.loader.cmd ≠ 0) →
    exec (.reformToOtherSlot drain) s = .next (setBit s ARM_STAT 10 true))

/-- A validation that fails ends the command: STATE 0, DONE, its cause and its detail, and nothing in force or stored changes. One that passes
ends CMD 1 with cause 0, begins the store of CMD 2 and CMD 4, and begins the quiesce of CMD 3, 5 and 6 (with DRAIN 0 nothing is aborted, and
STATE is 3). The store puts the image in the slot that the command named, with a sequence number above both, and stages it; CMD 2 then ends,
and CMD 4 goes on to its quiesce. -/
def Obligations.ValidationAndStoring : Prop :=
  (∀ (c : Check) (s : State), armState s = 1 → (validateCommand s).2.1 = .inr c →
    ∃ t, exec .validationDone s = .next t ∧ armState t = 0 ∧ rbit t ARM_STAT 11 = true ∧ fld t ARM_STAT 23 16 = c.cause % 256 ∧
      regNat t ARM_DETAIL = detailOf c.sec c.off % 2 ^ 32 ∧ t.loader.cmd = 0 ∧ t.loader.settings = s.loader.settings ∧ t.nv.slotA = s.nv.slotA ∧ t.nv.slotB = s.nv.slotB ∧ t.nv.selA = s.nv.selA ∧ t.nv.selB = s.nv.selB) ∧
  (∀ (a : Armature) (s : State), armState s = 1 → (validateCommand s).2.1 = .inl a →
    ∃ t, exec .validationDone s = .next t ∧ (s.loader.drain = false → armState t = (if s.loader.cmd = 1 then 0 else if s.loader.cmd = 2 ∨ s.loader.cmd = 4 then 2 else 3)) ∧
      (s.loader.cmd = 1 → rbit t ARM_STAT 11 = true ∧ fld t ARM_STAT 23 16 = 0) ∧ (s.loader.cmd ≠ 1 → t.loader.next = some a) ∧ t.loader.settings = s.loader.settings ∧ t.nv.selA = s.nv.selA ∧ t.nv.selB = s.nv.selB) ∧
  (∀ s : State, armState s = 2 → s.loader.target = some .slotA →
    ∃ t, exec .storingDone s = .next t ∧ t.nv.slotA = { valid := true, seq := max s.nv.slotA.seq s.nv.slotB.seq + 1, image := s.loader.image } ∧ t.nv.slotB = s.nv.slotB ∧
      t.loader.stagedA = true ∧ t.loader.stagedB = s.loader.stagedB ∧ (s.loader.drain = false → armState t = (if s.loader.cmd = 2 then 0 else 3))) ∧
  (∀ s : State, armState s = 2 → s.loader.target = some .slotB →
    ∃ t, exec .storingDone s = .next t ∧ t.nv.slotB = { valid := true, seq := max s.nv.slotA.seq s.nv.slotB.seq + 1, image := s.loader.image } ∧ t.nv.slotA = s.nv.slotA ∧
      t.loader.stagedB = true ∧ t.loader.stagedA = s.loader.stagedA ∧ (s.loader.drain = false → armState t = (if s.loader.cmd = 2 then 0 else 3)))

/-- ARM_QLIMIT expiring, from TB = its start + n on, makes the rule that of DRAIN 1. With everything quiesced, QUIESCE_DONE begins the drain:
with DRAIN 0 every package in service flushes each dirty unit that it holds, and what is in force and what follows it stay. With no package
still flushing, DRAIN_DONE saves the fault times and begins the commit. The commit writes the layout record, which the maquette leaves as it
is, and then the selector. The rebind puts the armature in force over the layout of the layout record, counts in ARM_REFORMS and ends the
command; on a hardware fault, or where a package that REQ_SP names cannot be reached, the previous armature is in force again and
ROLLED_BACK is set. -/
def Obligations.ReformSteps : Prop :=
  (∀ s : State, armState s = 3 → expired s s.loader.quiesceAt (regNat s ARM_QLIMIT) = true → s.loader.drain = false →
    ∃ t, exec .armQlimitExpiry s = .next t ∧ t.loader.drain = true ∧ t.loader.expiredAt = some s.tb ∧ t.loader.cmd = s.loader.cmd ∧ t.loader.settings = s.loader.settings) ∧
  (∀ (p : Nat) (s : State), armState s = 3 → quiesced s = true → s.packages.length = 4 → p < s.build.sp → p < 4 → alive s p = true →
    ∃ t, exec .quiesceDone s = .next t ∧ t.loader.settings = s.loader.settings ∧ t.loader.next = s.loader.next ∧ armState t = 4 ∧ (s.loader.drain = false → (pkg t p).flushing = (pkg s p).wbuf.map (·.lunit) ∧ (pkg t p).wbuf = (pkg s p).wbuf)) ∧
  (∀ s : State, armState s = 4 → (List.range s.build.sp).all (fun p => (pkg s p).flushing.isEmpty) = true →
    ∃ t, exec .drainDone s = .next t ∧ armState t = 5 ∧ t.faults.unsaved = [] ∧ t.nv.faultAges = s.faults.ages ∧ t.nv.poweredTicks = s.faults.powered) ∧
  (∀ (a : Armature) (s : State), armState s = 5 → s.loader.next = some a →
    ∃ t, exec .commitDone s = .next t ∧ armState t = 6 ∧ ((∀ x, s.loader.target = some x → selectorOf t.nv = some x ∧ max s.nv.selA.seq s.nv.selB.seq < t.nv.selA.seq)) ∧ t.nv.layout = (if s.loader.target = some .maquette then s.nv.layout else a.regions) ∧ t.loader.settings = s.loader.settings) ∧
  (∀ (a : Armature) (src : Selected) (again : Bool) (s : State), armState s = 6 → s.loader.next = some a → s.loader.target = some src → reqReachable s a = true →
    ∃ t, exec (.rebindDone false again) s = .next t ∧ armState t = 0 ∧ rbit t ARM_STAT 11 = true ∧ t.loader.settings = { a with regions := s.nv.layout } ∧
      t.loader.source = src ∧ t.loader.inForce = true ∧ t.loader.cmd = 0 ∧ regNat t ARM_REFORMS = min (regNat s ARM_REFORMS + 1) allBits) ∧
  (∀ (a : Armature) (src : Selected) (hw : Bool) (s : State), armState s = 6 → s.loader.next = some a → s.loader.target = some src → (hw = true ∨ reqReachable s a = false) → reqReachable s s.loader.settings = true →
    ∃ t, exec (.rebindDone hw false) s = .next t ∧ armState t = 0 ∧ rbit t ARM_STAT 11 = true ∧ rbit t ARM_STAT 9 = true ∧
      t.loader.settings = { s.loader.settings with regions := s.nv.layout } ∧ t.loader.source = s.loader.source ∧ t.loader.inForce = s.loader.inForce ∧ t.nv.selA = s.nv.selA ∧ t.nv.selB = s.nv.selB)

/-- A tile whose sequencer stands at a valid instruction that no earlier one holds back, fetched clean or with a corrected bit, issues it: the
program counter moves 16 bytes on and the store stays. STREAM begins at its first row with the accumulators that ACC_MODE gives; LOADW makes
the shadow array fill; SWAP exchanges the arrays where nothing holds it; VEC and SEND begin; SYNC waits for its event and counts the SYNCs
of events 0 and 1. END, once every earlier instruction has finished, takes the part off the tile. -/
def Obligations.TileInstructionsIssue : Prop :=
  (∀ (x : Nat) (u : Upset) (p : Part) (v : StreamSt) (b : WBlock) (s : State), x < 1024 → stepGoesOn u = true → standsAt s x 1 p → v = decodeStream (storeNat s x p.pc 8) (storeNat s x (p.pc + 8) 8) → (tile s x).stream = none → (tile s x).refill = false → (tile s x).loaded = some b → streamValid (some b) v = true → v.rows ≠ 0 → hazard (tile s x) (streamReads b v) (streamWrites b v) = false →
    ∃ t, exec (.stream ⟨x, u⟩) s = .next t ∧ (tile t x).part = some { p with pc := p.pc + 16 } ∧
      (tile t x).stream = some { v with firstAcc := savedAcc s x v b.columns.length, accs := rowStart s x v b.columns.length 0, at_ := s.tb } ∧ (tile t x).loaded = some b ∧ t.store = s.store) ∧
  (∀ (x : Nat) (u : Upset) (p : Part) (b : WBlock) (n : Nat) (s : State), x < 1024 → stepGoesOn u = true → standsAt s x 2 p → (b, n) = decodeLoad (storeNat s x p.pc 8) (storeNat s x (p.pc + 8) 8) → loadValid b n = true → (tile s x).filling = none → weightsAwaited s x p.ref = false → hazard (tile s x) (loadReads b n) [] = false →
    ∃ t, exec (.loadw ⟨x, u⟩) s = .next t ∧ (tile t x).part = some { p with pc := p.pc + 16 } ∧ (tile t x).shadow = none ∧
      (tile t x).filling = some { b with columns := List.replicate n { weights := [], scales := [] } } ∧ (tile t x).loaded = (tile s x).loaded ∧ t.store = s.store) ∧
  (∀ (x : Nat) (u : Upset) (p : Part) (b : WBlock) (s : State), x < 1024 → stepGoesOn u = true → standsAt s x 3 p → (tile s x).shadow = some b → (tile s x).filling = none → (tile s x).stream = none → (tile s x).refill = false →
    ∃ t, exec (.swap ⟨x, u⟩) s = .next t ∧ (tile t x).part = some { p with pc := p.pc + 16 } ∧ (tile t x).loaded = some b ∧ (tile t x).shadow = (tile s x).loaded ∧ (tile t x).swapWait = false ∧ t.store = s.store) ∧
  (∀ (x : Nat) (u : Upset) (p : Part) (v : VecSt) (s : State), x < 1024 → stepGoesOn u = true → standsAt s x 4 p → v = decodeVec (storeNat s x p.pc 8) (storeNat s x (p.pc + 8) 8) → vecValid v = true → (tile s x).vec = none → hazard (tile s x) (vecReads v) (vecWrites v) = false →
    ∃ t, exec (.vec ⟨x, u⟩) s = .next t ∧ (tile t x).part = some { p with pc := p.pc + 16 } ∧ (tile t x).vec = some { v with at_ := s.tb } ∧ t.store = s.store) ∧
  (∀ (x : Nat) (u : Upset) (p : Part) (v : SendSt) (s : State), x < 1024 → stepGoesOn u = true → standsAt s x 5 p → v = decodeSend (storeNat s x p.pc 8) (storeNat s x (p.pc + 8) 8) → tileLive s v.dest = true → (placement s p.ref).contains v.dest = true → inStore (sendReads v) = true → inStore [{ lo := v.dstAddr * 64, len := v.len * 64 }] = true → v.len ≠ 0 → hazard (tile s x) (sendReads v) [] = false →
    ∃ t, exec (.send ⟨x, u⟩) s = .next t ∧ (tile t x).part = some { p with pc := p.pc + 16 } ∧ (tile t x).sends = (tile s x).sends ++ [{ v with at_ := s.tb }] ∧ t.store = s.store) ∧
  (∀ (x e : Nat) (u : Upset) (p : Part) (s : State), x < 1024 → stepGoesOn u = true → standsAt s x 6 p → e = bitsOf (storeNat s x p.pc 8) 15 0 → e ≤ 3 →
    ∃ t, exec (.sync ⟨x, u⟩) s = .next t ∧ (tile t x).part = some { p with pc := p.pc + 16, syncs0 := p.syncs0 + (if e = 0 then 1 else 0), syncs1 := p.syncs1 + (if e = 1 then 1 else 0) } ∧ (tile t x).syncWait = some e ∧ t.store = s.store) ∧
  (∀ (x : Nat) (u : Upset) (p : Part) (s : State), x < 1024 → stepGoesOn u = true → standsAt s x 0xF p → tileQuiet (tile s x) = true →
    ∃ t, exec (.tileEnd ⟨x, u⟩) s = .next t ∧ (tile t x).part = none ∧ (tile t x).endedAt = some s.tb ∧ (tile t x).queue = (tile s x).queue ∧ t.store = s.store)

/-- Each step here reads words that are good or corrected. A row step counts in TIL_STEPS and moves to the next slice, the next row or the end
of the STREAM; the only bytes that it may change are those that the STREAM writes. A vector step counts in TIL_VSTEPS and moves on to the
end of the VEC, writing only the result range. A fill that ends gives the shadow array its columns, or the loaded array where a SWAP waits
and nothing else holds it. The oldest SEND that completes copies its bytes to its destination and changes no others. After a refill the
array holds the weights and scales as it read them, and the STREAM runs again from its first row. A filler step changes no byte, and no
register but TIL_FILL. -/
def Obligations.TileStepsAdvance : Prop :=
  (∀ (x bn : Nat) (u : Upset) (v : StreamSt) (b : WBlock) (p : Part) (s : State), x < 1024 → stepGoesOn u = true → (tile s x).stream = some v → (tile s x).loaded = some b → (tile s x).part = some p → tileLive s x = true → (tile s x).refill = false → rampAllows (tile s x) = true → s.ledger.holdEmpty = false → pairB b.wfmt b.afmt = some bn → badIn (tile s x) (sliceReads b v bn) = none → v.row < v.rows →
    ∃ t, exec (.rowStep x false u) s = .next t ∧ nat64 t (tilReg x 0x20) = (nat64 s (tilReg x 0x20) + 1) % 2 ^ 64 ∧
      (tile t x).stream.map (fun w => (w.row, w.slice)) = (if v.slice * bn + bn < b.k then some (v.row, v.slice + 1) else if v.row + 1 < v.rows then some (v.row + 1, 0) else none) ∧
      storeSameOutside s t x (streamWrites b v)) ∧
  (∀ (x : Nat) (u : Upset) (v : VecSt) (p : Part) (s : State), x < 1024 → stepGoesOn u = true → (tile s x).vec = some v → (tile s x).part = some p → tileLive s x = true → badIn (tile s x) (vecStepReads v) = none →
    ∃ t, exec (.vectorStep x u) s = .next t ∧ nat64 t (tilReg x 0x30) = (nat64 s (tilReg x 0x30) + 1) % 2 ^ 64 ∧ (tile t x).vec = (if v.step + 1 < vecSteps v then some { v with step := v.step + 1, at_ := s.tb } else none) ∧
      storeSameOutside s t x (vecWrites v)) ∧
  (∀ (x : Nat) (u : Upset) (b : WBlock) (s : State), x < 1024 → stepGoesOn u = true → (tile s x).filling = some b → tileLive s x = true → badIn (tile s x) (loadReads b b.columns.length) = none →
    ∃ t, exec (.shadowFillDone x u) s = .next t ∧ (tile t x).filling = none ∧ t.store = s.store ∧
      (if (tile s x).swapWait = true ∧ (tile s x).stream = none ∧ (tile s x).refill = false then (tile t x).loaded else (tile t x).shadow) = some { b with columns := readColumns s x b b.columns.length }) ∧
  (∀ (x : Nat) (u : Upset) (v : SendSt) (rest : List SendSt) (s : State), x < 1024 → stepGoesOn u = true → (tile s x).sends = v :: rest → tileLive s x = true → badIn (tile s x) (sendReads v) = none →
    ∃ t, exec (.sendComplete x u) s = .next t ∧ (tile t x).sends = rest ∧ storeBytes t v.dest (v.dstAddr * 64) (v.len * 64) = storeBytes s x (v.srcAddr * 64) (v.len * 64) ∧
      storeSameOutside s t v.dest [{ lo := v.dstAddr * 64, len := v.len * 64 }]) ∧
  (∀ (x : Nat) (u : Upset) (v : StreamSt) (b : WBlock) (s : State), x < 1024 → stepGoesOn u = true → (tile s x).refill = true → (tile s x).stream = some v → (tile s x).loaded = some b → badIn (tile s x) (loadReads b b.columns.length) = none →
    ∃ t, exec (.arrayRefillDone ⟨x, u⟩) s = .next t ∧ (tile t x).refill = false ∧ (tile t x).loaded = some { b with columns := readColumns s x b b.columns.length } ∧
      (tile t x).stream = some { v with row := 0, slice := 0, accs := rowStart s x v b.columns.length 0, at_ := s.tb } ∧ t.store = s.store) ∧
  (∀ (x : Nat) (s : State), x < 1024 → tileLive s x = true → fillerAllows (tile s x) = true → s.ledger.holdEmpty = false →
    ∃ t, exec (.fillerStep x) s = .next t ∧ nat64 t (tilReg x 0x28) = (nat64 s (tilReg x 0x28) + 1) % 2 ^ 64 ∧ tile t x = { tile s x with steps := (tile s x).steps + 1 } ∧ t.store = s.store ∧
      ∀ off, off ≠ tilReg x 0x28 → off ≠ tilReg x 0x2C → reg t off = reg s off)

/-- A tile waiting at SYNC goes on once its event has come. A stage of ramp-up goes to the next quarter and from the third to full duty; a stage
of ramp-down goes to the quarter below and from the first to rest. A gap that ends with no STREAM ready begins ramp-down at three quarters.
A late acknowledgement is discarded and counted in TIL_LATE_ACK, which saturates, and one fewer is still to come. -/
def Obligations.TileWaitsAndRamp : Prop :=
  (∀ (x e : Nat) (p : Part) (s : State), x < 1024 → (tile s x).part = some p → (tile s x).syncWait = some e → eventCame s x p e = true →
    ∃ t, exec (.syncRelease x) s = .next t ∧ (tile t x) = { tile s x with syncWait := none, syncAt := none } ∧ t.store = s.store) ∧
  (∀ (x q : Nat) (s : State), x < 1024 → (tile s x).ramp = .up q →
    ∃ t, exec (.rampStageEnd x) s = .next t ∧ (tile t x).ramp = (if q < 3 then .up (q + 1) else .full) ∧ (tile t x).steps = 0 ∧ (tile t x).stageLen = fld s (tilReg x 0x14) 11 0 ∧ t.store = s.store) ∧
  (∀ (x q : Nat) (s : State), x < 1024 → (tile s x).ramp = .down q →
    ∃ t, exec (.rampStageEnd x) s = .next t ∧ (tile t x).ramp = (if 1 < q then .down (q - 1) else .rest) ∧ (tile t x).steps = 0 ∧ t.store = s.store) ∧
  (∀ (x : Nat) (s : State), x < 1024 → (tile s x).ramp = .gap →
    ∃ t, exec (.idleGapEnd x) s = .next t ∧ (tile t x).ramp = .down 3 ∧ (tile t x).steps = 0 ∧ t.store = s.store) ∧
  (∀ (x : Nat) (s : State), x < 1024 → (tile s x).lateOps ≠ 0 →
    ∃ t, exec (.lateAck x) s = .next t ∧ tile t x = { tile s x with lateOps := (tile s x).lateOps - 1 } ∧ regNat t (tilReg x 0x74) = min (regNat s (tilReg x 0x74) + 1) allBits ∧ t.store = s.store)

/-- The scrubber reads the next unit of the store and moves on, from the last one to the first. Where no word of the unit is known as bad, it
counts a corrected bit in TIL_CE, and a double-bit error in TIL_UE with its address, and nothing else happens yet. A double-bit error that a
row step of a part without a bias reads counts in TIL_UE with its address too, the step is not performed, and outside the window the fault
is the tile's last transient one. A watchdog that has run out on such a part's operation is one too, and one more acknowledgement is late
from then on. A parity error outside the window stops the array for a refill and sets the STREAM back to its first row. RETIRE with its key
retires a live tile while fewer than 16 tiles are retired, and fences it afterwards; with another key it is discarded and counted. -/
def Obligations.TileFaultsAndRetirement : Prop :=
  (∀ (x : Nat) (s : State), x < 1024 → tileLive s x = true → (tile s x).badWords = [] →
    ∃ t, exec (.tileStoreScrub x .clean) s = .next t ∧ tile t x = { tile s x with scrubAt := ((tile s x).scrubAt + 1) % 491520 } ∧ t.store = s.store ∧ t.regs = s.regs) ∧
  (∀ (x a : Nat) (s : State), x < 1024 → tileLive s x = true → (tile s x).badWords = [] →
    ∃ t, exec (.tileStoreScrub x (.single a)) s = .next t ∧ tile t x = { tile s x with scrubAt := ((tile s x).scrubAt + 1) % 491520 } ∧ t.store = s.store ∧
      regNat t (tilReg x 0x60) = min (regNat s (tilReg x 0x60) + 1) allBits ∧ regNat t (tilReg x 0x64) = regNat s (tilReg x 0x64)) ∧
  (∀ (x a w : Nat) (s : State), x < 1024 → tileLive s x = true → (tile s x).badWords = [] → w = (tile s x).scrubAt * 64 + a % 64 / 8 * 8 →
    ∃ t, exec (.tileStoreScrub x (.double a)) s = .next t ∧ regNat t (tilReg x 0x64) = min (regNat s (tilReg x 0x64) + 1) allBits ∧ regNat t (tilReg x 0x68) = 2 ^ 31 + w % 2 ^ 25 ∧
      tile t x = { tile s x with scrubAt := ((tile s x).scrubAt + 1) % 491520, badWords := [w] } ∧ t.store = s.store ∧ t.nv = s.nv) ∧
  (∀ (x bn a : Nat) (v : StreamSt) (b : WBlock) (p : Part) (s : State), x < 1024 → (tile s x).stream = some v → (tile s x).loaded = some b → (tile s x).part = some p → tileLive s x = true → (tile s x).refill = false → rampAllows (tile s x) = true → s.ledger.holdEmpty = false → pairB b.wfmt b.afmt = some bn → withinWindow s 0 x = false → p.fromSend = [] → p.occurrence = none → unbiased s p.ref = true →
    ∃ t, exec (.rowStep x false (.double a)) s = .next t ∧ regNat t (tilReg x 0x64) = min (regNat s (tilReg x 0x64) + 1) allBits ∧ regNat t (tilReg x 0x68) = 2 ^ 31 + a % 2 ^ 25 ∧ nat64 t (tilReg x 0x20) = nat64 s (tilReg x 0x20) ∧
      ageOf t 0 x = some { cls := 0, unit := x, at_ := s.faults.powered } ∧ t.nv = s.nv) ∧
  (∀ (x : Nat) (p : Part) (s : State), x < 1024 → tileLive s x = true → (tile s x).part = some p → p.occurrence = none → unbiased s p.ref = true → opOverdue s x = true → withinWindow s 0 x = false →
    ∃ t, exec (.watchdogExpiry x) s = .next t ∧ (tile t x).lateOps = (tile s x).lateOps + 1 ∧ ageOf t 0 x = some { cls := 0, unit := x, at_ := s.faults.powered } ∧ t.nv = s.nv) ∧
  (∀ (x bn : Nat) (v : StreamSt) (b : WBlock) (p : Part) (u : Upset) (s : State), x < 1024 → (tile s x).stream = some v → (tile s x).loaded = some b → (tile s x).part = some p → tileLive s x = true → (tile s x).refill = false → rampAllows (tile s x) = true → s.ledger.holdEmpty = false → pairB b.wfmt b.afmt = some bn → withinWindow s 0 x = false →
    ∃ t, exec (.rowStep x true u) s = .next t ∧ (tile t x).refill = true ∧ (tile t x).stream.map (fun w => (w.row, w.slice)) = some (0, 0) ∧ ageOf t 0 x = some { cls := 0, unit := x, at_ := s.faults.powered } ∧ t.nv = s.nv ∧
      regNat t (tilReg x 0x6C) = min (regNat s (tilReg x 0x6C) + 1) allBits ∧ regNat t (GLB_FT_TRANS 0) = min (regNat s (GLB_FT_TRANS 0) + 1) allBits) ∧
  (∀ (x key : Nat) (s : State), x < 1024 → windowOpen s = true → s.power.recovery = false → tileLive s x = true → key % 256 = 0x5A →
    ∃ t, exec (.retire x key) s = .next t ∧ (if s.nv.retiredTiles.length < 16 then x ∈ t.nv.retiredTiles else x ∈ t.nv.fencedTiles)) ∧
  (∀ (x key : Nat) (s : State), x < 1024 → windowOpen s = true → s.power.recovery = false → tileLive s x = true → key % 256 ≠ 0x5A →
    exec (.retire x key) s = .next (accErr s))

/-- On a live tile, CLEAR sets every histogram word and the count of missed elements to 0, with MODE and FREEZE as written; FREEZE and MODE are
each set without changing the other. -/
def Obligations.HistogramControl : Prop :=
  (∀ (x mode : Nat) (fz : Bool) (s : State), x < 1024 → mode < 3 → windowOpen s = true → s.power.recovery = false → tileLive s x = true →
    ∃ t, exec (.histogramClear x fz mode) s = .next t ∧ fld t (tilReg x 0x80) 1 0 = mode ∧ rbit t (tilReg x 0x80) 8 = fz ∧
      rbit t (tilReg x 0x80) 4 = false ∧ regNat t (tilReg x 0x84) = 0 ∧ ∀ w, w < 68 → regNat t (tilReg x (0x100 + 4 * w)) = 0) ∧
  (∀ (x : Nat) (on : Bool) (s : State), x < 1024 → windowOpen s = true → s.power.recovery = false → tileLive s x = true → fld s (tilReg x 0x80) 1 0 ≠ 3 →
    ∃ t, exec (.freeze x on) s = .next t ∧ rbit t (tilReg x 0x80) 8 = on ∧ fld t (tilReg x 0x80) 1 0 = fld s (tilReg x 0x80) 1 0 ∧
      t.tiles = s.tiles) ∧
  (∀ (x mode : Nat) (s : State), x < 1024 → mode < 3 → windowOpen s = true → s.power.recovery = false → tileLive s x = true →
    ∃ t, exec (.histogramMode x mode) s = .next t ∧ fld t (tilReg x 0x80) 1 0 = mode ∧ rbit t (tilReg x 0x80) 8 = rbit s (tilReg x 0x80) 8 ∧ t.store = s.store) ∧
  (∀ (x : Nat) (s : State), x < 1024 → windowOpen s = true → s.power.recovery = false → tileLive s x = true →
    exec (.histogramMode x 3) s = .next (accErr s))

/-- With Computational Programs commands open, an armature in force and the retirement limit not reached: Load Program of an image that passes
the checks of R157 puts its graph into a slot with no work and completes with Success; an empty image unloads; an image that fails leaves
the graph that was there, shows the code in GRF_LOAD_ERR and completes with Status Code Type 7h and that code. Activation adds a slot that
holds a graph and for which no run waits to the active ones, and deactivation takes it away with its reservations. A memory range set whose
ranges all lie in mapped memory is stored. Execute Program of an active graph that does not serve, whose operands and records resolve, adds
a run of it, or waits behind the slot's run. A write of GRF_SEQ_SEL shows the entry's 64 bytes. -/
def Obligations.GraphCommandsAnswer : Prop :=
  (∀ (tag : CmdTag) (slot : Nat) (img : List Byte) (s : State), tag.sq ≤ 256 → tag.cid < 65536 → slot < 256 → cpOpen s = true → noArmature s = false → rbit s GLB_CORE 31 = false → s.grf.active.contains slot = false → slotBusy s slot = false → img ≠ [] → graphFailure s slot img = none →
    ∃ t, exec (.loadProgram tag slot img) s = .next t ∧ graphOf t slot = some (parseGraph img) ∧ (∀ x, x < 256 → x ≠ slot → graphOf t x = graphOf s x) ∧ answered s t { tag := tag, sct := 0, sc := 0, dnr := 0, dw0 := 0 }) ∧
  (∀ (tag : CmdTag) (slot : Nat) (img : List Byte) (c : Check) (s : State), tag.sq ≤ 256 → tag.cid < 65536 → slot < 256 → cpOpen s = true → noArmature s = false → rbit s GLB_CORE 31 = false → s.grf.active.contains slot = false → slotBusy s slot = false → img ≠ [] → graphFailure s slot img = some c → c.cause ≠ 0 →
    ∃ t, exec (.loadProgram tag slot img) s = .next t ∧ t.grf = s.grf ∧ regNat t GRF_LOAD_ERR = c.cause % 256 * 2 ^ 24 + c.off % 2 ^ 24 ∧ answered s t { tag := tag, sct := 7, sc := c.cause, dnr := 0, dw0 := 0 }) ∧
  (∀ (tag : CmdTag) (slot : Nat) (s : State), tag.sq ≤ 256 → tag.cid < 65536 → slot < 256 → cpOpen s = true → noArmature s = false → rbit s GLB_CORE 31 = false → s.grf.active.contains slot = false → slotBusy s slot = false →
    ∃ t, exec (.loadProgram tag slot []) s = .next t ∧ graphOf t slot = none ∧ answered s t { tag := tag, sct := 0, sc := 0, dnr := 0, dw0 := 0 }) ∧
  (∀ (tag : CmdTag) (slot : Nat) (on : Bool) (s : State), tag.sq ≤ 256 → tag.cid < 65536 → slot < 65536 → cpOpen s = true → noArmature s = false → rbit s GLB_CORE 31 = false → (graphOf s slot).isSome = true → (on && s.grf.waiting.any (fun w => w.slot == slot)) = false →
    ∃ t, exec (.programActivationManagement tag slot on) s = .next t ∧ t.grf.active.contains slot = on ∧ (∀ x, x < 256 → x ≠ slot → t.grf.active.contains x = s.grf.active.contains x) ∧ t.grf.slots = s.grf.slots ∧
      (on = false → t.grf.residents.all (fun r => r.slot != slot) = true) ∧ answered s t { tag := tag, sct := 0, sc := 0, dnr := 0, dw0 := 0 }) ∧
  (∀ (tag : CmdTag) (id : Nat) (rs : List (Nat × Nat)) (s : State), tag.sq ≤ 256 → tag.cid < 65536 → id < 65536 → cpOpen s = true → noArmature s = false → rbit s GLB_CORE 31 = false → rs.length ≤ 255 → (s.grf.sets.length < 256 ∨ Sparse.get [] s.grf.sets id ≠ [] ∨ rs = []) → rs.all (fun r => selector r.1 == 0xFF && mappedSlm (settings s) (within r.1) r.2) = true →
    ∃ t, exec (.memoryRangeSetManagement tag id rs) s = .next t ∧ Sparse.get [] t.grf.sets id = rs.map (fun r => (within r.1, r.2)) ∧ (∀ x, x < 65536 → x ≠ id → Sparse.get [] t.grf.sets x = Sparse.get [] s.grf.sets x) ∧
      answered s t { tag := tag, sct := 0, sc := 0, dnr := 0, dw0 := 0 }) ∧
  (∀ (tag : CmdTag) (slot mrs : Nat) (b : List Byte) (g : Graph) (s : State), tag.sq ≤ 256 → tag.cid < 65536 → slot < 65536 → mrs < 65536 → cpOpen s = true → noArmature s = false → graphOf s slot = some g → rbit s GLB_CORE 31 = false → s.grf.active.contains slot = true → g.armId = (settings s).armId → bitOf g.flags 0 = false → firstFailure (runBlockChecks b) = none → s.grf.runs.any (fun r => r.slot == slot) = false → s.grf.waiting.any (fun x => x.slot == slot) = false → operandsOk s g mrs = true → (resolve s mrs (fieldAt b 8 8) (recordsLen g)).isSome = true →
    ∃ t, exec (.executeProgram tag slot mrs b) s = .next t ∧ t.grf.runs = s.grf.runs ++ [{ id := s.grf.nextRun, slot := slot, mrs := mrs, tag := some tag, recAddr := fieldAt b 8 8, runTag := fieldAt b 0 8, start := s.tb, kernels := List.replicate g.kernels.length {} }] ∧
      t.out = s.out ∧ t.host = s.host) ∧
  (∀ (tag : CmdTag) (slot mrs : Nat) (b : List Byte) (g : Graph) (s : State), tag.sq ≤ 256 → tag.cid < 65536 → slot < 65536 → mrs < 65536 → cpOpen s = true → noArmature s = false → graphOf s slot = some g → rbit s GLB_CORE 31 = false → s.grf.active.contains slot = true → g.armId = (settings s).armId → bitOf g.flags 0 = false → firstFailure (runBlockChecks b) = none → s.grf.runs.any (fun r => r.slot == slot) = true →
    exec (.executeProgram tag slot mrs b) s = .next ({ s with grf := { s.grf with waiting := s.grf.waiting ++ [{ tag := some tag, job := none, slot := slot, mrs := mrs, block := b }] } })) ∧
  (∀ (i : Nat) (s : State), i < 4096 → windowOpen s = true → s.power.recovery = false →
    ∃ t, exec (.grfSeqSel i) s = .next t ∧ regNat t GRF_SEQ_SEL = i ∧ (∀ w, w < 16 → regNat t (GRF_SEQ_DATA + 4 * w) = fieldAt (seqBytes (seqAt s i)) (4 * w) 4) ∧ t.grf = s.grf)

/-- Dispatch of a ready kernel on live tiles, one that is not dispatched by expert, sets it running from now and queues each of its parts on its
tile in order. Admission of the first waiting part, of a kernel without a bias operand, starts it at its program's first byte where the
ledger lets it, and otherwise its tile stands withheld. A kernel's deadline that has passed ends the kernel with TIMEOUT, and no tile runs
or queues a part of it; after a run's deadline no tile runs or queues a part of a kernel of it that was running. A pre-emption releases
every reservation that blocks the kernel, whose weights must then be loaded again, and dispatches the kernel, whose wait is over. A step
boundary that finds work, once the rings are read and waiting admissions have entries, keeps the step's work list, takes its prompts into
service and starts the step's run. -/
def Obligations.GraphEngineSteps : Prop :=
  (∀ (r : Run) (k : Nat) (kd : Kernel) (g : Graph) (s : State), dispatchStopped s = false → nextRun s = some (r, k) → findRun s r.id = some r → kernelOf s r k = some kd → graphOf s r.slot = some g → kd.places.all (fun p => tileLive s p.tile && everFits s kd (g.factors.getD k 256) p.tile) = true → (liveOfRole s kd.role).isEmpty = false → (r.serving && bitOf kd.kflags 1) = false →
    ∃ t, exec .kernelDispatch s = .next t ∧ (findRun t r.id).any (fun y => (y.kernels[k]?).any (fun x => x.status == 255 && x.first == s.tb - r.start)) = true ∧
      t.grf.admitQueue = s.grf.admitQueue ++ kd.places.mapIdx (fun i p => (p.tile, ({ run := r.id, kernel := k, part := i, at_ := s.tb, moved := (((r.kernels[k]?).map (fun x => x.moved)).getD []).contains (i, p.tile) } : PartRef)))) ∧
  (∀ (e : Nat × PartRef) (r : Run) (kd : Kernel) (g : Graph) (s : State), s.grf.admitQueue.find? (partWaits s) = some e → partFits s e.2 e.1 = true → s.ledger.stopAdmission = false → s.ledger.dieHot.getD (e.1 / 128) false = false → findRun s e.2.run = some r → kernelOf s r e.2.kernel = some kd → graphOf s r.slot = some g → (bitOf kd.kflags 2 && kd.opnds.any (fun o => o.use == 4)) = false →
    ∃ t, exec .partAdmission s = .next t ∧ (tile t e.1).part.map (fun p => (p.ref, p.pc, p.attempts)) = some (e.2, (placeOf kd e.2).progUnit * 64, 0) ∧ (tile t e.1).queue = (tile s e.1).queue.drop 1 ∧ (tile t e.1).loaded = none ∧ (tile t e.1).shadow = none ∧
      t.grf.admitQueue = s.grf.admitQueue.erase e ∧ regNat t (tilReg e.1 0xC) = 0) ∧
  (∀ (e : Nat × PartRef) (s : State), s.grf.admitQueue.find? (partWaits s) = some e → s.ledger.stopAdmission = true →
    ∃ t, exec .partAdmission s = .next t ∧ tile t e.1 = { tile s e.1 with withheld := true } ∧ t.grf = s.grf ∧ t.store = s.store) ∧
  (∀ (id k j : Nat) (r : Run) (kd : Kernel) (x y : KernelRun) (s : State), findRun s id = some r → kernelOf s r k = some kd → r.kernels[k]? = some x → x.status = 255 → expired s (r.start + x.first) kd.deadline = true → j ≠ k → r.kernels[j]? = some y → y.status = 255 →
    ∃ t, exec (.kernelDeadlineExpiry id k) s = .next t ∧ (findRun t id).any (fun y => (y.kernels[k]?).any (fun x => x.status == stTIMEOUT)) = true ∧
      t.grf.admitQueue.all (fun e => e.2.run != id || e.2.kernel != k) = true ∧
      ∀ u p, (tile t u).part = some p → ¬(p.ref.run = id ∧ p.ref.kernel = k)) ∧
  (∀ (id : Nat) (r : Run) (g : Graph) (s : State), findRun s id = some r → graphOf s r.slot = some g → expired s r.start g.deadline = true →
    ∃ t, exec (.runDeadlineExpiry id) s = .next t ∧ (∀ k, k < r.kernels.length → k ∈ kernelsWith r 255 → t.grf.admitQueue.all (fun e => e.2.run != id || e.2.kernel != k) = true) ∧
      ∀ u p, (tile t u).part = some p → ¬(p.ref.run = id ∧ p.ref.kernel ∈ kernelsWith r 255)) ∧
  (∀ (cls : Nat) (r : Run) (k : Nat) (b : List Resident) (kd : Kernel) (g : Graph) (s : State), cls < 16 → blockedKernel s cls (holderRuns s) = some (r, k, b) → dispatchStopped s = false → findRun s r.id = some r → kernelOf s r k = some kd → graphOf s r.slot = some g → (liveOfRole s kd.role).isEmpty = false → kd.places.all (fun p => tileLive s p.tile && everFits s kd (g.factors.getD k 256) p.tile) = true → (r.serving && bitOf kd.kflags 1) = false →
    ∃ t, exec (.preemption cls) s = .next t ∧ Sparse.get 0 t.grf.kernelWait (kernelKey r.id k) = 0 ∧ (findRun t r.id).any (fun y => (y.kernels[k]?).any (fun x => x.status == 255)) = true ∧
      t.grf.residents.all (fun x => !(b.any (fun y => y.slot == x.slot && y.kernel == x.kernel && y.part == x.part && y.expert == x.expert && y.tile == x.tile)) || (!x.loaded && x.restream)) = true) ∧
  (∀ (slot : Nat) (g : Graph) (v : Serving) (e : Nat × Nat × Nat) (rest : List (Nat × Nat × Nat)) (b s : State), slot < 256 → graphOf s slot = some g → g.serving = some v → s.grf.runs.any (fun r => r.slot == slot) = false → b = admitWaiting 4096 (boundarySeqs s slot) → dispatchStopped b = false → b.grf.active.contains slot = true → g.armId = (settings b).armId → graphOf b slot = some g → workList b slot v = e :: rest →
    ∃ t, exec (.stepBoundary slot) s = .next t ∧ Sparse.get [] t.grf.workLists slot = e :: rest ∧ (∀ x ∈ e :: rest, (seqAt t x.1).state ≠ 1) ∧
      t.grf.runs = b.grf.runs ++ [{ id := b.grf.nextRun, slot := slot, mrs := (seqAt b e.1).mrs, tag := none, start := b.tb, serving := bitOf g.flags 0, kernels := List.replicate g.kernels.length {} }])

/-- A write of TIER_MQ_TAIL moves the tail. A size of 0 or a power of two from 16 to 65536 is taken while the ring is empty, and sets HEAD and
TAIL to 0; another size is discarded and counted. COPY, PLACE, EVICT and CLEAR each start where the next descriptor names that operation,
passes its checks and waits for no earlier one: the move joins the started ones, in the ring's order, and the directory and the memory stay
as they are. A move that completes ends with OK: an EVICT takes its entry out of the directory, a COPY has moved its bytes, a PLACE has
moved them and adds its entry, and a CLEAR has cleared its granules. -/
def Obligations.MoveRing : Prop :=
  (∀ (i : Nat) (s : State), i < 65536 → windowOpen s = true → s.power.recovery = false →
    exec (.tierMqTail i) s = .next (setNat s TIER_MQ_TAIL i)) ∧
  (∀ (n : Nat) (s : State), (n = 0 ∨ powerOfTwo n 16 65536 = true) → regNat s TIER_MQ_HEAD = regNat s TIER_MQ_TAIL → windowOpen s = true → s.power.recovery = false →
    ∃ t, exec (.tierMqSize n) s = .next t ∧ regNat t TIER_MQ_SIZE = n ∧ regNat t TIER_MQ_HEAD = 0 ∧ regNat t TIER_MQ_TAIL = 0 ∧ t.mover = s.mover) ∧
  (∀ (n : Nat) (s : State), n < 131072 → n ≠ 0 → powerOfTwo n 16 65536 = false → windowOpen s = true → s.power.recovery = false →
    exec (.tierMqSize n) s = .next (accErr s)) ∧
  (∀ (d : List Byte) (u s : State), ringLeft s ≠ 0 → fld s ARM_STAT 31 28 < 3 → mappedSlm (settings s) (ringEntry s ((regNat s TIER_MQ_HEAD + s.mover.moves.length) % fld s TIER_MQ_SIZE 16 0)) 32 = true → readRange s (ringEntry s ((regNat s TIER_MQ_HEAD + s.mover.moves.length) % fld s TIER_MQ_SIZE 16 0)) 32 = (u, some d) → fieldAt d 0 1 = 1 → moveCheck u d (parseMove ((regNat s TIER_MQ_HEAD + s.mover.moves.length) % fld s TIER_MQ_SIZE 16 0) d) = none → moveWaits u (parseMove ((regNat s TIER_MQ_HEAD + s.mover.moves.length) % fld s TIER_MQ_SIZE 16 0) d) = false →
    ∃ t, exec .copy s = .next t ∧ t.mover.moves = s.mover.moves ++ [parseMove ((regNat s TIER_MQ_HEAD + s.mover.moves.length) % fld s TIER_MQ_SIZE 16 0) d] ∧ t.mover.dir = s.mover.dir ∧ t.mover.pieces = s.mover.pieces ∧ t.store = s.store) ∧
  (∀ (d : List Byte) (u s : State), ringLeft s ≠ 0 → fld s ARM_STAT 31 28 < 3 → mappedSlm (settings s) (ringEntry s ((regNat s TIER_MQ_HEAD + s.mover.moves.length) % fld s TIER_MQ_SIZE 16 0)) 32 = true → readRange s (ringEntry s ((regNat s TIER_MQ_HEAD + s.mover.moves.length) % fld s TIER_MQ_SIZE 16 0)) 32 = (u, some d) → fieldAt d 0 1 = 2 → moveCheck u d (parseMove ((regNat s TIER_MQ_HEAD + s.mover.moves.length) % fld s TIER_MQ_SIZE 16 0) d) = none → moveWaits u (parseMove ((regNat s TIER_MQ_HEAD + s.mover.moves.length) % fld s TIER_MQ_SIZE 16 0) d) = false →
    ∃ t, exec .place s = .next t ∧ t.mover.moves = s.mover.moves ++ [parseMove ((regNat s TIER_MQ_HEAD + s.mover.moves.length) % fld s TIER_MQ_SIZE 16 0) d] ∧ t.mover.dir = s.mover.dir ∧ t.mover.pieces = s.mover.pieces ∧ t.store = s.store) ∧
  (∀ (d : List Byte) (u s : State), ringLeft s ≠ 0 → fld s ARM_STAT 31 28 < 3 → mappedSlm (settings s) (ringEntry s ((regNat s TIER_MQ_HEAD + s.mover.moves.length) % fld s TIER_MQ_SIZE 16 0)) 32 = true → readRange s (ringEntry s ((regNat s TIER_MQ_HEAD + s.mover.moves.length) % fld s TIER_MQ_SIZE 16 0)) 32 = (u, some d) → fieldAt d 0 1 = 3 → moveCheck u d (parseMove ((regNat s TIER_MQ_HEAD + s.mover.moves.length) % fld s TIER_MQ_SIZE 16 0) d) = none → moveWaits u (parseMove ((regNat s TIER_MQ_HEAD + s.mover.moves.length) % fld s TIER_MQ_SIZE 16 0) d) = false →
    ∃ t, exec .evict s = .next t ∧ t.mover.moves = s.mover.moves ++ [parseMove ((regNat s TIER_MQ_HEAD + s.mover.moves.length) % fld s TIER_MQ_SIZE 16 0) d] ∧ t.mover.dir = s.mover.dir ∧ t.mover.pieces = s.mover.pieces ∧ t.store = s.store) ∧
  (∀ (d : List Byte) (u s : State), ringLeft s ≠ 0 → fld s ARM_STAT 31 28 < 3 → mappedSlm (settings s) (ringEntry s ((regNat s TIER_MQ_HEAD + s.mover.moves.length) % fld s TIER_MQ_SIZE 16 0)) 32 = true → readRange s (ringEntry s ((regNat s TIER_MQ_HEAD + s.mover.moves.length) % fld s TIER_MQ_SIZE 16 0)) 32 = (u, some d) → fieldAt d 0 1 = 4 → moveCheck u d (parseMove ((regNat s TIER_MQ_HEAD + s.mover.moves.length) % fld s TIER_MQ_SIZE 16 0) d) = none → moveWaits u (parseMove ((regNat s TIER_MQ_HEAD + s.mover.moves.length) % fld s TIER_MQ_SIZE 16 0) d) = false →
    ∃ t, exec .clear s = .next t ∧ t.mover.moves = s.mover.moves ++ [parseMove ((regNat s TIER_MQ_HEAD + s.mover.moves.length) % fld s TIER_MQ_SIZE 16 0) d] ∧ t.mover.dir = s.mover.dir ∧ t.mover.pieces = s.mover.pieces ∧ t.store = s.store) ∧
  (∀ (i : Nat) (m : Move) (e : DirEntry) (s : State), i < 65536 → s.mover.moves.find? (fun m => m.index == i && m.status.isNone) = some m → m.op = 3 → s.mover.dir.find? (fun e => e.home == m.src && e.len == m.len) = some e →
    ∃ t, exec (.moveComplete i) s = .next t ∧ t.mover.dir.all (fun x => x.home != e.home) = true ∧ t.mover.moves.all (fun x => x.index != i || x.status.isSome) = true ∧ t.store = s.store) ∧
  (∀ (i : Nat) (m : Move) (u s : State), i < 65536 → s.mover.moves.find? (fun m => m.index == i && m.status.isNone) = some m → m.op = 1 → m.moved = 0 → m.failed = false → copyFits (invalidate s m.dst m.len) m.dst m.len = true → copyChunks (m.len / 64) (invalidate s m.dst m.len) m.src m.dst = (u, true) →
    exec (.moveComplete i) s = .next (finishMove u m.index stOK)) ∧
  (∀ (i : Nat) (m : Move) (u s : State), i < 65536 → s.mover.moves.find? (fun m => m.index == i && m.status.isNone) = some m → m.op = 2 → s.mover.dir.any (fun e => overlaps m.src m.len e.home e.len || overlaps m.dst m.len e.copy e.len) = false → s.mover.dir.length < 65536 → copyChunks (m.len / 64) (invalidate s m.dst m.len) m.src m.dst = (u, true) →
    exec (.moveComplete i) s = .next (finishMove (showDir { u with mover := { u.mover with dir := u.mover.dir ++ [{ home := m.src, copy := m.dst, len := m.len }] } }) m.index stOK)) ∧
  (∀ (i : Nat) (m : Move) (s : State), i < 65536 → s.mover.moves.find? (fun m => m.index == i && m.status.isNone) = some m → m.op = 4 →
    exec (.moveComplete i) s = .next (finishMove (clearGranules (m.len / granule) (invalidate s m.dst m.len) (within m.dst / granule)) m.index stOK))

/-- The directory's answer marks a piece as served by the copy where one covers it, and a hint that names another tier counts in TIER_HINT_MISS.
A piece that arrives lays its bytes in its tile's store and leaves the mover. One that cannot be read at its copy takes the copy's entry out
of the directory and is read at its home; one that cannot be read at its home ends its kernel with TIER_FAIL. The limit, once it has passed
on a piece that two sources hold, sends it to the other one, and the piece is on its way anew. -/
def Obligations.OperandPieces : Prop :=
  (∀ (id : Nat) (p : Piece) (s : State), findPiece s id = some p → p.looked = false →
    ∃ t, exec (.directoryLookupDone id) s = .next t ∧ (findPiece t id).map (fun q => { q with port := none }) = some { p with looked := true, viaCopy := (coverOf s p.addr p.len).isSome, cause := tierCause (tierOf (match coverOf s p.addr p.len with | some e => e.copy | none => p.addr)), port := none } ∧
      t.mover.dir = s.mover.dir ∧ t.store = s.store ∧
      regNat t TIER_HINT_MISS = (if p.hint ≠ 0 ∧ p.hint ≠ tierOf (match coverOf s p.addr p.len with | some e => e.copy | none => p.addr) then min (regNat s TIER_HINT_MISS + 1) allBits else regNat s TIER_HINT_MISS)) ∧
  (∀ (id dst : Nat) (p : Piece) (l : List Byte) (u s : State), findPiece s id = some p → id < s.mover.nextPiece → p.expiredAt = none → p.looked = true → dst + p.len ≤ storeLen → readAddr s (sourceOf s p) p.len = (u, some l) → l.length ≤ p.len →
    ∃ t, exec (.pieceArrival id dst .good) s = .next t ∧ findPiece t id = none ∧ storeBytes t p.tile dst l.length = l ∧ storeSameOutside s t p.tile [{ lo := dst, len := l.length }]) ∧
  (∀ (id dst : Nat) (p : Piece) (e : DirEntry) (s : State), findPiece s id = some p → p.expiredAt = none → p.looked = true → p.viaCopy = true → coverOf s p.addr p.len = some e → dst + p.len ≤ storeLen →
    ∃ t, exec (.pieceArrival id dst .failed) s = .next t ∧ t.mover.dir = s.mover.dir.filter (fun x => x.home != e.home) ∧ (findPiece t id).map (fun q => { q with port := none }) = some { p with viaCopy := false, cause := tierCause (tierOf p.addr), port := none } ∧ t.store = s.store) ∧
  (∀ (id dst j : Nat) (p : Piece) (r : Run) (y : KernelRun) (s : State), findPiece s id = some p → p.expiredAt = none → p.looked = true → p.viaCopy = false → dst + p.len ≤ storeLen → findRun s p.run = some r → p.kernel < r.kernels.length → j ≠ p.kernel → r.kernels[j]? = some y → y.status = 255 →
    ∃ t, exec (.pieceArrival id dst .failed) s = .next t ∧ (findRun t p.run).any (fun y => (y.kernels[p.kernel]?).any (fun x => x.status == stTIER_FAIL)) = true ∧ t.grf.admitQueue.all (fun e => e.2.run != p.run || e.2.kernel != p.kernel) = true) ∧
  (∀ (id : Nat) (p : Piece) (s : State), findPiece s id = some p → expired s p.at_ (regNat s TIER_MV_LIMIT) = true → p.looked = true → p.reissued = false → (coverOf s p.addr p.len).isSome = true →
    ∃ t, exec (.mvLimitExpiry id) s = .next t ∧ (findPiece t id).map (fun q => { q with port := none }) = some { p with viaCopy := !p.viaCopy, reissued := true, cause := 1, expiredAt := some s.tb, port := none } ∧ t.mover.dir = s.mover.dir ∧ t.store = s.store)

/-- The scrub reads the line that its sweep has come to, and the sweep goes on: clean, it changes no byte; corrected, it counts in the counter
of its memory; uncorrectable, a line of a window that was not poison is rewritten as poisoned zeros and counts. A pseudo-channel's transient
fault counts and starts its window; one judged permanent retires it, or fences it where its stack has retired four, and a retired one
migrates. A migration that ends takes it off the list, and TIER_STAT shows whether any is left. -/
def Obligations.MemoryScrubAndFaults : Prop :=
  (∀ (board : Bool) (unit pc idx line : Nat) (s : State), unit < 20 → pc < 64 → rbit s TIER_STAT 29 = true → idx = Sparse.get 0 s.dram.sweeps (sweepKey board unit pc) → lineAt s board unit pc idx = some line → lineFenced s line = false → Sparse.get none s.dram.raws line = none →
    ∃ t, exec (.memoryPatrolScrub board unit pc idx .clean) s = .next t ∧ t.dram = { s.dram with sweeps := t.dram.sweeps } ∧ Sparse.get 0 t.dram.sweeps (sweepKey board unit pc) = (idx + 1) % sweepLen board ∧ t.nv = s.nv) ∧
  (∀ (board : Bool) (unit pc idx line : Nat) (s : State), unit < 20 → pc < 64 → rbit s TIER_STAT 29 = true → idx = Sparse.get 0 s.dram.sweeps (sweepKey board unit pc) → lineAt s board unit pc idx = some line → lineFenced s line = false → Sparse.get none s.dram.raws line = none → remembered s line = false →
    ∃ t, exec (.memoryPatrolScrub board unit pc idx .corrected) s = .next t ∧ regNat t (if onBoard line then TIER_CE_BM else TIER_CE_STK) = min (regNat s (if onBoard line then TIER_CE_BM else TIER_CE_STK) + 1) allBits ∧ t.dram = { s.dram with sweeps := t.dram.sweeps } ∧ Sparse.get 0 t.dram.sweeps (sweepKey board unit pc) = (idx + 1) % sweepLen board ∧ t.nv = s.nv) ∧
  (∀ (board : Bool) (unit pc idx line : Nat) (s : State), unit < 20 → pc < 64 → rbit s TIER_STAT 29 = true → idx = Sparse.get 0 s.dram.sweeps (sweepKey board unit pc) → lineAt s board unit pc idx = some line → mapped (settings s) (line * 64) 64 = true → poisoned s line = false → lineFenced s line = false → Sparse.get none s.dram.raws line = none → remembered s line = false →
    ∃ t, exec (.memoryPatrolScrub board unit pc idx .uncorrectable) s = .next t ∧ poisoned t line = true ∧ lineBytes t line = List.replicate 64 0 ∧ regNat t (if onBoard line then TIER_UE_BM else TIER_UE_STK) = min (regNat s (if onBoard line then TIER_UE_BM else TIER_UE_STK) + 1) allBits) ∧
  (∀ (st pc cause : Nat) (ex : Bool) (s : State), st < 20 → pc < 64 → s.nv.retiredPcs.contains (st * 64 + pc) = false → s.nv.fencedPcs.contains (st * 64 + pc) = false → judgedPermanent s 1 (st * 64 + pc) ex = false →
    ∃ t, exec (.pseudoChannelFault st pc cause ex) s = .next t ∧ regNat t TIER_PC_TRANSIENT = min (regNat s TIER_PC_TRANSIENT + 1) allBits ∧ ageOf t 1 (st * 64 + pc) = some { cls := 1, unit := st * 64 + pc, at_ := s.faults.powered } ∧ t.nv.retiredPcs = s.nv.retiredPcs ∧ t.nv.fencedPcs = s.nv.fencedPcs ∧ t.dram = s.dram) ∧
  (∀ (st pc cause : Nat) (ex : Bool) (s : State), st < 20 → pc < 64 → s.nv.retiredPcs.contains (st * 64 + pc) = false → s.nv.fencedPcs.contains (st * 64 + pc) = false → judgedPermanent s 1 (st * 64 + pc) ex = true →
    ∃ t, exec (.pseudoChannelFault st pc cause ex) s = .next t ∧ (if 4 ≤ retiredInStack s st then t.nv.fencedPcs = s.nv.fencedPcs ++ [st * 64 + pc] ∧ t.nv.retiredPcs = s.nv.retiredPcs
       else t.nv.retiredPcs = s.nv.retiredPcs ++ [st * 64 + pc] ∧ t.nv.fencedPcs = s.nv.fencedPcs ∧ t.mover.migrating = s.mover.migrating ++ [st * 64 + pc]) ∧ t.dram = s.dram) ∧
  (∀ (st pc : Nat) (s : State), st < 20 → pc < 64 → s.mover.migrating.contains (st * 64 + pc) = true →
    ∃ t, exec (.migrationDone st pc) s = .next t ∧ t.mover.migrating.contains (st * 64 + pc) = false ∧ rbit t TIER_STAT 30 = !t.mover.migrating.isEmpty)

/-- With the key, EN is stored and shown; without it, the write is discarded and counted. WRITE_RAW stores the 72 symbols of TIER_CHK_DATA and
TIER_CHK_CODE as the line and remembers it. READ_RAW shows the line's 72 symbols as they are stored, and leaves it so. READ gives the line's
data with RESULT 0, the result of a line that reads as zero is 3, and of a poisoned line 2. -/
def Obligations.TheChecker : Prop :=
  (∀ (key : Nat) (en : Bool) (s : State), key % 256 ≠ 0xC3 → windowOpen s = true → s.power.recovery = false →
    exec (.writeRaw key en) s = .next (accErr s)) ∧
  (∀ (key : Nat) (en : Bool) (s : State), key % 256 ≠ 0xC3 → windowOpen s = true → s.power.recovery = false →
    exec (.readRaw key en) s = .next (accErr s)) ∧
  (∀ (key : Nat) (en : Bool) (s : State), key % 256 ≠ 0xC3 → windowOpen s = true → s.power.recovery = false →
    exec (.checkerRead key en) s = .next (accErr s)) ∧
  (∀ (en : Bool) (s : State), windowOpen s = true → s.power.recovery = false →
    ∃ t, exec (.checkerEnable 0xC3 en) s = .next t ∧ rbit t TIER_STAT 28 = en ∧ regNat t TIER_CHK_CTRL = one en ∧ t.dram = s.dram) ∧
  (∀ (key : Nat) (en : Bool) (s : State), key % 256 ≠ 0xC3 → windowOpen s = true → s.power.recovery = false →
    exec (.checkerEnable key en) s = .next (accErr s)) ∧
  (∀ (line : Nat) (s : State), windowOpen s = true → s.power.recovery = false → chkLine s = some line →
    ∃ t, exec (.writeRaw 0xC3 true) s = .next t ∧ rawLine t line = BitVec.ofNat 576 (((List.range 16).map (fun w => regNat s (TIER_CHK_DATA + 4 * w))).foldr (fun w acc => w + 2 ^ 32 * acc) 0 + 2 ^ 512 * nat64 s TIER_CHK_CODE) ∧ remembered t line = true ∧ regNat t TIER_CHK_STAT = 2 ^ 31) ∧
  (∀ (line : Nat) (s : State), windowOpen s = true → s.power.recovery = false → chkLine s = some line →
    ∃ t, exec (.readRaw 0xC3 true) s = .next t ∧ (∀ w, w < 16 → regNat t (TIER_CHK_DATA + 4 * w) = (rawLine s line).toNat / 2 ^ (32 * w) % 2 ^ 32) ∧ nat64 t TIER_CHK_CODE = (rawLine s line).toNat / 2 ^ 512 ∧ t.dram = s.dram ∧ regNat t TIER_CHK_STAT = 2 ^ 31) ∧
  (∀ (line : Nat) (s : State), windowOpen s = true → s.power.recovery = false → chkLine s = some line → Sparse.get none s.dram.raws line = none →
    ∃ t, exec (.checkerRead 0xC3 true) s = .next t ∧ regNat t TIER_CHK_STAT = 2 ^ 31 + (if poisoned s line = true then 2 else if readsZero s line = true then 3 else 0) ∧ t.dram = s.dram ∧
      (poisoned s line = false → readsZero s line = false → ∀ w, w < 16 → regNat t (TIER_CHK_DATA + 4 * w) = fieldAt (lineBytes s line) (4 * w) 4))

/-- Where package 0 is fitted, a write of the tail or of a fitting size takes effect. An APPEND that is read, is well formed and fits takes the
next epoch and the next RIDs and waits for its commit, with nothing committed yet; a DELETE takes the next epoch. A FILTER and an EMBED that
pass their checks enter the ring with the commit epoch as their snapshot, and with the slabs and records that it selects. A cancel marks a
running FILTER or EMBED, or a descriptor that waits. -/
def Obligations.JobRing : Prop :=
  (∀ (i : Nat) (s : State), i < 65536 → 0 < s.build.sp → windowOpen s = true → s.power.recovery = false →
    ∃ t, exec (.scnJqTail i) s = .next t ∧ regNat t (scnReg 0 0x1C) = i ∧ t.scan = s.scan ∧ t.corpus = s.corpus) ∧
  (∀ (n : Nat) (s : State), (n = 0 ∨ powerOfTwo n 16 65536 = true) → 0 < s.build.sp → regNat s (scnReg 0 0x20) = regNat s (scnReg 0 0x1C) → windowOpen s = true → s.power.recovery = false →
    ∃ t, exec (.scnJqSize n) s = .next t ∧ regNat t (scnReg 0 0x18) = n ∧ regNat t (scnReg 0 0x20) = 0 ∧ regNat t (scnReg 0 0x1C) = 0 ∧ t.scan = s.scan) ∧
  (∀ (i : Nat) (d l : List Byte) (g : Region) (rs : List Record) (u w s : State), nextJob s u 1 i d g → slmOk u (fieldAt d 0x18 8) (fieldAt d 0xC 4) = true → readSlm (takeEpoch u).1 (fieldAt d 0x18 8) (fieldAt d 0xC 4) = (w, some l) → parseRecords (fieldAt d 2 1) (fixedLen g) s.corpus.nextEpoch (fieldAt d 8 4) (Sparse.get 0 s.corpus.nextRid (fieldAt d 2 1) + 1) 0 l = .inl rs → recordsFit w g (packRecords (allRecords s) (fieldAt d 2 1) (Sparse.get 0 s.corpus.openSlab (fieldAt d 2 1)) rs).1 = true →
    ∃ t, exec .append s = .next t ∧ t.scan.jobs.map (·.index) = s.scan.jobs.map (·.index) ++ [i] ∧ t.scan.jobs.getLast?.map (fun j => (j.op, j.epoch, j.count)) = some (1, s.corpus.nextEpoch, rs.length) ∧
      t.corpus.nextEpoch = s.corpus.nextEpoch + 1 ∧ Sparse.get 0 t.corpus.nextRid (fieldAt d 2 1) = Sparse.get 0 s.corpus.nextRid (fieldAt d 2 1) + rs.length ∧
      t.corpus.records = s.corpus.records ∧ t.corpus.epoch = s.corpus.epoch) ∧
  (∀ (i : Nat) (d l : List Byte) (g : Region) (u w s : State), nextJob s u 2 i d g → slmOk u (fieldAt d 0x18 8) (8 * fieldAt d 8 4) = true → readSlm (takeEpoch u).1 (fieldAt d 0x18 8) (8 * fieldAt d 8 4) = (w, some l) →
    ∃ t, exec .delete s = .next t ∧ t.scan.jobs.map (·.index) = s.scan.jobs.map (·.index) ++ [i] ∧ t.scan.jobs.getLast?.map (fun j => (j.op, j.epoch, j.batch)) = some (2, s.corpus.nextEpoch, (List.range (fieldAt d 8 4)).map (fun k => fieldAt l (8 * k) 8)) ∧
      t.corpus = { s.corpus with nextEpoch := s.corpus.nextEpoch + 1 }) ∧
  (∀ (i : Nat) (d : List Byte) (g : Region) (j : Job) (u w s : State), nextJob s u 3 i d g → readProgram u (parseJob u i d) (fieldAt d 0x10 8) (fixedLen g) = (w, .inl j) → ((j.form == 1 || j.form == 2) && decide (j.len2 < j.limit * entrySize j.form j.prog (fixedLen g))) = false → (j.form = 0 ∨ (slmOk w j.dst j.len2 = true ∧ touchesCopy w j.dst j.len2 = false)) →
    ∃ t, exec .filter s = .next t ∧ t.scan.jobs = s.scan.jobs ++ [{ j with epoch := s.corpus.epoch, slabsLeft := slabsFor s j.region j.ridLo j.ridHi s.corpus.epoch, pending := selectable s j.region j.ridLo j.ridHi s.corpus.epoch }] ∧ t.corpus = s.corpus) ∧
  (∀ (i : Nat) (d : List Byte) (g r : Region) (x : Index) (j : Job) (gr : Graph) (a b : Nat × Nat) (u w s : State), nextJob s u 4 i d g → embedIndex u (parseJob u i d) = some (r, x) → x.created = true → readProgram u (parseJob u i d) (fieldAt d 0x10 8) (fixedLen g) = (w, .inl j) → graphOf w j.slot = some gr → w.grf.active.contains j.slot = true → bitOf gr.flags 0 = false → gr.armId = (settings w).armId → (Sparse.get [] w.grf.sets j.mrs)[0]? = some a → j.limit * j.len2 ≤ a.2 → (Sparse.get [] w.grf.sets j.mrs)[1]? = some b → j.limit * vectorLen r.param ≤ b.2 →
    ∃ t, exec .embed s = .next t ∧ t.scan.jobs = s.scan.jobs ++ [{ j with epoch := s.corpus.epoch, slabsLeft := slabsFor s j.region j.ridLo j.ridHi s.corpus.epoch, pending := selectable s j.region j.ridLo j.ridHi s.corpus.epoch, vecLen := vectorLen r.param }] ∧ t.corpus = s.corpus ∧ t.grf = s.grf) ∧
  (∀ (i : Nat) (j : Job) (s : State), i < 65536 → 0 < s.build.sp → windowOpen s = true → s.power.recovery = false → s.scan.jobs.find? (fun j => j.index == i && !j.done) = some j → 3 ≤ j.op →
    ∃ t, exec (.scnJqCancel i) s = .next t ∧ t.scan.jobs = updateWhere (fun j => j.index == i) (fun j => { j with cancelled := true }) s.scan.jobs ∧ t.corpus = s.corpus ∧ t.scan.cancelled = s.scan.cancelled) ∧
  (∀ (i : Nat) (s : State), i < 65536 → 0 < s.build.sp → windowOpen s = true → s.power.recovery = false → s.scan.jobs.find? (fun j => j.index == i && !j.done) = none → ringWaits (fld s (scnReg 0 0x18) 16 0) (regNat s (scnReg 0 0x1C)) (regNat s (scnReg 0 0x20)) s.scan.jobs.length i = true →
    ∃ t, exec (.scnJqCancel i) s = .next t ∧ t.scan.cancelled.contains i = true ∧ t.scan.jobs = s.scan.jobs ∧ t.corpus = s.corpus)

/-- A FILTER that reads a slab cleanly takes it off its list, counts the records of it that match, and the slab's bytes. An APPEND's commit,
once the write buffer takes its last record, puts its records into the corpus; a DELETE's, once every lower epoch has settled, adds its
tombstones and counts the RIDs that were not visible. An APPEND or DELETE that has its status, a FILTER that has read every slab and an
EMBED with nothing left end. A compaction of a slab whose tombstoned share reaches COMPACT_PCT, and whose copies find room, keeps every
record that some held snapshot may see and drops exactly the others. -/
def Obligations.JobsRunAndCommit : Prop :=
  (∀ (i slab : Nat) (j : Job) (g : Region) (s : State), i < 65536 → findJob s i = some j → findRegion s 2 j.region = some g → j.op = 3 → j.done = false → j.cancelled = false → j.status = none → j.slabsLeft.contains slab = true → scansHeld s (homePkg g slab) = false → s.scan.rebuilding.contains (2, j.region) = false → slabUnread s g slab (slabUsed (slabRecords s j.region slab) j.region slab) = false →
    ∃ t, exec (.slabScan i slab false 0) s = .next t ∧ (findJob t i).map (fun k => (k.slabsLeft, k.count, k.bytesScanned, k.lost)) = some (j.slabsLeft.filter (fun x => x != slab), j.count + ((j.pending.filter (fun r => r.slab == slab)).filter (jobMatches j)).length, j.bytesScanned + slabLen, j.lost) ∧
      nat64 t (scnReg (homePkg g slab) 0x30) = (nat64 s (scnReg (homePkg g slab) 0x30) + slabLen) % 2 ^ 64 ∧ t.corpus.records = s.corpus.records) ∧
  (∀ (i : Nat) (j : Job) (g : Region) (u s : State), i < 65536 → s.scan.jobs.find? (fun j => j.index == i && jobCommits j) = some j → findRegion s 2 j.region = some g → regionReady s g = true → j.op = 1 → appendEnters s u j g →
    ∃ t, exec (.jobCommit i) s = .next t ∧ t.corpus.records = s.corpus.records ++ j.pending ∧ t.corpus.tombs = s.corpus.tombs ∧ t.scan.jobs.all (fun k => k.index != i || (k.status == some stOK && k.pending.isEmpty)) = true ∧ (s.corpus.epoch + 1 = j.epoch → j.epoch ≤ t.corpus.epoch)) ∧
  (∀ (i : Nat) (j : Job) (g : Region) (s : State), i < 65536 → s.scan.jobs.find? (fun j => j.index == i && jobCommits j) = some j → findRegion s 2 j.region = some g → regionReady s g = true → j.op = 2 → s.corpus.epoch + 1 = j.epoch → tombsFit s g (deleteTombs s j g) = true → tombsEnter s g (deleteTombs s j g) = true →
    ∃ t, exec (.jobCommit i) s = .next t ∧ t.corpus.tombs = s.corpus.tombs ++ deleteTombs s j g ∧ t.corpus.records = s.corpus.records ∧ j.epoch ≤ t.corpus.epoch ∧
      t.scan.jobs.all (fun k => k.index != i || (k.status == some stOK && k.count == (deleteTombs s j g).length && k.notVisible == j.batch.length - (deleteTombs s j g).length)) = true) ∧
  (∀ (i e : Nat) (j : Job) (s : State), i < 65536 → findJob s i = some j → j.done = false → j.op = 4 → j.status = none → j.cancelled = false → j.batchStatus = none → j.batchEpoch = none → j.slabsLeft = [] → j.batch = [] → j.nextBatch = [] → j.matched = [] → dispatchStopped s = false →
    ∃ t, exec (.jobComplete i e) s = .next t ∧ t.scan.jobs.all (fun k => k.index != i || k.done) = true ∧ t.corpus = s.corpus) ∧
  (∀ (i e : Nat) (j : Job) (s : State), i < 65536 → findJob s i = some j → j.done = false → j.batchEpoch = none → (j.op = 1 ∨ j.op = 2) → j.status.isSome = true →
    ∃ t, exec (.jobComplete i e) s = .next t ∧ t.scan.jobs.all (fun k => k.index != i || k.done) = true ∧ t.corpus = s.corpus) ∧
  (∀ (i e : Nat) (j : Job) (s : State), i < 65536 → findJob s i = some j → j.done = false → j.op = 3 → j.cancelled = false → j.batchEpoch = none → j.slabsLeft = [] → dispatchStopped s = false →
    ∃ t, exec (.jobComplete i e) s = .next t ∧ t.scan.jobs.all (fun k => k.index != i || k.done) = true ∧ t.corpus = s.corpus) ∧
  (∀ (region slab : Nat) (g : Region) (s : State), region < 64 → findRegion s 2 region = some g → regionReady s g = true → s.scan.rebuilding.contains (2, region) = false → (pendingRecords s).any (fun r => r.region == region && r.slab == slab) = false → recordsFit s g (compactPlaced s region slab).1 = true → unitsFit s (pieceUnits s g (compactWrites s region slab) ++ dropUnits s g (compactDrops s region slab)) = true → sumNat ((s.corpus.records.filter (fun r => r.region == region && r.slab == slab)).map (·.len)) ≠ 0 → fld s (scnReg (homePkg g slab) 4) 15 8 * sumNat ((s.corpus.records.filter (fun r => r.region == region && r.slab == slab)).map (·.len)) ≤
      sumNat (((s.corpus.records.filter (fun r => r.region == region && r.slab == slab)).filter (buried s region s.corpus.epoch)).map (·.len)) * 100 →
    ∃ t, exec (.compaction region slab) s = .next t ∧ t.corpus.records.length + ((s.corpus.records.filter (fun r => r.region == region && r.slab == slab)).filter (buried s region (oldestSnapshot s))).length = s.corpus.records.length ∧
      (∀ r ∈ s.corpus.records, r.region = region → r.slab = slab → buried s region (oldestSnapshot s) r = false → t.corpus.records.any (fun y => y.region == region && y.rid == r.rid && y.raw == r.raw) = true) ∧
      regNat t (scnReg (homePkg g slab) 0x58) = min (regNat s (scnReg (homePkg g slab) 0x58) + 1) allBits)

/-- Where package 0 is fitted, a write of the tail or of a fitting size takes effect. A QUERY whose vector R253 accepts enters with the commit
epoch as its snapshot and a context in each package of its index. An INSERT, a DELETE and a CREATE take the next epoch and wait for their
commit, with the index as it was. An INSERT's commit, once the write buffer takes its last entry, adds its entries to the index with the
slabs opened for them. A cancel ends a running QUERY, or marks a descriptor that waits. -/
def Obligations.QueryRing : Prop :=
  (∀ (i : Nat) (s : State), i < 65536 → 0 < s.build.sp → windowOpen s = true → s.power.recovery = false →
    ∃ t, exec (.srcQqTail i) s = .next t ∧ regNat t (srcReg 0 0x1C) = i ∧ t.search = s.search ∧ t.corpus = s.corpus) ∧
  (∀ (n : Nat) (s : State), (n = 0 ∨ powerOfTwo n 16 65536 = true) → 0 < s.build.sp → regNat s (srcReg 0 0x20) = regNat s (srcReg 0 0x1C) → windowOpen s = true → s.power.recovery = false →
    ∃ t, exec (.srcQqSize n) s = .next t ∧ regNat t (srcReg 0 0x18) = n ∧ regNat t (srcReg 0 0x20) = 0 ∧ regNat t (srcReg 0 0x1C) = 0 ∧ t.search = s.search) ∧
  (∀ (i : Nat) (d l : List Byte) (r : Region) (x : Index) (v : List Word) (u w s : State), nextQuery s u 1 i d r → findIndex u (if bitOf (fieldAt d 3 1) 0 then 4 else 3) (fieldAt d 2 1) = some x → x.created = true → (packagesOf r.spMask).any (fun p => decide (16384 ≤ contextsOf u p)) = false → slmOk u (fieldAt d 0x10 8) (4 * dimOf r.param) = true → slmOk u (fieldAt d 0x20 8) (16 * fieldAt d 4 2) = true → touchesCopy u (fieldAt d 0x20 8) (16 * fieldAt d 4 2) = false → readSlm u (fieldAt d 0x10 8) (4 * dimOf r.param) = (w, some l) → v = vectorOf .fp32 l 0 (dimOf r.param) → allFinite v = true → (metricOf r.param = 1 → allZero v = false) →
    ∃ t, exec .query s = .next t ∧ t.search.queries.map (·.index) = s.search.queries.map (·.index) ++ [i] ∧ t.corpus = s.corpus ∧
      t.search.queries.getLast?.map (fun q => (q.op, q.epoch, q.vector, q.contexts.map (·.package))) = some (1, s.corpus.epoch, if metricOf r.param = 1 then normalise v else v, packagesOf r.spMask)) ∧
  (∀ (i : Nat) (d l rl : List Byte) (r : Region) (x y : Index) (es : List Entry) (u v w s : State), nextQuery s u 2 i d r → findIndex u (if bitOf (fieldAt d 3 1) 0 then 4 else 3) (fieldAt d 2 1) = some x → x.created = true → slmOk u (fieldAt d 0x10 8) (fieldAt d 8 4 * vectorLen r.param) = true → slmOk u (fieldAt d 0x18 8) (8 * fieldAt d 8 4) = true → readSlm (takeEpoch u).1 (fieldAt d 0x10 8) (fieldAt d 8 4 * vectorLen r.param) = (v, some l) → readSlm v (fieldAt d 0x18 8) (8 * fieldAt d 8 4) = (w, some rl) → (List.range (fieldAt d 8 4)).all (fun k => fieldAt rl (8 * k) 8 != 0 && fieldAt rl (8 * k) 8 != 2 ^ 64 - 1) = true → badVector r.param ((List.range (fieldAt d 8 4)).map (fun k => vectorOf (vfmtOf r.param) l (k * vectorLen r.param) (dimOf r.param))) = none → makeEntries w r s.corpus.nextEpoch (heldIndex w x) (((List.range (fieldAt d 8 4)).map (fun k => fieldAt rl (8 * k) 8)).zip ((List.range (fieldAt d 8 4)).map (fun k => vectorOf (vfmtOf r.param) l (k * vectorLen r.param) (dimOf r.param)))) = some (y, es) →
    ∃ t, exec .insert s = .next t ∧ t.search.queries.map (·.index) = s.search.queries.map (·.index) ++ [i] ∧ t.corpus = { s.corpus with nextEpoch := s.corpus.nextEpoch + 1 } ∧ t.search.queries.getLast?.map (fun q => (q.op, q.epoch, q.pendingEntries, q.pendingSlabs)) = some (2, s.corpus.nextEpoch, es, y.slabs.drop (heldIndex w x).slabs.length)) ∧
  (∀ (i : Nat) (d l : List Byte) (r : Region) (x : Index) (u w s : State), nextQuery s u 3 i d r → findIndex u (if bitOf (fieldAt d 3 1) 0 then 4 else 3) (fieldAt d 2 1) = some x → x.created = true → slmOk u (fieldAt d 0x10 8) (8 * fieldAt d 8 4) = true → readSlm (takeEpoch u).1 (fieldAt d 0x10 8) (8 * fieldAt d 8 4) = (w, some l) →
    ∃ t, exec .indexDelete s = .next t ∧ t.search.queries.map (·.index) = s.search.queries.map (·.index) ++ [i] ∧ t.corpus = { s.corpus with nextEpoch := s.corpus.nextEpoch + 1 } ∧
      t.search.queries.getLast?.map (fun q => (q.op, q.epoch, q.pendingTombs.map (·.rid))) = some (3, s.corpus.nextEpoch, (List.range (fieldAt d 8 4)).map (fun k => fieldAt l (8 * k) 8))) ∧
  (∀ (i : Nat) (d l : List Byte) (r : Region) (x y : Index) (u w s : State), nextQuery s u 4 i d r → r.type = 3 → createHeld s = false → bitOf (fieldAt d 3 1) 0 = false → x = (findIndex u 3 (fieldAt d 2 1)).getD { rtype := 3, id := fieldAt d 2 1 } → (x.created && !x.entries.isEmpty) = false → slmOk u (fieldAt d 0x10 8) (fieldAt d 8 4 * dimOf r.param * 4) = true → readSlm (takeEpoch u).1 (fieldAt d 0x10 8) (fieldAt d 8 4 * dimOf r.param * 4) = (w, some l) → badElement (vectorOf .fp32 l 0 (fieldAt d 8 4 * dimOf r.param)) = none → y = { rtype := r.type, id := r.id, created := true, centroids := (List.range (fieldAt d 8 4)).map (fun c => (chunk (vectorOf .fp32 l 0 (fieldAt d 8 4 * dimOf r.param)) c (dimOf r.param)).map (fun e => toF32 .bf16 (narrow .bf16 0 0 e).1)), radius := List.replicate (fieldAt d 8 4) zero32, nmin := List.replicate (fieldAt d 8 4) 0x7F7FFFFF#32 } → centroidBytes { s with search := { s.search with queries := s.search.queries ++ [{ parseQuery s i d with epoch := s.corpus.nextEpoch, pendingIndex := some y }] } } s.nv.layout + stagingBytes (settings s) + 64 * granule ≤ (settings s).stkWork * granule →
    ∃ t, exec .create s = .next t ∧ t.search.queries.map (·.index) = s.search.queries.map (·.index) ++ [i] ∧ t.corpus = { s.corpus with nextEpoch := s.corpus.nextEpoch + 1 } ∧ t.search.queries.getLast?.map (fun q => (q.op, q.epoch, q.pendingIndex)) = some (4, s.corpus.nextEpoch, some y)) ∧
  (∀ (i : Nat) (q : Query) (r : Region) (x : Index) (u s : State), i < 65536 → s.scan.jobs.find? (fun j => j.index == i && jobCommits j) = none → s.search.queries.find? (fun q => q.index == i && !q.done && decide (2 ≤ q.op)) = some q → findQuery s i = some q → q.op = 2 → findRegion s q.rtype q.region = some r → regionReady s r = true → findIndex s q.rtype q.region = some x → enterEntries s r x q.pendingSlabs q.entered q.pendingEntries = (u, q.pendingEntries.length) →
    ∃ t, exec (.jobCommit i) s = .next t ∧ findIndex t q.rtype q.region = some (withEntries x q.pendingEntries q.pendingSlabs) ∧ t.corpus.records = s.corpus.records ∧ t.corpus.tombs = s.corpus.tombs ∧ t.search.queries.all (fun y => y.index != i || y.done) = true) ∧
  (∀ (i : Nat) (q : Query) (s : State), i < 65536 → 0 < s.build.sp → windowOpen s = true → s.power.recovery = false → s.search.queries.find? (fun q => q.index == i && !q.done) = some q → findQuery s i = some q → q.op = 1 →
    ∃ t, exec (.srcQqCancel i) s = .next t ∧ t.search.queries.all (fun y => y.index != i || y.done) = true ∧ t.corpus = s.corpus) ∧
  (∀ (i : Nat) (s : State), i < 65536 → 0 < s.build.sp → windowOpen s = true → s.power.recovery = false → s.search.queries.find? (fun q => q.index == i && !q.done) = none → ringWaits (fld s (srcReg 0 0x18) 16 0) (regNat s (srcReg 0 0x1C)) (regNat s (srcReg 0 0x20)) s.search.queries.length i = true →
    ∃ t, exec (.srcQqCancel i) s = .next t ∧ t.search.cancelled.contains i = true ∧ t.search.queries = s.search.queries ∧ t.corpus = s.corpus)

/-- Centroid scores give every context its clusters. A rasp batch of one query, for the oldest request of its engine and with every list slab
readable, counts its cluster and every visible entry of it. A fetched vector that can be read polishes the next candidate with its exact
merit, and a miss of the cache counts. An exchanged threshold raises another context's. A context that has nothing left completes and
counts, and with the last one the QUERY ends; so does one whose deadline has passed. -/
def Obligations.QueryPasses : Prop :=
  (∀ (i : Nat) (q : Query) (r : Region) (x : Index) (s : State), i < 65536 → findQuery s i = some q → findRegion s q.rtype q.region = some r → findIndex s q.rtype q.region = some x → q.done = false → q.op = 1 → q.contexts.all (·.scored) = false →
    ∃ t, exec (.centroidScores i) s = .next t ∧ (findQuery t i).map (fun y => (y.scores, y.contexts.map (fun c => (c.package, c.scored)))) = some (x.centroids.map (centroidScore s q), q.contexts.map (fun c => (c.package, true))) ∧ t.corpus = s.corpus) ∧
  (∀ (p rt id c : Nat) (q : Query) (r : Region) (x : Index) (s : State), p < 4 → (rt = 3 ∨ rt = 4) → id < 64 → c < 65536 → findRegion s rt id = some r → findIndex s rt id = some x → (oldestRequest (requests s p (engineOf s (homeChan r c)))).map (·.2) = some (rt, id, c) → homePkg r c = p → scansHeld s p = false → s.scan.rebuilding.contains (rt, id) = false → ((s.search.queries.filter (fun q => awaits q p rt id c)).mergeSort (fun a b => decide (askedBy a p ≤ askedBy b p))).take (fld s (srcReg p 4) 6 0) = [q] → findQuery s q.index = some q → x.slabs.all (fun b => b.cluster != c || b.vec.isSome || !slabUnread s r b.slab (slabHead + listFill x b.slab * entryLen r)) = true →
    ∃ t, exec (.raspBatch p (64 * (rt - 3) + id) c []) s = .next t ∧ (findQuery t q.index).map (fun y => (y.clustersScanned, y.rasped)) = some (q.clustersScanned + 1, q.rasped + (x.entries.filter (fun e => e.cluster == c && entryVisible s q.rtype q.region e q.epoch)).length) ∧ t.corpus.indexes = s.corpus.indexes) ∧
  (∀ (i p : Nat) (bad : Bool) (q : Query) (r : Region) (x : Index) (c : Candidate) (s : State), i < 65536 → p < 4 → findQuery s i = some q → findRegion s q.rtype q.region = some r → findIndex s q.rtype q.region = some x → q.done = false → nextCandidate q p = some c → (s.search.cache.contains (cacheKey r c) && !bad || (unitsLost s r [] (vectorUnits r x c)).isEmpty) = true →
    ∃ t, exec (.vectorFetch i p bad false) s = .next t ∧ (findQuery t i).any (fun y => y.polishedCount == q.polishedCount + 1 && y.vcMiss == q.vcMiss + one (!(s.search.cache.contains (cacheKey r c) && !bad)) && y.cands.all (fun k => !sameEntry c k || k.polished == some (meritOf r.param (exactScore r.param q.vector c.vector)))) = true ∧
      nat64 t (srcReg p 0x40) = (nat64 s (srcReg p 0x40) + 1) % 2 ^ 64) ∧
  (∀ (i a b : Nat) (q : Query) (s : State), i < 65536 → a < 4 → b < 4 → findQuery s i = some q →
    ∃ t, exec (.thresholdExchange i a b) s = .next t ∧ (findQuery t i).map (·.contexts) = some (updateWhere (fun c => c.package == b) (fun c => { c with threshold := raiseT c.threshold (thresholdOf q a) }) q.contexts) ∧ t.regs = s.regs ∧ t.corpus = s.corpus) ∧
  (∀ (i p : Nat) (q : Query) (s : State), i < 65536 → p < 4 → findQuery s i = some q → q.done = false → q.contexts.any (fun c => c.package == p && !c.complete && contextDone q c) = true →
    ∃ t, exec (.queryContextComplete i p) s = .next t ∧ (if q.contexts.all (fun c => c.complete || c.package == p) = true then t.search.queries.all (fun y => y.index != i || y.done) = true
       else (findQuery t i).any (fun y => !y.done && y.contexts.all (fun c => c.package != p || c.complete)) = true) ∧
      nat64 t (srcReg p 0x30) = (nat64 s (srcReg p 0x30) + 1) % 2 ^ 64 ∧ t.corpus = s.corpus) ∧
  (∀ (i : Nat) (q : Query) (s : State), i < 65536 → findQuery s i = some q → q.done = false → q.op = 1 → expired s q.start q.deadline = true →
    ∃ t, exec (.queryDeadlineExpiry i) s = .next t ∧ t.search.queries.all (fun y => y.index != i || y.done) = true ∧ t.corpus = s.corpus)

/-- A port whose training ends numbers its flits from 0, offers its credits and sends HELLO last. HELLO_RESEND sends HELLO again. CREDIT_INIT
sets the pool and the escape allotments. A discarded flit counts and is answered with NAK and the SEQ expected. An IDLE's ACK frees the
replay buffer and its credits return to the pool or to their class. A NAK replays what the buffer holds from the SEQ it names, and counts
it. A neighbour's LANE_MAP whose first SEQ is reached gives the transmit lanes; one that leaves none takes the port down, and a port that
was down for want of such lanes is trained afresh. -/
def Obligations.PortsAndFlits : Prop :=
  (∀ (p : Nat) (s : State), p < 24 → canTrain s p = true →
    ∃ t, exec (.trainingDone p) s = .next t ∧ portState t p = 2 ∧ (port t p).rxSeq = 0 ∧ (port t p).txSeq = (if laneCount s p 1 = 8 then 2 else 3) ∧ (port t p).replay.map (·.seq) = List.range (port t p).txSeq ∧
      (port t p).replay.getLast?.map (fun f => (f.ftype, f.payload)) = some (5, helloPayload (ownHello s p)) ∧ t.out.length = s.out.length + (port t p).txSeq ∧ t.nv = s.nv) ∧
  (∀ (p : Nat) (s : State), p < 24 → (portState s p = 2 ∨ portState s p = 4) →
    ∃ t, exec (.helloResend p) s = .next t ∧ t = sendPayload s p (helloPayload (ownHello s p)) ∧
      (quietPort s p → t.out = s.out ++ [ctrlFlit s p (helloPayload (ownHello s p))] ∧ (port t p).txSeq = ((port s p).txSeq + 1) % 4096 ∧ t.regs = s.regs)) ∧
  (∀ (x : Rx) (pool : Nat) (esc : List Nat) (s : State), x.port < 24 → pool < 65536 → linked s x.port = true → (port s x.port).txQueue = [] → (port s x.port).ctrlQueue = [] →
    ∃ t, exec (.creditInit x pool esc) s = .next t ∧ port t x.port = { port (takeFlits s x 1 none) x.port with pool := pool, escape := esc.take 10 ++ List.replicate (10 - esc.length) 0 } ∧ (port t x.port).rxSeq = ((port s x.port).rxSeq + 1) % 4096 ∧ t.regs = s.regs ∧ t.out = s.out) ∧
  (∀ (p : Nat) (s : State), p < 24 → linked s p = true →
    ∃ t, exec (.flitDiscard p) s = .next t ∧ t = sendCtrl (bump s (portReg p 0x8)) p 0x02 [(port s p).rxSeq] ∧
      (quietPort s p → regNat t (portReg p 0x8) = min (regNat s (portReg p 0x8) + 1) allBits ∧ (port t p).rxSeq = (port s p).rxSeq ∧ t.out = s.out ++ [ctrlFlit s p (ctrlPayload 0x02 [(port s p).rxSeq])])) ∧
  (∀ (p ack cvc credits : Nat) (differs : Bool) (s : State), p < 24 → linked s p = true → (port s p).txQueue = [] → (port s p).ctrlQueue = [] →
    ∃ t, exec (.idle p ack cvc credits differs) s = .next t ∧ (port t p).pool = (if cvc = 14 then (port s p).pool + credits else (port s p).pool) ∧
      (port t p).escape = (if cvc = 14 then (port s p).escape else setAt (port s p).escape cvc ((port s p).escape.getD cvc 0 + credits)) ∧ (port t p).rxSeq = ((port s p).rxSeq + 1) % 4096 ∧
      (port t p).replay = (port s p).replay.drop ((port s p).replay.length - leftAfter (port s p) ack) ∧ t.out = s.out ∧
      regNat t (portReg p 0x1C) = (if differs = true ∧ portState s p = 5 then min (regNat s (portReg p 0x1C) + 1) allBits else regNat s (portReg p 0x1C))) ∧
  (∀ (x : Rx) (seq : Nat) (y : Port) (s : State), x.port < 24 → linked s x.port = true → y = takeAck (port (takeFlits s x 1 none) x.port) (seq + 4095) → (y.txSeq + 4096 - seq % 4096) % 4096 = y.replay.length → (port s x.port).txQueue = [] → (port s x.port).ctrlQueue = [] →
    ∃ t, exec (.nak x seq) s = .next t ∧ (port t x.port).replay = y.replay ∧ regNat t (portReg x.port 0xC) = min (regNat s (portReg x.port 0xC) + y.replay.length) allBits ∧
      (port t x.port).replays = (if y.replay = [] then 0 else y.replays + 1) ∧ t.out = s.out ++ y.replay.map (fun f => .flit x.port (laneOf s x.port f.seq) (flitBytes (ackOf y) f))) ∧
  (∀ (x : Rx) (mask first : Nat) (s : State), x.port < 24 → mask < 256 → linked s x.port = true → (port s x.port).mapsNext = [] → (port s x.port).txQueue = [] → (port s x.port).ctrlQueue = [] → ((port s x.port).txSeq + 4096 - first % 4096) % 4096 < 2048 →
    ∃ t, exec (.laneMap x mask first) s = .next t ∧ (if (List.range 8).filter (fun l => bitOf mask l && laneWorks s x.port 0 l) = [] then portState t x.port = 0
       else (port t x.port).map = mask ∧ sendLanes t x.port = (List.range 8).filter (fun l => laneWorks s x.port 0 l && bitOf mask l) ∧ fld t (portReg x.port 0) 27 24 = (sendLanes t x.port).length ∧ portState t x.port = portState s x.port) ∧ t.nv = s.nv) ∧
  (∀ (x : Rx) (mask first : Nat) (s : State), x.port < 24 → 0 < mask → mask < 256 → canTrain s x.port = true → portState s x.port = 0 →
    ∃ t, exec (.laneMap x mask first) s = .next t ∧ portState t x.port = 2 ∧ (port t x.port).map = mask ∧ (port t x.port).rxSeq = 1 ∧ t.nv = s.nv)

/-- A working lane's fault outside its window counts and starts the window, and the lane retrains; within the window the lane is retired. Up to
64 uncorrectable codewords only count. When the replay limit is met, every working transmit lane stops working and the count of replays
starts again. A retraining that succeeds returns the lane and closes its occurrence as transient. -/
def Obligations.LanesRetrainAndRetire : Prop :=
  (∀ (l : LaneId) (s : State), l.port < 24 → l.lane < 8 → portFitted s.build l.port = true → laneWorks s l.port (laneKey l / 8) (laneKey l % 8) = true → 2 ≤ portState s l.port → withinWindow s 2 (l.port * 16 + laneKey l) = false →
    ∃ t, exec (.lossOfLock l) s = .next t ∧ regNat t (portReg l.port 0x10) = min (regNat s (portReg l.port 0x10) + 1) allBits ∧ ageOf t 2 (l.port * 16 + laneKey l) = some { cls := 2, unit := l.port * 16 + laneKey l, at_ := s.faults.powered } ∧
      laneWorks t l.port (laneKey l / 8) (laneKey l % 8) = false ∧ t.nv.retiredLanes = s.nv.retiredLanes) ∧
  (∀ (l : LaneId) (s : State), l.port < 24 → l.lane < 8 → portFitted s.build l.port = true → laneWorks s l.port (laneKey l / 8) (laneKey l % 8) = true → 2 ≤ portState s l.port → withinWindow s 2 (l.port * 16 + laneKey l) = true →
    ∃ t, exec (.lossOfLock l) s = .next t ∧ t.nv.retiredLanes = s.nv.retiredLanes ++ [l.port * 16 + laneKey l] ∧ laneWorks t l.port (laneKey l / 8) (laneKey l % 8) = false) ∧
  (∀ (l : LaneId) (n : Nat) (s : State), l.port < 24 → l.lane < 8 → portFitted s.build l.port = true → n ≤ 64 →
    exec (.fecErrorLimit l n) s = .next (bumpBy s (portReg l.port 0x18) n)) ∧
  (∀ (p : Nat) (s : State), p < 24 → portFitted s.build p = true → 2 ≤ portState s p → 8 ≤ (port s p).replays → 0 < laneCount s p 1 →
    ∃ t, exec (.replayLimit p) s = .next t ∧ (port t p).replays = 0 ∧ ∀ l, l < 8 → laneWorks t p 0 l = false) ∧
  (∀ (l : LaneId) (n : Nat) (r : FaultRec) (s : State), l.port < 24 → l.lane < 8 → (port s l.port).retrain.find? (fun y => y.1 == laneKey l) = some (laneKey l, n, r) →
    ∃ t, exec (.laneRetrainDone l true) s = .next t ∧ (port t l.port).retrain = (port s l.port).retrain.filter (fun y => y.1 != laneKey l) ∧ t.faults.unsaved = s.faults.unsaved ++ [r] ∧ regNat t (GLB_FT_TRANS 2) = min (regNat s (GLB_FT_TRANS 2) + 1) allBits ∧ t.nv.retiredLanes = s.nv.retiredLanes)

/-- TIME_SYNC asks the source for the time. A neighbour's request is answered with the time. An answer that is more than 1 µs ahead steps FT,
one more than 1 µs behind holds it, and either clears TIME_LOCK; one within 50 ns slews, and the third of those in a row sets TIME_LOCK. A
module that is its own source takes the host's FAB_TIME_SET. -/
def Obligations.FabricTimeKeeps : Prop :=
  (∀ (p : Nat) (s : State), timeSource s = some p → portUp s p = true →
    ∃ t, exec .timeSync s = .next t ∧ t = sendCtrl s p 0x04 [s.fabric.ft] ∧ t.fabric.ft = s.fabric.ft ∧ (quietPort s p → t.out = s.out ++ [ctrlFlit s p (ctrlPayload 0x04 [s.fabric.ft])] ∧ t.regs = s.regs)) ∧
  (∀ (x : Rx) (a b : Nat) (s : State), x.port < 24 → linked s x.port = true →
    ∃ t, exec (.tsReq x a b) s = .next t ∧ t = sendCtrl (arrive s x) x.port 0x05 [a, b, s.fabric.ft] ∧ t.fabric.ft = s.fabric.ft ∧
      (quietPort s x.port → t.out = s.out ++ [ctrlFlit (arrive s x) x.port (ctrlPayload 0x05 [a, b, s.fabric.ft])] ∧ (port t x.port).rxSeq = ((port s x.port).rxSeq + 1) % 4096)) ∧
  (∀ (x : Rx) (a b c d : Nat) (s : State), x.port < 24 → timeSource s = some x.port → portUp s x.port = true → 200 < ((b : Int) - a) + ((c : Int) - d) →
    ∃ t, exec (.tsRsp x a b c d) s = .next t ∧ t.fabric.ft = (s.fabric.ft + (((b : Int) - a) + ((c : Int) - d)).toNat / 2) % 2 ^ 64 ∧ t.fabric.ftSlew = 0 ∧ t.fabric.ftHold = 0 ∧ rbit t FAB_STAT 31 = false) ∧
  (∀ (x : Rx) (a b c d : Nat) (s : State), x.port < 24 → timeSource s = some x.port → portUp s x.port = true → ((b : Int) - a) + ((c : Int) - d) < -200 →
    ∃ t, exec (.tsRsp x a b c d) s = .next t ∧ t.fabric.ft = s.fabric.ft ∧ t.fabric.ftHold = ((((a : Int) - b) + ((d : Int) - c)).toNat + 1) / 2 ∧ rbit t FAB_STAT 31 = false) ∧
  (∀ (x : Rx) (a b c d : Nat) (s : State), x.port < 24 → timeSource s = some x.port → portUp s x.port = true → (((b : Int) - a) + ((c : Int) - d)).natAbs ≤ 10 → 2 ≤ s.fabric.lockRun →
    ∃ t, exec (.tsRsp x a b c d) s = .next t ∧ t.fabric.ft = s.fabric.ft ∧ t.fabric.ftSlew = Int.tdiv (((b : Int) - a) + ((c : Int) - d)) 2 ∧ rbit t FAB_STAT 31 = true) ∧
  (∀ (hi lo : Word) (s : State), timeSource s = none → windowOpen s = true → s.power.recovery = false →
    ∃ t, exec (.fabTimeSet hi lo) s = .next t ∧ t.fabric.ft = lo.toNat + 2 ^ 32 * hi.toNat ∧ t.fabric.ftSlew = 0 ∧ t.fabric.ftHold = 0)

/-- A HELLO leaves an external port up, in loopback or held by the first check of R290 that it fails, with the cause and the neighbour's number
shown, and an internal port up. DEPART holds the port with cause 7. A census sets the count of the tree below. WINDOW stores what the parent
admits. An ABORT of this step ends it here. MODE is noted for its child port: a root that has begun no step takes its mode at once, and a
member passes it to its parent. -/
def Obligations.TreeMessages : Prop :=
  (∀ (x : Rx) (m : HelloMsg) (u s : State), x.port < 16 → linked s x.port = true → portRole s x.port ≠ 0 → u = setFld (setPort (arrive s x) x.port { port (arrive s x) x.port with helloGot := some m, departed := false }) (portReg x.port 0x14) 12 0 m.moduleId →
    ∃ t, exec (.hello x m) s = .next t ∧ fld t (portReg x.port 0x4) 31 24 = helloCause u x.port m ∧ fld t (portReg x.port 0x14) 12 0 = m.moduleId % 8192 ∧ (port t x.port).helloGot = some m ∧
      portState t x.port = (if helloCause u x.port m = 0 then (if portRole s x.port = 3 then 5 else 3) else 4)) ∧
  (∀ (x : Rx) (m : HelloMsg) (s : State), 16 ≤ x.port → x.port < 24 → linked s x.port = true →
    ∃ t, exec (.hello x m) s = .next t ∧ portState t x.port = 3 ∧ (port t x.port).helloGot = some m) ∧
  (∀ (x : Rx) (q : Nat) (s : State), x.port < 16 → q < 8192 → linked s x.port = true → (portRole s x.port = 1 ∨ portRole s x.port = 2) →
    ∃ t, exec (.depart x q) s = .next t ∧ portState t x.port = 4 ∧ fld t (portReg x.port 0x4) 31 24 = 7 ∧ (port t x.port).departed = true ∧ t.nv = s.nv) ∧
  (∀ (x : Rx) (k n : Nat) (r : TreeRec) (s : State), x.port < 24 → k < 16 → treeOn s x.port k false = some r →
    ∃ t, exec (.census x k n) s = .next t ∧ ((port t x.port).census.find? (fun c => c.1 == k)).map (·.2) = some n ∧
      regNat t (treeReg k 0x34) = (1 + sumNat ((r.children.filter (portUp s)).map (fun q => (((port t q).census.find? (fun c => c.1 == k)).map (·.2)).getD 0))) % 2 ^ 32) ∧
  (∀ (x : Rx) (k mode step base : Nat) (r : TreeRec) (s : State), x.port < 24 → k < 16 → treeOn s x.port k true = some r →
    ∃ t, exec (.window x k mode step base) s = .next t ∧ (tree t k).parentBase = base ∧ (tree t k).parentStep = step ∧ (tree t k).parentMode = mode ∧ (tree t k).parentKnown = true ∧ (step = stepOf s k → raMode t k = decide (mode = 1)) ∧ ((tree s k).raWaiting = [] → treeState t k = treeState s k)) ∧
  (∀ (x : Rx) (k origin seg : Nat) (r : TreeRec) (s : State), x.port < 24 → k < 16 → portUp s x.port = true → treeRec s k = some r → (treePorts r).contains x.port = true → treeState s k ≠ 4 →
    ∃ t, exec (.abortFlit x k origin (stepOf s k) seg) s = .next t ∧ treeState t k = 4 ∧ fld t (treeReg k 0x38) 12 0 = origin % 8192 ∧ regNat t (treeReg k 0x3C) = seg % 2 ^ 32 ∧ (tree t k).abortedStep = stepOf s k ∧ (tree t k).segs = [] ∧ (tree t k).sums = []) ∧
  (∀ (x : Rx) (k flag step : Nat) (r : TreeRec) (s : State), x.port < 24 → k < 16 → treeOn s x.port k false = some r →
    ∃ t, exec (.mode x k flag step) s = .next t ∧ (tree t k).raPorts = (tree s k).raPorts.filter (fun q => q != x.port) ++ (if flag = 1 then [x.port] else []) ∧
      (r.root = true → treeState s k = 1 → raMode t k = (rbit s (treeReg k 0x4) 8 || rbit s (treeReg k 0) 26 || !(tree t k).raPorts.isEmpty)) ∧
      (r.root = false → portUp s r.parent = true → t = sendCtrl (markAdder (arrive s x) r x.port (decide (flag = 1))) r.parent 0x0A [k, one (rbit s (treeReg k 0) 26 || !(tree t k).raPorts.isEmpty), stepOf s k]))

/-- A gradient packet of this step fills its open position with its values. Under remote accumulate a packet of a position that the root has not
heard is noted there with its sender, and a member keeps one until its parent's window admits it. A segment whose positions are all resolved
is summed, after a transient error of the adder as well, and finished, and at the root its sum waits for the update unit. A parameter packet
that is not the step's last is noted; the last one ends the step: the next number, CUR the other half, READY or HELD. A deadline with an
open position and no backup, under the abort policy, aborts the step. -/
def Obligations.TreePacketsAndSums : Prop :=
  (∀ (x : Rx) (p i : Nat) (k : Packet) (r : TreeRec) (s : State), p = x.port → p < 24 → portUp s p = true → k.crcOk = true → k.fabricId = (settings s).fabricId → treeOn s p k.tree false = some r → treeState s k.tree ≠ 0 → treeState s k.tree ≠ 4 → k.step = stepOf s k.tree → inTree r k.seg = true → raMode s k.tree = false → (tree s k.tree).finished.contains k.seg = false → inWin (tree s k.tree).base k.seg = true → isBackup s r p = false → i = positionOf s r p → i < (segOf r (tree s k.tree) k.seg).positions.length → goneBefore (tree s k.tree) i k.seg = false → ((segOf r (tree s k.tree) k.seg).positions.getD i {}).dropped = false → ((segOf r (tree s k.tree) k.seg).positions.getD i {}).taken = none →
    ∃ t, exec (.grad x k) s = .next t ∧ ((segOf r (tree t k.tree) k.seg).positions.getD i {}).taken = some (segCodes k.payload, k.nflags, bitOf k.flags 0) ∧ treeState t k.tree = (if treeState s k.tree = 1 then 2 else treeState s k.tree)) ∧
  (∀ (x : Rx) (k : Packet) (r : TreeRec) (s : State), x.port < 24 → portUp s x.port = true → k.crcOk = true → k.fabricId = (settings s).fabricId → treeOn s x.port k.tree false = some r → treeState s k.tree ≠ 0 → treeState s k.tree ≠ 4 → k.step = stepOf s k.tree → inTree r k.seg = true → raMode s k.tree = true → r.root = true → (tree s k.tree).finished.contains k.seg = false → inWin (tree s k.tree).base k.seg = true → (segOf r (tree s k.tree) k.seg).raHeard.any (fun h => h.1 == k.position) = false →
    ∃ t, exec (.racc x k) s = .next t ∧ (segOf r (tree t k.tree) k.seg).raHeard = (segOf r (tree s k.tree) k.seg).raHeard ++ [(k.position, k.srcModule)] ∧ treeState t k.tree = (if treeState s k.tree = 1 then 2 else treeState s k.tree)) ∧
  (∀ (x : Rx) (k : Packet) (r : TreeRec) (s : State), x.port < 24 → portUp s x.port = true → k.crcOk = true → k.fabricId = (settings s).fabricId → treeOn s x.port k.tree false = some r → treeState s k.tree ≠ 0 → treeState s k.tree ≠ 4 → k.step = stepOf s k.tree → inTree r k.seg = true → raMode s k.tree = true → r.root = false →
    ∃ t, exec (.racc x k) s = .next t ∧ (tree t k.tree).raWaiting = ((tree s k.tree).raWaiting ++ [k]).filter (fun y => !maySend s r y.seg) ∧ (tree t k.tree).segs = (tree s k.tree).segs) ∧
  (∀ (k g : Nat) (bad : Bool) (r : TreeRec) (s : State), k < 16 → treeRec s k = some r → (treeState s k = 1 ∨ treeState s k = 2) → inTree r g = true → inWin (tree s k).base g = true → (tree s k).finished.contains g = false → raMode s k = false → s.nv.retiredAdders.contains (adderPort r) = false → (r.root = true ∨ maySend s r g = true) → (positionsOf (takeBackups s r g) r).all (resolved (takeBackups s r g) r g) = true → (bad && withinWindow s 4 (adderPort r)) = false →
    ∃ t, exec (.segmentSum k g bad) s = .next t ∧ (tree t k).finished = (tree s k).finished ++ [g] ∧ regNat t (treeReg k 0x24) = ((tree s k).finished.length + 1) % 2 ^ 32 ∧ (if r.root = true then (tree t k).sums.map (·.1) = (tree s k).sums.map (·.1) ++ [g] else (tree t k).sums = (tree s k).sums)) ∧
  (∀ (x : Rx) (p : Nat) (k : Packet) (r : TreeRec) (s : State), p = x.port → p < 24 → portUp s p = true → k.crcOk = true → k.fabricId = (settings s).fabricId → treeOn s p k.tree true = some r → treeState s k.tree ≠ 0 → treeState s k.tree ≠ 4 → k.step = stepOf s k.tree → inTree r k.seg = true → (tree s k.tree).params.contains k.seg = false → (tree s k.tree).params.length + 1 < r.segCount →
    ∃ t, exec (.param x k) s = .next t ∧ (tree t k.tree).params = (tree s k.tree).params ++ [k.seg] ∧ treeState t k.tree = treeState s k.tree ∧ stepOf t k.tree = stepOf s k.tree) ∧
  (∀ (x : Rx) (p : Nat) (k : Packet) (r : TreeRec) (s : State), p = x.port → p < 24 → portUp s p = true → k.crcOk = true → k.fabricId = (settings s).fabricId → treeOn s p k.tree true = some r → treeState s k.tree ≠ 0 → treeState s k.tree ≠ 4 → k.step = stepOf s k.tree → inTree r k.seg = true → (tree s k.tree).params.contains k.seg = false → (tree s k.tree).params.length + 1 = r.segCount →
    ∃ t, exec (.param x k) s = .next t ∧ stepOf t k.tree = (stepOf s k.tree + 1) % 2 ^ 32 ∧ (tree t k.tree).params = [] ∧ (tree t k.tree).posted = [] ∧ (tree t k.tree).finished = [] ∧
      treeState t k.tree = (if (tree s k.tree).holdAsked = true ∨ treeState s k.tree = 3 then 3 else 1) ∧ fld t (updReg k.tree 0x4) 0 0 = 1 - fld s (updReg k.tree 0x4) 0 0) ∧
  (∀ (k g : Nat) (r : TreeRec) (s : State), k < 16 → treeRec s k = some r → segDue s r g = true → raMode s k = false → rbit s (treeReg k 0x10) 0 = false → ((positionsOf (takeBackups s r g) r).filter (fun i => !resolved (takeBackups s r g) r g i)).any (fun i => ((segOf r (tree (takeBackups s r g) k) g).positions.getD i {}).backup.isNone) = true →
    ∃ t, exec (.reductionDeadlineExpiry k g) s = .next t ∧ treeState t k = 4 ∧ regNat t (treeReg k 0x28) = min (regNat s (treeReg k 0x28) + 1) allBits ∧ (tree t k).segs = [])

/-- POST posts its segments, HOST_ABORT ends a step in ABORTED, RESUME leaves ABORTED for READY once a later step is written, HOLD holds a tree
that has begun no step and otherwise waits for the next boundary, and RELEASE lets it go on. GO starts a transfer of the bytes that it can
read on an up peer port. A refusal ends the transfer with result 1, and the acknowledgement that covers its last byte with result 0. A
peer's write into the peer window is stored and acknowledged. -/
def Obligations.TreeAndPeerCommands : Prop :=
  (∀ (k n : Nat) (r : TreeRec) (s : State), k < 16 → n < 2 ^ 32 → windowOpen s = true → s.power.recovery = false → treeRec s k = some r → r.segFirst ≤ regNat s (treeReg k 0x1C) → regNat s (treeReg k 0x1C) + n ≤ r.segFirst + r.segCount →
    ∃ t, exec (.post k n) s = .next t ∧ (∀ i, i < n → (tree t k).posted.contains (regNat s (treeReg k 0x1C) + i) = true) ∧ (∀ g ∈ (tree s k).posted, (tree t k).posted.contains g = true) ∧ regNat t GLB_ACC_ERR = regNat s GLB_ACC_ERR ∧
      treeState t k = (if treeState s k = 1 ∧ (tree t k).posted ≠ [] then 2 else treeState s k)) ∧
  (∀ (k : Nat) (r : TreeRec) (s : State), k < 16 → windowOpen s = true → s.power.recovery = false → treeRec s k = some r → treeState s k ≠ 4 →
    ∃ t, exec (.hostAbort k) s = .next t ∧ treeState t k = 4 ∧ fld t (treeReg k 0x38) 12 0 = (settings s).moduleId % 8192 ∧ regNat t (treeReg k 0x3C) = 0xFFFFFFFF ∧ (tree t k).abortedStep = stepOf s k ∧ (tree t k).segs = []) ∧
  (∀ (k : Nat) (r : TreeRec) (s : State), k < 16 → windowOpen s = true → s.power.recovery = false → treeRec s k = some r → treeState s k = 4 → (tree s k).abortedStep < stepOf s k →
    ∃ t, exec (.resume k) s = .next t ∧ treeState t k = (if (tree s k).holdAsked = true then 3 else 1) ∧ stepOf t k = stepOf s k ∧ (tree t k).posted = [] ∧ (tree t k).segs = []) ∧
  (∀ (k : Nat) (r : TreeRec) (s : State), k < 16 → windowOpen s = true → s.power.recovery = false → treeRec s k = some r → treeState s k = 1 → (tree s k).sent = false →
    ∃ t, exec (.hold k) s = .next t ∧ treeState t k = 3 ∧ stepOf t k = stepOf s k ∧ (tree t k).posted = (tree s k).posted) ∧
  (∀ (k : Nat) (r : TreeRec) (s : State), k < 16 → windowOpen s = true → s.power.recovery = false → treeRec s k = some r → treeState s k ≠ 3 → (treeState s k = 1 → (tree s k).sent = true) →
    ∃ t, exec (.hold k) s = .next t ∧ treeState t k = treeState s k ∧ (tree t k).holdAsked = true) ∧
  (∀ (k : Nat) (r : TreeRec) (s : State), k < 16 → windowOpen s = true → s.power.recovery = false → treeRec s k = some r → treeState s k = 3 →
    ∃ t, exec (.release k) s = .next t ∧ treeState t k = (if (tree s k).posted = [] then 1 else 2) ∧ (tree t k).holdAsked = false ∧ stepOf t k = stepOf s k) ∧
  (∀ (p : Nat) (l : List Byte) (u s : State), p < 16 → windowOpen s = true → s.power.recovery = false → rbit s FAB_PEER_STAT 30 = false → portRole s p = 2 → portUp s p = true → regNat s FAB_PEER_LEN ≠ 0 → mappedSlm (settings s) (nat64 s FAB_PEER_SRC) (regNat s FAB_PEER_LEN) = true → readRange (setFld s FAB_PEER_CTRL 3 0 p) (nat64 s FAB_PEER_SRC) (regNat s FAB_PEER_LEN) = (u, some l) →
    ∃ t, exec (.go p) s = .next t ∧ rbit t FAB_PEER_STAT 30 = true ∧ t.fabric.peerSent = regNat s FAB_PEER_LEN ∧ t.fabric.peerAcked = 0 ∧ t.fabric.peerPort = p) ∧
  (∀ (x : Rx) (p result n : Nat) (s : State), p = x.port → p < 24 → portUp s p = true → rbit s FAB_PEER_STAT 30 = true → s.fabric.peerPort = p → (result ≠ 0 ∨ s.fabric.peerSent ≤ s.fabric.peerAcked + n) →
    ∃ t, exec (.peerAck x result n) s = .next t ∧ regNat t FAB_PEER_STAT = 2 ^ 31 + (if result = 0 then 0 else 1)) ∧
  (∀ (x : Rx) (p : Nat) (k : Packet) (s : State), p = x.port → p < 24 → portUp s p = true → portRole s p = 2 → k.crcOk = true → k.fabricId = (settings s).fabricId → k.dst + k.payload.length ≤ regNat s FAB_PEER_WIN_LEN * 4096 → mappedSlm (settings s) (nat64 s FAB_PEER_WIN + k.dst) k.payload.length = true → touchesCopy s (slmAddr (nat64 s FAB_PEER_WIN + k.dst)) k.payload.length = false → (slmWrite (arrivePacket s x k 8) (nat64 s FAB_PEER_WIN + k.dst) k.payload).2 = true →
    exec (.peerWr x k) s = .next (sendCtrl (slmWrite (arrivePacket s x k 8) (nat64 s FAB_PEER_WIN + k.dst) k.payload).1 p 0x0C [0, k.payload.length]))

/-- For every tree, a served write of UPD_TREE_LR_PEND stores the pending value and leaves the committed step size and the tag as they were. A
write of UPD_TREE_LR_TAG commits the pending value and the tag in one update, and both registers read them back. -/
def Obligations.StepSizeAndTagCommitTogether : Prop :=
  (∀ (k : Nat) (v : Word) (s : State), k < 16 → windowOpen s = true → s.power.recovery = false →
    ∃ t, exec (.registerWrite (updReg k 0x8) 4 v) s = .next t ∧ reg t (updReg k 0x8) = v ∧ reg t (updReg k 0x10) = reg s (updReg k 0x10) ∧ reg t (updReg k 0xC) = reg s (updReg k 0xC) ∧ t.fabric = s.fabric) ∧
  (∀ (k : Nat) (n : Word) (s : State), k < 16 → windowOpen s = true → s.power.recovery = false →
    ∃ t, exec (.lrTagCommit k n) s = .next t ∧ reg t (updReg k 0x10) = reg s (updReg k 0x8) ∧ reg t (updReg k 0xC) = n ∧ regNow t (updReg k 0x10) = (reg s (updReg k 0x8)).toNat ∧ regNow t (updReg k 0xC) = n.toNat)

/-- A LOAD shows its result with DONE; a program that passes replaces the slot and makes it valid, one that fails leaves the slot. A step's
first segment whose tag is stale waits and counts once. Otherwise the step size is latched with the first segment, the masters and, where
STATE is 1, the state are read, and the program runs over them. A segment of a program without STATE and STS whose masters its window takes,
and that is not the step's last, counts and is taken from the sums, and its parameters are noted. A segment that meets an empty slot aborts
the step with NO_PROG, and CUR does not flip. The expiry of the wait, once its ticks have passed, aborts with STALE_LR. A write of
UPD_LOG_SEL shows the entry. -/
def Obligations.UpdateUnitCommands : Prop :=
  (∀ (n : Nat) (s : State), n < 16 → windowOpen s = true → s.power.recovery = false → (progCheck s n ((List.range 32).map (fun w => regNat s (UPD_PSTAGE w)))).1 = 0 →
    ∃ t, exec (.load n) s = .next t ∧ rbit t UPD_PROG_CTRL 31 = true ∧ fld t UPD_PROG_CTRL 23 16 = 0 ∧ fld t UPD_PROG_CTRL 3 0 = n ∧ rbit t UPD_PROG_VALID n = true ∧ (∀ w, w < 32 → slotWord t n w = regNat s (UPD_PSTAGE w)) ∧ (∀ m, m < 16 → m ≠ n → ∀ w, w < 32 → slotWord t m w = slotWord s m w)) ∧
  (∀ (n : Nat) (s : State), n < 16 → windowOpen s = true → s.power.recovery = false → (progCheck s n ((List.range 32).map (fun w => regNat s (UPD_PSTAGE w)))).1 ≠ 0 →
    ∃ t, exec (.load n) s = .next t ∧ rbit t UPD_PROG_CTRL 31 = true ∧ fld t UPD_PROG_CTRL 23 16 = (progCheck s n ((List.range 32).map (fun w => regNat s (UPD_PSTAGE w)))).1 ∧ regNat t UPD_PROG_VALID = regNat s UPD_PROG_VALID ∧ (∀ m, m < 16 → ∀ w, w < 32 → slotWord t m w = slotWord s m w)) ∧
  (∀ (k g nf fl : Nat) (sum : List Word) (rest : List (Nat × List Word × Nat × Nat)) (r : TreeRec) (s : State), k < 16 → treeRec s k = some r → r.root = true → treeState s k ≠ 0 → treeState s k ≠ 4 → (tree s k).sums = (g, sum, nf, fl) :: rest → rbit s UPD_PROG_VALID r.updProg = true → windowsOk s r (bitsOf (slotWord s r.updProg 0) 9 8) (bitOf (slotWord s r.updProg 0) 16) = true → rbit s (updReg k 0) 27 = false → rbit s (updReg k 0) 26 = false → regNat s (updReg k 0xC) ≠ stepOf s k →
    ∃ t, exec (.updateSegment k g) s = .next t ∧ rbit t (updReg k 0) 26 = true ∧ rbit t UPD_STAT (16 + k) = true ∧ regNat t UPD_STALE = min (regNat s UPD_STALE + 1) allBits ∧ tree t k = { tree s k with lrWaitAt := s.tb } ∧ t.fabric.ports = s.fabric.ports ∧ t.dram = s.dram ∧ regNat t (updReg k 0x14) = regNat s (updReg k 0x14)) ∧
  (∀ (k g nf fl : Nat) (sum : List Word) (rest : List (Nat × List Word × Nat × Nat)) (r : TreeRec) (ms sts : List Byte) (u v w s : State), k < 16 → treeRec s k = some r → r.root = true → treeState s k ≠ 0 → treeState s k ≠ 4 → (tree s k).sums = (g, sum, nf, fl) :: rest → rbit s UPD_PROG_VALID r.updProg = true → windowsOk s r (bitsOf (slotWord s r.updProg 0) 9 8) (bitOf (slotWord s r.updProg 0) 16) = true → (rbit s (updReg k 0) 27 = true ∨ regNat s (updReg k 0xC) = stepOf s k) → w = (if rbit s (updReg k 0) 27 then s else latchLr (if rbit s (updReg k 0) 26 then s else setFld s (updReg k 0) 7 0 0) k) → readRange w (nat64 w (updReg k 0x20) + fld w (updReg k 0x4) 0 0 * (r.segCount * 8192) + (g - r.segFirst) * 8192) 8192 = (u, some ms) → (if bitOf (slotWord s r.updProg 0) 16 then readRange u (nat64 u (updReg k 0x28) + fld w (updReg k 0x4) 0 0 * (r.segCount * 8192) + (g - r.segFirst) * 8192) 8192 else (u, some [])) = (v, some sts) →
    exec (.updateSegment k g) s = .next (runSegment v r g sum nf fl ms sts)) ∧
  (∀ (k g nf fl : Nat) (sum : List Word) (rest : List (Nat × List Word × Nat × Nat)) (r : TreeRec) (s : State), k < 16 → treeRec s k = some r → r.root = true → treeState s k ≠ 0 → treeState s k ≠ 4 → (tree s k).sums = (g, sum, nf, fl) :: rest → rbit s UPD_PROG_VALID r.updProg = true → bitOf (slotWord s r.updProg 0) 16 = false → (List.range 32).all (fun i => bitsOf (slotWord s r.updProg i) 31 28 != 0xE) = true → nat64 s (updReg k 0x20) % 64 = 0 → touchesCopy s (slmAddr (nat64 s (updReg k 0x20) + (1 - fld s (updReg k 0x4) 0 0) * (r.segCount * 8192) + (g - r.segFirst) * 8192)) 8192 = false → acceptsWrite s (nat64 s (updReg k 0x20) + (1 - fld s (updReg k 0x4) 0 0) * (r.segCount * 8192) + (g - r.segFirst) * 8192) 8192 128 = true → windowsOk s r (bitsOf (slotWord s r.updProg 0) 9 8) false = true → rbit s (updReg k 0) 27 = true → (tree s k).params.length + 1 < r.segCount → (readRange s (nat64 s (updReg k 0x20) + fld s (updReg k 0x4) 0 0 * (r.segCount * 8192) + (g - r.segFirst) * 8192) 8192).2.isSome = true →
    ∃ t, exec (.updateSegment k g) s = .next t ∧ (tree t k).sums = rest ∧ (tree t k).params = (tree s k).params ++ [g] ∧ regNat t (updReg k 0x38) = min (regNat s (updReg k 0x38) + 1) allBits ∧ nat64 t UPD_SEGMENTS = (nat64 s UPD_SEGMENTS + 1) % 2 ^ 64 ∧ fld t (updReg k 0x4) 0 0 = fld s (updReg k 0x4) 0 0 ∧ regNat t (updReg k 0x14) = regNat s (updReg k 0x14) ∧ treeState t k = treeState s k) ∧
  (∀ (k g nf fl : Nat) (sum : List Word) (rest : List (Nat × List Word × Nat × Nat)) (r : TreeRec) (s : State), k < 16 → treeRec s k = some r → r.root = true → treeState s k ≠ 0 → treeState s k ≠ 4 → (tree s k).sums = (g, sum, nf, fl) :: rest → rbit s UPD_PROG_VALID r.updProg = false →
    ∃ t, exec (.updateSegment k g) s = .next t ∧ treeState t k = 4 ∧ fld t (updReg k 0) 31 28 = 2 ∧ fld t (updReg k 0x4) 0 0 = fld s (updReg k 0x4) 0 0 ∧ (tree t k).sums = [] ∧ (tree t k).segs = [] ∧ t.dram = s.dram) ∧
  (∀ (k : Nat) (r : TreeRec) (s : State), k < 16 → treeRec s k = some r → treeState s k ≠ 0 → treeState s k ≠ 4 → rbit s (updReg k 0) 26 = true → expired s (tree s k).lrWaitAt (regNat s (updReg k 0x18)) = true →
    ∃ t, exec (.lrWaitExpiry k) s = .next t ∧ treeState t k = 4 ∧ fld t (updReg k 0) 31 28 = 1 ∧ rbit t (updReg k 0) 26 = false ∧ fld t (updReg k 0x4) 0 0 = fld s (updReg k 0x4) 0 0 ∧ regNat t (updReg k 0xC) = regNat s (updReg k 0xC) ∧ t.dram = s.dram) ∧
  (∀ (i : Nat) (s : State), i < 64 → windowOpen s = true → s.power.recovery = false →
    ∃ t, exec (.updLogSel i) s = .next t ∧ regNat t UPD_LOG_SEL = i ∧ (∀ w, w < 4 → regNat t (UPD_LOG_DATA + 4 * w) = fieldAt (Sparse.get [] s.fabric.stepLog i) (4 * w) 4) ∧ t.fabric = s.fabric)

/-- A program that completes puts the unit at its place under the next WSEQ and gathers its map record, with the map as it was; one that fails
retires the block. A verified commit of a map record sets the entry and takes the programmed copy out of the buffer. A cast that is written,
a requested flush and CAST_NOW act as named. A shutdown notification begins the flush and the seal; the commit of the seal completes the
shutdown. A write that waited is admitted once it fits, and its block reads as written. -/
def Obligations.HostWritesReachFlash : Prop :=
  (∀ (p u e : Nat) (d : DirtyUnit) (s : State), p < 4 → u < 2 ^ 32 → alive s p = true → placeFree s p u e = true → exposed s p = false → ((pkg s p).wbuf.filter (fun d => d.programmed.isNone)).find? (fun d => d.lunit == u) = some d →
    ∃ t, exec (.nandProgramDone p u e true) s = .next t ∧ Sparse.get none (pkg t p).nand (placeKey u e) = some { lunit := u, kind := 1, lostMask := d.lostMask, wseq := (pkg s p).wseq + 1, srcSeq := 0, data := d.data } ∧ (pkg t p).page = (pkg s p).page ++ [{ type := 1, lunit := u, new := e, old := mapGet (pkg s p) u }] ∧
      (pkg t p).map = (pkg s p).map ∧ (pkg t p).wbuf.length = (pkg s p).wbuf.length ∧ (pkg t p).wseq = (pkg s p).wseq + 1) ∧
  (∀ (p u e : Nat) (s : State), p < 4 → u < 2 ^ 32 → alive s p = true → placeFree s p u e = true →
    ∃ t, exec (.nandProgramDone p u e false) s = .next t ∧ (blk (pkg t p) (placeBlk (placeKey u e))).state = 5 ∧ (pkg t p).map = (pkg s p).map ∧ (pkg t p).wbuf = (pkg s p).wbuf ∧ (pkg t p).nand = (pkg s p).nand ∧ regNat t (medReg p 0x94) = min (regNat s (medReg p 0x94) + 1) allBits) ∧
  (∀ (p u e o : Nat) (s : State), p < 4 → alive s p = true → (pkg s p).page = [{ type := 1, lunit := u, new := e, old := o }] → (pkg s p).closing = false → s.host.held = [] →
    ∃ t, exec (.journalCommit p true) s = .next t ∧ mapGet (pkg t p) u = e ∧ (pkg t p).wbuf = (pkg s p).wbuf.filter (fun d => !(d.lunit == u && d.programmed == some e)) ∧ (pkg t p).wseq = (pkg s p).wseq + 1 ∧ (pkg t p).journal = (pkg s p).journal ++ [{ wseq := (pkg s p).wseq + 1, recs := [{ type := 1, lunit := u, new := e, old := o }] }] ∧
      nat64 t (ftlReg p 0x20) = ((pkg s p).wseq + 1) % 2 ^ 64 ∧ (pkg t p).nand = (pkg s p).nand) ∧
  (∀ (p : Nat) (s : State), p < 4 →
    exec (.journalCommit p false) s = .next (s)) ∧
  (∀ (p : Nat) (s : State), p < 4 → alive s p = true → (pkg s p).closing = true → (pkg s p).page = [{ type := 6, lunit := 0, clean := true }] → (List.range s.build.sp).all (fun q => q == p || !(pkg s q).closing) = true → s.power.owesFlush = false → s.host.shst = 1 → s.host.held = [] →
    ∃ t, exec (.journalCommit p true) s = .next t ∧ (pkg t p).sealClean = true ∧ (pkg t p).closing = false ∧ t.host.shst = 2 ∧ (pkg t p).map = (pkg s p).map) ∧
  (∀ (p k : Nat) (s : State), p < 4 → alive s p = true → exposed s p = false → nextCast s p = some k →
    ∃ t, exec (.castWrite p) s = .next t ∧ (castAt (pkg t p) k).changed = false ∧ (pkg t p).page = (pkg s p).page ++ [{ type := 5, lunit := k, new := (pkg s p).jseq, old := nowMs s }] ∧ (pkg t p).castTurn = (k + 1) % max 1 (castCount s p) ∧ (pkg t p).map = (pkg s p).map ∧ (pkg s p).wseq + 256 ≤ (pkg t p).wseq ∧ (pkg t p).wseq ≤ (pkg s p).wseq + 257) ∧
  (∀ (p : Nat) (s : State), p < 4 → p < s.build.sp → windowOpen s = true → s.power.recovery = false → alive s p = true → 50 ≤ fld s (ftlReg p 4) 7 0 → fld s (ftlReg p 4) 7 0 ≤ 100 →
    ∃ t, exec (.writeBufferFlush p) s = .next t ∧ (pkg t p).flushing = (pkg s p).wbuf.map (·.lunit) ∧ (pkg t p).wbuf = (pkg s p).wbuf ∧ (pkg t p).page = (pkg s p).page ∧ fld t (ftlReg p 4) 7 0 = fld s (ftlReg p 4) 7 0 ∧ rbit t (ftlReg p 0) 26 = (!(pkg s p).wbuf.isEmpty || (pkg s p).closing)) ∧
  (∀ (p : Nat) (s : State), p < 4 → p < s.build.sp → windowOpen s = true → s.power.recovery = false → alive s p = true → 50 ≤ fld s (ftlReg p 4) 7 0 → fld s (ftlReg p 4) 7 0 ≤ 100 →
    ∃ t, exec (.castNow p) s = .next t ∧ (pkg t p).casts.all (fun c => !c.2.changed) = true ∧ (pkg t p).page.length = (pkg s p).page.length + ((pkg s p).casts.filter (fun c => c.2.changed)).length ∧ (pkg t p).map = (pkg s p).map ∧ (pkg t p).flushing = (pkg s p).flushing) ∧
  (∀ (p : Nat) (s : State), p < 4 → alive s p = true → s.host.shst ≠ 2 →
    ∃ t, exec (.shutdownNotification p) s = .next t ∧ (pkg t p).closing = true ∧ t.host.shst = 1 ∧ (pkg t p).flushing = (pkg s p).wbuf.map (·.lunit) ∧ (pkg t p).wbuf = (pkg s p).wbuf ∧ (pkg t p).map = (pkg s p).map ∧
      ((pkg s p).wbuf = [] → (pkg s p).page = [] → (pkg t p).page.getLast? = some { type := 6, lunit := 0, clean := true })) ∧
  (∀ (p : Nat) (h : Held) (r : Region) (s : State), p < 4 → alive s p = true → s.host.held = [h] → h.kind = kWrite → h.nlb = 1 → h.data.length = 4096 → admits { s with host := { s.host with held := [] } } r h → (blockHome s r h.slba).1 < s.packages.length → (pkg s (blockHome s r h.slba).1).wbuf.any (fun d => d.lunit == (blockHome s r h.slba).2.1) = false →
    ∃ t, exec (.writeAdmission p) s = .next t ∧ t.host.held = [] ∧ blockBytes t r h.slba = h.data ∧ blockLost t r h.slba = false ∧ (if canPostTo s h.tag.sq = true then t.out = s.out ++ [.cqe { tag := h.tag, sct := 0, sc := 0, dnr := 0, dw0 := 0 }] else t.out = s.out))

/-- A batch copies every committed valid unit of its source to free places and gathers one record for each, with the map as it was. An erase of
a released group starts on every released member of a live channel. An erase that ends well returns the block to the free pool with one
erase more and nothing programmed; one that fails retires it. A suspend counts, up to 16 of an erase. A rebuilt group leaves the list. -/
def Obligations.CollectionAndErase : Prop :=
  (∀ (p : Nat) (b : BlockId) (places : List Nat) (s : State), p < 4 → blkOk b = true → alive s p = true → exposed s p = false → (blk (pkg s p) (blkOf b)).state = 2 → batchUnits (pkg s p) (blkOf b) ≠ [] → (pkg s p).page.length + (batchUnits (pkg s p) (blkOf b)).length ≤ 1020 → batchPlaces s p (blkOf b) (batchUnits (pkg s p) (blkOf b)) places = true → gcSourceOk (pkg s p) (blkOf b) = true →
    ∃ t, exec (.gcBatch p b places) s = .next t ∧ (pkg t p).page = (pkg s p).page ++ ((batchUnits (pkg s p) (blkOf b)).zip places).map (fun m => { type := 2, lunit := m.1.1, new := m.2, old := m.1.2 }) ∧ (pkg t p).map = (pkg s p).map ∧ (pkg t p).wbuf = (pkg s p).wbuf ∧ (blk (pkg t p) (blkOf b)).source = true ∧
      nat64 t (ftlReg p 0x58) = (nat64 s (ftlReg p 0x58) + (batchUnits (pkg s p) (blkOf b)).length) % 2 ^ 64 ∧ (pkg t p).wseq = (pkg s p).wseq + (batchUnits (pkg s p) (blkOf b)).length) ∧
  (∀ (p : Nat) (b : BlockId) (places : List Nat) (s : State), p < 4 → blkOk b = true → batchUnits (pkg s p) (blkOf b) ≠ [] → gcSourceOk (pkg s p) (blkOf b) = false →
    ∃ t, exec (.gcBatch p b places) s = .next t ∧ t = s) ∧
  (∀ (p g : Nat) (x : Group) (s : State), p < 4 → alive s p = true → (pkg s p).groups.find? (fun y => y.id == g) = some x → groupReleased (pkg s p) x = true →
    ∃ t, exec (.blockErase p g) s = .next t ∧ (∀ k ∈ x.members, s.nv.retiredChans.contains (p * 32 + k / 62500) = false → (blk (pkg s p) k).state = 3 → (blk (pkg t p) k).state = 4 ∧ (blk (pkg t p) k).suspends = 0 ∧ (blk (pkg t p) k).erases = (blk (pkg s p) k).erases) ∧ (pkg t p).map = (pkg s p).map ∧ (pkg t p).nand = (pkg s p).nand ∧ (pkg t p).groups = (pkg s p).groups) ∧
  (∀ (p : Nat) (b : BlockId) (s : State), p < 4 → blkOk b = true → alive s p = true → (blk (pkg s p) (blkOf b)).state = 4 →
    ∃ t, exec (.eraseDone p b true) s = .next t ∧ (blk (pkg t p) (blkOf b)).state = 0 ∧ (blk (pkg t p) (blkOf b)).reads = 0 ∧ (blk (pkg t p) (blkOf b)).erases = (blk (pkg s p) (blkOf b)).erases + 1 ∧ (pkg t p).nand = (pkg s p).nand.filter (fun n => placeBlk n.1 != blkOf b) ∧ (pkg t p).page = (pkg s p).page ++ [{ type := 4, lunit := blkOf b }] ∧ (pkg t p).map = (pkg s p).map) ∧
  (∀ (p : Nat) (b : BlockId) (s : State), p < 4 → blkOk b = true → alive s p = true → (blk (pkg s p) (blkOf b)).state = 4 →
    ∃ t, exec (.eraseDone p b false) s = .next t ∧ (blk (pkg t p) (blkOf b)).state = 5 ∧ (blk (pkg t p) (blkOf b)).erases = (blk (pkg s p) (blkOf b)).erases ∧ (pkg t p).map = (pkg s p).map ∧ (pkg t p).page = (pkg s p).page ∧ regNat t (medReg p 0x94) = min (regNat s (medReg p 0x94) + 1) allBits) ∧
  (∀ (p : Nat) (b : BlockId) (s : State), p < 4 → blkOk b = true → alive s p = true → (blk (pkg s p) (blkOf b)).state = 4 → (blk (pkg s p) (blkOf b)).suspends < 16 →
    ∃ t, exec (.eraseSuspend p b) s = .next t ∧ (blk (pkg t p) (blkOf b)).suspends = (blk (pkg s p) (blkOf b)).suspends + 1 ∧ (blk (pkg t p) (blkOf b)).state = 4 ∧ regNat t (medReg p 0x90) = min (regNat s (medReg p 0x90) + 1) allBits ∧ (pkg t p).map = (pkg s p).map) ∧
  (∀ (p : Nat) (b : BlockId) (s : State), p < 4 → b.chan < 32 → b.die < 10 → 16 ≤ (blk (pkg s p) (blkOf b)).suspends →
    exec (.eraseSuspend p b) s = .next (s)) ∧
  (∀ (p g : Nat) (rest : List Nat) (s : State), p < 4 → alive s p = true → (pkg s p).rebuildLeft = g :: rest → (∀ y ∈ (pkg s p).groups, y.id = g → groupReleased (pkg s p) y = true) →
    ∃ t, exec (.rebuildGroupDone p) s = .next t ∧ (pkg t p).rebuildLeft = rest ∧ (pkg t p).rebuildChan = (if rest = [] then none else (pkg s p).rebuildChan) ∧ rbit t (medReg p 0) 31 = (pkg t p).rebuildChan.isSome ∧ (pkg t p).map = (pkg s p).map ∧ t.nv = s.nv)

/-- Each step of R356 follows the one before it and keeps the map, but for the units that the loss path makes LOST. Step 1 empties the write
buffer and shows RECOVERING. Step 2 restores each block's read count as the saved count and a quarter of its limit. Step 4 makes the units
of the newest dirty list LOST and discards orphans. READY is set with the time and the number of lost units, and losses enter the ledger
once. A map line is taken from the newest footers; that it keeps what it held where its cast is readable rests on log entry 24. -/
def Obligations.PackageRecovery : Prop :=
  (∀ (p : Nat) (s : State), p < 4 → p < s.build.sp → p < s.packages.length → (pkg s p).recovery = 0 → 4 ≤ s.power.core → (pkg s p).closing = false → ((pkg s p).flush = .none ∨ (pkg s p).flush = .done) →
    ∃ t, exec (.journalHeadsLocated p) s = .next t ∧ (pkg t p).recovery = 1 ∧ (pkg t p).wbuf = [] ∧ (pkg t p).flush = .none ∧ (pkg t p).map = (pkg s p).map ∧ (pkg t p).dirtyList = (pkg s p).dirtyList ∧ rbit t (ftlReg p 0) 30 = true ∧ rbit t (ftlReg p 0) 31 = false) ∧
  (∀ (p : Nat) (s : State), p < 4 → p < s.build.sp → (pkg s p).recovery = 1 → Sparse.wf ({} : Blk) (pkg s p).blocks = true →
    ∃ t, exec (.castsLoaded p) s = .next t ∧ (pkg t p).recovery = 2 ∧ (pkg t p).map = (pkg s p).map ∧ (pkg t p).casts.all (fun c => !c.2.changed) = true ∧
      (∀ b ∈ (pkg s p).blocks, b.2.state ≠ 0 → (blk (pkg t p) b.1).reads = b.2.savedReads + s.nv.layoutRr.getD (match groupAt (pkg s p) b.1 with | some y => y.egrp | none => 0) 0 / 4 ∧ (blk (pkg t p) b.1).state = b.2.state)) ∧
  (∀ (p : Nat) (s : State), p < 4 → p < s.build.sp → (pkg s p).recovery = 2 →
    ∃ t, exec (.journalReplayed p) s = .next t ∧ (pkg t p).recovery = 3 ∧ (pkg t p).map = (pkg s p).map ∧ (pkg t p).dirtyList = (pkg s p).dirtyList ∧ nat64 t (ftlReg p 0x20) = (pkg s p).jseq % 2 ^ 64 ∧ t.corpus.records = s.corpus.records ∧ t.corpus.nextEpoch = s.corpus.nextEpoch) ∧
  (∀ (p : Nat) (s : State), p < 4 → p < s.build.sp → (pkg s p).recovery = 3 → (pkg s p).sealClean = false →
    ∃ t, exec (.dirtyListsReconciled p) s = .next t ∧ (pkg t p).recovery = 4 ∧ (pkg t p).dirtyList = [] ∧ (pkg t p).recoveredLost = (pkg s p).recoveredLost ++ (pkg s p).dirtyList.eraseDups ∧ regNat t (ftlReg p 0x38) = min (regNat s (ftlReg p 0x38) + (pkg s p).orphans.length) allBits ∧ (pkg t p).orphans = [] ∧
      (∀ u ∈ (pkg s p).dirtyList, mapGet (pkg t p) u = entryLost) ∧ (∀ o ∈ (pkg s p).orphans, Sparse.get none (pkg t p).nand (placeKey o.1 o.2) = none) ∧ ∀ u, u ∉ (pkg s p).dirtyList → mapGet (pkg t p) u = mapGet (pkg s p) u) ∧
  (∀ (p : Nat) (s : State), p < 4 → p < s.build.sp → ((pkg s p).recovery = 4 ∨ ((pkg s p).recovery = 3 ∧ (pkg s p).sealClean = true)) →
    ∃ t, exec (.validCountsRebuilt p) s = .next t ∧ (pkg t p).recovery = 5 ∧ (pkg t p).map = (pkg s p).map ∧ (pkg t p).nand = (pkg s p).nand ∧ regNat t (ftlReg p 0x3C) = min (regNat s (ftlReg p 0x3C) + ((releasable (pkg s p)).filter (fun k => (blk (pkg s p) k).source)).length) allBits) ∧
  (∀ (p ms : Nat) (s : State), p < 4 → p < s.build.sp → ms < 2 ^ 32 → (pkg s p).recovery = 5 → (pkg s p).recoveredLost = [] → s.host.held = [] →
    ∃ t, exec (.packageReady p ms) s = .next t ∧ (pkg t p).recovery = 6 ∧ rbit t (ftlReg p 0) 31 = true ∧ rbit t (ftlReg p 0) 30 = false ∧ rbit t (ftlReg p 0) 29 = (pkg s p).sealClean ∧ regNat t (ftlReg p 0x4C) = ms ∧ regNat t (ftlReg p 0x50) = 0 ∧ t.nv = s.nv ∧ (pkg t p).map = (pkg s p).map) ∧
  (∀ (p ms : Nat) (s : State), p < 4 → p < s.build.sp → ms < 2 ^ 32 → (pkg s p).recovery = 5 → (pkg s p).recoveredLost.length < 2 ^ 32 → lostRecs s p (pkg s p) ≠ [] → s.nv.ledger.entries.length + 4 * (pkg s p).recoveredLost.length ≤ 65536 → s.host.held = [] →
    ∃ t, exec (.packageReady p ms) s = .next t ∧ (pkg t p).recovery = 6 ∧ (pkg t p).recoveredLost = [] ∧ rbit t (ftlReg p 0) 31 = true ∧ rbit t (ftlReg p 0) 25 = true ∧ regNat t (ftlReg p 0x50) = (pkg s p).recoveredLost.length ∧ t.nv.ledger.events = s.nv.ledger.events + one (firstLoss s) ∧
      t.nv.ledger.blocks = s.nv.ledger.blocks + 4 * ((pkg s p).recoveredLost.filter (fun u => (regionOf p u s.nv.layout 0).isSome)).length ∧ t.nv.intr = (if firstLoss s then satInc s.nv.intr else s.nv.intr)) ∧
  (∀ (p l : Nat) (s : State), p < 4 → alive s p = true →
    ∃ t, exec (.mapLineRebuild p l true) s = .next t ∧ regNat t (ftlReg p 0x44) = min (regNat s (ftlReg p 0x44) + 1) allBits ∧ t.packages = s.packages ∧ t.nv = s.nv) ∧
  (∀ (p l : Nat) (s : State), p < 4 → alive s p = true →
    ∃ t, exec (.mapLineRebuild p l false) s = .next t ∧ regNat t (ftlReg p 0x44) = min (regNat s (ftlReg p 0x44) + 1) allBits ∧ (pkg t p).nand = (pkg s p).nand ∧
      (∀ i, i < 16 → (pkg s p).heldFlushed.any (fun d => d.lunit == 16 * l + i) = false → (regionOf p (16 * l + i) s.nv.layout 0).isSome = true → mapGet (pkg t p) (16 * l + i) = ((newestCopy (pkg s p) (16 * l + i)).map (·.2)).getD entryLost) ∧ t.nv.intr = (if (scanLost s p l).isEmpty then s.nv.intr else satInc s.nv.intr))

/-- A hard read counts one read; retries count and set the block's entry; a soft read queues the block for refresh; an unreadable page loses its
unit's blocks. The patrol that asks for it queues the block for retention refresh, once. A write of MED_BLK_SEL shows the block's state,
cell mode, erases and reads. The raw commands refuse a place outside the geometry, and READ_NOECC of a page that may be read ends with DONE.
A channel's first transient fault in its window counts, is noted and retires nothing. -/
def Obligations.MediaReadsAndChannels : Prop :=
  (∀ (p u key pk : Nat) (s : State), p < 4 → u < 2 ^ 32 → unitPlace s p u = some (key, pk) → alive s p = true → chanRetired s p (key / 62500) = false →
    ∃ t, exec (.nandReadDone p u .hard) s = .next t ∧ (blk (pkg t p) key).reads = (blk (pkg s p) key).reads + 1 ∧ (pkg t p).map = (pkg s p).map ∧ (pkg t p).nand = (pkg s p).nand ∧ t.nv = s.nv) ∧
  (∀ (p u key pk n e : Nat) (s : State), p < 4 → u < 2 ^ 32 → unitPlace s p u = some (key, pk) → alive s p = true → chanRetired s p (key / 62500) = false → e < 4 →
    ∃ t, exec (.nandReadDone p u (.retry n e)) s = .next t ∧ (blk (pkg t p) key).retry = e ∧ (blk (pkg t p) key).reads = (blk (pkg s p) key).reads + 1 + n ∧ regNat t (medReg p 0x80) = min (regNat s (medReg p 0x80) + n) allBits ∧ (pkg t p).map = (pkg s p).map ∧ (blk (pkg t p) key).retention = (blk (pkg s p) key).retention) ∧
  (∀ (p u key pk : Nat) (s : State), p < 4 → u < 2 ^ 32 → unitPlace s p u = some (key, pk) → alive s p = true → chanRetired s p (key / 62500) = false →
    ∃ t, exec (.nandReadDone p u .soft) s = .next t ∧ (blk (pkg t p) key).refresh = true ∧ regNat t (medReg p 0x84) = min (regNat s (medReg p 0x84) + 1) allBits ∧ (pkg t p).map = (pkg s p).map ∧ (pkg t p).nand = (pkg s p).nand) ∧
  (∀ (p u key pk : Nat) (n : NandUnit) (s : State), p < 4 → u < 2 ^ 32 → unitPlace s p u = some (key, pk) → alive s p = true → Sparse.get none (pkg s p).nand pk = some n → n.lostMask = 0 → (regionOf p n.lunit s.nv.layout 0).isSome = true → s.nv.lossLog.entries.length ≤ 65532 →
    ∃ t, exec (.nandReadDone p u .unreadable) s = .next t ∧ Sparse.get none (pkg t p).nand pk = some { n with lostMask := 15 } ∧ regNat t (medReg p 0x8C) = min (regNat s (medReg p 0x8C) + 1) allBits ∧ t.nv.lossLog.blocks = s.nv.lossLog.blocks + 4 ∧ t.nv.lossLog.events = s.nv.lossLog.events + 1 ∧ t.nv.intr = satInc s.nv.intr ∧ (pkg t p).map = (pkg s p).map) ∧
  (∀ (p : Nat) (b : BlockId) (s : State), p < 4 → blkOk b = true → alive s p = true → ((blk (pkg s p) (blkOf b)).state = 1 ∨ (blk (pkg s p) (blkOf b)).state = 2) → chanRetired s p b.chan = false → (blk (pkg s p) (blkOf b)).retention = false →
    ∃ t, exec (.retentionPatrol p b true) s = .next t ∧ (blk (pkg t p) (blkOf b)).retention = true ∧ regNat t (medReg p 0xA0) = min (regNat s (medReg p 0xA0) + 1) allBits ∧ (pkg t p).map = (pkg s p).map ∧ (pkg t p).nand = (pkg s p).nand ∧ (blk (pkg s p) (blkOf b)).reads ≤ (blk (pkg t p) (blkOf b)).reads) ∧
  (∀ (p c : Nat) (v : Word) (s : State), p < s.build.sp → p < 4 → windowOpen s = true → s.power.recovery = false → blkOk { chan := bitsOf v.toNat 28 24, die := bitsOf v.toNat 19 16, block := bitsOf v.toNat 12 0 } = true → c = blkOf { chan := bitsOf v.toNat 28 24, die := bitsOf v.toNat 19 16, block := bitsOf v.toNat 12 0 } → isOptBlk s p c = false → (blk (pkg s p) c).state < 8 →
    ∃ t, exec (.medBlkSel p v) s = .next t ∧ fld t (medReg p 0x54) 31 28 = (blk (pkg s p) c).state ∧ rbit t (medReg p 0x54) 27 = (blk (pkg s p) c).slc ∧ fld t (medReg p 0x54) 15 0 = (blk (pkg s p) c).erases % 65536 ∧ regNat t (medReg p 0x58) = (blk (pkg s p) c).reads % 2 ^ 32 ∧ fld t (medReg p 0x50) 28 24 = bitsOf v.toNat 28 24 ∧ t.packages = s.packages) ∧
  (∀ (p : Nat) (st : ReadStage) (s : State), p < s.build.sp → p < 4 → windowOpen s = true → s.power.recovery = false → alive s p = true → 2500 ≤ fld s (medReg p 0x68) 11 0 →
    ∃ t, exec (.rawRead p 0xA5 st) s = .next t ∧ regNat t (medReg p 0x74) = 2 ^ 31 + 5 ∧ t.packages = s.packages ∧ t.dram = s.dram) ∧
  (∀ (p c k : Nat) (s : State), p < s.build.sp → p < 4 → windowOpen s = true → s.power.recovery = false → alive s p = true → blkOk { chan := bitsOf (regNat s (medReg p 0x64)) 28 24, die := bitsOf (regNat s (medReg p 0x64)) 19 16, block := bitsOf (regNat s (medReg p 0x64)) 12 0 } = true → c = blkOf { chan := bitsOf (regNat s (medReg p 0x64)) 28 24, die := bitsOf (regNat s (medReg p 0x64)) 19 16, block := bitsOf (regNat s (medReg p 0x64)) 12 0 } → chanRetired s p (c / 62500) = false → fld s (medReg p 0x68) 11 0 < 625 → (blk (pkg s p) c).state ≤ 3 → k = pageKey c (fld s (medReg p 0x68) 11 0) → (Sparse.get none (pkg s p).nand k).isSome = true → mappedSlm (settings s) (nat64 s (medReg p 0x6C)) 16384 = true →
    ∃ t, exec (.rawRead p 0xA5 .hard) s = .next t ∧ regNat t (medReg p 0x74) = 2 ^ 31 ∧ (blk (pkg t p) c).reads = (blk (pkg s p) c).reads + 1 ∧ (pkg t p).nand = (pkg s p).nand ∧ (pkg t p).map = (pkg s p).map) ∧
  (∀ (p c : Nat) (l : List Byte) (s : State), p < s.build.sp → p < 4 → l.length = 18592 → windowOpen s = true → s.power.recovery = false → alive s p = true → blkOk { chan := bitsOf (regNat s (medReg p 0x64)) 28 24, die := bitsOf (regNat s (medReg p 0x64)) 19 16, block := bitsOf (regNat s (medReg p 0x64)) 12 0 } = true → c = blkOf { chan := bitsOf (regNat s (medReg p 0x64)) 28 24, die := bitsOf (regNat s (medReg p 0x64)) 19 16, block := bitsOf (regNat s (medReg p 0x64)) 12 0 } → chanRetired s p (c / 62500) = false → fld s (medReg p 0x68) 11 0 < 625 → (blk (pkg s p) c).state ≤ 3 → mappedSlm (settings s) (nat64 s (medReg p 0x6C)) 18592 = true →
    ∃ t, exec (.readNoecc p 0xA5 l) s = .next t ∧ regNat t (medReg p 0x74) = 2 ^ 31 ∧ (blk (pkg t p) c).reads = (blk (pkg s p) c).reads + 1 ∧ (pkg t p).nand = (pkg s p).nand ∧ (pkg t p).map = (pkg s p).map) ∧
  (∀ (p c : Nat) (s : State), p < 4 → c < 32 → p < s.build.sp → chanRetired s p c = false → withinWindow s 3 (p * 32 + c) = false →
    ∃ t, exec (.dieBusyTimeout p c false) s = .next t ∧ regNat t (medReg p 0x98) = min (regNat s (medReg p 0x98) + 1) allBits ∧ ageOf t 3 (p * 32 + c) = some { cls := 3, unit := p * 32 + c, at_ := s.faults.powered } ∧ t.nv.retiredChans = s.nv.retiredChans ∧ t.packages = s.packages) ∧
  (∀ (p c k : Nat) (s : State), p < 4 → c < 32 → p < s.build.sp → (k = 1 ∨ k = 3) → chanRetired s p c = false → withinWindow s 3 (p * 32 + c) = false →
    ∃ t, exec (.channelTransientFault p c k false) s = .next t ∧ regNat t (medReg p 0x98) = min (regNat s (medReg p 0x98) + 1) allBits ∧ ageOf t 3 (p * 32 + c) = some { cls := 3, unit := p * 32 + c, at_ := s.faults.powered } ∧ t.nv.retiredChans = s.nv.retiredChans ∧ t.packages = s.packages)

/-- FLR, Hot Reset, DL_Down and CC.EN cleared end the queues, the fetched and the waiting commands and the features, and set the sizes of the
three rings to 0; the layout and the armature stay. A retraining link holds transfers, and L0 shows its rate and width and lets a waiting
completion go. A transfer that fails counts and ends its command with Data Transfer Error. A tail doorbell stores the tail, a head doorbell
frees entries for what waited. A fetch admits the command, or ends it where its opcode is not supported. -/
def Obligations.ResetsLinkAndDoorbells : Prop :=
  (∀ s : State, True →
    ∃ t, exec .flr s = .next t ∧ t.host.enabled = false ∧ t.host.ready = false ∧ t.host.sqs = [] ∧ t.host.cqs = [] ∧ t.host.ctxs = [] ∧ t.host.held = [] ∧ t.host.features = [] ∧ regNat t TIER_MQ_SIZE = 0 ∧ regNat t (scnReg 0 0x18) = 0 ∧ regNat t (srcReg 0 0x18) = 0 ∧ t.nv.layout = s.nv.layout ∧ t.loader.inForce = s.loader.inForce ∧ t.power = s.power) ∧
  (∀ s : State, True →
    ∃ t, exec .hotReset s = .next t ∧ t.host.enabled = false ∧ t.host.ready = false ∧ t.host.sqs = [] ∧ t.host.cqs = [] ∧ t.host.ctxs = [] ∧ t.host.held = [] ∧ t.host.features = [] ∧ regNat t TIER_MQ_SIZE = 0 ∧ regNat t (scnReg 0 0x18) = 0 ∧ regNat t (srcReg 0 0x18) = 0 ∧ t.nv.layout = s.nv.layout ∧ t.loader.inForce = s.loader.inForce ∧ t.power = s.power) ∧
  (∀ s : State, True →
    ∃ t, exec .dlDown s = .next t ∧ t.host.enabled = false ∧ t.host.ready = false ∧ t.host.sqs = [] ∧ t.host.cqs = [] ∧ t.host.ctxs = [] ∧ t.host.held = [] ∧ t.host.retraining = false ∧ regNat t HST_LINK_DOWN = min (regNat s HST_LINK_DOWN + 1) allBits ∧ fld t HST_LINK 31 23 = 0 ∧ t.power = s.power) ∧
  (∀ s : State, s.host.enabled = true →
    ∃ t, exec .controllerDisable s = .next t ∧ t.host.enabled = false ∧ t.host.ready = false ∧ t.host.sqs = [] ∧ t.host.cqs = [] ∧ t.host.ctxs = [] ∧ t.host.held = [] ∧ t.nv.layout = s.nv.layout ∧ t.power = s.power) ∧
  (∀ (c : Bool) (s : State), s.power.configReady = true → s.host.enabled = false →
    ∃ t, exec (.controllerEnable c) s = .next t ∧ t.host.enabled = true ∧ t.host.crime = c ∧ t.host.ready = (s.host.ready || s.power.recovery || (decide (10 ≤ s.power.core) && (c || allReady s))) ∧ t.out = s.out) ∧
  (∀ s : State, True →
    ∃ t, exec .linkRetrain s = .next t ∧ t.host.retraining = true ∧ regNat t HST_RETRAINS = min (regNat s HST_RETRAINS + 1) allBits ∧ t.host.held = s.host.held ∧ t.host.sqs = s.host.sqs ∧ t.out = s.out) ∧
  (∀ (g w : Nat) (f : Bool) (c : Cqe) (s : State), (g = 5 ∨ g = 6 ∨ g = 7) → (w = 1 ∨ w = 2 ∨ w = 4 ∨ w = 8) → s.host.retraining = true → s.host.held = [] → s.host.waitingCqes = [c] → canPostTo { s with host := { s.host with retraining := false } } c.tag.sq = true →
    ∃ t, exec (.linkUp g w f) s = .next t ∧ fld t HST_LINK 31 28 = g ∧ fld t HST_LINK 27 24 = w ∧ rbit t HST_LINK 23 = f ∧ t.host.retraining = false ∧ t.host.waitingCqes = [] ∧ t.out = s.out ++ [.cqe c]) ∧
  (∀ (g : CmdTag) (s : State), g.sq ≤ 256 → g.cid < 65536 →
    ∃ t, exec (.poisonedTlp g) s = .next t ∧ answered s t { tag := g, sct := 0, sc := 0x04, dnr := 0, dw0 := 0 } ∧ regNat t HST_XFER_ERR = min (regNat s HST_XFER_ERR + 1) allBits ∧ t.host.held = s.host.held.filter (fun h => h.tag != g) ∧ t.host.errors.head? = some (g, 0, 4, 0)) ∧
  (∀ (g : CmdTag) (s : State), g.sq ≤ 256 → g.cid < 65536 →
    ∃ t, exec (.completionTimeout g) s = .next t ∧ answered s t { tag := g, sct := 0, sc := 0x04, dnr := 0, dw0 := 0 } ∧ regNat t HST_XFER_ERR = min (regNat s HST_XFER_ERR + 1) allBits ∧ t.host.held = s.host.held.filter (fun h => h.tag != g) ∧ t.host.errors.head? = some (g, 0, 4, 0)) ∧
  (∀ (g : CmdTag) (s : State), g.sq ≤ 256 → g.cid < 65536 →
    ∃ t, exec (.hostReadCompletionError g) s = .next t ∧ answered s t { tag := g, sct := 0, sc := 0x04, dnr := 0, dw0 := 0 } ∧ regNat t HST_XFER_ERR = min (regNat s HST_XFER_ERR + 1) allBits ∧ t.host.held = s.host.held.filter (fun h => h.tag != g) ∧ t.host.errors.head? = some (g, 0, 4, 0)) ∧
  (∀ (q n : Nat) (x : SubQueue) (s : State), q ≤ 256 → n < 4096 → findSq s q = some x → n < x.size →
    ∃ t, exec (.sqTailDoorbell q n) s = .next t ∧ findSq t q = some { x with tail := n } ∧ t.host.cqs = s.host.cqs ∧ t.host.ctxs = s.host.ctxs ∧ t.out = s.out) ∧
  (∀ (q n : Nat) (c : CompQueue) (s : State), q ≤ 256 → n < 4096 → s.host.cqs.find? (fun y => y.id == q) = some c → n < c.size → s.host.waitingCqes = [] →
    ∃ t, exec (.cqHeadDoorbell q n) s = .next t ∧ t.host.cqs.find? (fun y => y.id == q) = some { c with head := n } ∧ t.host.sqs = s.host.sqs ∧ t.out = s.out) ∧
  (∀ (q n : Nat) (c : CompQueue) (w : Cqe) (s : State), q ≤ 256 → n < 4096 → s.host.cqs.find? (fun y => y.id == q) = some c → n < c.size → s.host.waitingCqes = [w] → s.host.retraining = false → cqOf s w.tag.sq = some c → cqFull { c with head := n } = false →
    ∃ t, exec (.cqHeadDoorbell q n) s = .next t ∧ t.host.waitingCqes = [] ∧ t.out = s.out ++ [.cqe w]) ∧
  (∀ (g : CmdTag) (o n b c : Nat) (q : SubQueue) (s : State), g.sq ≤ 256 → g.cid < 65536 → o < 256 → n < 2 ^ 32 → s.host.enabled = true → findSq s g.sq = some q → q.fetched ≠ q.tail → (∀ y ∈ s.host.cqs, y.id = q.cq → cqFull y = false) → transfersHeld s = false → s.host.ctxs.length < ctxLimit → s.host.ctxs.any (fun x => x.tag == g) = false → (if g.sq = 0 then adminOpcode s.power.recovery o else ioOpcode n o) = true →
    ∃ t, exec (.commandFetch g o n b c) s = .next t ∧ t.host.ctxs = s.host.ctxs ++ [{ tag := g, opcode := o, nsid := n, first := b, count := c }] ∧ findSq t g.sq = some { q with fetched := (q.fetched + 1) % q.size } ∧ t.out = s.out) ∧
  (∀ (g : CmdTag) (o n b c : Nat) (q : SubQueue) (s : State), g.sq ≤ 256 → g.cid < 65536 → o < 256 → n < 2 ^ 32 → s.host.enabled = true → findSq s g.sq = some q → q.fetched ≠ q.tail → (∀ y ∈ s.host.cqs, y.id = q.cq → cqFull y = false) → transfersHeld s = false → s.host.ctxs.length < ctxLimit → s.host.ctxs.any (fun x => x.tag == g) = false → (if g.sq = 0 then adminOpcode s.power.recovery o else ioOpcode n o) = false →
    ∃ t, exec (.commandFetch g o n b c) s = .next t ∧ answered s t { tag := g, sct := 0, sc := 0x01, dnr := 1, dw0 := 0 })

/-- Identify gives the fields that R400 and R401 state. A feature reads as it was set. The loss logs are returned as they stood and cleared
where the host asks. Queues are created and deleted as asked. An abort of a held command ends both. An event is given at once or the request
waits. A firmware piece is staged; a commit of a stored image names it pending, and a staged image that fails a check changes nothing. A
format leaves no mapped block of the namespace. A self-test begins with segment 1. The numbers of statuses, features and log pages are
NVMe's (log entry 28). -/
def Obligations.AdminCommandsAnswer : Prop :=
  (∀ (g : CmdTag) (n : Nat) (s : State), g.sq ≤ 256 → g.cid < 65536 → n < 2 ^ 32 →
    ∃ t, exec (.identify g 1 n) s = .next t ∧ (gave s t g).length = 4096 ∧ fieldAt (gave s t g) 0 2 = 0x1F3A ∧ fieldAt (gave s t g) 77 1 = 9 ∧ fieldAt (gave s t g) 80 4 = 0x20100 ∧ fieldAt (gave s t g) 516 4 = (if s.power.recovery = true then 0 else 130) ∧ t.nv = s.nv ∧ t.host.features = s.host.features) ∧
  (∀ (g : CmdTag) (n : Nat) (r : Region) (s : State), g.sq ≤ 256 → g.cid < 65536 → n < 2 ^ 32 → s.power.recovery = false → nsRegion s n = some r → r.egrp < 65536 → r.sizeGib < 2 ^ 32 →
    ∃ t, exec (.identify g 0 n) s = .next t ∧ (gave s t g).length = 4096 ∧ fieldAt (gave s t g) 0 8 = regionBlocks r ∧ fieldAt (gave s t g) 8 8 = regionBlocks r ∧ fieldAt (gave s t g) 102 2 = r.egrp ∧ t.nv = s.nv) ∧
  (∀ (g : CmdTag) (f : Nat) (s : State), g.sq ≤ 256 → g.cid < 65536 → f < 256 → s.power.recovery = false → plainFeature f = true →
    ∃ t, exec (.getFeatures g f) s = .next t ∧ answered s t { tag := g, sct := 0, sc := 0, dnr := 0, dw0 := featureNow s f } ∧ t.host.features = s.host.features) ∧
  (∀ (g : CmdTag) (s : State), g.sq ≤ 256 → g.cid < 65536 → s.power.recovery = false →
    ∃ t, exec (.getFeatures g 2) s = .next t ∧ answered s t { tag := g, sct := 0, sc := 0, dnr := 0, dw0 := psNow s } ∧ t.regs = s.regs) ∧
  (∀ (g : CmdTag) (f v : Nat) (a : List (Nat × Nat)) (s : State), g.sq ≤ 256 → g.cid < 65536 → f < 256 → v < 2 ^ 32 → s.power.recovery = false → plainFeature f = true →
    ∃ t, exec (.setFeatures g f v a) s = .next t ∧ answered s t { tag := g, sct := 0, sc := 0, dnr := 0, dw0 := 0 } ∧ featureNow t f = v ∧ ∀ h, h ≠ f → featureNow t h = featureNow s h) ∧
  (∀ (g : CmdTag) (v : Nat) (a : List (Nat × Nat)) (s : State), g.sq ≤ 256 → g.cid < 65536 → v < 2 ^ 32 → s.power.recovery = false → v % 32 ≤ 2 → psNow s ≤ 2 →
    ∃ t, exec (.setFeatures g 2 v a) s = .next t ∧ answered s t { tag := g, sct := 0, sc := 0, dnr := 0, dw0 := 0 } ∧ psNow t = v % 32 ∧ fld t HST_PS 10 8 = v % 32) ∧
  (∀ (g : CmdTag) (n : Nat) (s : State), g.sq ≤ 256 → g.cid < 65536 → n < 2 ^ 32 → s.power.recovery = false →
    ∃ t, exec (.getLogPage g 0xC1 1 n) s = .next t ∧ gave s t g = lossLogBytes false s.nv.ledger ∧ t.nv.ledger = {} ∧ t.nv.lossLog = s.nv.lossLog ∧ (∀ p, p < 4 → p < s.build.sp → rbit t (ftlReg p 0) 25 = false)) ∧
  (∀ (g : CmdTag) (n : Nat) (s : State), g.sq ≤ 256 → g.cid < 65536 → n < 2 ^ 32 → s.power.recovery = false →
    ∃ t, exec (.getLogPage g 0xC3 0 n) s = .next t ∧ gave s t g = lossLogBytes true s.nv.lossLog ∧ t.nv = s.nv) ∧
  (∀ (g : CmdTag) (q n v : Nat) (s : State), g.sq ≤ 256 → g.cid < 65536 → 1 ≤ q → q ≤ 256 → 2 ≤ n → n ≤ 4096 → v ≤ 256 → s.power.recovery = false → s.host.cqs.any (fun c => c.id == q) = false → s.host.sqs.any (fun x => x.cq == q) = false →
    ∃ t, exec (.createIoCompletionQueue g q n v) s = .next t ∧ answered s t { tag := g, sct := 0, sc := 0, dnr := 0, dw0 := 0 } ∧ t.host.cqs.find? (fun c => c.id == q) = some { id := q, size := n, vector := v } ∧ t.host.sqs = s.host.sqs) ∧
  (∀ (g : CmdTag) (q n c : Nat) (s : State), g.sq ≤ 256 → g.cid < 65536 → 1 ≤ q → q ≤ 256 → 2 ≤ n → n ≤ 4096 → 1 ≤ c → c ≤ 256 → g.sq ≠ q → s.power.recovery = false → s.host.cqs.any (fun y => y.id == c) = true → findSq s q = none →
    ∃ t, exec (.createIoSubmissionQueue g q n c) s = .next t ∧ answered s t { tag := g, sct := 0, sc := 0, dnr := 0, dw0 := 0 } ∧ findSq t q = some { id := q, size := n, cq := c }) ∧
  (∀ (g : CmdTag) (q : Nat) (s : State), g.sq ≤ 256 → g.cid < 65536 → 1 ≤ q → q ≤ 256 → g.sq ≠ q → s.power.recovery = false → (findSq s q).isSome = true → s.host.held.all (fun h => h.tag.sq != q) = true →
    ∃ t, exec (.deleteIoSubmissionQueue g q) s = .next t ∧ answered s t { tag := g, sct := 0, sc := 0, dnr := 0, dw0 := 0 } ∧ findSq t q = none ∧ t.host.held = s.host.held) ∧
  (∀ (g : CmdTag) (q : Nat) (s : State), g.sq ≤ 256 → g.cid < 65536 → 1 ≤ q → q ≤ 256 → s.power.recovery = false → s.host.cqs.any (fun c => c.id == q) = true → s.host.sqs.any (fun x => x.cq == q) = false →
    ∃ t, exec (.deleteIoCompletionQueue g q) s = .next t ∧ answered s t { tag := g, sct := 0, sc := 0, dnr := 0, dw0 := 0 } ∧ t.host.cqs.any (fun c => c.id == q) = false ∧ t.host.sqs = s.host.sqs) ∧
  (∀ (g x : CmdTag) (s : State), g.sq ≤ 256 → g.cid < 65536 → x.sq ≤ 256 → x.cid < 65536 → s.power.recovery = false → s.host.held.any (fun h => h.tag == x) = true → s.host.ctxs.any (fun c => c.tag == x) = false →
    ∃ t, exec (.abort g x) s = .next t ∧ t.host.held = s.host.held.filter (fun h => h.tag != x) ∧ t.out.length + t.host.waitingCqes.length = s.out.length + s.host.waitingCqes.length + 2 ∧ t.packages = s.packages ∧ t.nv = s.nv) ∧
  (∀ (g x : CmdTag) (s : State), g.sq ≤ 256 → g.cid < 65536 → x.sq ≤ 256 → x.cid < 65536 → s.power.recovery = false → s.host.held.any (fun h => h.tag == x) = false → (abortExecute s x).2 = false →
    ∃ t, exec (.abort g x) s = .next t ∧ answered s t { tag := g, sct := 0, sc := 0, dnr := 0, dw0 := 1 } ∧ t.grf = s.grf) ∧
  (∀ (g : CmdTag) (s : State), g.sq ≤ 256 → g.cid < 65536 → s.power.recovery = false → s.host.events = [] → s.host.aers.length < 8 →
    ∃ t, exec (.asynchronousEventRequest g) s = .next t ∧ t.host.aers = s.host.aers ++ [g] ∧ t.out = s.out ∧ t.host.events = []) ∧
  (∀ (g : CmdTag) (e : Event) (es : List Event) (s : State), g.sq ≤ 256 → g.cid < 65536 → s.power.recovery = false → s.host.events = e :: es →
    ∃ t, exec (.asynchronousEventRequest g) s = .next t ∧ answered s t { tag := g, sct := 0, sc := 0, dnr := 0, dw0 := e.type + 256 * e.info + 65536 * e.log } ∧ t.host.events = es ∧ t.host.aers = s.host.aers) ∧
  (∀ (g : CmdTag) (o : Nat) (l : List Byte) (s : State), g.sq ≤ 256 → g.cid < 65536 → o % 4096 = 0 → l.length % 4 = 0 → l ≠ [] → l.length ≤ 2097152 → o + l.length ≤ fwMax →
    ∃ t, exec (.firmwareImageDownload g o l) s = .next t ∧ answered s t { tag := g, sct := 0, sc := 0, dnr := 0, dw0 := 0 } ∧ Memory.bytes t.host.fwStage o l.length = l ∧ t.host.fwStageLen = max s.host.fwStageLen (o + l.length) ∧ t.nv = s.nv ∧
      ∀ a, (a < o ∨ o + l.length ≤ a) → Memory.byte t.host.fwStage a = Memory.byte s.host.fwStage a) ∧
  (∀ (g : CmdTag) (n : Nat) (f : FwImage) (s : State), g.sq ≤ 256 → g.cid < 65536 → s.power.recovery = false → (n = 1 ∨ n = 2) → n ≠ s.nv.fwActive → fwSlot s n = some f → fwFails s f = none →
    ∃ t, exec (.firmwareCommit g n 2) s = .next t ∧ answered s t { tag := g, sct := 0, sc := 0, dnr := 0, dw0 := 0 } ∧ t.nv = { s.nv with fwPending := n } ∧ rbit t GLB_BOOT 28 = true ∧ fld t GLB_BOOT 27 26 = n) ∧
  (∀ (g : CmdTag) (n a c : Nat) (s : State), g.sq ≤ 256 → g.cid < 65536 → s.power.recovery = false → (n = 1 ∨ n = 2) → n ≠ s.nv.fwActive → (a = 0 ∨ a = 1 ∨ a = 3) → fwFails s (parseFw (Memory.bytes s.host.fwStage 0 s.host.fwStageLen)) = some c →
    ∃ t, exec (.firmwareCommit g n a) s = .next t ∧ answered s t { tag := g, sct := 1, sc := c, dnr := 1, dw0 := 0 } ∧ t.nv = s.nv ∧ t.regs = s.regs) ∧
  (∀ (g : CmdTag) (n e : Nat) (r : Region) (s : State), g.sq ≤ 256 → g.cid < 65536 → n < 2 ^ 32 → e ≤ 1 → s.power.recovery = false → nsRegion s n = some r → n ≠ 0xFFFFFFFF → transfersHeld s = false → allReady s = true → (s.host.crime = true → (packagesOf r.spMask).all (pkgReady s) = true) →
    ∃ t, exec (.formatNvm g n e) s = .next t ∧ answered s t { tag := g, sct := 0, sc := 0, dnr := 0, dw0 := 0 } ∧ mappedBlocks t r = 0 ∧ t.nv = s.nv) ∧
  (∀ (g : CmdTag) (k : Nat) (s : State), g.sq ≤ 256 → g.cid < 65536 → s.power.recovery = false → (k = 1 ∨ k = 2) → s.host.selfTest = 0 →
    ∃ t, exec (.deviceSelfTest g k) s = .next t ∧ answered s t { tag := g, sct := 0, sc := 0, dnr := 0, dw0 := 0 } ∧ t.host.selfTest = k ∧ t.host.selfTestSeg = 1 ∧ t.host.selfTestFail = 0 ∧ t.host.selfTestLog = s.host.selfTestLog)

/-- Where nothing holds it, a Read returns the bytes of its blocks, or names the first lost one. A Write of one block makes that block read as
written and leaves every other unit as it was; a Write of any length completes. Write Zeroes makes a block read zero, and with Deallocate,
as in Dataset Management, a whole unit reads as never written. Memory Read returns the window's bytes, Memory Write and Memory Copy put them
there, and no other line changes under a Memory Write. -/
def Obligations.NvmAndMemoryCommands : Prop :=
  (∀ (g : CmdTag) (n b k : Nat) (r : Region) (s : State), g.sq ≤ 256 → g.cid < 65536 → n < 2 ^ 32 → b < 2 ^ 64 → k ≤ mdtsBlocks → s.host.held = [] → admits s r { tag := g, kind := kRead, nsid := n, slba := b, nlb := k } → firstLost s r b k = none →
    ∃ t, exec (.read g n b k) s = .next t ∧ gave s t g = blocksBytes s r b k ∧ answered (emit s (.data g (blocksBytes s r b k))) t { tag := g, sct := 0, sc := 0, dnr := 0, dw0 := 0 } ∧ t.packages = s.packages ∧ t.nv = s.nv) ∧
  (∀ (g : CmdTag) (n b k x : Nat) (r : Region) (s : State), g.sq ≤ 256 → g.cid < 65536 → n < 2 ^ 32 → b < 2 ^ 64 → k ≤ mdtsBlocks → s.host.held = [] → admits s r { tag := g, kind := kRead, nsid := n, slba := b, nlb := k } → firstLost s r b k = some x →
    ∃ t, exec (.read g n b k) s = .next t ∧ answered s t { tag := g, sct := 2, sc := 0x81, dnr := 1, dw0 := 0 } ∧ t.host.errors.head? = some (g, 2, 0x81, x) ∧ t.packages = s.packages) ∧
  (∀ (g : CmdTag) (n b : Nat) (l : List Byte) (r : Region) (s : State), g.sq ≤ 256 → g.cid < 65536 → n < 2 ^ 32 → b < 2 ^ 64 → l.length % 4096 = 0 → l.length / 4096 ≤ mdtsBlocks → s.host.held = [] → admits s r { tag := g, kind := kWrite, nsid := n, slba := b, nlb := l.length / 4096, data := l } →
    ∃ t, exec (.write g n b l) s = .next t ∧ answered s t { tag := g, sct := 0, sc := 0, dnr := 0, dw0 := 0 } ∧ t.nv = s.nv ∧ t.host.held = [] ∧ t.packages.map (·.map) = s.packages.map (·.map)) ∧
  (∀ (g : CmdTag) (n b : Nat) (l : List Byte) (r : Region) (s : State), g.sq ≤ 256 → g.cid < 65536 → n < 2 ^ 32 → b < 2 ^ 64 → l.length = 4096 → s.host.held = [] → admits s r { tag := g, kind := kWrite, nsid := n, slba := b, nlb := l.length / 4096, data := l } → (blockHome s r b).1 < s.packages.length → (pkg s (blockHome s r b).1).wbuf.any (fun d => d.lunit == (blockHome s r b).2.1) = false →
    ∃ t, exec (.write g n b l) s = .next t ∧ blockBytes t r b = l ∧ blockLost t r b = false ∧ answered s t { tag := g, sct := 0, sc := 0, dnr := 0, dw0 := 0 } ∧ ∀ p u, (p, u) ≠ homeOf s r (b / 4) → unitNow t p u = unitNow s p u) ∧
  (∀ (g : CmdTag) (n : Nat) (s : State), g.sq ≤ 256 → g.cid < 65536 → n < 2 ^ 32 → n ≠ 129 → (n = 130 ∨ n = 0xFFFFFFFF ∨ (nsRegion s n).isSome = true) → transfersHeld s = false → (List.range s.build.sp).any (fun p => rbit s (ftlReg p 0) 28 && holdsDirty s p n) = false →
    ∃ t, exec (.flush g n) s = .next t ∧ answered s t { tag := g, sct := 0, sc := 0, dnr := 0, dw0 := 0 } ∧ t.packages = s.packages) ∧
  (∀ (g : CmdTag) (n b : Nat) (r : Region) (s : State), g.sq ≤ 256 → g.cid < 65536 → n < 2 ^ 32 → b < 2 ^ 64 → s.host.held = [] → admits s r { tag := g, kind := kZeroes, nsid := n, slba := b, nlb := 1 } → (blockHome s r b).1 < s.packages.length → (pkg s (blockHome s r b).1).wbuf.any (fun d => d.lunit == (blockHome s r b).2.1) = false →
    ∃ t, exec (.writeZeroes g n b 1 false) s = .next t ∧ blockBytes t r b = List.replicate 4096 0 ∧ blockLost t r b = false ∧ answered s t { tag := g, sct := 0, sc := 0, dnr := 0, dw0 := 0 }) ∧
  (∀ (g : CmdTag) (n b : Nat) (r : Region) (s : State), g.sq ≤ 256 → g.cid < 65536 → n < 2 ^ 32 → b < 2 ^ 64 → b % 4 = 0 → s.host.held = [] → admits s r { tag := g, kind := kDealloc, nsid := n, slba := b, nlb := 4 } → (homeOf s r (b / 4)).1 < s.packages.length →
    ∃ t, exec (.writeZeroes g n b 4 true) s = .next t ∧ unitNow t (homeOf s r (b / 4)).1 (homeOf s r (b / 4)).2 = ([], 0) ∧ answered s t { tag := g, sct := 0, sc := 0, dnr := 0, dw0 := 0 } ∧ (pkg t (homeOf s r (b / 4)).1).page.length = (pkg s (homeOf s r (b / 4)).1).page.length + 1) ∧
  (∀ (g : CmdTag) (n b : Nat) (r : Region) (s : State), g.sq ≤ 256 → g.cid < 65536 → n < 2 ^ 32 → b % 4 = 0 → s.host.held = [] → admits s r { tag := g, kind := kDsm, nsid := n, slba := 0, nlb := 0, ranges := [(b, 4)] } → (homeOf s r (b / 4)).1 < s.packages.length →
    ∃ t, exec (.datasetManagement g n [(b, 4)]) s = .next t ∧ unitNow t (homeOf s r (b / 4)).1 (homeOf s r (b / 4)).2 = ([], 0) ∧ answered s t { tag := g, sct := 0, sc := 0, dnr := 0, dw0 := 0 }) ∧
  (∀ (g : CmdTag) (a k : Nat) (l : List Byte) (u s : State), g.sq ≤ 256 → g.cid < 65536 → a < 2 ^ 64 → k ≤ mdtsBlocks * 4096 → selector a = 0xFF → mappedSlm (settings s) (within a) k = true → transfersHeld s = false → readRange s (within a) k = (u, some l) →
    ∃ t, exec (.memoryRead g a k) s = .next t ∧ answered (emit u (.data g l)) t { tag := g, sct := 0, sc := 0, dnr := 0, dw0 := 0 } ∧ t.dram = u.dram ∧ t.nv = u.nv) ∧
  (∀ (g : CmdTag) (a : Nat) (l : List Byte) (s : State), g.sq ≤ 256 → g.cid < 65536 → a < 2 ^ 64 → l.length ≤ mdtsBlocks * 4096 → selector a = 0xFF → mappedSlm (settings s) (within a) l.length = true → transfersHeld s = false → touchesCopy s a l.length = false → (slmWrite s (within a) l).2 = true →
    ∃ t, exec (.memoryWrite g a l) s = .next t ∧ peekBytes t (within a) l.length = l ∧ answered s t { tag := g, sct := 0, sc := 0, dnr := 0, dw0 := 0 } ∧ ∀ c, (c / 64 < within a / 64 ∨ (within a + l.length + 63) / 64 ≤ c / 64) → Memory.byte t.dram.bytes c = Memory.byte s.dram.bytes c) ∧
  (∀ (g : CmdTag) (n d : Nat) (x : List (Nat × Nat)) (l : List Byte) (r : Region) (s : State), g.sq ≤ 256 → g.cid < 65536 → n < 2 ^ 32 → x.length ≤ 128 → selector d = 0xFF → mappedSlm (settings s) (within d) (sumNat (x.map (·.2)) * 4096) = true → admits s r { tag := g, kind := kMemCopy, nsid := n, slba := 0, nlb := 0, ranges := x, dst := d } → x.findSome? (fun y => firstLost s r y.1 y.2) = none → l = x.foldl (fun l y => l ++ blocksBytes s r y.1 y.2) [] → touchesCopy s (slmAddr (within d)) l.length = false → (slmWrite s (within d) l).2 = true →
    ∃ t, exec (.memoryCopy g n x d) s = .next t ∧ peekBytes t (within d) l.length = l ∧ answered s t { tag := g, sct := 0, sc := 0, dnr := 0, dw0 := 0 } ∧ t.packages = s.packages ∧ t.nv = s.nv)

/-- An APST timer begins the entry to the state that the host's table names, once the device is idle; the end of the entry shows the state,
releases CLKREQ# in PS4, and an exit that was asked for begins. The end of the exit shows the last operational state. The bus owner's
endpoint ID is shown. Both health polls answer and clear the latched change where asked. The management commands answer in full service, and
Reset is an NVM Subsystem Reset. The codes and layouts are NVMe-MI's and MCTP's (log entry 28). -/
def Obligations.PowerStatesAndManagement : Prop :=
  (∀ (k : Nat) (s : State), (k = 3 ∨ k = 4) → rbit s HST_PS 4 = true → (s.host.apst.getD (psNow s) (0, 0)).1 = k → (s.host.apst.getD (psNow s) (0, 0)).2 ≠ 0 → deviceIdle s = true → rbit s HST_PS 3 = false → s.host.exiting = false → k ≠ psNow s → (k = 3 ∨ portsInUse s = false) →
    ∃ t, exec (.apstIdleTimerExpiry k) s = .next t ∧ rbit t HST_PS 3 = true ∧ t.host.psTarget = k ∧ psNow t = psNow s ∧ t.out = s.out) ∧
  (∀ s : State, rbit s HST_PS 3 = true → s.host.psTarget < 8 → s.host.wake = false → s.host.held = [] →
    ∃ t, exec .powerStateEntryDone s = .next t ∧ rbit t HST_PS 3 = false ∧ psNow t = s.host.psTarget ∧ rbit t HST_LINK 22 = decide (s.host.psTarget = 4) ∧ t.host.exiting = s.host.exiting ∧ fld t HST_PS 10 8 = fld s HST_PS 10 8) ∧
  (∀ s : State, rbit s HST_PS 3 = true → s.host.wake = true →
    ∃ t, exec .powerStateEntryDone s = .next t ∧ rbit t HST_PS 3 = false ∧ t.host.exiting = true ∧ t.host.wake = false) ∧
  (∀ s : State, s.host.exiting = true → s.host.held = [] →
    ∃ t, exec .powerStateExitDone s = .next t ∧ t.host.exiting = false ∧ psNow t = fld s HST_PS 10 8 ∧ rbit t HST_LINK 22 = false ∧ t.packages = s.packages) ∧
  (∀ (e : Nat) (s : State), 1 ≤ e → e < 256 → endpointUp s = true →
    ∃ t, exec (.mctpControlMessage e) s = .next t ∧ fld t HST_MI_STAT 23 16 = e ∧ t.out = s.out ++ [.mctp [0, e]] ∧ t.host = s.host) ∧
  (∀ (c : Bool) (s : State), endpointUp s = true →
    ∃ t, exec (.nvmSubsystemHealthStatusPoll c) s = .next t ∧ t.out = s.out ++ [.mi 0 (healthBytes s)] ∧ t.host.healthChange = (s.host.healthChange && !c) ∧ t.nv = s.nv) ∧
  (∀ (c : Bool) (s : State), endpointUp s = true → (Machine.inService s = true ∨ s.power.recovery = true) →
    ∃ t, exec (.controllerHealthStatusPoll c) s = .next t ∧ t.out = s.out ++ [.mi 0 (controllerBytes s)] ∧ t.host.healthChange = (s.host.healthChange && !c) ∧ (c = true → rbit t HST_MI_STAT 31 = decide (criticalNow s ≠ 0))) ∧
  (∀ s : State, endpointUp s = true → Machine.inService s = true →
    ∃ t, exec (.readNvmeMiDataStructure 2) s = .next t ∧ t.out = s.out ++ [.mi 0 [1, 0, 0, 0]] ∧ t.host = s.host) ∧
  (∀ s : State, endpointUp s = true → Machine.inService s = true →
    ∃ t, exec (.configurationGet 3) s = .next t ∧ t.out = s.out ++ [.mi 0 (leBytes 3 s.host.mtu)] ∧ t.host = s.host ∧ t.regs = s.regs) ∧
  (∀ (v : Nat) (s : State), 64 ≤ v → v < 65536 → endpointUp s = true → Machine.inService s = true →
    ∃ t, exec (.configurationSet 3 v) s = .next t ∧ t.out = s.out ++ [.mi 0 []] ∧ t.host = { s.host with mtu := v } ∧ t.regs = s.regs) ∧
  (∀ (v : Nat) (s : State), 1 ≤ v → v ≤ 3 → endpointUp s = true → Machine.inService s = true →
    ∃ t, exec (.configurationSet 1 v) s = .next t ∧ t.out = s.out ++ [.mi 0 []] ∧ fld t HST_MI_STAT 1 0 = v - 1 ∧ t.host = s.host) ∧
  (∀ (o n : Nat) (s : State), n ≤ 256 → endpointUp s = true → Machine.inService s = true →
    ∃ t, exec (.vpdRead o n) s = .next t ∧ t.out = s.out ++ [.mi 0 ((List.range n).map (fun i => Config.vpdByte (o + i)))] ∧ t.host = s.host ∧ t.regs = s.regs) ∧
  (∀ s : State, endpointUp s = true → Machine.inService s = true → s.power.perst = false → s.power.restartPending = false →
    ∃ t, exec .reset s = .next t ∧ t.power.core = (if s.power.standby = 7 ∧ s.nv.fwPending = 0 then 4 else 1) ∧ t.power.coreStart = s.tb ∧ t.out.take (s.out.length + 1) = s.out ++ [.mi 0 []] ∧ t.host.enabled = false ∧ t.host.sqs = [] ∧ t.nv.layout = s.nv.layout ∧ t.nv.selA = s.nv.selA ∧ t.nv.selB = s.nv.selB)

/-- Over either transport, GET_VERSION starts the connection afresh; the capabilities and the algorithms follow in order; the digest, the
certificate chain and the signed answers need all three, and before them a request is answered UnexpectedRequest. A request that is not of
the list is answered UnsupportedRequest. A measurement that is asked for by number carries its index, its length and its value. The
certificate chain and the signatures are opaque (log entry 5), and the nonce of the responder is free (log entry 8). -/
def Obligations.AttestationRequests : Prop :=
  (∀ (v : Transport) (s : State), spdmUp s v = true →
    ∃ t, exec (.getVersion v) s = .next t ∧ spdmOf t v = { version := true } ∧ t.out = s.out ++ [.spdm v 0x04 (leBytes 2 0x1200 ++ leBytes 2 0x1300)] ∧ t.nv = s.nv ∧ t.regs = s.regs) ∧
  (∀ (v : Transport) (s : State), spdmUp s v = true → (spdmOf s v).version = true →
    ∃ t, exec (.getCapabilities v) s = .next t ∧ spdmOf t v = { spdmOf s v with caps := true } ∧ t.out.length = s.out.length + 1 ∧ t.nv = s.nv) ∧
  (∀ (v : Transport) (a h : Nat) (s : State), spdmUp s v = true → (spdmOf s v).version = true → (spdmOf s v).caps = true → bitOf a 5 = true → bitOf h 2 = true →
    ∃ t, exec (.negotiateAlgorithms v a h) s = .next t ∧ negotiated (spdmOf t v) = true ∧ (spdmOf t v).asym = 32 ∧ (spdmOf t v).hash = 4 ∧ t.out = s.out ++ [.spdm v 0x63 (leBytes 4 32 ++ leBytes 4 4)]) ∧
  (∀ (v : Transport) (s : State), spdmUp s v = true → negotiated (spdmOf s v) = true →
    ∃ t, exec (.getDigests v) s = .next t ∧ t.out = s.out ++ [.spdm v 0x01 ([1] ++ chainDigest)] ∧ t.sec = s.sec ∧ t.nv = s.nv) ∧
  (∀ (v : Transport) (s : State), spdmUp s v = true → negotiated (spdmOf s v) = false →
    ∃ t, exec (.getDigests v) s = .next t ∧ t.out = s.out ++ [.spdm v 0x7F [4]] ∧ t.sec = s.sec ∧ t.nv = s.nv) ∧
  (∀ (v : Transport) (o n : Nat) (s : State), n < 2 ^ 32 → spdmUp s v = true → negotiated (spdmOf s v) = true →
    ∃ t, exec (.getCertificate v 0 o n) s = .next t ∧ t.sec = s.sec ∧ t.nv = s.nv ∧ t.out = s.out ++ [if (Config.certificateChain).length ≤ o then .spdm v 0x7F [1] else .spdm v 0x02 (leBytes 2 (min (min n 4096) ((Config.certificateChain).length - o)) ++
      leBytes 2 ((Config.certificateChain).length - o - min (min n 4096) ((Config.certificateChain).length - o)) ++ ((Config.certificateChain).drop o).take (min n 4096))]) ∧
  (∀ (v : Transport) (l : List Byte) (s : State), spdmUp s v = true → negotiated (spdmOf s v) = true →
    ∃ t, exec (.challenge v l) s = .next t ∧ t.out = s.out ++ [.spdm v 0x03 (chainDigest ++ freeBytes s.fresh 32 ++ Config.deviceSignature (l ++ (chainDigest ++ freeBytes s.fresh 32)))] ∧ t.sec = s.sec ∧ t.nv = s.nv) ∧
  (∀ (v : Transport) (i : Nat) (s : State), 1 ≤ i → i ≤ 8 → spdmUp s v = true → negotiated (spdmOf s v) = true →
    ∃ t, exec (.getMeasurements v i []) s = .next t ∧ t.out = s.out ++ [.spdm v 0x60 ([1] ++ leBytes 1 i ++ leBytes 2 (measurement s i).length ++ measurement s i)] ∧ t.sec = s.sec ∧ t.nv = s.nv) ∧
  (∀ (v : Transport) (c : Nat) (s : State), spdmUp s v = true →
    ∃ t, exec (.unsupportedRequest v c) s = .next t ∧ t.out = s.out ++ [.spdm v 0x7F [7]] ∧ t.sec = s.sec ∧ t.nv = s.nv)

/-- The manual's own program, as its encoded words, run on one element with any sum, master, step size and constants: STM gives the fused sum of
the master and the contribution times the product of the step size and K0, and OUT gives that value narrowed to BF16. On the manual's
operands, the master is 0x3E7F4000 and the parameter 0x3E7F. -/
def Obligations.PlainDescentOnOneElement : Prop :=
  (∀ c : UpdIn, c.ofmt = 0 → c.ornd = 0 →
    (updElem [0x20000000, 0x12000000, 0x54000000, 0x46000000, 0x84980000, 0x90500000, 0xD0000000, 0xF0000000] c).stm = (ffma c.sum (fmul c.lr (c.k.getD 0 0)).1 c.master).1 ∧
    (updElem [0x20000000, 0x12000000, 0x54000000, 0x46000000, 0x84980000, 0x90500000, 0xD0000000, 0xF0000000] c).out = (narrow .bf16 0 0 (ffma c.sum (fmul c.lr (c.k.getD 0 0)).1 c.master).1).1) ∧
  ffma 0x3F400000 (fmul 0x3A800000 0xBF800000).1 0x3E800000 = (0x3E7F4000, 0) ∧ narrow .bf16 0 0 0x3E7F4000 = (0x3E7F, 0)

end
end

