-- ==== Sys2Proof/Laws/Sparse.lean ====
section
/-! SUPPORT. The laws of sparse maps and memories: a read after a write, and the canonical form that every write keeps. -/
set_option Elab.async false
set_option linter.all false
namespace Sys2Proof.Machine

variable {β : Type}

/-- Writing a key through `place` after `drop` gives the value at that key. -/
theorem Sparse.get_place (d : β) (m : Sparse β) (k j : Nat) (v : β) (h : ∀ p ∈ m, p.1 ≠ k) :
    Sparse.get d (Sparse.place k v m) j = if k = j then v else Sparse.get d m j := by
  induction m with
  | nil => simp [Sparse.place, Sparse.get]
  | cons p t ih =>
    obtain ⟨k', v'⟩ := p
    have hk : k' ≠ k := h (k', v') (by simp)
    have ht : ∀ p ∈ t, p.1 ≠ k := fun p hp => h p (by simp [hp])
    by_cases hlt : k < k'
    · simp [Sparse.place, hlt, Sparse.get]
    · simp only [Sparse.place, hlt, if_false, Sparse.get, ih ht]
      by_cases hj : k' = j
      · subst hj; simp [Ne.symm hk]
      · simp [hj]

/-- A dropped key reads as unlisted. -/
theorem Sparse.get_drop (d : β) (m : Sparse β) (k j : Nat) :
    Sparse.get d (Sparse.drop k m) j = if k = j then d else Sparse.get d m j := by
  induction m with
  | nil => simp [Sparse.drop, Sparse.get]
  | cons p t ih =>
    obtain ⟨k', v'⟩ := p
    by_cases h : k' = k
    · subst h
      by_cases hj : k' = j <;> simp_all [Sparse.drop, Sparse.get]
    · simp only [Sparse.drop, h, if_false, Sparse.get, ih]
      by_cases hj : k' = j
      · subst hj; simp [Ne.symm h]
      · simp [hj]

/-- No entry of a map without a key has that key. -/
theorem Sparse.drop_ne (m : Sparse β) (k : Nat) : ∀ p ∈ Sparse.drop k m, p.1 ≠ k := by
  induction m with
  | nil => simp [Sparse.drop]
  | cons p t ih =>
    obtain ⟨k', v'⟩ := p
    by_cases h : k' = k
    · simpa [Sparse.drop, h] using ih
    · simp only [Sparse.drop, h, if_false, List.mem_cons]
      rintro q (rfl | hq)
      · exact h
      · exact ih q hq

/-- A read after a write: the value written at its key, and what was there everywhere else. -/
theorem Sparse.get_set [DecidableEq β] (d : β) (m : Sparse β) (k j : Nat) (v : β) :
    Sparse.get d (Sparse.set d m k v) j = if k = j then v else Sparse.get d m j := by
  unfold Sparse.set
  split
  · subst_vars; rw [Sparse.get_drop]
  · rw [Sparse.get_place _ _ _ _ _ (Sparse.drop_ne m k), Sparse.get_drop]
    split <;> simp_all

/-- A canonical map without a key is canonical. -/
theorem Sparse.wfFrom_drop [DecidableEq β] (d : β) (k : Nat) (m : Sparse β) (lo : Nat) (h : Sparse.wfFrom d lo m) :
    Sparse.wfFrom d lo (Sparse.drop k m) := by
  induction m generalizing lo with
  | nil => simp [Sparse.drop, Sparse.wfFrom]
  | cons p t ih =>
    obtain ⟨k', v'⟩ := p
    simp only [Sparse.wfFrom, Bool.and_eq_true, decide_eq_true_eq] at h
    by_cases hk : k' = k
    · simp only [Sparse.drop, hk, if_true]
      refine ih lo ?_
      have := h.2
      clear ih
      cases t with
      | nil => simp [Sparse.wfFrom]
      | cons q u =>
        obtain ⟨a, b⟩ := q
        simp only [Sparse.wfFrom, Bool.and_eq_true, decide_eq_true_eq] at this ⊢
        exact ⟨⟨by omega, this.1.2⟩, this.2⟩
    · simp only [Sparse.drop, hk, if_false, Sparse.wfFrom, Bool.and_eq_true, decide_eq_true_eq]
      exact ⟨h.1, ih _ h.2⟩

/-- Placing a key that a canonical map lacks keeps the form. -/
theorem Sparse.wfFrom_place [DecidableEq β] (d v : β) (hv : v ≠ d) (k : Nat) (m : Sparse β) (lo : Nat) (hk : lo ≤ k)
    (h : Sparse.wfFrom d lo m) (hne : ∀ p ∈ m, p.1 ≠ k) : Sparse.wfFrom d lo (Sparse.place k v m) := by
  induction m generalizing lo with
  | nil => simp [Sparse.place, Sparse.wfFrom, hk, hv]
  | cons p t ih =>
    obtain ⟨k', v'⟩ := p
    have hk' : k' ≠ k := hne (k', v') (by simp)
    simp only [Sparse.wfFrom, Bool.and_eq_true, decide_eq_true_eq] at h
    by_cases hlt : k < k'
    · simp only [Sparse.place, hlt, if_true, Sparse.wfFrom, Bool.and_eq_true, decide_eq_true_eq]
      exact ⟨⟨hk, hv⟩, ⟨by omega, h.1.2⟩, h.2⟩
    · simp only [Sparse.place, hlt, if_false, Sparse.wfFrom, Bool.and_eq_true, decide_eq_true_eq]
      exact ⟨h.1, ih _ (by omega) h.2 (fun p hp => hne p (by simp [hp]))⟩

/-- A write keeps the canonical form. -/
theorem Sparse.wf_set [DecidableEq β] (d : β) (m : Sparse β) (k : Nat) (v : β) (h : Sparse.wf d m) : Sparse.wf d (Sparse.set d m k v) := by
  unfold Sparse.set Sparse.wf at *
  split
  · exact Sparse.wfFrom_drop d k m 0 h
  · exact Sparse.wfFrom_place d v ‹_› k _ 0 (Nat.zero_le _) (Sparse.wfFrom_drop d k m 0 h) (Sparse.drop_ne m k)

/-- One byte written keeps the canonical form of a memory. -/
theorem Memory.wf_setByte (m : Memory) (a : Nat) (b : Byte) (h : Memory.wf m) : Memory.wf (Memory.setByte m a b) := Sparse.wf_set 0 m a b h

/-- Bytes written keep the canonical form of a memory. -/
theorem Memory.wf_setBytes (m : Memory) (a : Nat) (l : List Byte) (h : Memory.wf m) : Memory.wf (Memory.setBytes m a l) := by
  induction l generalizing m a with
  | nil => exact h
  | cons b t ih => exact ih _ _ (Memory.wf_setByte m a b h)

/-- A byte read after a byte written. -/
theorem Memory.byte_setByte (m : Memory) (a c : Nat) (b : Byte) : Memory.byte (Memory.setByte m a b) c = if a = c then b else Memory.byte m c :=
  Sparse.get_set 0 m a c b

/-- A byte outside a range that is written keeps its value. -/
theorem Memory.byte_setBytes_of_outside (m : Memory) (a c : Nat) (l : List Byte) (h : c < a ∨ a + l.length ≤ c) :
    Memory.byte (Memory.setBytes m a l) c = Memory.byte m c := by
  induction l generalizing m a with
  | nil => rfl
  | cons b t ih =>
    simp only [List.length_cons] at h
    rw [Memory.setBytes, ih _ _ (by omega), Memory.byte_setByte, if_neg (by omega)]

/-- A byte of a range that is written takes its value. -/
theorem Memory.byte_setBytes (m : Memory) (a i : Nat) (l : List Byte) (h : i < l.length) :
    Memory.byte (Memory.setBytes m a l) (a + i) = l[i] := by
  induction l generalizing m a i with
  | nil => simp at h
  | cons b t ih =>
    cases i with
    | zero => rw [Memory.setBytes, Memory.byte_setBytes_of_outside _ _ _ _ (by omega), Memory.byte_setByte]; simp
    | succ i =>
      have := ih (Memory.setByte m a b) (a + 1) i (by simpa using h)
      rw [Memory.setBytes, show a + (i + 1) = a + 1 + i by omega, this]; rfl

end Sys2Proof.Machine
end

