-- ==== Sys2Proof/Laws/Registers.lean ====
section
/-! SUPPORT. The laws of the registers: what a register reads after a store of it or of another, which fields and bits a store of a field
leaves, and the region that each named register lies in. -/
set_option Elab.async false
set_option linter.all false
namespace Sys2Proof.Machine

/-! ## Bit fields of numbers -/

theorem bitsOf_lt (v hi lo : Nat) : bitsOf v hi lo < 2 ^ (hi + 1 - lo) := Nat.mod_lt _ (Nat.two_pow_pos _)

theorem one_eq (b : Bool) : one b = if b then 1 else 0 := by cases b <;> rfl

/-- Bit `i` of field `[hi:lo]` of a number. -/
theorem testBit_bitsOf (v hi lo i : Nat) : (bitsOf v hi lo).testBit i = (decide (i < hi + 1 - lo) && v.testBit (lo + i)) := by
  simp [bitsOf, Nat.testBit_mod_two_pow, Nat.testBit_div_two_pow, Nat.add_comm]

theorem bitOf_testBit (v i : Nat) : bitOf v i = v.testBit i := by
  rw [Nat.testBit_eq_decide_div_mod_eq]; simp [bitOf]

/-- A number with field `[hi:lo]` replaced, as its part above the field, the new field, and its part below. -/
theorem putField_eq (w hi lo v : Nat) : putField w hi lo v =
    2 ^ lo * (2 ^ (hi + 1 - lo) * (w / 2 ^ lo / 2 ^ (hi + 1 - lo)) + v % 2 ^ (hi + 1 - lo)) + w % 2 ^ lo := by
  unfold putField bitsOf
  have h1 := Nat.div_add_mod w (2 ^ lo)
  have h2 := Nat.div_add_mod (w / 2 ^ lo) (2 ^ (hi + 1 - lo))
  generalize w / 2 ^ lo = a at *
  generalize a / 2 ^ (hi + 1 - lo) = q at *
  generalize a % 2 ^ (hi + 1 - lo) = f at *
  generalize w % 2 ^ lo = r at *
  generalize v % 2 ^ (hi + 1 - lo) = g at *
  generalize 2 ^ (hi + 1 - lo) = m at *
  generalize 2 ^ lo = l at *
  subst h2
  have : l * (m * q + f) = l * (m * q) + f * l := by rw [Nat.mul_add, Nat.mul_comm l f]
  have k : l * (m * q + g) = l * (m * q) + g * l := by rw [Nat.mul_add, Nat.mul_comm l g]
  omega

/-- Bit `i` of a number whose field `[hi:lo]` is replaced. -/
theorem testBit_putField (w hi lo v i : Nat) (h : lo ≤ hi) :
    (putField w hi lo v).testBit i = if lo ≤ i ∧ i ≤ hi then v.testBit (i - lo) else w.testBit i := by
  rw [putField_eq, Nat.testBit_two_pow_mul_add _ (Nat.mod_lt _ (Nat.two_pow_pos _))]
  by_cases h1 : i < lo
  · have : ¬(lo ≤ i ∧ i ≤ hi) := by omega
    simp [h1, this, Nat.testBit_mod_two_pow]
  · rw [if_neg h1, Nat.testBit_two_pow_mul_add _ (Nat.mod_lt _ (Nat.two_pow_pos _))]
    by_cases h2 : i - lo < hi + 1 - lo
    · have : lo ≤ i ∧ i ≤ hi := by omega
      simp [h2, this, Nat.testBit_mod_two_pow]
    · have : ¬(lo ≤ i ∧ i ≤ hi) := by omega
      have e : lo + (hi + 1 - lo + (i - lo - (hi + 1 - lo))) = i := by omega
      have e2 : lo + (i - lo) = i := by omega
      simp only [h2, if_false, this, Nat.testBit_div_two_pow]
      congr 1; omega

/-- A field reads what was put into it. -/
theorem bitsOf_putField (w hi lo v : Nat) (h : lo ≤ hi) : bitsOf (putField w hi lo v) hi lo = v % 2 ^ (hi + 1 - lo) := by
  apply Nat.eq_of_testBit_eq
  intro i
  rw [testBit_bitsOf, testBit_putField _ _ _ _ _ h, Nat.testBit_mod_two_pow]
  by_cases k : i < hi + 1 - lo
  · have : lo ≤ lo + i ∧ lo + i ≤ hi := by omega
    simp [k, this]
  · simp [k]

/-- A field apart from the one replaced is as it was. -/
theorem bitsOf_putField_apart (w hi lo v hi' lo' : Nat) (h : lo ≤ hi) (k : hi' < lo ∨ hi < lo') :
    bitsOf (putField w hi lo v) hi' lo' = bitsOf w hi' lo' := by
  apply Nat.eq_of_testBit_eq
  intro i
  rw [testBit_bitsOf, testBit_bitsOf, testBit_putField _ _ _ _ _ h]
  by_cases e : i < hi' + 1 - lo'
  · have : ¬(lo ≤ lo' + i ∧ lo' + i ≤ hi) := by omega
    simp [this]
  · simp [e]

theorem bitOf_putField (w hi lo v i : Nat) (h : lo ≤ hi) :
    bitOf (putField w hi lo v) i = if lo ≤ i ∧ i ≤ hi then bitOf v (i - lo) else bitOf w i := by
  simp only [bitOf_testBit, testBit_putField _ _ _ _ _ h]

/-- A 32-bit word stays one when a field within it is replaced. -/
theorem putField_lt (w hi lo v : Nat) (h : lo ≤ hi) (k : hi < 32) (hw : w < 2 ^ 32) : putField w hi lo v < 2 ^ 32 := by
  apply Nat.lt_pow_two_of_testBit
  intro i hi'
  rw [testBit_putField _ _ _ _ _ h]
  have : ¬(lo ≤ i ∧ i ≤ hi) := by omega
  simp only [this, if_false]
  exact Nat.testBit_lt_two_pow (Nat.lt_of_lt_of_le hw (Nat.pow_le_pow_right (by decide) hi'))

/-! ## A register after a store -/

theorem Sparse.get_set_other {β : Type} [DecidableEq β] (d e : β) (m : Sparse β) (k j : Nat) (v : β) (h : k ≠ j) :
    Sparse.get e (Sparse.set d m k v) j = Sparse.get e m j := by
  unfold Sparse.set
  split
  · rw [Sparse.get_drop, if_neg h]
  · rw [Sparse.get_place _ _ _ _ _ (Sparse.drop_ne m k), if_neg h, Sparse.get_drop, if_neg h]

theorem reg_setReg (s : State) (off off' : Nat) (v : Word) : reg (setReg s off v) off' = if off = off' then v else reg s off' := by
  by_cases e : off = off'
  · subst e; simp [reg, setReg, Sparse.get_set]
  · simp only [reg, setReg, e, if_false]; exact Sparse.get_set_other _ _ _ _ _ _ e

@[simp] theorem reg_setReg_same (s : State) (off : Nat) (v : Word) : reg (setReg s off v) off = v := by simp [reg_setReg]

theorem reg_setReg_other (s : State) {off off' : Nat} (v : Word) (h : off ≠ off') : reg (setReg s off v) off' = reg s off' := by
  simp [reg_setReg, h]

theorem regNat_lt (s : State) (off : Nat) : regNat s off < 2 ^ 32 := (reg s off).isLt

theorem regNat_setNat (s : State) (off off' v : Nat) : regNat (setNat s off v) off' = if off = off' then v % 2 ^ 32 else regNat s off' := by
  unfold regNat setNat; rw [reg_setReg]; split <;> simp

@[simp] theorem regNat_setNat_same (s : State) (off v : Nat) : regNat (setNat s off v) off = v % 2 ^ 32 := by simp [regNat_setNat]

theorem regNat_setNat_other (s : State) {off off' : Nat} (v : Nat) (h : off ≠ off') : regNat (setNat s off v) off' = regNat s off' := by
  simp [regNat_setNat, h]

/-- The register after its field is replaced. -/
theorem regNat_setFld (s : State) (off hi lo v off' : Nat) (h : lo ≤ hi) (k : hi < 32) :
    regNat (setFld s off hi lo v) off' = if off = off' then putField (regNat s off) hi lo v else regNat s off' := by
  unfold setFld; rw [regNat_setNat]; split
  · exact Nat.mod_eq_of_lt (putField_lt _ _ _ _ h k (regNat_lt s off))
  · rfl

theorem regNat_setFld_other (s : State) {off off' : Nat} (hi lo v : Nat) (h : off ≠ off') : regNat (setFld s off hi lo v) off' = regNat s off' := by
  unfold setFld; exact regNat_setNat_other _ _ h

/-- A field reads what was stored in it. -/
theorem fld_setFld_same (s : State) (off hi lo v : Nat) (h : lo ≤ hi) (k : hi < 32) :
    fld (setFld s off hi lo v) off hi lo = v % 2 ^ (hi + 1 - lo) := by
  unfold fld; rw [regNat_setFld _ _ _ _ _ _ h k, if_pos rfl, bitsOf_putField _ _ _ _ h]

/-- A field apart from the one stored is as it was. -/
theorem fld_setFld_apart (s : State) (off hi lo v hi' lo' : Nat) (h : lo ≤ hi) (k : hi < 32) (d : hi' < lo ∨ hi < lo') :
    fld (setFld s off hi lo v) off hi' lo' = fld s off hi' lo' := by
  unfold fld; rw [regNat_setFld _ _ _ _ _ _ h k, if_pos rfl, bitsOf_putField_apart _ _ _ _ _ _ h d]

theorem fld_setFld_other (s : State) {off off' : Nat} (hi lo v hi' lo' : Nat) (h : off ≠ off') :
    fld (setFld s off hi lo v) off' hi' lo' = fld s off' hi' lo' := by
  unfold fld; rw [regNat_setFld_other _ _ _ _ h]

theorem rbit_setBit_same (s : State) (off i : Nat) (b : Bool) (k : i < 32) : rbit (setBit s off i b) off i = b := by
  unfold rbit setBit
  rw [regNat_setFld _ _ _ _ _ _ (Nat.le_refl i) k, if_pos rfl, bitOf_putField _ _ _ _ _ (Nat.le_refl i)]
  cases b <;> simp [one, bitOf]

theorem rbit_setBit_apart (s : State) (off i j : Nat) (b : Bool) (k : i < 32) (h : i ≠ j) : rbit (setBit s off i b) off j = rbit s off j := by
  unfold rbit setBit
  rw [regNat_setFld _ _ _ _ _ _ (Nat.le_refl i) k, if_pos rfl, bitOf_putField _ _ _ _ _ (Nat.le_refl i)]
  have : ¬(i ≤ j ∧ j ≤ i) := by omega
  simp [this]

theorem rbit_setFld_apart (s : State) (off hi lo v j : Nat) (h : lo ≤ hi) (k : hi < 32) (d : j < lo ∨ hi < j) :
    rbit (setFld s off hi lo v) off j = rbit s off j := by
  unfold rbit
  rw [regNat_setFld _ _ _ _ _ _ h k, if_pos rfl, bitOf_putField _ _ _ _ _ h]
  have : ¬(lo ≤ j ∧ j ≤ hi) := by omega
  simp [this]

/-- A counter after an event: one higher, or at its top (R17). -/
theorem regNat_bump (s : State) (off off' : Nat) :
    regNat (bump s off) off' = if off = off' then min (regNat s off + 1) allBits else regNat s off' := by
  unfold bump bumpBy; rw [regNat_setNat]; split
  · exact Nat.mod_eq_of_lt (Nat.lt_of_le_of_lt (Nat.min_le_right _ _) (by decide))
  · rfl

/-- Only the registers differ after a store of one. -/
theorem setReg_eq (s : State) (off : Nat) (v : Word) : setReg s off v = { s with regs := (setReg s off v).regs } := rfl

/-! ## The region of each named register -/

theorem regBlock_mem (off : Nat) : regBlock off ∈ Component.registers := by
  unfold regBlock; repeat' split
  all_goals decide

theorem regBlock_of_glb {off : Nat} (b : off < 0x10000) : regBlock off = .regGlb := by rw [regBlock, if_pos b]

theorem regBlock_of_led {off : Nat} (a : 0x10000 ≤ off) (b : off < 0x20000) : regBlock off = .regLed := by
  unfold regBlock; (repeat' split) <;> first | (exfalso; omega) | rfl

theorem regBlock_of_arm {off : Nat} (a : 0x20000 ≤ off) (b : off < 0x30000) : regBlock off = .regArm := by
  unfold regBlock; (repeat' split) <;> first | (exfalso; omega) | rfl

theorem regBlock_of_grf {off : Nat} (a : 0x30000 ≤ off) (b : off < 0x40000) : regBlock off = .regGrf := by
  unfold regBlock; (repeat' split) <;> first | (exfalso; omega) | rfl

theorem regBlock_of_tier {off : Nat} (a : 0x40000 ≤ off) (b : off < 0x50000) : regBlock off = .regTier := by
  unfold regBlock; (repeat' split) <;> first | (exfalso; omega) | rfl

theorem regBlock_of_fab {off : Nat} (a : 0x50000 ≤ off) (b : off < 0x60000) : regBlock off = .regFab := by
  unfold regBlock; (repeat' split) <;> first | (exfalso; omega) | rfl

theorem regBlock_of_upd {off : Nat} (a : 0x60000 ≤ off) (b : off < 0x70000) : regBlock off = .regUpd := by
  unfold regBlock; (repeat' split) <;> first | (exfalso; omega) | rfl

theorem regBlock_of_hst {off : Nat} (a : 0x70000 ≤ off) (b : off < 0x100000) : regBlock off = .regHst := by
  unfold regBlock; (repeat' split) <;> first | (exfalso; omega) | rfl

/-- Within the packages' regions, the block follows from the offset within a package. -/
theorem regBlock_pkg {off : Nat} (a : 0x100000 ≤ off) (b : off < 0x1000000) : regBlock off =
    if (off - 0x100000) % 0x40000 < 0x10000 then .regScn
    else if (off - 0x100000) % 0x40000 < 0x20000 then .regSrc
    else if (off - 0x100000) % 0x40000 < 0x30000 then .regFtl else .regMed := by
  have below : ∀ n ≤ 0x100000, ¬off < n := fun n k => by omega
  have above : ¬0x1000000 ≤ off := by omega
  simp only [regBlock, above, if_false, below 0x10000 (by decide), below 0x20000 (by decide), below 0x30000 (by decide), below 0x40000 (by decide),
    below 0x50000 (by decide), below 0x60000 (by decide), below 0x70000 (by decide), below 0x100000 (by decide)]

theorem regBlock_of_scn {off : Nat} (a : 0x100000 ≤ off) (b : off < 0x1000000) (d : (off - 0x100000) % 0x40000 < 0x10000) :
    regBlock off = .regScn := by
  rw [regBlock_pkg a b, if_pos d]

theorem regBlock_of_src {off : Nat} (a : 0x100000 ≤ off) (b : off < 0x1000000) (c : 0x10000 ≤ (off - 0x100000) % 0x40000) (d : (off - 0x100000) % 0x40000 < 0x20000) :
    regBlock off = .regSrc := by
  rw [regBlock_pkg a b, if_neg (by omega), if_pos d]

theorem regBlock_of_ftl {off : Nat} (a : 0x100000 ≤ off) (b : off < 0x1000000) (c : 0x20000 ≤ (off - 0x100000) % 0x40000) (d : (off - 0x100000) % 0x40000 < 0x30000) :
    regBlock off = .regFtl := by
  rw [regBlock_pkg a b, if_neg (by omega), if_neg (by omega), if_pos d]

theorem regBlock_of_med {off : Nat} (a : 0x100000 ≤ off) (b : off < 0x1000000) (c : 0x30000 ≤ (off - 0x100000) % 0x40000) :
    regBlock off = .regMed := by
  rw [regBlock_pkg a b, if_neg (by omega), if_neg (by omega), if_neg (by omega)]

theorem regBlock_of_til {off : Nat} (a : 0x1000000 ≤ off) : regBlock off = .regTil := by
  unfold regBlock; (repeat' split) <;> first | (exfalso; omega) | rfl

@[simp] theorem regBlock_GLB_FW_WINDOW (c : Nat) : regBlock (GLB_FW_WINDOW c) = .regGlb := regBlock_of_glb (by unfold GLB_FW_WINDOW; omega)

@[simp] theorem regBlock_GLB_FW_RETRY (c : Nat) : regBlock (GLB_FW_RETRY c) = .regGlb := regBlock_of_glb (by unfold GLB_FW_RETRY; omega)

@[simp] theorem regBlock_GLB_FT_TRANS (c : Nat) : regBlock (GLB_FT_TRANS c) = .regGlb := regBlock_of_glb (by unfold GLB_FT_TRANS; omega)

@[simp] theorem regBlock_GLB_FT_PERM (c : Nat) : regBlock (GLB_FT_PERM c) = .regGlb := regBlock_of_glb (by unfold GLB_FT_PERM; omega)

@[simp] theorem regBlock_LED_DOM_BUDGET (d : Nat) : regBlock (LED_DOM_BUDGET d) = .regLed := regBlock_of_led (by unfold LED_DOM_BUDGET; omega) (by unfold LED_DOM_BUDGET; omega)

@[simp] theorem regBlock_LED_DOM_PWR (d : Nat) : regBlock (LED_DOM_PWR d) = .regLed := regBlock_of_led (by unfold LED_DOM_PWR; omega) (by unfold LED_DOM_PWR; omega)

@[simp] theorem regBlock_LED_DOM_ENERGY (d : Nat) : regBlock (LED_DOM_ENERGY d) = .regLed := regBlock_of_led (by unfold LED_DOM_ENERGY; omega) (by unfold LED_DOM_ENERGY; omega)

@[simp] theorem regBlock_GRF_CLASS_CTRL (c : Nat) : regBlock (GRF_CLASS_CTRL c) = .regGrf := regBlock_of_grf (by unfold GRF_CLASS_CTRL; omega) (by unfold GRF_CLASS_CTRL; omega)

@[simp] theorem regBlock_GRF_CLASS_WAIT (c : Nat) : regBlock (GRF_CLASS_WAIT c) = .regGrf := regBlock_of_grf (by unfold GRF_CLASS_WAIT; omega) (by unfold GRF_CLASS_WAIT; omega)

@[simp] theorem regBlock_GRF_CLASS_USE (c : Nat) : regBlock (GRF_CLASS_USE c) = .regGrf := regBlock_of_grf (by unfold GRF_CLASS_USE; omega) (by unfold GRF_CLASS_USE; omega)

@[simp] theorem regBlock_TIER_STALL (c : Nat) : regBlock (TIER_STALL c) = .regTier := regBlock_of_tier (by unfold TIER_STALL; omega) (by unfold TIER_STALL; omega)

@[simp] theorem regBlock_TIER_PC_RET (u : Nat) : regBlock (TIER_PC_RET u) = .regTier := regBlock_of_tier (by unfold TIER_PC_RET; omega) (by unfold TIER_PC_RET; omega)

@[simp] theorem regBlock_UPD_PSTAGE (w : Nat) : regBlock (UPD_PSTAGE w) = .regUpd := regBlock_of_upd (by unfold UPD_PSTAGE; omega) (by unfold UPD_PSTAGE; omega)

@[simp] theorem regBlock_HST_PS_CAP (n : Nat) : regBlock (HST_PS_CAP n) = .regHst := regBlock_of_hst (by unfold HST_PS_CAP; omega) (by unfold HST_PS_CAP; omega)

@[simp] theorem regBlock_UPD_SLOT (n w : Nat) : regBlock (UPD_SLOT n w) = .regUpd := regBlock_of_upd (by unfold UPD_SLOT; omega) (by unfold UPD_SLOT; omega)

@[simp] theorem regBlock_portReg (p k : Nat) : regBlock (portReg p k) = .regFab := regBlock_of_fab (by unfold portReg; omega) (by unfold portReg; omega)

@[simp] theorem regBlock_treeReg (t k : Nat) : regBlock (treeReg t k) = .regFab := regBlock_of_fab (by unfold treeReg; omega) (by unfold treeReg; omega)

@[simp] theorem regBlock_updReg (t k : Nat) : regBlock (updReg t k) = .regUpd := regBlock_of_upd (by unfold updReg; omega) (by unfold updReg; omega)

@[simp] theorem regBlock_scnReg (p k : Nat) : regBlock (scnReg p k) = .regScn :=
  regBlock_of_scn (by unfold scnReg packageBase; omega) (by unfold scnReg packageBase; omega) (by unfold scnReg packageBase; omega)

@[simp] theorem regBlock_srcReg (p k : Nat) : regBlock (srcReg p k) = .regSrc :=
  regBlock_of_src (by unfold srcReg packageBase; omega) (by unfold srcReg packageBase; omega) (by unfold srcReg packageBase; omega) (by unfold srcReg packageBase; omega)

@[simp] theorem regBlock_ftlReg (p k : Nat) : regBlock (ftlReg p k) = .regFtl :=
  regBlock_of_ftl (by unfold ftlReg packageBase; omega) (by unfold ftlReg packageBase; omega) (by unfold ftlReg packageBase; omega) (by unfold ftlReg packageBase; omega)

@[simp] theorem regBlock_medReg (p k : Nat) : regBlock (medReg p k) = .regMed :=
  regBlock_of_med (by unfold medReg packageBase; omega) (by unfold medReg packageBase; omega) (by unfold medReg packageBase; omega)

@[simp] theorem regBlock_tilReg (t k : Nat) : regBlock (tilReg t k) = .regTil := regBlock_of_til (by unfold tilReg tileBase; omega)

@[simp] theorem regBlock_scnReg_add (p k : Nat) (h : k % 0x10000 + 4 < 0x10000) : regBlock (scnReg p k + 4) = .regScn :=
  regBlock_of_scn (by unfold scnReg packageBase; omega) (by unfold scnReg packageBase; omega) (by unfold scnReg packageBase; omega)

@[simp] theorem regBlock_srcReg_add (p k : Nat) (h : k % 0x10000 + 4 < 0x10000) : regBlock (srcReg p k + 4) = .regSrc :=
  regBlock_of_src (by unfold srcReg packageBase; omega) (by unfold srcReg packageBase; omega) (by unfold srcReg packageBase; omega) (by unfold srcReg packageBase; omega)

@[simp] theorem regBlock_ftlReg_add (p k : Nat) (h : k % 0x10000 + 4 < 0x10000) : regBlock (ftlReg p k + 4) = .regFtl :=
  regBlock_of_ftl (by unfold ftlReg packageBase; omega) (by unfold ftlReg packageBase; omega) (by unfold ftlReg packageBase; omega) (by unfold ftlReg packageBase; omega)

@[simp] theorem regBlock_tilReg_add (t k : Nat) : regBlock (tilReg t k + 4) = .regTil := regBlock_of_til (by unfold tilReg tileBase; omega)

@[simp] theorem regBlock_GRF_CLASS_USE_add (c : Nat) : regBlock (GRF_CLASS_USE c + 4) = .regGrf :=
  regBlock_of_grf (by unfold GRF_CLASS_USE; omega) (by unfold GRF_CLASS_USE; omega)

@[simp] theorem regBlock_GLB_FW_WINDOW_add (c : Nat) : regBlock (GLB_FW_WINDOW c + 4) = .regGlb := regBlock_of_glb (by unfold GLB_FW_WINDOW; omega)

@[simp] theorem regBlock_LED_DOM_ENERGY_add (d : Nat) : regBlock (LED_DOM_ENERGY d + 4) = .regLed :=
  regBlock_of_led (by unfold LED_DOM_ENERGY; omega) (by unfold LED_DOM_ENERGY; omega)

end Sys2Proof.Machine
end

