-- ==== Sys2Proof/Laws/Keeps.lean ====
section
/-! SUPPORT. What every operation of the model keeps: the relation, that it composes, and its rules for the ways in which a state is
made from another. The other files of the same name hold one lemma for each operation. -/
set_option Elab.async false
set_option linter.all false
namespace Sys2Proof.Machine

/-- What an operation keeps of the state it starts from: the queue, what lasts, every canonical form, and every part that is not listed. -/
structure Keeps (allowed : List Component) (s t : State) : Prop where
  pending : t.pending = s.pending
  lasts : Lasts s t
  memories : memoriesWf s → memoriesWf t
  regs : regsWf s → regsWf t
  only : ChangesOnly allowed s t

theorem regionSame.of_eq {s t : State} (h : t.regs = s.regs) (b : Component) : regionSame s t b := fun off _ => by simp only [reg, h]

theorem regionSame.trans {s t u : State} {b : Component} (h : regionSame s t b) (k : regionSame t u b) : regionSame s u b :=
  fun off e => (k off e).trans (h off e)

theorem Component.same_refl (s : State) (p : Component) : Component.same s s p := by
  cases p <;> simp [Component.same, regionSame.of_eq]

theorem Component.same_trans {s t u : State} {p : Component} (h : Component.same s t p) (k : Component.same t u p) : Component.same s u p := by
  cases p <;> simp only [Component.same] at * <;> first | exact h.trans k | simp only [h, k, and_self]

/-- A part that may change because a shorter list lets it. -/
theorem Component.sub {a b allowed : List Component} (h : ∀ p ∈ b, p ∈ allowed) (k : ∀ p ∈ a, p ∈ b) : ∀ p ∈ a, p ∈ allowed := fun p x => h p (k p x)

/-- A store at an offset that is not known stays within all of the regions. -/
theorem Component.sub_off {b : List Component} {off : Nat} (k : ∀ p ∈ Component.registers, p ∈ b) : ∀ p ∈ [regBlock off], p ∈ b := fun p h => by
  rw [List.mem_singleton] at h; subst h; exact k _ (regBlock_mem off)

theorem Component.sub_cons {a : List Component} {b : List Component} {x : Component} (h : x ∈ b) (k : ∀ p ∈ a, p ∈ b) : ∀ p ∈ x :: a, p ∈ b :=
  List.forall_mem_cons.mpr ⟨h, k⟩

theorem Component.off_mem {b : List Component} (off : Nat) (k : ∀ p ∈ Component.registers, p ∈ b) : regBlock off ∈ b := k _ (regBlock_mem off)

/-- A store at an offset of TIER that is computed. -/
theorem Component.sub_tier {off : Nat} (a : 0x40000 ≤ off) (b : off < 0x50000) : ∀ p ∈ [regBlock off], p ∈ [Component.regTier] := fun p h => by
  rw [regBlock_of_tier a b] at h; exact h

theorem NvLasts.refl (a : Nv) : NvLasts a a :=
  ⟨rfl, rfl, rfl, fun _ h => h, fun _ h => h, fun _ h => h, fun _ h => h, fun _ h => h, fun _ h => h, fun _ h => h, Nat.le_refl _, fun _ h => h,
    Nat.le_refl _, Nat.le_refl _⟩

theorem NvLasts.trans {a b c : Nv} (h : NvLasts a b) (k : NvLasts b c) : NvLasts a c :=
  ⟨k.1.trans h.1, k.2.trans h.2, k.3.trans h.3, fun _ x => k.4 (h.4 x), fun _ x => k.5 (h.5 x), fun _ x => k.6 (h.6 x), fun _ x => k.7 (h.7 x),
    fun _ x => k.8 (h.8 x), fun _ x => k.9 (h.9 x), fun _ x => k.10 (h.10 x), Nat.le_trans h.11 k.11, fun i x => k.12 i (h.12 i x),
    Nat.le_trans h.13 k.13, Nat.le_trans h.14 k.14⟩

theorem Lasts.refl (s : State) : Lasts s s := ⟨rfl, NvLasts.refl _, rfl, fun _ => Nat.le_refl _, Nat.le_refl _⟩

theorem Lasts.trans {s t u : State} (h : Lasts s t) (k : Lasts t u) : Lasts s u :=
  ⟨k.1.trans h.1, h.2.trans k.2, k.3.trans h.3, fun p => Nat.le_trans (h.4 p) (k.4 p), Nat.le_trans h.5 k.5⟩

theorem Keeps.refl (allowed : List Component) (s : State) : Keeps allowed s s := ⟨rfl, Lasts.refl s, fun h => h, fun h => h, fun p _ => Component.same_refl s p⟩

theorem Keeps.trans {allowed : List Component} {s t u : State} (h : Keeps allowed s t) (k : Keeps allowed t u) : Keeps allowed s u :=
  ⟨k.1.trans h.1, h.2.trans k.2, fun x => k.3 (h.3 x), fun x => k.4 (h.4 x), fun p x => Component.same_trans (h.5 p x) (k.5 p x)⟩

variable {allowed : List Component} {s0 s : State}

/-- A record that differs in the parts of the core that may change. -/
theorem Keeps.lit (h : Keeps allowed s0 s) {power : Power} {tb : Nat} {latch : Sparse (Option Word)} {readData : Word} {loader :
    Loader} {tiles : Sparse Tile} {grf : GraphEngine} {mover : Mover} {scan : Scanner} {search : Searcher} {fabric : Fabric} {host :
    HostIf} {ledger : Ledger} {sec : Security} {faults : Faults} {out : List Out} {fresh : Nat}  (hpower : Component.power ∈ allowed ∨ power =
    s.power := by exact .inr rfl) (htb : Component.time ∈ allowed ∨ tb = s.tb := by exact .inr rfl) (hlatch : Component.bus ∈ allowed ∨ latch = s.latch := by exact .inr rfl) (hreadData : Component.bus ∈ allowed ∨ readData =
    s.readData := by exact .inr rfl) (hloader : Component.loader ∈ allowed ∨ loader = s.loader := by exact .inr rfl) (htiles : Component.tiles ∈ allowed ∨ tiles = s.tiles := by exact .inr rfl) (hgrf : Component.grf ∈ allowed ∨
    grf = s.grf := by exact .inr rfl) (hmover : Component.mover ∈ allowed ∨ mover = s.mover := by exact .inr rfl) (hscan : Component.scan ∈ allowed ∨ scan = s.scan := by exact .inr rfl) (hsearch : Component.search ∈ allowed ∨
    search = s.search := by exact .inr rfl) (hfabric : Component.fabric ∈ allowed ∨ fabric = s.fabric := by exact .inr rfl) (hhost : Component.host ∈ allowed ∨ host = s.host := by exact .inr rfl) (hledger : Component.ledger
    ∈ allowed ∨ ledger = s.ledger := by exact .inr rfl) (hsec : Component.sec ∈ allowed ∨ sec = s.sec := by exact .inr rfl) (hfaults : Component.faults ∈ allowed ∨ faults = s.faults := by exact .inr rfl) (hout : Component.out ∈ allowed
    ∨ out = s.out := by exact .inr rfl) : Keeps allowed s0 (State.mk s.build s.nv s.packages s.corpus power tb s.regs latch readData loader tiles s.store s.dram
    grf mover scan search fabric host ledger sec faults fresh out s.pending) :=
  h.trans ⟨rfl, ⟨rfl, NvLasts.refl _, rfl, fun _ => Nat.le_refl _, Nat.le_refl _⟩, fun x => x, fun x => x, fun p hp => by
    cases p <;>
      first
      | exact regionSame.of_eq rfl _ | exact rfl | exact hpower.resolve_left hp | exact htb.resolve_left hp | exact hloader.resolve_left hp | exact htiles.resolve_left hp | exact hgrf.resolve_left hp | exact hmover.resolve_left hp | exact hscan.resolve_left hp | exact hsearch.resolve_left hp | exact hfabric.resolve_left hp | exact hhost.resolve_left hp
      | exact hledger.resolve_left hp | exact hsec.resolve_left hp | exact hfaults.resolve_left hp | exact hout.resolve_left hp | exact ⟨hlatch.resolve_left hp, hreadData.resolve_left hp⟩
      | simp [Component.same]⟩

/-! A record that differs in one part alone. -/

theorem Keeps.litFresh (h : Keeps allowed s0 s) {fresh : Nat} :
    Keeps allowed s0 (State.mk s.build s.nv s.packages s.corpus s.power s.tb s.regs s.latch s.readData s.loader s.tiles s.store s.dram s.grf s.mover s.scan s.search s.fabric s.host s.ledger s.sec s.faults fresh s.out s.pending) :=
  Keeps.lit h

theorem Keeps.litPower (h : Keeps allowed s0 s) {x : Power} (hx : Component.power ∈ allowed) {fresh : Nat} :
    Keeps allowed s0 (State.mk s.build s.nv s.packages s.corpus x s.tb s.regs s.latch s.readData s.loader s.tiles s.store s.dram s.grf s.mover s.scan s.search s.fabric s.host s.ledger s.sec s.faults fresh s.out s.pending) :=
  Keeps.lit h (hpower := .inl hx)

theorem Keeps.litLoader (h : Keeps allowed s0 s) {x : Loader} (hx : Component.loader ∈ allowed) {fresh : Nat} :
    Keeps allowed s0 (State.mk s.build s.nv s.packages s.corpus s.power s.tb s.regs s.latch s.readData x s.tiles s.store s.dram s.grf s.mover s.scan s.search s.fabric s.host s.ledger s.sec s.faults fresh s.out s.pending) :=
  Keeps.lit h (hloader := .inl hx)

theorem Keeps.litTiles (h : Keeps allowed s0 s) {x : Sparse Tile} (hx : Component.tiles ∈ allowed) {fresh : Nat} :
    Keeps allowed s0 (State.mk s.build s.nv s.packages s.corpus s.power s.tb s.regs s.latch s.readData s.loader x s.store s.dram s.grf s.mover s.scan s.search s.fabric s.host s.ledger s.sec s.faults fresh s.out s.pending) :=
  Keeps.lit h (htiles := .inl hx)

theorem Keeps.litGrf (h : Keeps allowed s0 s) {x : GraphEngine} (hx : Component.grf ∈ allowed) {fresh : Nat} :
    Keeps allowed s0 (State.mk s.build s.nv s.packages s.corpus s.power s.tb s.regs s.latch s.readData s.loader s.tiles s.store s.dram x s.mover s.scan s.search s.fabric s.host s.ledger s.sec s.faults fresh s.out s.pending) :=
  Keeps.lit h (hgrf := .inl hx)

theorem Keeps.litMover (h : Keeps allowed s0 s) {x : Mover} (hx : Component.mover ∈ allowed) {fresh : Nat} :
    Keeps allowed s0 (State.mk s.build s.nv s.packages s.corpus s.power s.tb s.regs s.latch s.readData s.loader s.tiles s.store s.dram s.grf x s.scan s.search s.fabric s.host s.ledger s.sec s.faults fresh s.out s.pending) :=
  Keeps.lit h (hmover := .inl hx)

theorem Keeps.litScan (h : Keeps allowed s0 s) {x : Scanner} (hx : Component.scan ∈ allowed) {fresh : Nat} :
    Keeps allowed s0 (State.mk s.build s.nv s.packages s.corpus s.power s.tb s.regs s.latch s.readData s.loader s.tiles s.store s.dram s.grf s.mover x s.search s.fabric s.host s.ledger s.sec s.faults fresh s.out s.pending) :=
  Keeps.lit h (hscan := .inl hx)

theorem Keeps.litSearch (h : Keeps allowed s0 s) {x : Searcher} (hx : Component.search ∈ allowed) {fresh : Nat} :
    Keeps allowed s0 (State.mk s.build s.nv s.packages s.corpus s.power s.tb s.regs s.latch s.readData s.loader s.tiles s.store s.dram s.grf s.mover s.scan x s.fabric s.host s.ledger s.sec s.faults fresh s.out s.pending) :=
  Keeps.lit h (hsearch := .inl hx)

theorem Keeps.litFabric (h : Keeps allowed s0 s) {x : Fabric} (hx : Component.fabric ∈ allowed) {fresh : Nat} :
    Keeps allowed s0 (State.mk s.build s.nv s.packages s.corpus s.power s.tb s.regs s.latch s.readData s.loader s.tiles s.store s.dram s.grf s.mover s.scan s.search x s.host s.ledger s.sec s.faults fresh s.out s.pending) :=
  Keeps.lit h (hfabric := .inl hx)

theorem Keeps.litHost (h : Keeps allowed s0 s) {x : HostIf} (hx : Component.host ∈ allowed) {fresh : Nat} :
    Keeps allowed s0 (State.mk s.build s.nv s.packages s.corpus s.power s.tb s.regs s.latch s.readData s.loader s.tiles s.store s.dram s.grf s.mover s.scan s.search s.fabric x s.ledger s.sec s.faults fresh s.out s.pending) :=
  Keeps.lit h (hhost := .inl hx)

theorem Keeps.litLedger (h : Keeps allowed s0 s) {x : Ledger} (hx : Component.ledger ∈ allowed) {fresh : Nat} :
    Keeps allowed s0 (State.mk s.build s.nv s.packages s.corpus s.power s.tb s.regs s.latch s.readData s.loader s.tiles s.store s.dram s.grf s.mover s.scan s.search s.fabric s.host x s.sec s.faults fresh s.out s.pending) :=
  Keeps.lit h (hledger := .inl hx)

theorem Keeps.litSec (h : Keeps allowed s0 s) {x : Security} (hx : Component.sec ∈ allowed) {fresh : Nat} :
    Keeps allowed s0 (State.mk s.build s.nv s.packages s.corpus s.power s.tb s.regs s.latch s.readData s.loader s.tiles s.store s.dram s.grf s.mover s.scan s.search s.fabric s.host s.ledger x s.faults fresh s.out s.pending) :=
  Keeps.lit h (hsec := .inl hx)

theorem Keeps.litFaults (h : Keeps allowed s0 s) {x : Faults} (hx : Component.faults ∈ allowed) {fresh : Nat} :
    Keeps allowed s0 (State.mk s.build s.nv s.packages s.corpus s.power s.tb s.regs s.latch s.readData s.loader s.tiles s.store s.dram s.grf s.mover s.scan s.search s.fabric s.host s.ledger s.sec x fresh s.out s.pending) :=
  Keeps.lit h (hfaults := .inl hx)

theorem Keeps.litOut (h : Keeps allowed s0 s) {x : List Out} (hx : Component.out ∈ allowed) {fresh : Nat} :
    Keeps allowed s0 (State.mk s.build s.nv s.packages s.corpus s.power s.tb s.regs s.latch s.readData s.loader s.tiles s.store s.dram s.grf s.mover s.scan s.search s.fabric s.host s.ledger s.sec s.faults fresh x s.pending) :=
  Keeps.lit h (hout := .inl hx)

/-- A record that differs in what the option area and OTP hold as well. -/
theorem Keeps.litNv (h : Keeps allowed s0 s) {power : Power} {tb : Nat} {latch : Sparse (Option Word)} {readData : Word} {loader :
    Loader} {tiles : Sparse Tile} {grf : GraphEngine} {mover : Mover} {scan : Scanner} {search : Searcher} {fabric : Fabric} {host :
    HostIf} {ledger : Ledger} {sec : Security} {faults : Faults} {out : List Out} {fresh : Nat} {nv : Nv} (hn : NvLasts s.nv nv)
    (nowner : Component.owner ∈ allowed ∨ (nv.owner = s.nv.owner) := by exact .inr rfl) (nslots : Component.slots ∈ allowed ∨ (nv.selA = s.nv.selA ∧ nv.selB = s.nv.selB ∧ nv.slotA =
    s.nv.slotA ∧ nv.slotB = s.nv.slotB ∧ nv.maquetteOk = s.nv.maquetteOk) := by exact .inr ⟨rfl, rfl, rfl, rfl, rfl⟩) (nfirmware : Component.firmware ∈ allowed ∨ (nv.fw1 = s.nv.fw1 ∧
    nv.fw2 = s.nv.fw2 ∧ nv.fwActive = s.nv.fwActive ∧ nv.fwPending = s.nv.fwPending ∧ nv.svnMin = s.nv.svnMin ∧ nv.revokedKeys =
    s.nv.revokedKeys) := by exact .inr ⟨rfl, rfl, rfl, rfl, rfl, rfl⟩) (nlayout : Component.layout ∈ allowed ∨ (nv.layout = s.nv.layout ∧ nv.layoutEgrps = s.nv.layoutEgrps ∧ nv.layoutRr =
    s.nv.layoutRr ∧ nv.layoutWl = s.nv.layoutWl) := by exact .inr ⟨rfl, rfl, rfl, rfl⟩) (nretire : Component.retire ∈ allowed ∨ (nv.retiredTiles = s.nv.retiredTiles ∧ nv.fencedTiles
    = s.nv.fencedTiles ∧ nv.retiredPcs = s.nv.retiredPcs ∧ nv.fencedPcs = s.nv.fencedPcs ∧ nv.retiredLanes = s.nv.retiredLanes ∧
    nv.retiredAdders = s.nv.retiredAdders ∧ nv.retiredChans = s.nv.retiredChans) := by exact .inr ⟨rfl, rfl, rfl, rfl, rfl, rfl, rfl⟩) (nlog : Component.log ∈ allowed ∨ (nv.faultLog = s.nv.faultLog
    ∧ nv.frecHead = s.nv.frecHead ∧ nv.intr = s.nv.intr ∧ nv.ftTrans = s.nv.ftTrans ∧ nv.ftPerm = s.nv.ftPerm ∧ nv.faultAges =
    s.nv.faultAges ∧ nv.ledger = s.nv.ledger ∧ nv.lossLog = s.nv.lossLog) := by exact .inr ⟨rfl, rfl, rfl, rfl, rfl, rfl, rfl, rfl⟩) (nlife : Component.life ∈ allowed ∨ (nv.pwron = s.nv.pwron ∧
    nv.poweredTicks = s.nv.poweredTicks ∧ nv.tickedTicks = s.nv.tickedTicks) := by exact .inr ⟨rfl, rfl, rfl⟩) (nopt : Component.opt ∈ allowed ∨ (nv.optHome = s.nv.optHome ∧ nv.optMoves = s.nv.optMoves ∧
    nv.optMoving = s.nv.optMoving) := by exact .inr ⟨rfl, rfl, rfl⟩) (hpower : Component.power ∈ allowed ∨ power = s.power := by exact .inr rfl) (htb : Component.time ∈ allowed ∨ tb = s.tb := by exact .inr rfl) (hlatch : Component.bus
    ∈ allowed ∨ latch = s.latch := by exact .inr rfl) (hreadData : Component.bus ∈ allowed ∨ readData = s.readData := by exact .inr rfl) (hloader : Component.loader ∈ allowed ∨ loader = s.loader := by exact .inr rfl) (htiles : Component.tiles ∈ allowed ∨ tiles = s.tiles := by exact .inr rfl) (hgrf : Component.grf ∈ allowed ∨ grf = s.grf := by exact .inr rfl) (hmover : Component.mover ∈ allowed ∨ mover = s.mover := by exact .inr rfl) (hscan : Component.scan ∈ allowed ∨ scan = s.scan := by exact .inr rfl) (hsearch : Component.search ∈ allowed ∨ search = s.search := by exact .inr rfl) (hfabric : Component.fabric ∈ allowed ∨ fabric = s.fabric := by exact .inr rfl)
    (hhost : Component.host ∈ allowed ∨ host = s.host := by exact .inr rfl) (hledger : Component.ledger ∈ allowed ∨ ledger = s.ledger := by exact .inr rfl) (hsec : Component.sec ∈ allowed ∨ sec = s.sec := by exact .inr rfl)
    (hfaults : Component.faults ∈ allowed ∨ faults = s.faults := by exact .inr rfl) (hout : Component.out ∈ allowed ∨ out = s.out := by exact .inr rfl) : Keeps allowed s0 (State.mk s.build nv s.packages
    s.corpus power tb s.regs latch readData loader tiles s.store s.dram grf mover scan search fabric host ledger sec faults fresh out
    s.pending) :=
  h.trans ⟨rfl, ⟨rfl, hn, rfl, fun _ => Nat.le_refl _, Nat.le_refl _⟩, fun x => x, fun x => x, fun p hp => by
    cases p <;>
      first
      | exact regionSame.of_eq rfl _ | exact rfl | exact hpower.resolve_left hp | exact htb.resolve_left hp | exact hloader.resolve_left hp | exact htiles.resolve_left hp | exact hgrf.resolve_left hp | exact hmover.resolve_left hp | exact hscan.resolve_left hp | exact hsearch.resolve_left hp | exact hfabric.resolve_left hp | exact hhost.resolve_left hp
      | exact hledger.resolve_left hp | exact hsec.resolve_left hp | exact hfaults.resolve_left hp | exact hout.resolve_left hp | exact ⟨hlatch.resolve_left hp, hreadData.resolve_left hp⟩ | exact nowner.resolve_left hp | exact nslots.resolve_left hp | exact nfirmware.resolve_left hp
      | exact nlayout.resolve_left hp | exact nretire.resolve_left hp | exact nlog.resolve_left hp | exact nlife.resolve_left hp
      | exact nopt.resolve_left hp
      | simp [Component.same]⟩

/-- A record that differs in the corpora as well. -/
theorem Keeps.litCorpus (h : Keeps allowed s0 s) {power : Power} {tb : Nat} {latch : Sparse (Option Word)} {readData : Word} {loader :
    Loader} {tiles : Sparse Tile} {grf : GraphEngine} {mover : Mover} {scan : Scanner} {search : Searcher} {fabric : Fabric} {host :
    HostIf} {ledger : Ledger} {sec : Security} {faults : Faults} {out : List Out} {fresh : Nat} {c : Corpus} (hc : s.corpus.nextEpoch
    ≤ c.nextEpoch) (hcorpus : Component.corpus ∈ allowed) (hpower : Component.power ∈ allowed ∨ power = s.power := by exact .inr rfl) (htb : Component.time ∈ allowed ∨ tb = s.tb := by exact .inr rfl) (hlatch : Component.bus ∈ allowed ∨ latch = s.latch := by exact .inr rfl) (hreadData : Component.bus ∈ allowed ∨ readData = s.readData := by exact .inr rfl) (hloader : Component.loader ∈ allowed ∨ loader =
    s.loader := by exact .inr rfl) (htiles : Component.tiles ∈ allowed ∨ tiles = s.tiles := by exact .inr rfl) (hgrf : Component.grf ∈ allowed ∨ grf = s.grf := by exact .inr rfl) (hmover : Component.mover ∈ allowed ∨ mover =
    s.mover := by exact .inr rfl) (hscan : Component.scan ∈ allowed ∨ scan = s.scan := by exact .inr rfl) (hsearch : Component.search ∈ allowed ∨ search = s.search := by exact .inr rfl) (hfabric : Component.fabric ∈ allowed ∨
    fabric = s.fabric := by exact .inr rfl) (hhost : Component.host ∈ allowed ∨ host = s.host := by exact .inr rfl) (hledger : Component.ledger ∈ allowed ∨ ledger = s.ledger := by exact .inr rfl) (hsec : Component.sec ∈ allowed ∨
    sec = s.sec := by exact .inr rfl) (hfaults : Component.faults ∈ allowed ∨ faults = s.faults := by exact .inr rfl) (hout : Component.out ∈ allowed ∨ out = s.out := by exact .inr rfl) : Keeps allowed s0 (State.mk s.build
    s.nv s.packages c power tb s.regs latch readData loader tiles s.store s.dram grf mover scan search fabric host ledger sec faults
    fresh out s.pending) :=
  h.trans ⟨rfl, ⟨rfl, NvLasts.refl _, rfl, fun _ => Nat.le_refl _, hc⟩, fun x => x, fun x => x, fun p hp => by
    cases p <;>
      first
      | exact regionSame.of_eq rfl _ | exact rfl | exact hpower.resolve_left hp | exact htb.resolve_left hp | exact hloader.resolve_left hp | exact htiles.resolve_left hp | exact hgrf.resolve_left hp | exact hmover.resolve_left hp | exact hscan.resolve_left hp | exact hsearch.resolve_left hp | exact hfabric.resolve_left hp | exact hhost.resolve_left hp
      | exact hledger.resolve_left hp | exact hsec.resolve_left hp | exact hfaults.resolve_left hp | exact hout.resolve_left hp | exact ⟨hlatch.resolve_left hp, hreadData.resolve_left hp⟩ | exact absurd hcorpus hp
      | simp [Component.same]⟩

/-- A record that differs in its registers as well. -/
theorem Keeps.litRegs (h : Keeps allowed s0 s) {power : Power} {tb : Nat} {latch : Sparse (Option Word)} {readData : Word} {loader :
    Loader} {tiles : Sparse Tile} {grf : GraphEngine} {mover : Mover} {scan : Scanner} {search : Searcher} {fabric : Fabric} {host :
    HostIf} {ledger : Ledger} {sec : Security} {faults : Faults} {out : List Out} {fresh : Nat} {regs : Sparse Word} (hr :
    canonicalFrom regDefault 0 s.regs → canonicalFrom regDefault 0 regs) (hregs : ∀ p ∈ Component.registers, p ∈ allowed) (hpower : Component.power ∈ allowed ∨ power =
    s.power := by exact .inr rfl) (htb : Component.time ∈ allowed ∨ tb = s.tb := by exact .inr rfl) (hlatch : Component.bus ∈ allowed ∨ latch = s.latch := by exact .inr rfl) (hreadData : Component.bus ∈ allowed ∨ readData =
    s.readData := by exact .inr rfl) (hloader : Component.loader ∈ allowed ∨ loader = s.loader := by exact .inr rfl) (htiles : Component.tiles ∈ allowed ∨ tiles = s.tiles := by exact .inr rfl) (hgrf : Component.grf ∈ allowed ∨
    grf = s.grf := by exact .inr rfl) (hmover : Component.mover ∈ allowed ∨ mover = s.mover := by exact .inr rfl) (hscan : Component.scan ∈ allowed ∨ scan = s.scan := by exact .inr rfl) (hsearch : Component.search ∈ allowed ∨
    search = s.search := by exact .inr rfl) (hfabric : Component.fabric ∈ allowed ∨ fabric = s.fabric := by exact .inr rfl) (hhost : Component.host ∈ allowed ∨ host = s.host := by exact .inr rfl) (hledger : Component.ledger
    ∈ allowed ∨ ledger = s.ledger := by exact .inr rfl) (hsec : Component.sec ∈ allowed ∨ sec = s.sec := by exact .inr rfl) (hfaults : Component.faults ∈ allowed ∨ faults = s.faults := by exact .inr rfl) (hout : Component.out ∈ allowed
    ∨ out = s.out := by exact .inr rfl) : Keeps allowed s0 (State.mk s.build s.nv s.packages s.corpus power tb regs latch readData loader tiles s.store s.dram
    grf mover scan search fabric host ledger sec faults fresh out s.pending) :=
  h.trans ⟨rfl, ⟨rfl, NvLasts.refl _, rfl, fun _ => Nat.le_refl _, Nat.le_refl _⟩, fun x => x, hr, fun p hp => by
    cases p <;>
      first
      | exact absurd (hregs _ (by decide)) hp | exact rfl | exact hpower.resolve_left hp | exact htb.resolve_left hp | exact hloader.resolve_left hp | exact htiles.resolve_left hp | exact hgrf.resolve_left hp | exact hmover.resolve_left hp | exact hscan.resolve_left hp | exact hsearch.resolve_left hp | exact hfabric.resolve_left hp | exact hhost.resolve_left hp
      | exact hledger.resolve_left hp | exact hsec.resolve_left hp | exact hfaults.resolve_left hp | exact hout.resolve_left hp | exact ⟨hlatch.resolve_left hp, hreadData.resolve_left hp⟩
      | simp [Component.same]⟩

/-- A record that starts afresh but for the build, flash, the option area, what has left the module, and the queue. -/
theorem Keeps.afresh (h : Keeps allowed s0 s) (power : Power) (tb : Nat) (latch : Sparse (Option Word)) (readData : Word) (loader : Loader)
    (tiles : Sparse Tile) (grf : GraphEngine) (mover : Mover) (scan : Scanner) (search : Searcher) (fabric : Fabric)
    (host : HostIf) (ledger : Ledger) (sec : Security) (faults : Faults) (fresh : Nat)
    (hl : ∀ p ∈ ([.power, .time, .bus, .loader, .tiles, .store, .dram, .grf, .mover, .scan, .search, .fabric, .host, .ledger, .sec, .faults,
      .regGlb, .regLed, .regArm, .regGrf, .regTier, .regFab, .regUpd, .regHst, .regScn, .regSrc, .regFtl, .regMed, .regTil] : List Component), p ∈ allowed) :
    Keeps allowed s0 (State.mk s.build s.nv s.packages s.corpus power tb [] latch readData loader tiles [] {} grf mover scan search fabric host ledger
      sec faults fresh s.out s.pending) :=
  h.trans ⟨rfl, ⟨rfl, NvLasts.refl _, rfl, fun _ => Nat.le_refl _, Nat.le_refl _⟩, fun _ => rfl, fun _ => rfl, fun p hp => by
    cases p <;> first | exact absurd (hl _ (by decide)) hp | exact rfl | simp [Component.same]⟩

/-- What is kept of the stacks and the board memory. -/
structure DramKeeps (a b : Dram) : Prop where
  bytes : Memory.wf a.bytes → Memory.wf b.bytes
  tags : Sparse.wf (0 : Byte) a.tags → Sparse.wf (0 : Byte) b.tags
  gens : Sparse.wf (0 : Nat) a.gens → Sparse.wf (0 : Nat) b.gens

theorem DramKeeps.refl (a : Dram) : DramKeeps a a := ⟨fun h => h, fun h => h, fun h => h⟩

theorem DramKeeps.trans {a b c : Dram} (h : DramKeeps a b) (k : DramKeeps b c) : DramKeeps a c :=
  ⟨fun x => k.1 (h.1 x), fun x => k.2 (h.2 x), fun x => k.3 (h.3 x)⟩

theorem memoriesWf_iff (s : State) : memoriesWf s = true ↔
    Memory.wf s.store = true ∧ Memory.wf s.dram.bytes = true ∧ Sparse.wf (0 : Byte) s.dram.tags = true ∧ Sparse.wf (0 : Nat) s.dram.gens = true := by
  simp [memoriesWf, and_assoc]

/-- A record that differs in its memories as well. -/
theorem Keeps.litMem (h : Keeps allowed s0 s) {power : Power} {tb : Nat} {latch : Sparse (Option Word)} {readData : Word} {loader :
    Loader} {tiles : Sparse Tile} {grf : GraphEngine} {mover : Mover} {scan : Scanner} {search : Searcher} {fabric : Fabric} {host :
    HostIf} {ledger : Ledger} {sec : Security} {faults : Faults} {out : List Out} {fresh : Nat} {store : Memory} {dram : Dram} (hs :
    Memory.wf s.store → Memory.wf store) (hd : DramKeeps s.dram dram) (hstore : Component.store ∈ allowed ∨ store = s.store := by exact .inr rfl) (hdram : Component.dram
    ∈ allowed ∨ dram = s.dram := by exact .inr rfl) (hpower : Component.power ∈ allowed ∨ power = s.power := by exact .inr rfl) (htb : Component.time ∈ allowed ∨ tb = s.tb := by exact .inr rfl) (hlatch : Component.bus ∈ allowed ∨ latch
    = s.latch := by exact .inr rfl) (hreadData : Component.bus ∈ allowed ∨ readData = s.readData := by exact .inr rfl) (hloader : Component.loader ∈ allowed ∨ loader = s.loader := by exact .inr rfl) (htiles : Component.tiles ∈ allowed ∨ tiles = s.tiles := by exact .inr rfl) (hgrf : Component.grf ∈ allowed ∨ grf = s.grf := by exact .inr rfl) (hmover : Component.mover ∈ allowed ∨ mover = s.mover := by exact .inr rfl) (hscan : Component.scan ∈ allowed ∨ scan = s.scan := by exact .inr rfl) (hsearch : Component.search ∈ allowed ∨ search = s.search := by exact .inr rfl) (hfabric : Component.fabric ∈ allowed ∨ fabric = s.fabric := by exact .inr rfl)
    (hhost : Component.host ∈ allowed ∨ host = s.host := by exact .inr rfl) (hledger : Component.ledger ∈ allowed ∨ ledger = s.ledger := by exact .inr rfl) (hsec : Component.sec ∈ allowed ∨ sec = s.sec := by exact .inr rfl)
    (hfaults : Component.faults ∈ allowed ∨ faults = s.faults := by exact .inr rfl) (hout : Component.out ∈ allowed ∨ out = s.out := by exact .inr rfl) : Keeps allowed s0 (State.mk s.build s.nv
    s.packages s.corpus power tb s.regs latch readData loader tiles store dram grf mover scan search fabric host ledger sec faults
    fresh out s.pending) :=
  h.trans ⟨rfl, ⟨rfl, NvLasts.refl _, rfl, fun _ => Nat.le_refl _, Nat.le_refl _⟩, fun x => by
    rw [memoriesWf_iff] at x ⊢; exact ⟨hs x.1, hd.1 x.2.1, hd.2 x.2.2.1, hd.3 x.2.2.2⟩, fun x => x, fun p hp => by
    cases p <;>
      first
      | exact regionSame.of_eq rfl _ | exact rfl | exact hpower.resolve_left hp | exact htb.resolve_left hp | exact hloader.resolve_left hp | exact htiles.resolve_left hp | exact hgrf.resolve_left hp | exact hmover.resolve_left hp | exact hscan.resolve_left hp | exact hsearch.resolve_left hp | exact hfabric.resolve_left hp | exact hhost.resolve_left hp
      | exact hledger.resolve_left hp | exact hsec.resolve_left hp | exact hfaults.resolve_left hp | exact hout.resolve_left hp | exact ⟨hlatch.resolve_left hp, hreadData.resolve_left hp⟩ | exact hstore.resolve_left hp | exact hdram.resolve_left hp
      | simp [Component.same]⟩

/-- The first part of an answer, where the answer is known. -/
theorem Keeps.ofFst {α : Type} {r : State × α} {t : State} {x : α} (h : Keeps allowed s0 r.1) (e : r = (t, x)) : Keeps allowed s0 t := by
  subst e; exact h

/-- A choice keeps what both of its sides keep. -/
theorem Keeps.ite {c : Prop} [Decidable c] {a b : State} (h : c → Keeps allowed s0 a) (k : ¬c → Keeps allowed s0 b) : Keeps allowed s0 (if c then a else b) := by
  split
  · exact h ‹_›
  · exact k ‹_›

/-- The same of the first part of an answer. -/
theorem Keeps.iteFst {α : Type} {c : Prop} [Decidable c] {a b : State × α} (h : c → Keeps allowed s0 a.1) (k : ¬c → Keeps allowed s0 b.1) :
    Keeps allowed s0 (if c then a else b).1 := by
  split
  · exact h ‹_›
  · exact k ‹_›

/-- A change made for every entry of a list. -/
theorem Keeps.foldState {β : Type} {f : State → β → State} (l : List β) (h : Keeps allowed s0 s) (hf : ∀ t b, Keeps allowed s0 t → Keeps allowed s0 (f t b)) :
    Keeps allowed s0 (foldState f s l) := by
  induction l generalizing s with
  | nil => exact h
  | cons b l ih => exact ih (hf s b h)

/-- A change made for every entry of a list, by the library's fold. -/
theorem Keeps.foldl {β : Type} {f : State → β → State} (l : List β) (h : Keeps allowed s0 s) (hf : ∀ t b, Keeps allowed s0 t → Keeps allowed s0 (f t b)) :
    Keeps allowed s0 (l.foldl f s) := by
  induction l generalizing s with
  | nil => exact h
  | cons b l ih => exact ih (hf s b h)

/-- A change made for every entry of a list beside an answer that is built up. -/
theorem Keeps.foldlFst {α β : Type} {f : State × α → β → State × α} {x : State × α} (l : List β) (h : Keeps allowed s0 x.1)
    (hf : ∀ y b, Keeps allowed s0 y.1 → Keeps allowed s0 (f y b).1) : Keeps allowed s0 (l.foldl f x).1 := by
  induction l generalizing x with
  | nil => exact h
  | cons b l ih => exact ih (hf x b h)

theorem canonicalFrom_drop {β : Type} [DecidableEq β] (d : Nat → β) (k : Nat) (m : Sparse β) (lo : Nat) (h : canonicalFrom d lo m) :
    canonicalFrom d lo (Sparse.drop k m) := by
  induction m generalizing lo with
  | nil => simp [Sparse.drop, canonicalFrom]
  | cons p t ih =>
    obtain ⟨k', v'⟩ := p
    simp only [canonicalFrom, Bool.and_eq_true, decide_eq_true_eq] at h
    by_cases hk : k' = k
    · simp only [Sparse.drop, hk, if_true]
      refine ih lo ?_
      have := h.2
      clear ih
      cases t with
      | nil => simp [canonicalFrom]
      | cons q u =>
        obtain ⟨a, b⟩ := q
        simp only [canonicalFrom, Bool.and_eq_true, decide_eq_true_eq] at this ⊢
        exact ⟨⟨by omega, this.1.2⟩, this.2⟩
    · simp only [Sparse.drop, hk, if_false, canonicalFrom, Bool.and_eq_true, decide_eq_true_eq]
      exact ⟨h.1, ih _ h.2⟩

theorem canonicalFrom_place {β : Type} [DecidableEq β] (d : Nat → β) (k : Nat) (v : β) (hv : v ≠ d k) (m : Sparse β) (lo : Nat) (hk : lo ≤ k)
    (h : canonicalFrom d lo m) (hne : ∀ p ∈ m, p.1 ≠ k) : canonicalFrom d lo (Sparse.place k v m) := by
  induction m generalizing lo with
  | nil => simp [Sparse.place, canonicalFrom, hk, hv]
  | cons p t ih =>
    obtain ⟨k', v'⟩ := p
    have hk' : k' ≠ k := hne (k', v') (by simp)
    simp only [canonicalFrom, Bool.and_eq_true, decide_eq_true_eq] at h
    by_cases hlt : k < k'
    · simp only [Sparse.place, hlt, if_true, canonicalFrom, Bool.and_eq_true, decide_eq_true_eq]
      exact ⟨⟨hk, hv⟩, ⟨by omega, h.1.2⟩, h.2⟩
    · simp only [Sparse.place, hlt, if_false, canonicalFrom, Bool.and_eq_true, decide_eq_true_eq]
      exact ⟨h.1, ih _ (by omega) h.2 (fun p hp => hne p (by simp [hp]))⟩

theorem canonicalFrom_set {β : Type} [DecidableEq β] (d : Nat → β) (m : Sparse β) (k : Nat) (v : β) (h : canonicalFrom d 0 m) :
    canonicalFrom d 0 (Sparse.set (d k) m k v) := by
  unfold Sparse.set
  split
  · exact canonicalFrom_drop d k m 0 h
  · exact canonicalFrom_place d k v ‹_› _ 0 (Nat.zero_le _) (canonicalFrom_drop d k m 0 h) (Sparse.drop_ne m k)

theorem canonicalFrom_mono {β : Type} [DecidableEq β] (d : Nat → β) (m : Sparse β) (lo lo' : Nat) (hl : lo' ≤ lo) (h : canonicalFrom d lo m) :
    canonicalFrom d lo' m := by
  cases m with
  | nil => simp [canonicalFrom]
  | cons p t =>
    obtain ⟨k, v⟩ := p
    simp only [canonicalFrom, Bool.and_eq_true, decide_eq_true_eq] at h ⊢
    exact ⟨⟨by omega, h.1.2⟩, h.2⟩

theorem canonicalFrom_filter {β : Type} [DecidableEq β] (d : Nat → β) (f : Nat × β → Bool) (m : Sparse β) (lo : Nat) (h : canonicalFrom d lo m) :
    canonicalFrom d lo (m.filter f) := by
  induction m generalizing lo with
  | nil => exact h
  | cons p t ih =>
    obtain ⟨k, v⟩ := p
    simp only [canonicalFrom, Bool.and_eq_true, decide_eq_true_eq] at h
    by_cases hf : f (k, v)
    · simp only [List.filter_cons, hf, if_true, canonicalFrom, Bool.and_eq_true, decide_eq_true_eq]
      exact ⟨h.1, ih _ h.2⟩
    · simp only [List.filter_cons, hf]
      exact canonicalFrom_mono d _ (k + 1) lo (by omega) (ih _ h.2)

theorem Sparse.wfFrom_eq {β : Type} [DecidableEq β] (d : β) (m : Sparse β) (lo : Nat) : Sparse.wfFrom d lo m = canonicalFrom (fun _ => d) lo m := by
  induction m generalizing lo with
  | nil => rfl
  | cons p t ih => obtain ⟨k, v⟩ := p; simp [Sparse.wfFrom, canonicalFrom, ih]

/-- A canonical map with some entries taken out is canonical. -/
theorem Sparse.wf_filter {β : Type} [DecidableEq β] (d : β) (f : Nat × β → Bool) (m : Sparse β) (h : Sparse.wf d m) : Sparse.wf d (m.filter f) := by
  unfold Sparse.wf at *; rw [Sparse.wfFrom_eq] at *; exact canonicalFrom_filter _ f m 0 h

/-- Storing a register leaves the other regions. -/
theorem regionSame.setReg (s : State) (off : Nat) (v : Word) {b : Component} (h : b ≠ regBlock off) : regionSame s (setReg s off v) b :=
  fun off' e => reg_setReg_other s v (fun x => h (by rw [← e, x]))

/-- Storing a register. -/
theorem Keeps.setReg (off : Nat) (v : Word) (h : Keeps allowed s0 s) (hl : ∀ p ∈ ([regBlock off] : List Component), p ∈ allowed) : Keeps allowed s0 (setReg s off v) :=
  h.trans ⟨rfl, ⟨rfl, NvLasts.refl _, rfl, fun _ => Nat.le_refl _, Nat.le_refl _⟩, fun x => x, fun x => canonicalFrom_set regDefault s.regs off v x,
    fun p hp => by
      have hb : p ≠ regBlock off := fun e => hp (e ▸ hl _ (by simp))
      cases p <;> first | exact regionSame.setReg s off v hb | simp [Component.same, Machine.setReg]⟩

theorem getD_setAt {β : Type} (l : List β) (i j : Nat) (v d : β) :
    (setAt l i v).getD j d = if i = j ∧ i < l.length then v else l.getD j d := by
  induction l generalizing i j with
  | nil => simp [setAt]
  | cons a t ih =>
    cases i with
    | zero => cases j <;> simp [setAt]
    | succ i => cases j with
      | zero => simp [setAt]
      | succ j => simpa [setAt] using ih i j

theorem length_setAt {β : Type} (l : List β) (i : Nat) (v : β) : (setAt l i v).length = l.length := by
  induction l generalizing i with
  | nil => cases i <;> rfl
  | cons h t ih => cases i <;> simp [setAt, ih]

/-- Storing a package's record, whose write sequence number has not fallen. -/
theorem Keeps.setPkg (p : Nat) (x : Package) (h : Keeps allowed s0 s) (hl : ∀ p ∈ ([.packages] : List Component), p ∈ allowed)
    (hx : (pkg s p).wseq ≤ x.wseq) : Keeps allowed s0 (setPkg s p x) := by
  refine h.trans ⟨rfl, ⟨rfl, NvLasts.refl _, length_setAt _ _ _, fun q => ?_, Nat.le_refl _⟩, fun x => x, fun x => x, fun q hq => by
    have := hl q; cases q <;> simp_all [Component.same, Machine.setPkg, regionSame.of_eq]⟩
  simp only [Machine.setPkg, pkg, getD_setAt] at *
  split
  · rename_i e; obtain ⟨rfl, _⟩ := e; exact hx
  · exact Nat.le_refl _

/-- Counting in a register leaves every package's record. -/
theorem Wseq.bumpBy_le (s : State) (off n p : Nat) : (pkg (bumpBy s off n) p).wseq ≤ (pkg s p).wseq := Nat.le_refl _

/-- Drawing a free value leaves every package's record. -/
theorem Wseq.draw_le (s : State) (p : Nat) : (pkg (draw s) p).wseq ≤ (pkg s p).wseq := Nat.le_refl _

/-- A package's write sequence number does not fall through a fold whose steps do not lower it. -/
theorem Wseq.foldl {β : Type} {n : Nat} {f : Package → β → Package} {x : Package} (l : List β) (h : n ≤ x.wseq)
    (hf : ∀ y b, n ≤ y.wseq → n ≤ (f y b).wseq) : n ≤ (l.foldl f x).wseq := by
  induction l generalizing x with
  | nil => exact h
  | cons b l ih => exact ih (hf x b h)

/-- A key once revoked stays revoked when others join it. -/
theorem testBit_lor_left (a b : Nat) (i : Nat) (h : a.testBit i) : (a.lor b).testBit i := by
  rw [show a.lor b = a ||| b from rfl, Nat.testBit_or, h]; rfl

/-- A count since manufacture does not fall. -/
theorem satInc_ge (n : Nat) : n ≤ satInc n := by unfold satInc; split <;> omega

/-- A list of words holds as many as were asked for. -/
theorem wordsOf_length (l : List Byte) (n : Nat) : (wordsOf l n).length = n := by
  induction n generalizing l with
  | zero => rfl
  | succ n ih => simp [wordsOf, ih]

end Sys2Proof.Machine
end

