-- ==== Sys2Proof/Laws/KeepsOps.lean ====
section
/-! SUPPORT. What every operation of Machine/Ops.lean keeps: the queue, what lasts, the canonical forms, and every part of the state that
is not in its list. -/
set_option Elab.async false
set_option linter.all false
namespace Sys2Proof.Machine

variable {allowed : List Component} {s0 : State}

theorem Keeps.setNat {s : State} (off : Nat) (v : Nat) (keep : Keeps allowed s0 s) (hl : ∀ p ∈ ([regBlock off] : List Component), p ∈ allowed) :
    Keeps allowed s0 (setNat s off v) := by
  simp only [Machine.setNat]
  repeat' (with_reducible first | assumption | apply Keeps.setReg)

theorem Keeps.setFld {s : State} (off : Nat) (hi : Nat) (lo : Nat) (v : Nat) (keep : Keeps allowed s0 s) (hl : ∀ p ∈ ([regBlock off] : List
    Component), p ∈ allowed) :
    Keeps allowed s0 (setFld s off hi lo v) := by
  simp only [Machine.setFld]
  repeat' (with_reducible first | assumption | apply Keeps.setNat)

theorem Keeps.setBit {s : State} (off : Nat) (i : Nat) (b : Bool) (keep : Keeps allowed s0 s) (hl : ∀ p ∈ ([regBlock off] : List Component), p ∈
    allowed) :
    Keeps allowed s0 (setBit s off i b) := by
  simp only [Machine.setBit]
  repeat' (with_reducible first | assumption | apply Keeps.setFld)

theorem Keeps.bumpBy {s : State} (off : Nat) (n : Nat) (keep : Keeps allowed s0 s) (hl : ∀ p ∈ ([regBlock off] : List Component), p ∈ allowed) :
    Keeps allowed s0 (bumpBy s off n) := by
  simp only [Machine.bumpBy]
  repeat' (with_reducible first | assumption | apply Keeps.setNat)

theorem Keeps.bump {s : State} (off : Nat) (keep : Keeps allowed s0 s) (hl : ∀ p ∈ ([regBlock off] : List Component), p ∈ allowed) :
    Keeps allowed s0 (bump s off) := by
  simp only [Machine.bump]
  repeat' (with_reducible first | assumption | apply Keeps.bumpBy)

theorem Keeps.bumpFld {s : State} (off : Nat) (hi : Nat) (lo : Nat) (n : Nat) (keep : Keeps allowed s0 s) (hl : ∀ p ∈ ([regBlock off] : List
    Component), p ∈ allowed) :
    Keeps allowed s0 (bumpFld s off hi lo n) := by
  simp only [Machine.bumpFld]
  repeat' (with_reducible first | assumption | apply Keeps.setFld)

theorem Keeps.set64 {s : State} (off : Nat) (v : Nat) (keep : Keeps allowed s0 s) (hl : ∀ p ∈ ([regBlock (off + 4), regBlock off] : List Component),
    p ∈ allowed) :
    Keeps allowed s0 (set64 s off v) := by
  simp only [Machine.set64]
  repeat' first
    | with_reducible assumption | ((with_reducible apply Component.sub hl); simp (disch := decide); done) | with_reducible apply Keeps.setNat

theorem Keeps.add64 {s : State} (off : Nat) (n : Nat) (keep : Keeps allowed s0 s) (hl : ∀ p ∈ ([regBlock (off + 4), regBlock off] : List Component),
    p ∈ allowed) :
    Keeps allowed s0 (add64 s off n) := by
  simp only [Machine.add64]
  repeat' (with_reducible first | assumption | apply Keeps.set64)

theorem Keeps.accErr {s : State}  (keep : Keeps allowed s0 s) (hl : ∀ p ∈ ([.regGlb] : List Component), p ∈ allowed) :
    Keeps allowed s0 (accErr s) := by
  simp only [Machine.accErr]
  repeat' first | with_reducible assumption | ((with_reducible apply Component.sub hl); decide) | with_reducible apply Keeps.bump

theorem Keeps.setWords {s : State} (off : Nat) (l : List Nat) (b : Component) (hb : ∀ i < l.length, regBlock (off + 4 * i) = b)
    (keep : Keeps allowed s0 s) (hl : ∀ p ∈ ([b] : List Component), p ∈ allowed) : Keeps allowed s0 (setWords s off l) := by
  induction l generalizing s off with
  | nil => exact keep
  | cons v t ih =>
    have e : regBlock off = b := hb 0 (by simp)
    refine ih (off + 4) (fun i h => ?_) (Keeps.setNat _ _ keep (by rw [e]; exact hl))
    rw [← hb (i + 1) (by simpa using h)]; congr 1; omega

theorem Keeps.emit {s : State} (o : Out) (keep : Keeps allowed s0 s) (hl : ∀ p ∈ ([.out] : List Component), p ∈ allowed) :
    Keeps allowed s0 (emit s o) := by
  simp only [Machine.emit]
  repeat' (with_reducible first | assumption | refine Keeps.litOut ?_  (hl _ (by decide)))

theorem Keeps.draw {s : State}  (keep : Keeps allowed s0 s) :
    Keeps allowed s0 (draw s) := by
  simp only [Machine.draw]
  repeat' (with_reducible first | assumption | apply Keeps.litFresh)

theorem Keeps.post {s : State} (c : Cqe) (keep : Keeps allowed s0 s) (hl : ∀ p ∈ ([.host, .out] : List Component), p ∈ allowed) :
    Keeps allowed s0 (post s c) := by
  simp only [Machine.post]
  repeat' first
    | with_reducible assumption | ((with_reducible apply Component.sub hl); decide) | (with_reducible first | apply Keeps.ite | apply Keeps.emit)
    | intro _ | split | with_reducible refine Keeps.litHost ?_  (hl _ (by decide))

theorem Keeps.postWaiting {x1 : State} (x0 : Nat) (keep : Keeps allowed s0 x1) (hl : ∀ p ∈ ([.host, .out] : List Component), p ∈ allowed) :
    Keeps allowed s0 (postWaiting x0 x1) := by
  induction x0 generalizing x1 with
  | zero =>
    simp only [Machine.postWaiting]
    repeat' first | (with_reducible first | assumption | apply Keeps.post) | split | with_reducible refine Keeps.litHost ?_  (hl _ (by decide))
  | succ _ ih =>
    simp only [Machine.postWaiting]
    repeat' first
      | (with_reducible first | apply ih | assumption | apply Keeps.post) | split | with_reducible refine Keeps.litHost ?_  (hl _ (by decide))

theorem Keeps.complete {s : State} (tag : CmdTag) (dw0 : Nat) (keep : Keeps allowed s0 s) (hl : ∀ p ∈ ([.host, .out] : List Component), p ∈ allowed)
    :
    Keeps allowed s0 (complete s tag dw0) := by
  simp only [Machine.complete]
  repeat' (with_reducible first | assumption | apply Keeps.post)

theorem Keeps.logError {s : State} (tag : CmdTag) (sct : Nat) (sc : Nat) (lba : Nat) (keep : Keeps allowed s0 s) (hl : ∀ p ∈ ([.host] : List
    Component), p ∈ allowed) :
    Keeps allowed s0 (logError s tag sct sc lba) := by
  simp only [Machine.logError]
  repeat' (with_reducible first | assumption | refine Keeps.litHost ?_  (hl _ (by decide)))

theorem Keeps.failAt {s : State} (tag : CmdTag) (sct : Nat) (sc : Nat) (dnr : Nat) (lba : Nat) (keep : Keeps allowed s0 s) (hl : ∀ p ∈ ([.host,
    .out] : List Component), p ∈ allowed) :
    Keeps allowed s0 (failAt s tag sct sc dnr lba) := by
  simp only [Machine.failAt]
  repeat' first
    | with_reducible assumption | ((with_reducible apply Component.sub hl); decide)
    | (with_reducible first | apply Keeps.post | apply Keeps.logError)

theorem Keeps.fail {s : State} (tag : CmdTag) (sct : Nat) (sc : Nat) (dnr : Nat) (keep : Keeps allowed s0 s) (hl : ∀ p ∈ ([.host, .out] : List
    Component), p ∈ allowed) :
    Keeps allowed s0 (fail s tag sct sc dnr) := by
  simp only [Machine.fail]
  repeat' (with_reducible first | assumption | apply Keeps.failAt)

theorem Keeps.endQuiet {s : State} (tag : CmdTag) (sct : Nat) (sc : Nat) (dnr : Nat) (keep : Keeps allowed s0 s) (hl : ∀ p ∈ ([.host, .out] : List
    Component), p ∈ allowed) :
    Keeps allowed s0 (endQuiet s tag sct sc dnr) := by
  simp only [Machine.endQuiet]
  repeat' (with_reducible first | assumption | apply Keeps.post)

theorem Keeps.failOpt {s : State} (tag : Option CmdTag) (sct : Nat) (sc : Nat) (dnr : Nat) (keep : Keeps allowed s0 s) (hl : ∀ p ∈ ([.host, .out] :
    List Component), p ∈ allowed) :
    Keeps allowed s0 (failOpt s tag sct sc dnr) := by
  simp only [Machine.failOpt]
  repeat' first | (with_reducible first | assumption | apply Keeps.fail) | split

theorem Keeps.raiseEvent {s : State} (type : Nat) (info : Nat) (log : Nat) (keep : Keeps allowed s0 s) (hl : ∀ p ∈ ([.host, .out] : List Component),
    p ∈ allowed) :
    Keeps allowed s0 (raiseEvent s type info log) := by
  simp only [Machine.raiseEvent]
  repeat' first | (with_reducible first | assumption | apply Keeps.complete) | split | with_reducible refine Keeps.litHost ?_  (hl _ (by decide))

theorem Keeps.notice {s : State} (info : Nat) (log : Nat) (keep : Keeps allowed s0 s) (hl : ∀ p ∈ ([.host, .out] : List Component), p ∈ allowed) :
    Keeps allowed s0 (notice s info log) := by
  simp only [Machine.notice]
  repeat' (with_reducible first | assumption | apply Keeps.raiseEvent)

theorem Keeps.healthChanged {s : State}  (keep : Keeps allowed s0 s) (hl : ∀ p ∈ ([.host, .regHst] : List Component), p ∈ allowed) :
    Keeps allowed s0 (healthChanged s) := by
  simp only [Machine.healthChanged]
  repeat' first
    | with_reducible assumption | ((with_reducible apply Component.sub hl); decide)
    | (with_reducible first | apply Keeps.setBit | refine Keeps.litHost ?_  (hl _ (by decide)))

theorem Keeps.logFault {s : State} (r : FaultRec) (keep : Keeps allowed s0 s) (hl : ∀ p ∈ ([.log, .regGlb] : List Component), p ∈ allowed) :
    Keeps allowed s0 (logFault s r) := by
  simp only [Machine.logFault]
  repeat' first
    | with_reducible assumption | ((with_reducible apply Component.sub hl); decide) | with_reducible apply Keeps.setNat
    | (with_reducible refine Keeps.litNv ?_ ?_ (nlog := .inl (hl _ (by decide))))
    | ((with_reducible apply NvLasts.mk) <;> first | rfl | exact Nat.le_refl _ | exact fun _ h => h | exact satInc_ge _ | exact Nat.le_max_left _ _ | exact testBit_lor_left _ _ | exact List.subset_append_left _ _)

theorem Keeps.interrupting {s : State} (cause : Nat) (unit : Nat) (keep : Keeps allowed s0 s) (hl : ∀ p ∈ ([.log, .regGlb] : List Component), p ∈
    allowed) :
    Keeps allowed s0 (interrupting s cause unit) := by
  simp only [Machine.interrupting]
  repeat' first
    | with_reducible assumption | ((with_reducible apply Component.sub hl); decide)
    | (with_reducible first | apply Keeps.setNat | apply Keeps.logFault)
    | (with_reducible refine Keeps.litNv ?_ ?_ (nlog := .inl (hl _ (by decide))))
    | ((with_reducible apply NvLasts.mk) <;> first | rfl | exact Nat.le_refl _ | exact fun _ h => h | exact satInc_ge _ | exact Nat.le_max_left _ _ | exact testBit_lor_left _ _ | exact List.subset_append_left _ _)

theorem Keeps.transientFault {s : State} (cls : Nat) (cause : Nat) (unit : Nat) (keep : Keeps allowed s0 s) (hl : ∀ p ∈ ([.faults, .regGlb] : List
    Component), p ∈ allowed) :
    Keeps allowed s0 (transientFault s cls cause unit) := by
  simp only [Machine.transientFault]
  repeat' first
    | with_reducible assumption | ((with_reducible apply Component.sub hl); simp (disch := decide); done)
    | (with_reducible first | apply Keeps.bump | refine Keeps.litFaults ?_  (hl _ (by decide)))

theorem Keeps.permanentFault {s : State} (cls : Nat) (keep : Keeps allowed s0 s) (hl : ∀ p ∈ ([.log, .regGlb] : List Component), p ∈ allowed) :
    Keeps allowed s0 (permanentFault s cls) := by
  simp only [Machine.permanentFault]
  repeat' first
    | with_reducible assumption | ((with_reducible apply Component.sub hl); simp (disch := decide); done) | with_reducible apply Keeps.setNat
    | (with_reducible refine Keeps.litNv ?_ ?_ (nlog := .inl (hl _ (by decide))))
    | ((with_reducible apply NvLasts.mk) <;> first | rfl | exact Nat.le_refl _ | exact fun _ h => h | exact satInc_ge _ | exact Nat.le_max_left _ _ | exact testBit_lor_left _ _ | exact List.subset_append_left _ _)

theorem Keeps.retired {s : State} (r : FaultRec) (keep : Keeps allowed s0 s) (hl : ∀ p ∈ ([.log, .host, .out, .regGlb] : List Component), p ∈
    allowed) :
    Keeps allowed s0 (retired s r) := by
  simp only [Machine.retired]
  repeat' first
    | with_reducible assumption | ((with_reducible apply Component.sub hl); decide)
    | (with_reducible first | apply Keeps.notice | apply Keeps.logFault)

theorem Keeps.saveFaultTimes {s : State} (keep : Keeps allowed s0 s) (hl : ∀ p ∈ ([.log, .life, .faults, .regGlb] : List Component), p ∈ allowed)
    :
    Keeps allowed s0 (saveFaultTimes s) := by
  simp only [Machine.saveFaultTimes]
  repeat' first
    | with_reducible assumption | ((with_reducible apply Component.sub hl); decide)
    | ((with_reducible apply Component.sub hl); simp (disch := decide); done)
    | (with_reducible first | apply Keeps.ite | apply Keeps.foldState | apply Keeps.logFault) | intro _ | split
    | (with_reducible refine Keeps.ofFst ?_ (by assumption))
    | (with_reducible first | refine Keeps.litFaults ?_ (hl _ (by decide)) | refine Keeps.litNv ?_ ?_ (nlog := .inl (hl _ (by decide))) (nlife := .inl (hl _ (by decide))) (hfaults := .inl (hl _ (by decide))))
    | ((with_reducible apply NvLasts.mk) <;> first | rfl | exact Nat.le_refl _ | exact fun _ h => h | exact satInc_ge _ | exact Nat.le_max_left _ _ | exact testBit_lor_left _ _ | exact List.subset_append_left _ _)

theorem Keeps.showHours {s : State}  (keep : Keeps allowed s0 s) (hl : ∀ p ∈ ([.regGlb] : List Component), p ∈ allowed) :
    Keeps allowed s0 (showHours s) := by
  simp only [Machine.showHours]
  repeat' first | with_reducible assumption | ((with_reducible apply Component.sub hl); decide) | with_reducible apply Keeps.setNat

theorem Keeps.onPkg {s t : State} (p : Nat) (keep : Keeps allowed s0 s) (keep1 : Keeps allowed s0 t) :
    Keeps allowed s0 (onPkg s p t) := by
  simp only [Machine.onPkg]
  repeat' first | (with_reducible first | assumption | apply Keeps.ite) | intro _

end Sys2Proof.Machine
end

