-- ==== Sys2Proof/Laws/KeepsDram.lean ====
section
/-! SUPPORT. What every operation of Machine/Dram.lean keeps: the queue, what lasts, the canonical forms, and every part of the state that
is not in its list. -/
set_option Elab.async false
set_option linter.all false
namespace Sys2Proof.Machine

variable {allowed : List Component} {s0 : State}

theorem Keeps.showPcs {s : State}  (keep : Keeps allowed s0 s) (hl : ∀ p ∈ ([.regTier] : List Component), p ∈ allowed) :
    Keeps allowed s0 (showPcs s) := by
  simp only [Machine.showPcs]
  repeat' first
    | with_reducible assumption | ((with_reducible apply Component.sub hl); decide)
    | ((with_reducible apply Component.sub hl); exact Component.sub_tier (by unfold TIER_PC_RET; omega) (by unfold TIER_PC_RET; omega))
    | (with_reducible first | apply Keeps.setFld | apply Keeps.setBit | apply Keeps.foldState) | intro _

theorem Keeps.retirePc {s : State} (p : Nat) (cause : Nat) (keep : Keeps allowed s0 s) (hl : ∀ p ∈ ([.retire, .log, .mover, .host, .out, .regGlb,
    .regTier] : List Component), p ∈ allowed) :
    Keeps allowed s0 (retirePc s p cause) := by
  simp only [Machine.retirePc]
  repeat' first
    | with_reducible assumption | ((with_reducible apply Component.sub hl); decide)
    | (with_reducible first | apply Keeps.ite | apply Keeps.setBit | apply Keeps.permanentFault | apply Keeps.retired | apply Keeps.showPcs)
    | intro _
    | (with_reducible refine Keeps.litNv ?_ ?_ (nretire := .inl (hl _ (by decide))) (hmover := .inl (hl _ (by decide))))
    | ((with_reducible apply NvLasts.mk) <;> first | rfl | exact Nat.le_refl _ | exact fun _ h => h | exact satInc_ge _ | exact Nat.le_max_left _ _ | exact testBit_lor_left _ _ | exact List.subset_append_left _ _)

theorem Keeps.pcFault {s : State} (p : Nat) (cause : Nat) (exhausted : Bool) (keep : Keeps allowed s0 s) (hl : ∀ p ∈ ([.retire, .log, .mover, .host,
    .faults, .out, .regGlb, .regTier] : List Component), p ∈ allowed) :
    Keeps allowed s0 (pcFault s p cause exhausted) := by
  simp only [Machine.pcFault]
  repeat' first
    | with_reducible assumption | ((with_reducible apply Component.sub hl); decide)
    | (with_reducible first | apply Keeps.ite | apply Keeps.bump | apply Keeps.transientFault | apply Keeps.retirePc) | intro _

theorem Keeps.putLine {s : State} (line : Nat) (data : List Byte) (tag : Byte) (keep : Keeps allowed s0 s) (hl : ∀ p ∈ ([.dram] : List Component), p
    ∈ allowed) :
    Keeps allowed s0 (putLine s line data tag) := by
  simp only [Machine.putLine]
  repeat' first
    | with_reducible assumption | intro _
    | (with_reducible refine Keeps.litMem ?_ ?_ ?_ (hdram := .inl (hl _ (by decide))))
    | ((with_reducible apply DramKeeps.mk) <;> (try dsimp only) <;> first | exact fun x => x | exact fun _ => rfl | exact Memory.wf_setBytes _ _ _ | exact Sparse.wf_set (0 : Byte) _ _ _ | exact Sparse.wf_set (0 : Nat) _ _ _ | exact Sparse.wf_filter (0 : Byte) _ _)

theorem Keeps.writeLine {s : State} (line : Nat) (data : List Byte) (keep : Keeps allowed s0 s) (hl : ∀ p ∈ ([.dram] : List Component), p ∈ allowed)
    :
    Keeps allowed s0 (writeLine s line data) := by
  simp only [Machine.writeLine]
  repeat' first
    | (with_reducible first | assumption | apply Keeps.ite | apply Keeps.putLine) | intro _
    | (with_reducible refine Keeps.litMem ?_ ?_ ?_ (hdram := .inl (hl _ (by decide))))
    | ((with_reducible apply DramKeeps.mk) <;> (try dsimp only) <;> first | exact fun x => x | exact fun _ => rfl | exact Memory.wf_setBytes _ _ _ | exact Sparse.wf_set (0 : Byte) _ _ _ | exact Sparse.wf_set (0 : Nat) _ _ _ | exact Sparse.wf_filter (0 : Byte) _ _)

theorem Keeps.writePoison {s : State} (line : Nat) (keep : Keeps allowed s0 s) (hl : ∀ p ∈ ([.dram] : List Component), p ∈ allowed) :
    Keeps allowed s0 (writePoison s line) := by
  simp only [Machine.writePoison]
  repeat' (with_reducible first | assumption | apply Keeps.putLine)

theorem Keeps.countCorrected {s : State} (line : Nat) (keep : Keeps allowed s0 s) (hl : ∀ p ∈ ([.regTier] : List Component), p ∈ allowed) :
    Keeps allowed s0 (countCorrected s line) := by
  simp only [Machine.countCorrected]
  repeat' first
    | with_reducible assumption | ((with_reducible apply Component.sub hl); decide)
    | ((with_reducible apply Component.sub hl); split <;> first | decide | (simp; done))
    | (with_reducible first | apply Keeps.ite | apply Keeps.bump) | intro _

theorem Keeps.notePoison {s : State} (line : Nat) (keep : Keeps allowed s0 s) (hl : ∀ p ∈ ([.retire, .log, .dram, .mover, .host, .faults, .out,
    .regGlb, .regTier] : List Component), p ∈ allowed) :
    Keeps allowed s0 (notePoison s line) := by
  simp only [Machine.notePoison]
  repeat' first
    | with_reducible assumption | ((with_reducible apply Component.sub hl); decide) | (with_reducible first | apply Keeps.ite | apply Keeps.pcFault)
    | intro _
    | (with_reducible refine Keeps.litMem ?_ ?_ ?_ (hdram := .inl (hl _ (by decide))))
    | ((with_reducible apply DramKeeps.mk) <;> (try dsimp only) <;> first | exact fun x => x | exact fun _ => rfl | exact Memory.wf_setBytes _ _ _ | exact Sparse.wf_set (0 : Byte) _ _ _ | exact Sparse.wf_set (0 : Nat) _ _ _ | exact Sparse.wf_filter (0 : Byte) _ _)

theorem Keeps.poisonLine {s : State} (line : Nat) (keep : Keeps allowed s0 s) (hl : ∀ p ∈ ([.retire, .log, .dram, .mover, .host, .faults, .out,
    .regGlb, .regTier] : List Component), p ∈ allowed) :
    Keeps allowed s0 (poisonLine s line) := by
  simp only [Machine.poisonLine]
  repeat' first
    | with_reducible assumption | ((with_reducible apply Component.sub hl); decide)
    | ((with_reducible apply Component.sub hl); split <;> first | decide | (simp; done))
    | (with_reducible first | apply Keeps.ite | apply Keeps.setNat | apply Keeps.bump | apply Keeps.set64 | apply Keeps.writePoison)
    | with_reducible apply Keeps.notePoison | intro _

theorem Keeps.settle {s : State} (line : Nat) (keep : Keeps allowed s0 s) (hl : ∀ p ∈ ([.retire, .log, .dram, .mover, .host, .faults, .out,
    .regGlb, .regTier] : List Component), p ∈ allowed) :
    Keeps allowed s0 (settle s line).1 := by
  simp only [Machine.settle]
  repeat' first
    | with_reducible assumption | ((with_reducible apply Component.sub hl); decide)
    | ((with_reducible apply Component.sub hl); simp (disch := decide); done)
    | (with_reducible first | apply Keeps.iteFst | apply Keeps.ite | apply Keeps.countCorrected | apply Keeps.poisonLine | apply Keeps.draw)
    | intro _ | split | (with_reducible refine Keeps.ofFst ?_ (by assumption))
    | (with_reducible first | refine Keeps.litMem ?_ ?_ ?_ (hdram := .inl (hl _ (by decide))) )
    | ((with_reducible apply DramKeeps.mk) <;> (try dsimp only) <;> first | exact fun x => x | exact fun _ => rfl | exact Memory.wf_setBytes _ _ _ | exact Sparse.wf_set (0 : Byte) _ _ _ | exact Sparse.wf_set (0 : Nat) _ _ _ | exact Sparse.wf_filter (0 : Byte) _ _)
    | exact fun x => x | exact Memory.wf_setBytes _ _ _

theorem Keeps.readLine {s : State} (line : Nat) (keep : Keeps allowed s0 s) (hl : ∀ p ∈ ([.retire, .log, .dram, .mover, .host, .faults, .out,
    .regGlb, .regTier] : List Component), p ∈ allowed) :
    Keeps allowed s0 (readLine s line).1 := by
  simp only [Machine.readLine]
  repeat' first
    | with_reducible assumption | ((with_reducible apply Component.sub hl); decide)
    | ((with_reducible apply Component.sub hl); simp (disch := decide); done)
    | (with_reducible first | apply Keeps.iteFst | apply Keeps.ite | apply Keeps.settle) | intro _ | split
    | (with_reducible refine Keeps.ofFst ?_ (by assumption))

theorem Keeps.readLines {x1 : State} (x0 : Nat) (x2 : Nat) (keep : Keeps allowed s0 x1) (hl : ∀ p ∈ ([.retire, .log, .dram, .mover, .host, .faults,
    .out, .regGlb, .regTier] : List Component), p ∈ allowed) :
    Keeps allowed s0 (readLines x0 x1 x2).1 := by
  induction x0 generalizing x1 x2 with
  | zero =>
    simp only [Machine.readLines]
    repeat' first | (with_reducible first | assumption | apply Keeps.readLine) | split | (with_reducible refine Keeps.ofFst ?_ (by assumption))
  | succ _ ih =>
    simp only [Machine.readLines]
    repeat' first
      | (with_reducible first | apply ih | assumption | apply Keeps.readLine) | split | (with_reducible refine Keeps.ofFst ?_ (by assumption))

theorem Keeps.readRange {s : State} (wa : Nat) (len : Nat) (keep : Keeps allowed s0 s) (hl : ∀ p ∈ ([.retire, .log, .dram, .mover, .host, .faults,
    .out, .regGlb, .regTier] : List Component), p ∈ allowed) :
    Keeps allowed s0 (readRange s wa len).1 := by
  simp only [Machine.readRange]
  repeat' first | (with_reducible first | assumption | apply Keeps.readLines) | split | (with_reducible refine Keeps.ofFst ?_ (by assumption))

theorem Keeps.reachUe {s : State} (wa : Nat) (len : Nat) (keep : Keeps allowed s0 s) (hl : ∀ p ∈ ([.log, .dram, .regGlb] : List Component), p ∈
    allowed) :
    Keeps allowed s0 (reachUe s wa len) := by
  simp only [Machine.reachUe]
  repeat' first
    | with_reducible assumption | ((with_reducible apply Component.sub hl); decide)
    | ((with_reducible apply Component.sub hl); simp (disch := decide); done) | (with_reducible first | apply Keeps.ite | apply Keeps.interrupting)
    | intro _ | split | (with_reducible refine Keeps.ofFst ?_ (by assumption))
    | (with_reducible first | refine Keeps.litMem ?_ ?_ ?_ (hdram := .inl (hl _ (by decide))) )
    | ((with_reducible apply DramKeeps.mk) <;> (try dsimp only) <;> first | exact fun x => x | exact fun _ => rfl | exact Memory.wf_setBytes _ _ _ | exact Sparse.wf_set (0 : Byte) _ _ _ | exact Sparse.wf_set (0 : Nat) _ _ _ | exact Sparse.wf_filter (0 : Byte) _ _)
    | exact fun x => x | exact Memory.wf_setBytes _ _ _

theorem Keeps.writePart {s : State} (line : Nat) (lo : Nat) (new : List Byte) (keep : Keeps allowed s0 s) (hl : ∀ p ∈ ([.retire, .log, .dram,
    .mover, .host, .faults, .out, .regGlb, .regTier] : List Component), p ∈ allowed) :
    Keeps allowed s0 (writePart s line lo new).1 := by
  simp only [Machine.writePart]
  repeat' first
    | with_reducible assumption | ((with_reducible apply Component.sub hl); decide)
    | ((with_reducible apply Component.sub hl); simp (disch := decide); done)
    | (with_reducible first | apply Keeps.iteFst | apply Keeps.ite | apply Keeps.writeLine | apply Keeps.readLine) | intro _ | split
    | (with_reducible refine Keeps.ofFst ?_ (by assumption))

theorem Keeps.writeParts {x1 : State} (x0 : Nat) (x2 : Nat) (x3 : List Byte) (keep : Keeps allowed s0 x1) (hl : ∀ p ∈ ([.retire, .log, .dram,
    .mover, .host, .faults, .out, .regGlb, .regTier] : List Component), p ∈ allowed) :
    Keeps allowed s0 (writeParts x0 x1 x2 x3).1 := by
  induction x0 generalizing x1 x2 x3 with
  | zero =>
    simp only [Machine.writeParts]
    repeat' first | (with_reducible first | assumption | apply Keeps.writePart) | split | (with_reducible refine Keeps.ofFst ?_ (by assumption))
  | succ _ ih =>
    simp only [Machine.writeParts]
    repeat' first
      | (with_reducible first | apply ih | assumption | apply Keeps.writePart) | split | (with_reducible refine Keeps.ofFst ?_ (by assumption))

theorem Keeps.writeRange {s : State} (wa : Nat) (data : List Byte) (keep : Keeps allowed s0 s) (hl : ∀ p ∈ ([.retire, .log, .dram, .mover, .host,
    .faults, .out, .regGlb, .regTier] : List Component), p ∈ allowed) :
    Keeps allowed s0 (writeRange s wa data).1 := by
  simp only [Machine.writeRange]
  repeat' first | (with_reducible first | assumption | apply Keeps.iteFst | apply Keeps.writeParts) | intro _

theorem Keeps.writeRange' {s : State} (wa : Nat) (data : List Byte) (keep : Keeps allowed s0 s) (hl : ∀ p ∈ ([.retire, .log, .dram, .mover, .host,
    .faults, .out, .regGlb, .regTier] : List Component), p ∈ allowed) :
    Keeps allowed s0 (writeRange' s wa data) := by
  simp only [Machine.writeRange']
  repeat' (with_reducible first | assumption | apply Keeps.writeRange)

theorem Keeps.initLines {s : State} (p : Nat → Bool) (keep : Keeps allowed s0 s) (hl : ∀ p ∈ ([.dram] : List Component), p ∈ allowed) :
    Keeps allowed s0 (initLines s p) := by
  simp only [Machine.initLines]
  repeat' first
    | with_reducible assumption | intro _
    | (with_reducible refine Keeps.litMem ?_ ?_ ?_ (hdram := .inl (hl _ (by decide))))
    | ((with_reducible apply DramKeeps.mk) <;> (try dsimp only) <;> first | exact fun x => x | exact fun _ => rfl | exact Memory.wf_setBytes _ _ _ | exact Sparse.wf_set (0 : Byte) _ _ _ | exact Sparse.wf_set (0 : Nat) _ _ _ | exact Sparse.wf_filter (0 : Byte) _ _)

theorem Keeps.clearGranule {s : State} (g : Nat) (keep : Keeps allowed s0 s) (hl : ∀ p ∈ ([.dram] : List Component), p ∈ allowed) :
    Keeps allowed s0 (clearGranule s g) := by
  simp only [Machine.clearGranule]
  repeat' first
    | with_reducible assumption | ((with_reducible apply Component.sub hl); decide)
    | ((with_reducible apply Component.sub hl); simp (disch := decide); done) | (with_reducible first | apply Keeps.ite | apply Keeps.initLines)
    | intro _ | split | (with_reducible refine Keeps.ofFst ?_ (by assumption))
    | (with_reducible first | refine Keeps.litMem ?_ ?_ ?_ (hdram := .inl (hl _ (by decide))) )
    | ((with_reducible apply DramKeeps.mk) <;> (try dsimp only) <;> first | exact fun x => x | exact fun _ => rfl | exact Memory.wf_setBytes _ _ _ | exact Sparse.wf_set (0 : Byte) _ _ _ | exact Sparse.wf_set (0 : Nat) _ _ _ | exact Sparse.wf_filter (0 : Byte) _ _)
    | exact fun x => x | exact Memory.wf_setBytes _ _ _

theorem Keeps.clearGranules {x1 : State} (x0 : Nat) (x2 : Nat) (keep : Keeps allowed s0 x1) (hl : ∀ p ∈ ([.dram] : List Component), p ∈ allowed) :
    Keeps allowed s0 (clearGranules x0 x1 x2) := by
  induction x0 generalizing x1 x2 with
  | zero =>
    simp only [Machine.clearGranules]
    repeat' (with_reducible first | assumption | apply Keeps.clearGranule)
  | succ _ ih =>
    simp only [Machine.clearGranules]
    repeat' (with_reducible first | apply ih | assumption | apply Keeps.clearGranule)

theorem Keeps.showDir {s : State}  (keep : Keeps allowed s0 s) (hl : ∀ p ∈ ([.regTier] : List Component), p ∈ allowed) :
    Keeps allowed s0 (showDir s) := by
  simp only [Machine.showDir]
  repeat' first | with_reducible assumption | ((with_reducible apply Component.sub hl); decide) | with_reducible apply Keeps.setNat

theorem Keeps.invalidate {s : State} (a : Nat) (len : Nat) (keep : Keeps allowed s0 s) (hl : ∀ p ∈ ([.mover, .regTier] : List Component), p ∈
    allowed) :
    Keeps allowed s0 (invalidate s a len) := by
  simp only [Machine.invalidate]
  repeat' first
    | with_reducible assumption | ((with_reducible apply Component.sub hl); decide)
    | (with_reducible first | apply Keeps.ite | apply Keeps.bumpBy | apply Keeps.showDir) | intro _
    | with_reducible refine Keeps.litMover ?_  (hl _ (by decide))

theorem Keeps.slmWrite {s : State} (wa : Nat) (data : List Byte) (keep : Keeps allowed s0 s) (hl : ∀ p ∈ ([.retire, .log, .dram, .mover, .host,
    .faults, .out, .regGlb, .regTier] : List Component), p ∈ allowed) :
    Keeps allowed s0 (slmWrite s wa data).1 := by
  simp only [Machine.slmWrite]
  repeat' first
    | with_reducible assumption | ((with_reducible apply Component.sub hl); decide)
    | ((with_reducible apply Component.sub hl); simp (disch := decide); done)
    | (with_reducible first | apply Keeps.iteFst | apply Keeps.ite | apply Keeps.writeRange | apply Keeps.invalidate) | intro _ | split
    | (with_reducible refine Keeps.ofFst ?_ (by assumption))

end Sys2Proof.Machine
end

