-- ==== Sys2Proof/Laws/KeepsFlash.lean ====
section
/-! SUPPORT. What every operation of Machine/Flash.lean keeps: the queue, what lasts, the canonical forms, and every part of the state that
is not in its list. -/
set_option Elab.async false
set_option linter.all false
namespace Sys2Proof.Machine

variable {allowed : List Component} {s0 : State}

theorem Wseq.setBlk {w0 : Nat} {x : Package} (key : Nat) (b : Blk) (le : w0 ≤ x.wseq) : w0 ≤ (setBlk x key b).wseq := by
  simp only [Machine.setBlk]
  repeat' first | with_reducible assumption | exact Nat.le_refl _ | split | dsimp only | omega

theorem Wseq.putDirty {w0 : Nat} {x : Package} (u : Nat) (data : UnitData) (lost : Nat) (le : w0 ≤ x.wseq) : w0 ≤ (putDirty x u data lost).wseq :=
    by
  simp only [Machine.putDirty]
  repeat' first | with_reducible assumption | exact Nat.le_refl _ | split | dsimp only | omega

theorem Wseq.touchCast {w0 : Nat} {x : Package} (u : Nat) (le : w0 ≤ x.wseq) : w0 ≤ (touchCast x u).wseq := by
  simp only [Machine.touchCast]
  repeat' first | with_reducible assumption | exact Nat.le_refl _ | split | dsimp only | omega

theorem Wseq.setEntry {w0 : Nat} {x : Package} (u : Nat) (e : Nat) (le : w0 ≤ x.wseq) : w0 ≤ (setEntry x u e).wseq := by
  simp only [Machine.setEntry]
  repeat' first | (with_reducible first | assumption | apply Wseq.touchCast) | exact Nat.le_refl _ | split | dsimp only | omega

theorem Wseq.castDone {w0 : Nat} (s : State) (p : Nat) {x : Package} (r : JRec) (le : w0 ≤ x.wseq) : w0 ≤ (castDone s p x r).wseq := by
  simp only [Machine.castDone]
  repeat' first | (with_reducible first | assumption | apply Wseq.foldl) | intro _ | exact Nat.le_refl _ | split | dsimp only | omega

theorem Keeps.openBlk {s : State} (p : Nat) (key : Nat) (egrp : Nat) (slc : Bool) (keep : Keeps allowed s0 s) (hl : ∀ p ∈ ([.packages] : List
    Component), p ∈ allowed) :
    Keeps allowed s0 (openBlk s p key egrp slc) := by
  simp only [Machine.openBlk]
  repeat' first | (with_reducible first | assumption | apply Keeps.ite | apply Keeps.setPkg | exact Nat.le_refl _ | apply Wseq.setBlk) | intro _

theorem Keeps.noteUnreachable {s : State} (p : Nat) (keep : Keeps allowed s0 s) (hl : ∀ p ∈ ([.log, .packages, .regGlb] : List Component), p ∈
    allowed) :
    Keeps allowed s0 (noteUnreachable s p) := by
  simp only [Machine.noteUnreachable]
  repeat' first
    | with_reducible assumption | ((with_reducible apply Component.sub hl); decide)
    | (with_reducible first | apply Keeps.ite | apply Keeps.interrupting | apply Keeps.setPkg | exact Nat.le_refl _) | intro _

theorem Keeps.showDirty {s : State} (p : Nat) (keep : Keeps allowed s0 s) (hl : ∀ p ∈ ([.regFtl] : List Component), p ∈ allowed) :
    Keeps allowed s0 (showDirty s p) := by
  simp only [Machine.showDirty]
  repeat' first
    | with_reducible assumption | ((with_reducible apply Component.sub hl); simp (disch := decide); done)
    | (with_reducible first | apply Keeps.setNat | apply Keeps.setBit)

theorem Keeps.rewatermark {s : State} (p : Nat) (keep : Keeps allowed s0 s) (hl : ∀ p ∈ ([.regFtl] : List Component), p ∈ allowed) :
    Keeps allowed s0 (rewatermark s p) := by
  simp only [Machine.rewatermark]
  repeat' first
    | with_reducible assumption | ((with_reducible apply Component.sub hl); simp (disch := decide); done)
    | (with_reducible first | apply Keeps.setNat | apply Keeps.showDirty)

theorem Keeps.rewatermarkAll {s : State}  (keep : Keeps allowed s0 s) (hl : ∀ p ∈ ([.regFtl] : List Component), p ∈ allowed) :
    Keeps allowed s0 (rewatermarkAll s) := by
  simp only [Machine.rewatermarkAll]
  repeat' first | (with_reducible first | assumption | apply Keeps.foldState | apply Keeps.rewatermark) | intro _

theorem Keeps.putBlock {s : State} (r : Region) (b : Nat) (off : Nat) (data : List Byte) (keep : Keeps allowed s0 s) (hl : ∀ p ∈ ([.packages,
    .regFtl] : List Component), p ∈ allowed) :
    Keeps allowed s0 (putBlock s r b off data) := by
  simp only [Machine.putBlock]
  repeat' first
    | with_reducible assumption | ((with_reducible apply Component.sub hl); decide)
    | ((with_reducible apply Component.sub hl); simp (disch := decide); done)
    | (with_reducible first | apply Keeps.ite | apply Keeps.showDirty | apply Keeps.setPkg) | intro _ | split
    | (with_reducible refine Keeps.ofFst ?_ (by assumption)) | exact Nat.le_refl _ | apply Wseq.putDirty

theorem Keeps.writeBlock {s : State} (r : Region) (b : Nat) (data : List Byte) (keep : Keeps allowed s0 s) (hl : ∀ p ∈ ([.packages, .regFtl] :
    List Component), p ∈ allowed) :
    Keeps allowed s0 (writeBlock s r b data) := by
  simp only [Machine.writeBlock]
  repeat' first
    | with_reducible assumption | ((with_reducible apply Component.sub hl); decide)
    | ((with_reducible apply Component.sub hl); simp (disch := decide); done) | (with_reducible first | apply Keeps.ite | apply Keeps.putBlock)
    | intro _ | split | (with_reducible refine Keeps.ofFst ?_ (by assumption)) | exact Nat.le_refl _ | apply Wseq.putDirty

theorem Keeps.writeBlocks {x1 : State} (x0 : Nat) (x2 : Region) (x3 : Nat) (x4 : List Byte) (keep : Keeps allowed s0 x1) (hl : ∀ p ∈ ([.packages,
    .regFtl] : List Component), p ∈ allowed) :
    Keeps allowed s0 (writeBlocks x0 x1 x2 x3 x4) := by
  induction x0 generalizing x1 x2 x3 x4 with
  | zero =>
    simp only [Machine.writeBlocks]
    repeat' (with_reducible first | assumption | apply Keeps.writeBlock)
  | succ _ ih =>
    simp only [Machine.writeBlocks]
    repeat' (with_reducible first | apply ih | assumption | apply Keeps.writeBlock)

theorem Keeps.deallocUnit {s : State} (p : Nat) (u : Nat) (keep : Keeps allowed s0 s) (hl : ∀ p ∈ ([.packages, .regFtl] : List Component), p ∈
    allowed) :
    Keeps allowed s0 (deallocUnit s p u) := by
  simp only [Machine.deallocUnit]
  repeat' first
    | with_reducible assumption | ((with_reducible apply Component.sub hl); decide)
    | (with_reducible first | apply Keeps.setPkg | apply Keeps.showDirty | exact Nat.le_refl _)

theorem Keeps.unmapRegion {s : State} (r : Region) (keep : Keeps allowed s0 s) (hl : ∀ p ∈ ([.packages, .regFtl] : List Component), p ∈ allowed) :
    Keeps allowed s0 (unmapRegion s r) := by
  simp only [Machine.unmapRegion]
  repeat' first
    | with_reducible assumption | ((with_reducible apply Component.sub hl); decide)
    | (with_reducible first | apply Keeps.foldState | apply Keeps.setPkg | apply Keeps.showDirty | exact Nat.le_refl _) | intro _

theorem Keeps.writeRegion {s : State} (r : Region) (off : Nat) (data : List Byte) (keep : Keeps allowed s0 s) (hl : ∀ p ∈ ([.packages, .regFtl] :
    List Component), p ∈ allowed) :
    Keeps allowed s0 (writeRegion s r off data) := by
  simp only [Machine.writeRegion]
  repeat' first
    | with_reducible assumption | ((with_reducible apply Component.sub hl); decide)
    | ((with_reducible apply Component.sub hl); simp (disch := decide); done)
    | (with_reducible first | apply Keeps.ite | apply Keeps.foldState | apply Keeps.putBlock) | intro _ | split
    | (with_reducible refine Keeps.ofFst ?_ (by assumption))

theorem Keeps.gather {s : State} (p : Nat) (r : JRec) (keep : Keeps allowed s0 s) (hl : ∀ p ∈ ([.packages] : List Component), p ∈ allowed) :
    Keeps allowed s0 (gather s p r) := by
  simp only [Machine.gather]
  repeat' (with_reducible first | assumption | apply Keeps.setPkg | exact Nat.le_refl _)

theorem Keeps.applyRec {s : State} (p : Nat) (r : JRec) (keep : Keeps allowed s0 s) (hl : ∀ p ∈ ([.packages, .regFtl] : List Component), p ∈
    allowed) :
    Keeps allowed s0 (applyRec p s r) := by
  simp only [Machine.applyRec]
  repeat' first
    | with_reducible assumption | ((with_reducible apply Component.sub hl); decide)
    | ((with_reducible apply Component.sub hl); simp (disch := decide); done)
    | (with_reducible first | apply Keeps.ite | apply Keeps.bump | apply Keeps.setPkg | exact Nat.le_refl _ | apply Wseq.setBlk)
    | (with_reducible first | apply Wseq.setEntry | apply Wseq.castDone) | intro _ | split

theorem Keeps.release {s : State} (p : Nat) (key : Nat) (keep : Keeps allowed s0 s) (hl : ∀ p ∈ ([.packages] : List Component), p ∈ allowed) :
    Keeps allowed s0 (release p s key) := by
  simp only [Machine.release]
  repeat' (with_reducible first | assumption | apply Keeps.setPkg | exact Nat.le_refl _ | apply Wseq.setBlk)

theorem Keeps.releaseAll {s : State} (p : Nat) (keep : Keeps allowed s0 s) (hl : ∀ p ∈ ([.packages] : List Component), p ∈ allowed) :
    Keeps allowed s0 (releaseAll s p) := by
  simp only [Machine.releaseAll]
  repeat' first | (with_reducible first | assumption | apply Keeps.foldState | apply Keeps.release) | intro _

theorem Keeps.showJournal {s : State} (p : Nat) (keep : Keeps allowed s0 s) (hl : ∀ p ∈ ([.regFtl] : List Component), p ∈ allowed) :
    Keeps allowed s0 (showJournal s p) := by
  simp only [Machine.showJournal]
  repeat' first
    | with_reducible assumption | ((with_reducible apply Component.sub hl); simp (disch := decide); done)
    | (with_reducible first | apply Keeps.setNat | apply Keeps.set64)

theorem Keeps.commitPage {s : State} (p : Nat) (keep : Keeps allowed s0 s) (hl : ∀ p ∈ ([.packages, .regFtl] : List Component), p ∈ allowed) :
    Keeps allowed s0 (commitPage s p) := by
  simp only [Machine.commitPage]
  repeat' first
    | with_reducible assumption | ((with_reducible apply Component.sub hl); decide)
    | (with_reducible first | apply Keeps.foldState | apply Keeps.setPkg | apply Keeps.showDirty | apply Keeps.applyRec)
    | with_reducible apply Keeps.showJournal | intro _ | ((with_reducible show (_ : Nat) ≤ _) <;> dsimp only) | omega

theorem Keeps.addLedger {s : State} (es : List LossRec) (events : Nat) (keep : Keeps allowed s0 s) (hl : ∀ p ∈ ([.log, .host, .out, .regFtl] :
    List Component), p ∈ allowed) :
    Keeps allowed s0 (addLedger s es events) := by
  simp only [Machine.addLedger]
  repeat' first
    | with_reducible assumption | ((with_reducible apply Component.sub hl); decide)
    | ((with_reducible apply Component.sub hl); simp (disch := decide); done)
    | (with_reducible first | apply Keeps.ite | apply Keeps.notice | apply Keeps.foldState | apply Keeps.setBit) | intro _ | split
    | (with_reducible refine Keeps.ofFst ?_ (by assumption)) | (with_reducible first | refine Keeps.litNv ?_ ?_ (nlog := .inl (hl _ (by decide))) )
    | ((with_reducible apply NvLasts.mk) <;> first | rfl | exact Nat.le_refl _ | exact fun _ h => h | exact satInc_ge _ | exact Nat.le_max_left _ _ | exact testBit_lor_left _ _ | exact List.subset_append_left _ _)

theorem Keeps.addMediaLoss {s : State} (es : List LossRec) (keep : Keeps allowed s0 s) (hl : ∀ p ∈ ([.log] : List Component), p ∈ allowed) :
    Keeps allowed s0 (addMediaLoss s es) := by
  simp only [Machine.addMediaLoss]
  repeat' first
    | with_reducible assumption | ((with_reducible apply Component.sub hl); decide)
    | ((with_reducible apply Component.sub hl); simp (disch := decide); done) | (with_reducible first | apply Keeps.ite) | intro _ | split
    | (with_reducible refine Keeps.ofFst ?_ (by assumption)) | (with_reducible first | refine Keeps.litNv ?_ ?_ (nlog := .inl (hl _ (by decide))) )
    | ((with_reducible apply NvLasts.mk) <;> first | rfl | exact Nat.le_refl _ | exact fun _ h => h | exact satInc_ge _ | exact Nat.le_max_left _ _ | exact testBit_lor_left _ _ | exact List.subset_append_left _ _)

theorem Keeps.mediaLost {s : State} (t : State) (p : Nat) (unit : Nat) (keep : Keeps allowed s0 s) (keep1 : Keeps allowed s0 t) (hl : ∀ p ∈
    ([.log, .host, .out, .regGlb] : List Component), p ∈ allowed) :
    Keeps allowed s0 (mediaLost s t p unit) := by
  simp only [Machine.mediaLost]
  repeat' first
    | with_reducible assumption | ((with_reducible apply Component.sub hl); decide)
    | ((with_reducible apply Component.sub hl); simp (disch := decide); done)
    | (with_reducible first | apply Keeps.ite | apply Keeps.interrupting | apply Keeps.notice) | intro _ | split
    | (with_reducible refine Keeps.ofFst ?_ (by assumption)) | (with_reducible first | refine Keeps.litNv ?_ ?_ (nlog := .inl (hl _ (by decide))) )
    | ((with_reducible apply NvLasts.mk) <;> first | rfl | exact Nat.le_refl _ | exact fun _ h => h | exact satInc_ge _ | exact Nat.le_max_left _ _ | exact testBit_lor_left _ _ | exact List.subset_append_left _ _)

theorem Keeps.countBytes {s : State} (p : Nat) (g : Nat) (kind : Nat) (refresh : Bool) (keep : Keeps allowed s0 s) (hl : ∀ p ∈ ([.packages] : List
    Component), p ∈ allowed) :
    Keeps allowed s0 (countBytes s p g kind refresh) := by
  simp only [Machine.countBytes]
  repeat' first
    | with_reducible assumption | ((with_reducible apply Component.sub hl); decide)
    | ((with_reducible apply Component.sub hl); simp (disch := decide); done) | (with_reducible first | apply Keeps.ite | apply Keeps.setPkg)
    | intro _ | split | (with_reducible refine Keeps.ofFst ?_ (by assumption)) | exact Nat.le_refl _

theorem Keeps.programUnit {s : State} (p : Nat) (u : Nat) (e : Nat) (kind : Nat) (lost : Nat) (srcSeq : Nat) (data : UnitData) (refresh : Bool)
    (keep : Keeps allowed s0 s) (hl : ∀ p ∈ ([.packages] : List Component), p ∈ allowed) :
    Keeps allowed s0 (programUnit s p u e kind lost srcSeq data refresh) := by
  simp only [Machine.programUnit]
  repeat' first
    | (with_reducible first | assumption | apply Keeps.setPkg | apply Keeps.openBlk | apply Keeps.countBytes | apply Wseq.setBlk) | split
    | ((with_reducible show (_ : Nat) ≤ _) <;> dsimp only) | omega

theorem Keeps.readBlk {s : State} (p : Nat) (key : Nat) (n : Nat) (keep : Keeps allowed s0 s) (hl : ∀ p ∈ ([.packages, .regMed] : List Component), p
    ∈ allowed) :
    Keeps allowed s0 (readBlk s p key n) := by
  simp only [Machine.readBlk]
  repeat' first
    | with_reducible assumption | ((with_reducible apply Component.sub hl); decide)
    | ((with_reducible apply Component.sub hl); simp (disch := decide); done)
    | (with_reducible first | apply Keeps.ite | apply Keeps.bump | apply Keeps.setPkg | exact Nat.le_refl _ | apply Wseq.setBlk) | intro _

theorem Keeps.showStages {s : State} (p : Nat) (keep : Keeps allowed s0 s) (hl : ∀ p ∈ ([.regMed] : List Component), p ∈ allowed) :
    Keeps allowed s0 (showStages s p) := by
  simp only [Machine.showStages]
  repeat' first
    | with_reducible assumption | ((with_reducible apply Component.sub hl); simp (disch := decide); done) | with_reducible apply Keeps.setFld

theorem Keeps.testStages {s : State} (p : Nat) (keep : Keeps allowed s0 s) (hl : ∀ p ∈ ([.packages, .host, .out, .regHst, .regMed] : List
    Component), p ∈ allowed) :
    Keeps allowed s0 (testStages s p) := by
  simp only [Machine.testStages]
  repeat' first
    | with_reducible assumption | ((with_reducible apply Component.sub hl); decide)
    | ((with_reducible apply Component.sub hl); simp (disch := decide); done)
    | (with_reducible first | apply Keeps.ite | apply Keeps.showStages | apply Keeps.setPkg | apply Keeps.raiseEvent | apply Keeps.healthChanged)
    | intro _ | split | (with_reducible refine Keeps.ofFst ?_ (by assumption)) | (with_reducible first | refine Keeps.litHost ?_ (hl _ (by decide)))
    | exact Nat.le_refl _ | with_reducible exact Nat.le_refl _

theorem Keeps.retireBlk {s : State} (p : Nat) (key : Nat) (keep : Keeps allowed s0 s) (hl : ∀ p ∈ ([.packages, .host, .out, .regHst, .regMed] : List
    Component), p ∈ allowed) :
    Keeps allowed s0 (retireBlk s p key) := by
  simp only [Machine.retireBlk]
  repeat' first
    | with_reducible assumption | ((with_reducible apply Component.sub hl); decide)
    | ((with_reducible apply Component.sub hl); simp (disch := decide); done)
    | (with_reducible first | apply Keeps.bump | apply Keeps.setPkg | apply Keeps.testStages | exact Nat.le_refl _ | apply Wseq.setBlk)

end Sys2Proof.Machine
end

