-- ==== Sys2Proof/Laws/KeepsOperands.lean ====
section
/-! SUPPORT. What every operation of Machine/Operands.lean keeps: the queue, what lasts, the canonical forms, and every part of the state that
is not in its list. -/
set_option Elab.async false
set_option linter.all false
namespace Sys2Proof.Machine

variable {allowed : List Component} {s0 : State}

theorem Keeps.storeWrite {s : State} (t : Nat) (a : Nat) (data : List Byte) (keep : Keeps allowed s0 s) (hl : ∀ p ∈ ([.tiles, .store] : List
    Component), p ∈ allowed) :
    Keeps allowed s0 (storeWrite s t a data) := by
  simp only [Machine.storeWrite]
  repeat' first
    | with_reducible assumption | intro _ | split
    | (with_reducible refine Keeps.litMem ?_ ?_ ?_ (hstore := .inl (hl _ (by decide))) (htiles := .inl (hl _ (by decide))))
    | exact DramKeeps.refl _ | exact Memory.wf_setBytes _ _ _ (by assumption)

theorem Keeps.storeClear {s : State} (t : Nat) (keep : Keeps allowed s0 s) (hl : ∀ p ∈ ([.store] : List Component), p ∈ allowed) :
    Keeps allowed s0 (storeClear s t) := by
  simp only [Machine.storeClear]
  repeat' first
    | with_reducible assumption | intro _
    | (with_reducible refine Keeps.litMem ?_ ?_ ?_ (hstore := .inl (hl _ (by decide))))
    | exact DramKeeps.refl _ | exact Sparse.wf_filter (0 : Byte) _ _ (by assumption)

end Sys2Proof.Machine
end

