-- ==== Sys2Proof/Laws/KeepsParts.lean ====
section
/-! SUPPORT. What every operation of Machine/Parts.lean keeps: the queue, what lasts, the canonical forms, and every part of the state that
is not in its list. -/
set_option Elab.async false
set_option linter.all false
namespace Sys2Proof.Machine

variable {allowed : List Component} {s0 : State}

theorem Keeps.completeStatus {s : State} (tag : CmdTag) (st : Nat) (keep : Keeps allowed s0 s) (hl : ∀ p ∈ ([.host, .out] : List Component), p ∈
    allowed) :
    Keeps allowed s0 (completeStatus s tag st) := by
  simp only [Machine.completeStatus]
  repeat' first | (with_reducible first | assumption | apply Keeps.ite | apply Keeps.complete | apply Keeps.fail) | intro _

theorem Keeps.completeStatusOpt {s : State} (tag : Option CmdTag) (st : Nat) (keep : Keeps allowed s0 s) (hl : ∀ p ∈ ([.host, .out] : List
    Component), p ∈ allowed) :
    Keeps allowed s0 (completeStatusOpt s tag st) := by
  simp only [Machine.completeStatusOpt]
  repeat' first | (with_reducible first | assumption | apply Keeps.completeStatus) | split

theorem Keeps.readAddr {s : State} (a : Nat) (len : Nat) (keep : Keeps allowed s0 s) (hl : ∀ p ∈ ([.retire, .log, .dram, .mover, .host, .faults,
    .out, .regGlb, .regTier] : List Component), p ∈ allowed) :
    Keeps allowed s0 (readAddr s a len).1 := by
  simp only [Machine.readAddr]
  repeat' first | (with_reducible first | assumption | apply Keeps.iteFst | apply Keeps.readRange) | intro _ | split

theorem Keeps.writeAddr {s : State} (a : Nat) (data : List Byte) (keep : Keeps allowed s0 s) (hl : ∀ p ∈ ([.retire, .log, .packages, .dram, .mover,
    .host, .faults, .out, .regGlb, .regTier, .regFtl] : List Component), p ∈ allowed) :
    Keeps allowed s0 (writeAddr s a data).1 := by
  simp only [Machine.writeAddr]
  repeat' first
    | with_reducible assumption | ((with_reducible apply Component.sub hl); decide)
    | (with_reducible first | apply Keeps.iteFst | apply Keeps.invalidate | apply Keeps.slmWrite | apply Keeps.writeRegion) | intro _ | split

theorem Keeps.scramble {s : State} (a : Nat) (len : Nat) (keep : Keeps allowed s0 s) (hl : ∀ p ∈ ([.retire, .log, .packages, .dram, .mover, .host,
    .faults, .out, .regGlb, .regTier, .regFtl] : List Component), p ∈ allowed) :
    Keeps allowed s0 (scramble s a len) := by
  simp only [Machine.scramble]
  repeat' (with_reducible first | assumption | apply Keeps.writeAddr | apply Keeps.litFresh)

theorem Keeps.setTile {s : State} (t : Nat) (x : Tile) (keep : Keeps allowed s0 s) (hl : ∀ p ∈ ([.tiles] : List Component), p ∈ allowed) :
    Keeps allowed s0 (setTile s t x) := by
  simp only [Machine.setTile]
  repeat' (with_reducible first | assumption | refine Keeps.litTiles ?_  (hl _ (by decide)))

theorem Keeps.showAssist {s : State} (keep : Keeps allowed s0 s) (hl : ∀ p ∈ ([.regSrc] : List Component), p ∈ allowed) :
    Keeps allowed s0 (showAssist s) := by
  simp only [Machine.showAssist]
  repeat' first
    | with_reducible assumption | ((with_reducible apply Component.sub hl); decide)
    | ((with_reducible apply Component.sub hl); simp (disch := decide); done)
    | (with_reducible first | apply Keeps.ite | apply Keeps.foldState | apply Keeps.setBit) | intro _ | split
    | (with_reducible refine Keeps.ofFst ?_ (by assumption))

theorem Keeps.showTile {s : State} (t : Nat) (keep : Keeps allowed s0 s) (hl : ∀ p ∈ ([.regTil] : List Component), p ∈ allowed) :
    Keeps allowed s0 (showTile s t) := by
  simp only [Machine.showTile]
  repeat' first
    | with_reducible assumption | ((with_reducible apply Component.sub hl); simp (disch := decide); done)
    | (with_reducible first | apply Keeps.setNat | apply Keeps.setFld | apply Keeps.setBit) | split

theorem Keeps.putTile {s : State} (t : Nat) (x : Tile) (keep : Keeps allowed s0 s) (hl : ∀ p ∈ ([.tiles, .regTil] : List Component), p ∈ allowed) :
    Keeps allowed s0 (putTile s t x) := by
  simp only [Machine.putTile]
  repeat' first
    | with_reducible assumption | ((with_reducible apply Component.sub hl); decide)
    | (with_reducible first | apply Keeps.setTile | apply Keeps.showTile)

theorem Keeps.setFlags {s : State} (t : Nat) (f : Nat) (keep : Keeps allowed s0 s) (hl : ∀ p ∈ ([.regTil] : List Component), p ∈ allowed) :
    Keeps allowed s0 (setFlags s t f) := by
  simp only [Machine.setFlags]
  repeat' first
    | with_reducible assumption | ((with_reducible apply Component.sub hl); simp (disch := decide); done) | with_reducible apply Keeps.setNat

theorem Keeps.showCore {s : State}  (keep : Keeps allowed s0 s) (hl : ∀ p ∈ ([.regGlb] : List Component), p ∈ allowed) :
    Keeps allowed s0 (showCore s) := by
  simp only [Machine.showCore]
  repeat' first | with_reducible assumption | ((with_reducible apply Component.sub hl); decide) | with_reducible apply Keeps.setNat

theorem Keeps.histCount {s : State} (t : Nat) (w : Word) (keep : Keeps allowed s0 s) (hl : ∀ p ∈ ([.regTil] : List Component), p ∈ allowed) :
    Keeps allowed s0 (histCount s t w) := by
  simp only [Machine.histCount]
  repeat' first
    | with_reducible assumption | ((with_reducible apply Component.sub hl); decide)
    | ((with_reducible apply Component.sub hl); simp (disch := decide); done) | (with_reducible first | apply Keeps.ite | apply Keeps.bump) | intro _
    | split | (with_reducible refine Keeps.ofFst ?_ (by assumption))

theorem Keeps.histWordsClear {s : State} (t : Nat) (keep : Keeps allowed s0 s) (hl : ∀ p ∈ ([.regTil] : List Component), p ∈ allowed) :
    Keeps allowed s0 (histWordsClear s t) := by
  simp only [Machine.histWordsClear]
  repeat' first
    | with_reducible assumption | ((with_reducible apply Component.sub hl); decide)
    | ((with_reducible apply Component.sub hl); simp (disch := decide); done)
    | (with_reducible first | apply Keeps.ite | apply Keeps.foldState | apply Keeps.setNat) | intro _ | split
    | (with_reducible refine Keeps.ofFst ?_ (by assumption))

theorem Keeps.histClear {s : State} (t : Nat) (keep : Keeps allowed s0 s) (hl : ∀ p ∈ ([.regTil] : List Component), p ∈ allowed) :
    Keeps allowed s0 (histClear s t) := by
  simp only [Machine.histClear]
  repeat' first
    | with_reducible assumption | ((with_reducible apply Component.sub hl); decide)
    | ((with_reducible apply Component.sub hl); simp (disch := decide); done)
    | (with_reducible first | apply Keeps.ite | apply Keeps.histWordsClear | apply Keeps.setNat) | intro _ | split
    | (with_reducible refine Keeps.ofFst ?_ (by assumption))

theorem Keeps.histClose {s : State} (t : Nat) (keep : Keeps allowed s0 s) (hl : ∀ p ∈ ([.tiles, .regTil] : List Component), p ∈ allowed) :
    Keeps allowed s0 (histClose s t) := by
  simp only [Machine.histClose]
  repeat' first
    | with_reducible assumption | ((with_reducible apply Component.sub hl); decide)
    | ((with_reducible apply Component.sub hl); simp (disch := decide); done)
    | (with_reducible first | apply Keeps.ite | apply Keeps.setBit | apply Keeps.setTile) | intro _

theorem Keeps.modRun {s : State} (id : Nat) (f : Run → Run) (keep : Keeps allowed s0 s) (hl : ∀ p ∈ ([.grf] : List Component), p ∈ allowed) :
    Keeps allowed s0 (modRun s id f) := by
  simp only [Machine.modRun]
  repeat' (with_reducible first | assumption | refine Keeps.litGrf ?_  (hl _ (by decide)))

theorem Keeps.modKernel {s : State} (id : Nat) (k : Nat) (f : KernelRun → KernelRun) (keep : Keeps allowed s0 s) (hl : ∀ p ∈ ([.grf] : List
    Component), p ∈ allowed) :
    Keeps allowed s0 (modKernel s id k f) := by
  simp only [Machine.modKernel]
  repeat' (with_reducible first | assumption | apply Keeps.modRun)

theorem Keeps.showGrf {s : State}  (keep : Keeps allowed s0 s) (hl : ∀ p ∈ ([.regGrf] : List Component), p ∈ allowed) :
    Keeps allowed s0 (showGrf s) := by
  simp only [Machine.showGrf]
  repeat' first | with_reducible assumption | ((with_reducible apply Component.sub hl); decide) | with_reducible apply Keeps.setFld

theorem Keeps.showSeqs {s : State}  (keep : Keeps allowed s0 s) (hl : ∀ p ∈ ([.regGrf] : List Component), p ∈ allowed) :
    Keeps allowed s0 (showSeqs s) := by
  simp only [Machine.showSeqs]
  repeat' first | with_reducible assumption | ((with_reducible apply Component.sub hl); decide) | with_reducible apply Keeps.setFld

theorem Keeps.chargeTime {s : State} (r : PartRef) (keep : Keeps allowed s0 s) (hl : ∀ p ∈ ([.grf, .regGrf] : List Component), p ∈ allowed) :
    Keeps allowed s0 (chargeTime s r) := by
  simp only [Machine.chargeTime]
  repeat' first
    | with_reducible assumption | ((with_reducible apply Component.sub hl); decide)
    | ((with_reducible apply Component.sub hl); simp (disch := decide); done)
    | (with_reducible first | apply Keeps.add64 | apply Keeps.modRun | apply Keeps.modKernel) | split

theorem Keeps.issueOperand {s : State} (r : PartRef) (t : Nat) (a : Nat) (len : Nat) (use : Nat) (hint : Nat) (restream : Bool) (keep : Keeps
    allowed s0 s) (hl : ∀ p ∈ ([.mover] : List Component), p ∈ allowed) :
    Keeps allowed s0 (issueOperand s r t a len use hint restream) := by
  simp only [Machine.issueOperand]
  repeat' first
    | with_reducible assumption | ((with_reducible apply Component.sub hl); decide)
    | ((with_reducible apply Component.sub hl); simp (disch := decide); done) | (with_reducible first | apply Keeps.ite) | intro _ | split
    | (with_reducible refine Keeps.ofFst ?_ (by assumption)) | (with_reducible first | refine Keeps.litMover ?_ (hl _ (by decide)))

theorem Keeps.issuePieces {s : State} (r : PartRef) (t : Nat) (keep : Keeps allowed s0 s) (hl : ∀ p ∈ ([.grf, .mover, .regGrf] : List Component),
    p ∈ allowed) :
    Keeps allowed s0 (issuePieces s r t) := by
  simp only [Machine.issuePieces]
  repeat' first
    | with_reducible assumption | ((with_reducible apply Component.sub hl); decide)
    | ((with_reducible apply Component.sub hl); simp (disch := decide); done)
    | (with_reducible first | apply Keeps.ite | apply Keeps.foldState | apply Keeps.issueOperand | apply Keeps.add64 | apply Keeps.modRun) | intro _
    | split | (with_reducible refine Keeps.ofFst ?_ (by assumption))

theorem Keeps.dropPieces {s : State} (r : PartRef) (t : Nat) (keep : Keeps allowed s0 s) (hl : ∀ p ∈ ([.mover] : List Component), p ∈ allowed) :
    Keeps allowed s0 (dropPieces s r t) := by
  simp only [Machine.dropPieces]
  repeat' first
    | with_reducible assumption | ((with_reducible apply Component.sub hl); decide)
    | ((with_reducible apply Component.sub hl); simp (disch := decide); done) | (with_reducible first | apply Keeps.ite) | intro _ | split
    | (with_reducible refine Keeps.ofFst ?_ (by assumption)) | (with_reducible first | refine Keeps.litMover ?_ (hl _ (by decide)))

theorem Keeps.dropMoves {s : State} (run : Nat) (k : Option Nat) (keep : Keeps allowed s0 s) (hl : ∀ p ∈ ([.grf, .mover] : List Component), p ∈
    allowed) :
    Keeps allowed s0 (dropMoves s run k) := by
  simp only [Machine.dropMoves]
  repeat' first
    | with_reducible assumption | ((with_reducible apply Component.sub hl); decide)
    | ((with_reducible apply Component.sub hl); simp (disch := decide); done) | (with_reducible first | apply Keeps.ite) | intro _ | split
    | (with_reducible refine Keeps.ofFst ?_ (by assumption))
    | (with_reducible first | refine Keeps.litGrf ?_ (hl _ (by decide)) | refine Keeps.litMover ?_ (hl _ (by decide)) | refine Keeps.lit ?_ (hgrf := .inl (hl _ (by decide))) (hmover := .inl (hl _ (by decide))))

theorem Keeps.closeOccurrence {s : State} (p : Part) (keep : Keeps allowed s0 s) (hl : ∀ p ∈ ([.faults, .regGlb] : List Component), p ∈ allowed) :
    Keeps allowed s0 (closeOccurrence s p) := by
  simp only [Machine.closeOccurrence]
  repeat' first
    | with_reducible assumption | ((with_reducible apply Component.sub hl); decide) | with_reducible apply Keeps.bump | split
    | with_reducible refine Keeps.litFaults ?_  (hl _ (by decide))

theorem Keeps.skipFrom {s : State} (id : Nat) (keep : Keeps allowed s0 s) (hl : ∀ p ∈ ([.grf] : List Component), p ∈ allowed) :
    Keeps allowed s0 (skipFrom s id) := by
  simp only [Machine.skipFrom]
  repeat' first | (with_reducible first | assumption | apply Keeps.ite | apply Keeps.foldState | apply Keeps.modKernel) | intro _ | split

theorem Keeps.writeRecords {s : State} (r : Run) (keep : Keeps allowed s0 s) (hl : ∀ p ∈ ([.retire, .log, .packages, .dram, .mover, .host, .faults,
    .out, .regGlb, .regTier, .regFtl] : List Component), p ∈ allowed) :
    Keeps allowed s0 (writeRecords s r) := by
  simp only [Machine.writeRecords]
  repeat' first | (with_reducible first | assumption | apply Keeps.ite | apply Keeps.writeAddr) | intro _ | split

theorem Keeps.takeWaiting {s : State} (slot : Nat) (keep : Keeps allowed s0 s) (hl : ∀ p ∈ ([.grf] : List Component), p ∈ allowed) :
    Keeps allowed s0 (takeWaiting s slot).1 := by
  simp only [Machine.takeWaiting]
  repeat' first | with_reducible assumption | split | with_reducible refine Keeps.litGrf ?_  (hl _ (by decide))

theorem Keeps.beginRun {s : State} (slot : Nat) (mrs : Nat) (tag : Option CmdTag) (job : Option Nat) (recAddr : Nat) (runTag : Nat) (keep : Keeps
    allowed s0 s) (hl : ∀ p ∈ ([.grf, .regGrf] : List Component), p ∈ allowed) :
    Keeps allowed s0 (beginRun s slot mrs tag job recAddr runTag) := by
  simp only [Machine.beginRun]
  repeat' first
    | with_reducible assumption | ((with_reducible apply Component.sub hl); decide)
    | ((with_reducible apply Component.sub hl); simp (disch := decide); done) | (with_reducible first | apply Keeps.set64 | apply Keeps.showGrf)
    | split | with_reducible refine Keeps.litGrf ?_  (hl _ (by decide))

theorem Keeps.endAtStart {s : State} (w : WaitingRun) (g : Graph) (st : Nat) (kst : Nat) (keep : Keeps allowed s0 s) (hl : ∀ p ∈ ([.retire, .log,
    .packages, .dram, .mover, .host, .faults, .out, .regGlb, .regTier, .regFtl] : List Component), p ∈ allowed) :
    Keeps allowed s0 (endAtStart s w g st kst) := by
  simp only [Machine.endAtStart]
  repeat' first
    | with_reducible assumption | ((with_reducible apply Component.sub hl); decide)
    | (with_reducible first | apply Keeps.completeStatusOpt | apply Keeps.writeRecords)

theorem Keeps.endWaiting {s : State} (w : WaitingRun) (st : Nat) (kst : Nat) (keep : Keeps allowed s0 s) (hl : ∀ p ∈ ([.retire, .log, .packages,
    .dram, .mover, .host, .faults, .out, .regGlb, .regTier, .regFtl] : List Component), p ∈ allowed) :
    Keeps allowed s0 (endWaiting s w st kst) := by
  simp only [Machine.endWaiting]
  repeat' first
    | with_reducible assumption | ((with_reducible apply Component.sub hl); decide)
    | (with_reducible first | apply Keeps.completeStatusOpt | apply Keeps.endAtStart) | split

theorem Keeps.startRun {s : State} (w : WaitingRun) (keep : Keeps allowed s0 s) (hl : ∀ p ∈ ([.retire, .log, .packages, .dram, .grf, .mover,
    .scan, .host, .faults, .out, .regGlb, .regGrf, .regTier, .regFtl] : List Component), p ∈ allowed) :
    Keeps allowed s0 (startRun s w) := by
  simp only [Machine.startRun]
  repeat' first
    | with_reducible assumption | ((with_reducible apply Component.sub hl); decide)
    | ((with_reducible apply Component.sub hl); simp (disch := decide); done)
    | (with_reducible first | apply Keeps.ite | apply Keeps.completeStatusOpt | apply Keeps.endAtStart | apply Keeps.beginRun) | intro _ | split
    | (with_reducible refine Keeps.ofFst ?_ (by assumption)) | (with_reducible first | refine Keeps.litScan ?_ (hl _ (by decide)))

theorem Keeps.startNext {x1 : State} (x0 : Nat) (x2 : Nat) (keep : Keeps allowed s0 x1) (hl : ∀ p ∈ ([.retire, .log, .packages, .dram, .grf,
    .mover, .scan, .host, .faults, .out, .regGlb, .regGrf, .regTier, .regFtl] : List Component), p ∈ allowed) :
    Keeps allowed s0 (startNext x0 x1 x2) := by
  induction x0 generalizing x1 x2 with
  | zero =>
    simp only [Machine.startNext]
    repeat' first
      | with_reducible assumption | ((with_reducible apply Component.sub hl); decide)
      | ((with_reducible apply Component.sub hl); simp (disch := decide); done)
      | (with_reducible first | apply Keeps.ite | apply Keeps.takeWaiting | apply Keeps.startRun) | intro _ | split
      | (with_reducible refine Keeps.ofFst ?_ (by assumption))
  | succ _ ih =>
    simp only [Machine.startNext]
    repeat' first
      | with_reducible apply ih | with_reducible assumption | ((with_reducible apply Component.sub hl); decide)
      | ((with_reducible apply Component.sub hl); simp (disch := decide); done)
      | (with_reducible first | apply Keeps.ite | apply Keeps.takeWaiting | apply Keeps.startRun) | intro _ | split
      | (with_reducible refine Keeps.ofFst ?_ (by assumption))

theorem Keeps.setSeq {s : State} (i : Nat) (q : Seq) (keep : Keeps allowed s0 s) (hl : ∀ p ∈ ([.grf, .regGrf] : List Component), p ∈ allowed) :
    Keeps allowed s0 (setSeq s i q) := by
  simp only [Machine.setSeq]
  repeat' first
    | with_reducible assumption | ((with_reducible apply Component.sub hl); decide)
    | (with_reducible first | apply Keeps.showSeqs | refine Keeps.litGrf ?_  (hl _ (by decide)))

theorem Keeps.writeRing {s : State} (q : Seq) (keep : Keeps allowed s0 s) (hl : ∀ p ∈ ([.retire, .log, .packages, .dram, .mover, .host, .faults,
    .out, .regGlb, .regTier, .regFtl] : List Component), p ∈ allowed) :
    Keeps allowed s0 (writeRing s q) := by
  simp only [Machine.writeRing]
  repeat' first | (with_reducible first | assumption | apply Keeps.writeAddr) | split

theorem Keeps.writeToken {s : State} (q : Seq) (tok : Nat) (keep : Keeps allowed s0 s) (hl : ∀ p ∈ ([.retire, .log, .packages, .dram, .mover, .host,
    .faults, .out, .regGlb, .regTier, .regFtl] : List Component), p ∈ allowed) :
    Keeps allowed s0 (writeToken s q tok) := by
  simp only [Machine.writeToken]
  repeat' first | (with_reducible first | assumption | apply Keeps.writeAddr) | split

theorem Keeps.endSeq {s : State} (i : Nat) (st : Nat) (reason : Nat) (keep : Keeps allowed s0 s) (hl : ∀ p ∈ ([.retire, .log, .packages, .dram,
    .grf, .mover, .host, .faults, .out, .regGlb, .regGrf, .regTier, .regFtl] : List Component), p ∈ allowed) :
    Keeps allowed s0 (endSeq s i st reason) := by
  simp only [Machine.endSeq]
  repeat' first
    | with_reducible assumption | ((with_reducible apply Component.sub hl); decide)
    | (with_reducible first | apply Keeps.ite | apply Keeps.completeStatusOpt | apply Keeps.setSeq | apply Keeps.writeRing) | intro _

theorem Keeps.naturalEnd {s : State} (i : Nat) (st : Nat) (reason : Nat) (keep : Keeps allowed s0 s) (hl : ∀ p ∈ ([.retire, .log, .packages,
    .dram, .grf, .mover, .host, .faults, .out, .regGlb, .regArm, .regGrf, .regTier, .regFtl] : List Component), p ∈ allowed) :
    Keeps allowed s0 (naturalEnd s i st reason) := by
  simp only [Machine.naturalEnd]
  repeat' first
    | with_reducible assumption | ((with_reducible apply Component.sub hl); decide)
    | ((with_reducible apply Component.sub hl); simp (disch := decide); done)
    | (with_reducible first | apply Keeps.ite | apply Keeps.endSeq | apply Keeps.setBit | apply Keeps.draw) | intro _ | split
    | (with_reducible refine Keeps.ofFst ?_ (by assumption))

theorem Keeps.serveEntry {s : State} (g : Graph) (slot : Nat) (page : Nat) (e : Nat × Nat × Nat) (keep : Keeps allowed s0 s) (hl : ∀ p ∈
    ([.retire, .log, .packages, .dram, .grf, .mover, .host, .faults, .out, .regGlb, .regArm, .regGrf, .regTier, .regFtl] : List Component), p ∈
    allowed) :
    Keeps allowed s0 (serveEntry s g slot page e) := by
  simp only [Machine.serveEntry]
  repeat' first
    | with_reducible assumption | ((with_reducible apply Component.sub hl); decide)
    | ((with_reducible apply Component.sub hl); simp (disch := decide); done)
    | (with_reducible first | apply Keeps.ite | apply Keeps.endSeq | apply Keeps.setSeq | apply Keeps.naturalEnd | apply Keeps.writeToken)
    | (with_reducible first | apply Keeps.writeRing) | intro _ | split | (with_reducible refine Keeps.ofFst ?_ (by assumption))

theorem Keeps.endStep {s : State} (r : Run) (keep : Keeps allowed s0 s) (hl : ∀ p ∈ ([.retire, .log, .packages, .dram, .grf, .mover, .host,
    .faults, .out, .regGlb, .regArm, .regGrf, .regTier, .regFtl] : List Component), p ∈ allowed) :
    Keeps allowed s0 (endStep s r) := by
  simp only [Machine.endStep]
  repeat' first
    | with_reducible assumption | ((with_reducible apply Component.sub hl); decide)
    | ((with_reducible apply Component.sub hl); simp (disch := decide); done)
    | (with_reducible first | apply Keeps.ite | apply Keeps.add64 | apply Keeps.foldState | apply Keeps.serveEntry | apply Keeps.endSeq) | intro _
    | split | (with_reducible refine Keeps.ofFst ?_ (by assumption)) | (with_reducible first | refine Keeps.litGrf ?_ (hl _ (by decide)))

theorem Keeps.modJob {s : State} (index : Nat) (f : Job → Job) (keep : Keeps allowed s0 s) (hl : ∀ p ∈ ([.scan] : List Component), p ∈ allowed) :
    Keeps allowed s0 (modJob s index f) := by
  simp only [Machine.modJob]
  repeat' (with_reducible first | assumption | refine Keeps.litScan ?_  (hl _ (by decide)))

theorem Keeps.fillBatch {s : State} (j : Job) (keep : Keeps allowed s0 s) (hl : ∀ p ∈ ([.retire, .log, .packages, .dram, .mover, .scan, .host,
    .faults, .out, .regGlb, .regTier, .regFtl] : List Component), p ∈ allowed) :
    Keeps allowed s0 (fillBatch s j) := by
  simp only [Machine.fillBatch]
  repeat' first
    | with_reducible assumption | ((with_reducible apply Component.sub hl); decide)
    | ((with_reducible apply Component.sub hl); simp (disch := decide); done)
    | (with_reducible first | apply Keeps.ite | apply Keeps.writeAddr | apply Keeps.modJob) | intro _ | split
    | (with_reducible refine Keeps.ofFst ?_ (by assumption))

theorem Keeps.endBatchRun {s : State} (r : Run) (index : Nat) (keep : Keeps allowed s0 s) (hl : ∀ p ∈ ([.retire, .log, .packages, .dram, .mover,
    .scan, .host, .faults, .out, .regGlb, .regTier, .regFtl] : List Component), p ∈ allowed) :
    Keeps allowed s0 (endBatchRun s r index) := by
  simp only [Machine.endBatchRun]
  repeat' first
    | with_reducible assumption | ((with_reducible apply Component.sub hl); decide)
    | ((with_reducible apply Component.sub hl); simp (disch := decide); done)
    | (with_reducible first | apply Keeps.ite | apply Keeps.readRange | apply Keeps.modJob | apply Keeps.fillBatch) | intro _ | split
    | (with_reducible refine Keeps.ofFst ?_ (by assumption))

theorem Keeps.finishRun {s : State} (id : Nat) (keep : Keeps allowed s0 s) (hl : ∀ p ∈ ([.retire, .log, .packages, .dram, .grf, .mover, .scan,
    .host, .faults, .out, .regGlb, .regArm, .regGrf, .regTier, .regFtl] : List Component), p ∈ allowed) :
    Keeps allowed s0 (finishRun s id) := by
  simp only [Machine.finishRun]
  repeat' first
    | with_reducible assumption | ((with_reducible apply Component.sub hl); decide)
    | ((with_reducible apply Component.sub hl); simp (disch := decide); done)
    | (with_reducible first | apply Keeps.ite | apply Keeps.setBit | apply Keeps.endStep | apply Keeps.endBatchRun | apply Keeps.completeStatusOpt)
    | (with_reducible first | apply Keeps.writeRecords | apply Keeps.dropMoves | apply Keeps.showGrf | apply Keeps.startNext) | intro _ | split
    | (with_reducible refine Keeps.ofFst ?_ (by assumption)) | (with_reducible first | refine Keeps.litGrf ?_ (hl _ (by decide)))

theorem Keeps.refineKernel {s : State} (r : Run) (k : Nat) (keep : Keeps allowed s0 s) (hl : ∀ p ∈ ([.grf] : List Component), p ∈ allowed) :
    Keeps allowed s0 (refineKernel s r k) := by
  simp only [Machine.refineKernel]
  repeat' first | with_reducible assumption | split | with_reducible refine Keeps.litGrf ?_  (hl _ (by decide))

theorem Keeps.writeOutputs {s : State} (r : Run) (g : Graph) (k : Nat) (kd : Kernel) (ins : List Byte) (x0 : Nat) (x1 : List (Nat × Nat)) (keep :
    Keeps allowed s0 s) (hl : ∀ p ∈ ([.retire, .log, .packages, .dram, .mover, .host, .faults, .out, .regGlb, .regTier, .regFtl] : List
    Component), p ∈ allowed) :
    Keeps allowed s0 (writeOutputs s r g k kd ins x0 x1) := by
  induction x1 generalizing s x0 with
  | nil =>
    simp only [Machine.writeOutputs]
    repeat' first
      | with_reducible assumption | ((with_reducible apply Component.sub hl); decide)
      | ((with_reducible apply Component.sub hl); simp (disch := decide); done) | (with_reducible first | apply Keeps.ite | apply Keeps.writeAddr)
      | intro _ | split | (with_reducible refine Keeps.ofFst ?_ (by assumption))
  | cons _ _ ih =>
    simp only [Machine.writeOutputs]
    repeat' first
      | with_reducible apply ih | with_reducible assumption | ((with_reducible apply Component.sub hl); decide)
      | ((with_reducible apply Component.sub hl); simp (disch := decide); done) | (with_reducible first | apply Keeps.ite | apply Keeps.writeAddr)
      | intro _ | split | (with_reducible refine Keeps.ofFst ?_ (by assumption))

theorem Keeps.leaveOutputs {s : State} (r : Run) (k : Nat) (st : Nat) (keep : Keeps allowed s0 s) (hl : ∀ p ∈ ([.retire, .log, .packages, .dram,
    .mover, .host, .faults, .out, .regGlb, .regTier, .regFtl] : List Component), p ∈ allowed) :
    Keeps allowed s0 (leaveOutputs s r k st) := by
  simp only [Machine.leaveOutputs]
  repeat' first
    | with_reducible assumption | ((with_reducible apply Component.sub hl); decide)
    | ((with_reducible apply Component.sub hl); simp (disch := decide); done)
    | (with_reducible first | apply Keeps.ite | apply Keeps.writeOutputs | apply Keeps.foldState | apply Keeps.scramble) | intro _ | split
    | (with_reducible refine Keeps.ofFst ?_ (by assumption))

theorem Keeps.activateOnPost {s : State} (t : Nat) (keep : Keeps allowed s0 s) (hl : ∀ p ∈ ([.fabric, .regFab] : List Component), p ∈ allowed) :
    Keeps allowed s0 (activateOnPost s t) := by
  simp only [Machine.activateOnPost]
  repeat' first
    | with_reducible assumption | ((with_reducible apply Component.sub hl); decide)
    | ((with_reducible apply Component.sub hl); simp (disch := decide); done)
    | (with_reducible first | apply Keeps.ite | apply Keeps.foldl | apply Keeps.setFld) | intro _ | split
    | (with_reducible refine Keeps.ofFst ?_ (by assumption)) | (with_reducible first | refine Keeps.litFabric ?_ (hl _ (by decide)))

theorem Keeps.addPosts {s : State} (t : Nat) (segs : List Nat) (keep : Keeps allowed s0 s) (hl : ∀ p ∈ ([.fabric, .regFab] : List Component), p ∈
    allowed) :
    Keeps allowed s0 (addPosts s t segs) := by
  simp only [Machine.addPosts]
  repeat' first
    | with_reducible assumption | ((with_reducible apply Component.sub hl); decide)
    | (with_reducible first | apply Keeps.ite | apply Keeps.bump | apply Keeps.foldState | apply Keeps.activateOnPost) | intro _
    | with_reducible refine Keeps.litFabric ?_  (hl _ (by decide))

theorem Keeps.autoPost {s : State} (r : Run) (k : Nat) (keep : Keeps allowed s0 s) (hl : ∀ p ∈ ([.fabric, .regFab] : List Component), p ∈ allowed)
    :
    Keeps allowed s0 (autoPost s r k) := by
  simp only [Machine.autoPost]
  repeat' first
    | with_reducible assumption | ((with_reducible apply Component.sub hl); decide)
    | ((with_reducible apply Component.sub hl); simp (disch := decide); done)
    | (with_reducible first | apply Keeps.ite | apply Keeps.foldState | apply Keeps.addPosts) | intro _ | split
    | (with_reducible refine Keeps.ofFst ?_ (by assumption))

theorem Keeps.endKernel {s : State} (id : Nat) (k : Nat) (st : Nat) (keep : Keeps allowed s0 s) (hl : ∀ p ∈ ([.retire, .log, .packages, .dram,
    .grf, .mover, .scan, .fabric, .host, .faults, .out, .regGlb, .regArm, .regGrf, .regTier, .regFab, .regFtl] : List Component), p ∈ allowed) :
    Keeps allowed s0 (endKernel s id k st) := by
  simp only [Machine.endKernel]
  repeat' first
    | with_reducible assumption | ((with_reducible apply Component.sub hl); decide)
    | ((with_reducible apply Component.sub hl); simp (disch := decide); done)
    | (with_reducible first | apply Keeps.ite | apply Keeps.modKernel | apply Keeps.dropMoves | apply Keeps.leaveOutputs | apply Keeps.autoPost)
    | (with_reducible first | apply Keeps.refineKernel | apply Keeps.readAddr | apply Keeps.modRun | apply Keeps.finishRun | apply Keeps.skipFrom)
    | intro _ | split | (with_reducible refine Keeps.ofFst ?_ (by assumption))

theorem Keeps.dropPart {s : State} (t : Nat) (p : Part) (keep : Keeps allowed s0 s) (hl : ∀ p ∈ ([.tiles, .grf, .mover, .faults, .regGlb, .regGrf,
    .regTil] : List Component), p ∈ allowed) :
    Keeps allowed s0 (dropPart s t p) := by
  simp only [Machine.dropPart]
  repeat' first
    | with_reducible assumption | ((with_reducible apply Component.sub hl); decide)
    | (with_reducible first | apply Keeps.putTile | apply Keeps.histClose | apply Keeps.modKernel | apply Keeps.chargeTime)
    | (with_reducible first | apply Keeps.dropPieces | apply Keeps.closeOccurrence)

theorem Keeps.stopParts {s : State} (id : Nat) (k : Nat) (keep : Keeps allowed s0 s) (hl : ∀ p ∈ ([.tiles, .grf, .mover, .faults, .regGlb, .regGrf,
    .regTil] : List Component), p ∈ allowed) :
    Keeps allowed s0 (stopParts s id k) := by
  simp only [Machine.stopParts]
  repeat' first
    | with_reducible assumption | ((with_reducible apply Component.sub hl); decide)
    | (with_reducible first | apply Keeps.ite | apply Keeps.foldState | apply Keeps.putTile | apply Keeps.chargeTime | apply Keeps.dropPieces)
    | with_reducible apply Keeps.dropPart | intro _ | split | with_reducible refine Keeps.litGrf ?_  (hl _ (by decide))

theorem Keeps.failKernel {s : State} (id : Nat) (k : Nat) (st : Nat) (keep : Keeps allowed s0 s) (hl : ∀ p ∈ ([.retire, .log, .packages, .tiles,
    .dram, .grf, .mover, .scan, .fabric, .host, .faults, .out, .regGlb, .regArm, .regGrf, .regTier, .regFab, .regFtl, .regTil] : List Component), p
    ∈ allowed) :
    Keeps allowed s0 (failKernel s id k st) := by
  simp only [Machine.failKernel]
  repeat' first
    | with_reducible assumption | ((with_reducible apply Component.sub hl); decide)
    | (with_reducible first | apply Keeps.endKernel | apply Keeps.stopParts)

theorem Keeps.keepResident {s : State} (r : Run) (p : PartRef) (t : Nat) (keep : Keeps allowed s0 s) (hl : ∀ p ∈ ([.grf] : List Component), p ∈
    allowed) :
    Keeps allowed s0 (keepResident s r p t) := by
  simp only [Machine.keepResident]
  repeat' first
    | with_reducible assumption | ((with_reducible apply Component.sub hl); decide)
    | ((with_reducible apply Component.sub hl); simp (disch := decide); done) | (with_reducible first | apply Keeps.ite) | intro _ | split
    | (with_reducible refine Keeps.ofFst ?_ (by assumption)) | (with_reducible first | refine Keeps.litGrf ?_ (hl _ (by decide)))

theorem Keeps.endPart {s : State} (t : Nat) (keep : Keeps allowed s0 s) (hl : ∀ p ∈ ([.retire, .log, .packages, .tiles, .dram, .grf, .mover,
    .scan, .fabric, .host, .faults, .out, .regGlb, .regArm, .regGrf, .regTier, .regFab, .regFtl, .regTil] : List Component), p ∈ allowed) :
    Keeps allowed s0 (endPart s t) := by
  simp only [Machine.endPart]
  repeat' first
    | with_reducible assumption | ((with_reducible apply Component.sub hl); decide)
    | ((with_reducible apply Component.sub hl); simp (disch := decide); done)
    | (with_reducible first | apply Keeps.ite | apply Keeps.dropPart | apply Keeps.setTile | apply Keeps.modKernel | apply Keeps.keepResident)
    | (with_reducible first | apply Keeps.endKernel) | intro _ | split | (with_reducible refine Keeps.ofFst ?_ (by assumption))

theorem Keeps.failPart {s : State} (t : Nat) (st : Nat) (keep : Keeps allowed s0 s) (hl : ∀ p ∈ ([.retire, .log, .packages, .tiles, .dram, .grf,
    .mover, .scan, .fabric, .host, .faults, .out, .regGlb, .regArm, .regGrf, .regTier, .regFab, .regFtl, .regTil] : List Component), p ∈ allowed) :
    Keeps allowed s0 (failPart s t st) := by
  simp only [Machine.failPart]
  repeat' first | (with_reducible first | assumption | apply Keeps.failKernel) | split

theorem Keeps.readBias {s : State} (run : Run) (k : Kernel) (keep : Keeps allowed s0 s) (hl : ∀ p ∈ ([.retire, .log, .dram, .mover, .host,
    .faults, .out, .regGlb, .regTier] : List Component), p ∈ allowed) :
    Keeps allowed s0 (readBias s run k).1 := by
  simp only [Machine.readBias]
  repeat' first
    | with_reducible assumption | ((with_reducible apply Component.sub hl); decide)
    | ((with_reducible apply Component.sub hl); simp (disch := decide); done)
    | (with_reducible first | apply Keeps.iteFst | apply Keeps.ite | apply Keeps.readAddr) | intro _ | split
    | (with_reducible refine Keeps.ofFst ?_ (by assumption))

theorem Keeps.startPart {s : State} (r : PartRef) (t : Nat) (attempts : Nat) (occ : Option FaultRec) (keep : Keeps allowed s0 s) (hl : ∀ p ∈
    ([.retire, .log, .packages, .tiles, .store, .dram, .grf, .mover, .scan, .fabric, .host, .faults, .out, .regGlb, .regArm, .regGrf, .regTier,
    .regFab, .regFtl, .regTil] : List Component), p ∈ allowed) :
    Keeps allowed s0 (startPart s r t attempts occ) := by
  simp only [Machine.startPart]
  repeat' first
    | with_reducible assumption | ((with_reducible apply Component.sub hl); decide)
    | ((with_reducible apply Component.sub hl); simp (disch := decide); done)
    | (with_reducible first | apply Keeps.ite | apply Keeps.storeWrite | apply Keeps.readBias | apply Keeps.setNat | apply Keeps.putTile)
    | (with_reducible first | apply Keeps.failPart) | intro _ | split | (with_reducible refine Keeps.ofFst ?_ (by assumption))

theorem Keeps.tileFor {s : State} (t : Nat) (role : Nat) (keep : Keeps allowed s0 s) (hl : ∀ p ∈ ([.grf] : List Component), p ∈ allowed) :
    Keeps allowed s0 (tileFor s t role).1 := by
  simp only [Machine.tileFor]
  repeat' first
    | (with_reducible first | assumption | apply Keeps.iteFst) | intro _ | split | with_reducible refine Keeps.litGrf ?_  (hl _ (by decide))

theorem Keeps.queuePart {s : State} (t : Nat) (r : PartRef) (keep : Keeps allowed s0 s) (hl : ∀ p ∈ ([.tiles, .grf, .mover, .regGrf, .regTil] : List
    Component), p ∈ allowed) :
    Keeps allowed s0 (queuePart s t r) := by
  simp only [Machine.queuePart]
  repeat' first
    | with_reducible assumption | ((with_reducible apply Component.sub hl); decide)
    | (with_reducible first | apply Keeps.putTile | apply Keeps.issuePieces | refine Keeps.litGrf ?_  (hl _ (by decide)))

theorem Keeps.checkStrength {s : State}  (keep : Keeps allowed s0 s) (hl : ∀ p ∈ ([.regArm] : List Component), p ∈ allowed) :
    Keeps allowed s0 (checkStrength s) := by
  simp only [Machine.checkStrength]
  repeat' first
    | with_reducible assumption | ((with_reducible apply Component.sub hl); decide) | (with_reducible first | apply Keeps.ite | apply Keeps.setBit)
    | intro _

theorem Keeps.moveParts {s : State} (t : Nat) (role : Nat) (rs : List PartRef) (keep : Keeps allowed s0 s) (hl : ∀ p ∈ ([.retire, .log, .packages,
    .tiles, .dram, .grf, .mover, .scan, .fabric, .host, .faults, .out, .regGlb, .regArm, .regGrf, .regTier, .regFab, .regFtl, .regTil] : List
    Component), p ∈ allowed) :
    Keeps allowed s0 (moveParts s t role rs) := by
  simp only [Machine.moveParts]
  repeat' first
    | with_reducible assumption | ((with_reducible apply Component.sub hl); decide)
    | ((with_reducible apply Component.sub hl); simp (disch := decide); done)
    | (with_reducible first | apply Keeps.ite | apply Keeps.foldState | apply Keeps.tileFor | apply Keeps.failKernel | apply Keeps.queuePart)
    | (with_reducible first | apply Keeps.modKernel | apply Keeps.dropPieces) | intro _ | split
    | (with_reducible refine Keeps.ofFst ?_ (by assumption))

theorem Keeps.retireTile {s : State} (t : Nat) (cause : Nat) (keep : Keeps allowed s0 s) (hl : ∀ p ∈ ([.retire, .log, .packages, .tiles, .dram,
    .grf, .mover, .scan, .fabric, .host, .faults, .out, .regGlb, .regArm, .regGrf, .regTier, .regFab, .regSrc, .regFtl, .regTil] : List
    Component), p ∈ allowed) :
    Keeps allowed s0 (retireTile s t cause) := by
  simp only [Machine.retireTile]
  repeat' first
    | with_reducible assumption | ((with_reducible apply Component.sub hl); decide)
    | ((with_reducible apply Component.sub hl); simp (disch := decide); done)
    | (with_reducible first | apply Keeps.ite | apply Keeps.permanentFault | apply Keeps.foldState | apply Keeps.chargeTime | apply Keeps.modKernel)
    | (with_reducible first | apply Keeps.setFld | apply Keeps.showTile | apply Keeps.setNat | apply Keeps.bumpFld | apply Keeps.setBit)
    | (with_reducible first | apply Keeps.showAssist | apply Keeps.retired | apply Keeps.checkStrength | apply Keeps.showCore | apply Keeps.failKernel)
    | (with_reducible first | apply Keeps.interrupting | apply Keeps.moveParts) | intro _ | split
    | (with_reducible refine Keeps.ofFst ?_ (by assumption))
    | (with_reducible first | refine Keeps.litTiles ?_ (hl _ (by decide)) | refine Keeps.litGrf ?_ (hl _ (by decide)) | refine Keeps.lit ?_ (htiles := .inl (hl _ (by decide))) (hgrf := .inl (hl _ (by decide))) | refine Keeps.litNv ?_ ?_ (nretire := .inl (hl _ (by decide))) (htiles := .inl (hl _ (by decide))) (hgrf := .inl (hl _ (by decide))))
    | ((with_reducible apply NvLasts.mk) <;> first | rfl | exact Nat.le_refl _ | exact fun _ h => h | exact satInc_ge _ | exact Nat.le_max_left _ _ | exact testBit_lor_left _ _ | exact List.subset_append_left _ _)

theorem Keeps.retryPart {s : State} (t : Nat) (p : Part) (occ : Option FaultRec) (keep : Keeps allowed s0 s) (hl : ∀ p ∈ ([.retire, .log,
    .packages, .tiles, .store, .dram, .grf, .mover, .scan, .fabric, .host, .faults, .out, .regGlb, .regArm, .regGrf, .regTier, .regFab, .regFtl,
    .regTil] : List Component), p ∈ allowed) :
    Keeps allowed s0 (retryPart s t p occ) := by
  simp only [Machine.retryPart]
  repeat' first
    | with_reducible assumption | ((with_reducible apply Component.sub hl); decide)
    | ((with_reducible apply Component.sub hl); simp (disch := decide); done)
    | (with_reducible first | apply Keeps.ite | apply Keeps.modKernel | apply Keeps.bumpFld | apply Keeps.issuePieces | apply Keeps.dropPieces)
    | (with_reducible first | apply Keeps.startPart) | intro _ | split | (with_reducible refine Keeps.ofFst ?_ (by assumption))
    | (with_reducible first | refine Keeps.litGrf ?_ (hl _ (by decide)))

theorem Keeps.tileFault {s : State} (t : Nat) (cause : Nat) (keep : Keeps allowed s0 s) (hl : ∀ p ∈ ([.retire, .log, .packages, .tiles, .store, .dram, .grf, .mover, .scan, .fabric, .host, .faults, .out, .regGlb, .regArm, .regGrf, .regTier, .regFab, .regSrc, .regFtl, .regTil] : List Component), p
    ∈ allowed) :
    Keeps allowed s0 (tileFault s t cause) := by
  simp only [Machine.tileFault]
  repeat' first
    | with_reducible assumption | ((with_reducible apply Component.sub hl); decide)
    | ((with_reducible apply Component.sub hl); simp (disch := decide); done)
    | (with_reducible first | apply Keeps.ite | apply Keeps.setFld | apply Keeps.bumpFld | apply Keeps.transientFault | apply Keeps.retireTile)
    | with_reducible apply Keeps.retryPart | intro _ | split | with_reducible refine Keeps.litFaults ?_  (hl _ (by decide))

theorem Keeps.doubleBit {s : State} (t : Nat) (a : Nat) (keep : Keeps allowed s0 s) (hl : ∀ p ∈ ([.retire, .log, .packages, .tiles, .store, .dram, .grf, .mover, .scan, .fabric, .host, .faults, .out, .regGlb, .regArm, .regGrf, .regTier, .regFab, .regSrc, .regFtl, .regTil] : List Component), p ∈
    allowed) :
    Keeps allowed s0 (doubleBit s t a) := by
  simp only [Machine.doubleBit]
  repeat' first
    | with_reducible assumption | ((with_reducible apply Component.sub hl); decide)
    | ((with_reducible apply Component.sub hl); simp (disch := decide); done)
    | (with_reducible first | apply Keeps.ite | apply Keeps.setNat | apply Keeps.bump | apply Keeps.interrupting | apply Keeps.setTile)
    | (with_reducible first | apply Keeps.failPart | apply Keeps.tileFault) | intro _ | split

end Sys2Proof.Machine
end

