-- ==== Sys2Proof/Laws/KeepsGraph.lean ====
section
/-! SUPPORT. What every operation of Machine/Graph.lean keeps: the queue, what lasts, the canonical forms, and every part of the state that
is not in its list. -/
set_option Elab.async false
set_option linter.all false
namespace Sys2Proof.Machine

variable {allowed : List Component} {s0 : State}

theorem Keeps.cpCommand {s go : State} (tag : CmdTag) (keep : Keeps allowed s0 s) (keep1 : Keeps allowed s0 go) (hl : ∀ p ∈ ([.host, .out] : List
    Component), p ∈ allowed) :
    Keeps allowed s0 (cpCommand s tag go) := by
  simp only [Machine.cpCommand]
  repeat' first | (with_reducible first | assumption | apply Keeps.ite | apply Keeps.endQuiet | apply Keeps.completeStatus) | intro _

theorem Keeps.loadError {s : State} (code : Nat) (off : Nat) (keep : Keeps allowed s0 s) (hl : ∀ p ∈ ([.regGrf] : List Component), p ∈ allowed) :
    Keeps allowed s0 (loadError s code off) := by
  simp only [Machine.loadError]
  repeat' first | with_reducible assumption | ((with_reducible apply Component.sub hl); decide) | with_reducible apply Keeps.setNat

theorem Keeps.dropResidents {s : State} (slot : Nat) (keep : Keeps allowed s0 s) (hl : ∀ p ∈ ([.grf] : List Component), p ∈ allowed) :
    Keeps allowed s0 (dropResidents s slot) := by
  simp only [Machine.dropResidents]
  repeat' (with_reducible first | assumption | refine Keeps.litGrf ?_  (hl _ (by decide)))

theorem Keeps.loadFails {s : State} (tag : CmdTag) (code : Nat) (off : Nat) (keep : Keeps allowed s0 s) (hl : ∀ p ∈ ([.host, .out, .regGrf] : List
    Component), p ∈ allowed) :
    Keeps allowed s0 (loadFails s tag code off) := by
  simp only [Machine.loadFails]
  repeat' first
    | with_reducible assumption | ((with_reducible apply Component.sub hl); decide)
    | (with_reducible first | apply Keeps.completeStatus | apply Keeps.loadError)

theorem Keeps.loadProgramEff {s : State} (tag : CmdTag) (slot : Nat) (img : List Byte) (keep : Keeps allowed s0 s) (hl : ∀ p ∈ ([.grf, .host,
    .out, .regGrf] : List Component), p ∈ allowed) :
    Keeps allowed s0 (loadProgramEff s tag slot img) := by
  simp only [Machine.loadProgramEff]
  repeat' first
    | with_reducible assumption | ((with_reducible apply Component.sub hl); decide)
    | ((with_reducible apply Component.sub hl); simp (disch := decide); done)
    | (with_reducible first | apply Keeps.ite | apply Keeps.loadFails | apply Keeps.cpCommand | apply Keeps.fail | apply Keeps.complete)
    | (with_reducible first | apply Keeps.showGrf | apply Keeps.dropResidents) | intro _ | split
    | (with_reducible refine Keeps.ofFst ?_ (by assumption)) | (with_reducible first | refine Keeps.litGrf ?_ (hl _ (by decide)))

theorem Keeps.unlimited {s : State} (tag : CmdTag) (go : State) (keep : Keeps allowed s0 s) (keep1 : Keeps allowed s0 go) (hl : ∀ p ∈ ([.host,
    .out] : List Component), p ∈ allowed) :
    Keeps allowed s0 (unlimited s tag go) := by
  simp only [Machine.unlimited]
  repeat' first
    | with_reducible assumption | ((with_reducible apply Component.sub hl); decide)
    | ((with_reducible apply Component.sub hl); simp (disch := decide); done) | (with_reducible first | apply Keeps.ite | apply Keeps.completeStatus)
    | intro _ | split | (with_reducible refine Keeps.ofFst ?_ (by assumption))

theorem Keeps.activationEff {s : State} (tag : CmdTag) (slot : Nat) (activate : Bool) (keep : Keeps allowed s0 s) (hl : ∀ p ∈ ([.retire, .log,
    .packages, .dram, .grf, .mover, .scan, .host, .faults, .out, .regGlb, .regGrf, .regTier, .regFtl] : List Component), p ∈ allowed) :
    Keeps allowed s0 (activationEff s tag slot activate) := by
  simp only [Machine.activationEff]
  repeat' first
    | with_reducible assumption | ((with_reducible apply Component.sub hl); decide)
    | ((with_reducible apply Component.sub hl); simp (disch := decide); done)
    | (with_reducible first | apply Keeps.ite | apply Keeps.cpCommand | apply Keeps.unlimited | apply Keeps.fail | apply Keeps.startNext)
    | (with_reducible first | apply Keeps.complete | apply Keeps.dropResidents) | intro _ | split
    | (with_reducible refine Keeps.ofFst ?_ (by assumption)) | (with_reducible first | refine Keeps.litGrf ?_ (hl _ (by decide)))

theorem Keeps.rangeSetEff {s : State} (tag : CmdTag) (id : Nat) (ranges : List (Nat × Nat)) (keep : Keeps allowed s0 s) (hl : ∀ p ∈ ([.grf, .host,
    .out] : List Component), p ∈ allowed) :
    Keeps allowed s0 (rangeSetEff s tag id ranges) := by
  simp only [Machine.rangeSetEff]
  repeat' first
    | with_reducible assumption | ((with_reducible apply Component.sub hl); decide)
    | ((with_reducible apply Component.sub hl); simp (disch := decide); done)
    | (with_reducible first | apply Keeps.ite | apply Keeps.cpCommand | apply Keeps.unlimited | apply Keeps.fail | apply Keeps.complete) | intro _
    | split | (with_reducible refine Keeps.ofFst ?_ (by assumption)) | (with_reducible first | refine Keeps.litGrf ?_ (hl _ (by decide)))

theorem Keeps.takeSeq {s : State} (i : Nat) (w : WaitingRun) (keep : Keeps allowed s0 s) (hl : ∀ p ∈ ([.retire, .log, .packages, .dram, .grf,
    .mover, .host, .faults, .out, .regGlb, .regGrf, .regTier, .regFtl] : List Component), p ∈ allowed) :
    Keeps allowed s0 (takeSeq s i w) := by
  simp only [Machine.takeSeq]
  repeat' first
    | with_reducible assumption | ((with_reducible apply Component.sub hl); decide)
    | (with_reducible first | apply Keeps.ite | apply Keeps.completeStatusOpt | apply Keeps.readAddr | apply Keeps.setSeq)
    | with_reducible apply Keeps.writeRing | intro _ | split | (with_reducible refine Keeps.ofFst ?_ (by assumption))
    | with_reducible refine Keeps.litGrf ?_  (hl _ (by decide))

theorem Keeps.admitSeq {s : State} (w : WaitingRun) (keep : Keeps allowed s0 s) (hl : ∀ p ∈ ([.retire, .log, .packages, .dram, .grf, .mover, .host,
    .faults, .out, .regGlb, .regGrf, .regTier, .regFtl] : List Component), p ∈ allowed) :
    Keeps allowed s0 (admitSeq s w) := by
  unfold Machine.admitSeq
  have k : Keeps allowed s0 (Machine.showSeqs { s with grf := { s.grf with seqWaiting := s.grf.seqWaiting ++ [w] } }) :=
    Keeps.showSeqs (Keeps.lit keep (hgrf := .inl (hl _ (by decide)))) (Component.sub hl (by decide))
  generalize Machine.showSeqs _ = t at k ⊢
  cases Machine.freeSeq s <;> cases s.grf.seqWaiting <;> first | exact k | exact Keeps.takeSeq _ _ keep (Component.sub hl (by decide))

theorem Keeps.executeProgramEff {s : State} (tag : CmdTag) (slot : Nat) (mrs : Nat) (block : List Byte) (keep : Keeps allowed s0 s) (hl : ∀ p ∈
    ([.retire, .log, .packages, .dram, .grf, .mover, .scan, .host, .faults, .out, .regGlb, .regGrf, .regTier, .regFtl] : List Component), p ∈
    allowed) :
    Keeps allowed s0 (executeProgramEff s tag slot mrs block) := by
  simp only [Machine.executeProgramEff]
  repeat' first
    | with_reducible assumption | ((with_reducible apply Component.sub hl); decide)
    | (with_reducible first | apply Keeps.ite | apply Keeps.fail | apply Keeps.completeStatus | apply Keeps.startRun | apply Keeps.cpCommand)
    | (with_reducible first | apply Keeps.loadError | apply Keeps.admitSeq) | intro _ | split
    | with_reducible refine Keeps.litGrf ?_  (hl _ (by decide))

theorem Keeps.queueParts {s : State} (r : Run) (k : Nat) (kd : Kernel) (expert : Option (Nat × Nat)) (moved : List (Nat × Nat)) (keep : Keeps
    allowed s0 s) (hl : ∀ p ∈ ([.tiles, .grf, .mover, .regGrf, .regTil] : List Component), p ∈ allowed) :
    Keeps allowed s0 (queueParts s r k kd expert moved) := by
  simp only [Machine.queueParts]
  repeat' first
    | with_reducible assumption | ((with_reducible apply Component.sub hl); decide)
    | ((with_reducible apply Component.sub hl); simp (disch := decide); done)
    | (with_reducible first | apply Keeps.ite | apply Keeps.foldState | apply Keeps.tileFor | apply Keeps.modKernel | apply Keeps.queuePart)
    | intro _ | split | (with_reducible refine Keeps.ofFst ?_ (by assumption))

theorem Keeps.sendAhead {s : State} (r : Run) (k : Nat) (i : Nat) (u : Nat) (kd : Kernel) (expert : Option (Nat × Nat)) (keep : Keeps allowed s0
    s) (hl : ∀ p ∈ ([.mover] : List Component), p ∈ allowed) :
    Keeps allowed s0 (sendAhead s r k i u kd expert) := by
  simp only [Machine.sendAhead]
  repeat' first
    | with_reducible assumption | ((with_reducible apply Component.sub hl); decide)
    | ((with_reducible apply Component.sub hl); simp (disch := decide); done)
    | (with_reducible first | apply Keeps.ite | apply Keeps.foldState | apply Keeps.issueOperand) | intro _ | split
    | (with_reducible refine Keeps.ofFst ?_ (by assumption))

theorem Keeps.sendAllAhead {s : State} (r : Run) (k : Nat) (kd : Kernel) (expert : Option (Nat × Nat)) (keep : Keeps allowed s0 s) (hl : ∀ p ∈
    ([.grf, .mover] : List Component), p ∈ allowed) :
    Keeps allowed s0 (sendAllAhead s r k kd expert).1 := by
  simp only [Machine.sendAllAhead]
  repeat' first
    | with_reducible assumption | ((with_reducible apply Component.sub hl); decide)
    | ((with_reducible apply Component.sub hl); simp (disch := decide); done)
    | (with_reducible first | apply Keeps.ite | apply Keeps.foldlFst | apply Keeps.foldl | apply Keeps.tileFor | apply Keeps.sendAhead) | intro _
    | split | (with_reducible refine Keeps.ofFst ?_ (by assumption))

theorem Keeps.prefetchAfter {s : State} (r : Run) (k : Nat) (keep : Keeps allowed s0 s) (hl : ∀ p ∈ ([.grf, .mover] : List Component), p ∈
    allowed) :
    Keeps allowed s0 (prefetchAfter s r k) := by
  simp only [Machine.prefetchAfter]
  repeat' first
    | with_reducible assumption | ((with_reducible apply Component.sub hl); decide)
    | ((with_reducible apply Component.sub hl); simp (disch := decide); done)
    | (with_reducible first | apply Keeps.ite | apply Keeps.foldState | apply Keeps.sendAllAhead | apply Keeps.modKernel) | intro _ | split
    | (with_reducible refine Keeps.ofFst ?_ (by assumption))

theorem Keeps.queueFar {s : State} (keep : Keeps allowed s0 s) (hl : ∀ p ∈ ([.tiles, .grf, .mover, .regGrf, .regTil] : List Component), p ∈
    allowed) :
    Keeps allowed s0 (queueFar s) := by
  simp only [Machine.queueFar]
  repeat' first
    | with_reducible assumption | ((with_reducible apply Component.sub hl); decide)
    | ((with_reducible apply Component.sub hl); simp (disch := decide); done)
    | (with_reducible first | apply Keeps.ite | apply Keeps.foldState | apply Keeps.queueParts) | intro _ | split
    | (with_reducible refine Keeps.ofFst ?_ (by assumption)) | (with_reducible first | refine Keeps.litGrf ?_ (hl _ (by decide)))

theorem Keeps.dispatchExperts {s : State} (r : Run) (k : Nat) (kd : Kernel) (keep : Keeps allowed s0 s) (hl : ∀ p ∈ ([.tiles, .grf, .mover,
    .regGrf, .regTil] : List Component), p ∈ allowed) :
    Keeps allowed s0 (dispatchExperts s r k kd) := by
  simp only [Machine.dispatchExperts]
  repeat' first
    | with_reducible assumption | ((with_reducible apply Component.sub hl); decide)
    | ((with_reducible apply Component.sub hl); simp (disch := decide); done)
    | (with_reducible first | apply Keeps.ite | apply Keeps.foldState | apply Keeps.queueParts | apply Keeps.queueFar | apply Keeps.sendAllAhead)
    | intro _ | split | (with_reducible refine Keeps.ofFst ?_ (by assumption)) | (with_reducible first | refine Keeps.litGrf ?_ (hl _ (by decide)))

theorem Keeps.passToken {s : State} (r : Run) (k : Nat) (kd : Kernel) (keep : Keeps allowed s0 s) (hl : ∀ p ∈ ([.grf] : List Component), p ∈
    allowed) :
    Keeps allowed s0 (passToken s r k kd) := by
  simp only [Machine.passToken]
  repeat' first
    | with_reducible assumption | ((with_reducible apply Component.sub hl); decide)
    | ((with_reducible apply Component.sub hl); simp (disch := decide); done) | (with_reducible first | apply Keeps.ite) | intro _ | split
    | (with_reducible refine Keeps.ofFst ?_ (by assumption)) | (with_reducible first | refine Keeps.litGrf ?_ (hl _ (by decide)))

theorem Keeps.dispatchKernel {s : State} (r : Run) (k : Nat) (keep : Keeps allowed s0 s) (hl : ∀ p ∈ ([.retire, .log, .packages, .tiles, .dram,
    .grf, .mover, .scan, .fabric, .host, .faults, .out, .regGlb, .regLed, .regArm, .regGrf, .regTier, .regFab, .regFtl, .regTil] : List
    Component), p ∈ allowed) :
    Keeps allowed s0 (dispatchKernel s r k) := by
  simp only [Machine.dispatchKernel]
  repeat' first
    | with_reducible assumption | ((with_reducible apply Component.sub hl); decide)
    | ((with_reducible apply Component.sub hl); simp (disch := decide); done)
    | (with_reducible first | apply Keeps.ite | apply Keeps.endKernel | apply Keeps.tileFor | apply Keeps.setBit | apply Keeps.bump)
    | (with_reducible first | apply Keeps.modKernel | apply Keeps.passToken | apply Keeps.prefetchAfter | apply Keeps.dispatchExperts | apply Keeps.queueParts)
    | intro _ | split | (with_reducible refine Keeps.ofFst ?_ (by assumption))

theorem Keeps.kernelDispatchEff {s : State}  (keep : Keeps allowed s0 s) (hl : ∀ p ∈ ([.retire, .log, .packages, .tiles, .dram, .grf, .mover, .scan,
    .fabric, .host, .faults, .out, .regGlb, .regLed, .regArm, .regGrf, .regTier, .regFab, .regFtl, .regTil] : List Component), p ∈ allowed) :
    Keeps allowed s0 (kernelDispatchEff s) := by
  simp only [Machine.kernelDispatchEff]
  repeat' first | (with_reducible first | assumption | apply Keeps.ite | apply Keeps.dispatchKernel) | intro _ | split

theorem Keeps.partAdmissionEff {s : State}  (keep : Keeps allowed s0 s) (hl : ∀ p ∈ ([.retire, .log, .packages, .tiles, .store, .dram, .grf, .mover, .scan, .fabric, .host, .faults, .out, .regGlb, .regArm, .regGrf, .regTier, .regFab, .regFtl, .regTil] : List Component), p ∈ allowed)
    :
    Keeps allowed s0 (partAdmissionEff s) := by
  simp only [Machine.partAdmissionEff]
  repeat' first
    | with_reducible assumption | ((with_reducible apply Component.sub hl); decide)
    | (with_reducible first | apply Keeps.ite | apply Keeps.setTile | apply Keeps.putTile | apply Keeps.startPart) | intro _ | split
    | with_reducible refine Keeps.litGrf ?_  (hl _ (by decide))

theorem Keeps.stopRun {s : State} (id : Nat) (running : Nat) (waiting : Nat) (keep : Keeps allowed s0 s) (hl : ∀ p ∈ ([.retire, .log, .packages,
    .tiles, .dram, .grf, .mover, .scan, .fabric, .host, .faults, .out, .regGlb, .regArm, .regGrf, .regTier, .regFab, .regFtl, .regTil] : List
    Component), p ∈ allowed) :
    Keeps allowed s0 (stopRun s id running waiting) := by
  simp only [Machine.stopRun]
  repeat' first
    | with_reducible assumption | ((with_reducible apply Component.sub hl); decide)
    | (with_reducible first | apply Keeps.foldState | apply Keeps.modRun | apply Keeps.finishRun | apply Keeps.failKernel) | intro _ | split

theorem Keeps.kernelDeadlineEff {s : State} (id : Nat) (k : Nat) (keep : Keeps allowed s0 s) (hl : ∀ p ∈ ([.retire, .log, .packages, .tiles,
    .dram, .grf, .mover, .scan, .fabric, .host, .faults, .out, .regGlb, .regArm, .regGrf, .regTier, .regFab, .regFtl, .regTil] : List Component),
    p ∈ allowed) :
    Keeps allowed s0 (kernelDeadlineEff s id k) := by
  simp only [Machine.kernelDeadlineEff]
  repeat' first
    | with_reducible assumption | ((with_reducible apply Component.sub hl); decide)
    | ((with_reducible apply Component.sub hl); simp (disch := decide); done) | (with_reducible first | apply Keeps.ite | apply Keeps.failKernel)
    | intro _ | split | (with_reducible refine Keeps.ofFst ?_ (by assumption))

theorem Keeps.runDeadlineEff {s : State} (id : Nat) (keep : Keeps allowed s0 s) (hl : ∀ p ∈ ([.retire, .log, .packages, .tiles, .dram, .grf,
    .mover, .scan, .fabric, .host, .faults, .out, .regGlb, .regArm, .regGrf, .regTier, .regFab, .regFtl, .regTil] : List Component), p ∈ allowed)
    :
    Keeps allowed s0 (runDeadlineEff s id) := by
  simp only [Machine.runDeadlineEff]
  repeat' first
    | with_reducible assumption | ((with_reducible apply Component.sub hl); decide)
    | ((with_reducible apply Component.sub hl); simp (disch := decide); done)
    | (with_reducible first | apply Keeps.ite | apply Keeps.stopRun | apply Keeps.modRun) | intro _ | split
    | (with_reducible refine Keeps.ofFst ?_ (by assumption))

theorem Keeps.abortSeqs {s : State}  (keep : Keeps allowed s0 s) (hl : ∀ p ∈ ([.retire, .log, .packages, .dram, .grf, .mover, .host, .faults, .out,
    .regGlb, .regGrf, .regTier, .regFtl] : List Component), p ∈ allowed) :
    Keeps allowed s0 (abortSeqs s) := by
  simp only [Machine.abortSeqs]
  repeat' first
    | with_reducible assumption | ((with_reducible apply Component.sub hl); decide)
    | (with_reducible first | apply Keeps.ite | apply Keeps.foldState | apply Keeps.completeStatusOpt | apply Keeps.showSeqs)
    | with_reducible apply Keeps.endSeq | intro _ | with_reducible refine Keeps.litGrf ?_  (hl _ (by decide))

theorem Keeps.abortRuns {s : State}  (keep : Keeps allowed s0 s) (hl : ∀ p ∈ ([.retire, .log, .packages, .tiles, .dram, .grf, .mover, .scan,
    .fabric, .host, .faults, .out, .regGlb, .regArm, .regGrf, .regTier, .regFab, .regFtl, .regTil] : List Component), p ∈ allowed) :
    Keeps allowed s0 (abortRuns s) := by
  simp only [Machine.abortRuns]
  repeat' first
    | with_reducible assumption | ((with_reducible apply Component.sub hl); decide)
    | (with_reducible first | apply Keeps.ite | apply Keeps.foldState | apply Keeps.modRun | apply Keeps.endWaiting | apply Keeps.stopRun) | intro _
    | with_reducible refine Keeps.litGrf ?_  (hl _ (by decide))

theorem Keeps.abortExecute {s : State} (tag : CmdTag) (keep : Keeps allowed s0 s) (hl : ∀ p ∈ ([.retire, .log, .packages, .tiles, .dram, .grf,
    .mover, .scan, .fabric, .host, .faults, .out, .regGlb, .regArm, .regGrf, .regTier, .regFab, .regFtl, .regTil] : List Component), p ∈ allowed) :
    Keeps allowed s0 (abortExecute s tag).1 := by
  simp only [Machine.abortExecute]
  repeat' first
    | with_reducible assumption | ((with_reducible apply Component.sub hl); decide)
    | (with_reducible first | apply Keeps.completeStatus | apply Keeps.modRun | apply Keeps.showSeqs | apply Keeps.endWaiting)
    | (with_reducible first | apply Keeps.setSeq | apply Keeps.stopRun) | split | with_reducible refine Keeps.litGrf ?_  (hl _ (by decide))

theorem Keeps.releaseResident {s : State} (block : List Resident) (slot : Nat) (k : Nat) (keep : Keeps allowed s0 s) (hl : ∀ p ∈ ([.grf, .regGrf]
    : List Component), p ∈ allowed) :
    Keeps allowed s0 (releaseResident s block slot k) := by
  simp only [Machine.releaseResident]
  repeat' first
    | with_reducible assumption | ((with_reducible apply Component.sub hl); decide)
    | ((with_reducible apply Component.sub hl); simp (disch := decide); done) | (with_reducible first | apply Keeps.ite | apply Keeps.bump) | intro _
    | split | (with_reducible refine Keeps.ofFst ?_ (by assumption)) | (with_reducible first | refine Keeps.litGrf ?_ (hl _ (by decide)))

theorem Keeps.preemptionEff {s : State} (cls : Nat) (keep : Keeps allowed s0 s) (hl : ∀ p ∈ ([.retire, .log, .packages, .tiles, .dram, .grf,
    .mover, .scan, .fabric, .host, .faults, .out, .regGlb, .regLed, .regArm, .regGrf, .regTier, .regFab, .regFtl, .regTil] : List Component), p ∈
    allowed) :
    Keeps allowed s0 (preemptionEff s cls) := by
  simp only [Machine.preemptionEff]
  repeat' first
    | with_reducible assumption | ((with_reducible apply Component.sub hl); decide)
    | ((with_reducible apply Component.sub hl); simp (disch := decide); done)
    | (with_reducible first | apply Keeps.ite | apply Keeps.dispatchKernel | apply Keeps.foldState | apply Keeps.releaseResident) | intro _ | split
    | (with_reducible refine Keeps.ofFst ?_ (by assumption))

theorem Keeps.holdSeq {s : State} (i : Nat) (keep : Keeps allowed s0 s) (hl : ∀ p ∈ ([.retire, .log, .packages, .dram, .grf, .mover, .host, .faults,
    .out, .regGlb, .regGrf, .regTier, .regFtl] : List Component), p ∈ allowed) :
    Keeps allowed s0 (holdSeq s i) := by
  simp only [Machine.holdSeq]
  repeat' first
    | with_reducible assumption | ((with_reducible apply Component.sub hl); decide)
    | (with_reducible first | apply Keeps.ite | apply Keeps.readAddr | apply Keeps.setSeq | apply Keeps.endSeq) | intro _ | split
    | (with_reducible refine Keeps.ofFst ?_ (by assumption))

theorem Keeps.boundarySeqs {s : State} (slot : Nat) (keep : Keeps allowed s0 s) (hl : ∀ p ∈ ([.retire, .log, .packages, .dram, .grf, .mover, .host,
    .faults, .out, .regGlb, .regGrf, .regTier, .regFtl] : List Component), p ∈ allowed) :
    Keeps allowed s0 (boundarySeqs s slot) := by
  simp only [Machine.boundarySeqs]
  repeat' first | (with_reducible first | assumption | apply Keeps.ite | apply Keeps.foldState | apply Keeps.endSeq | apply Keeps.holdSeq) | intro _

theorem Keeps.admitWaiting {s : State} (n : Nat) (keep : Keeps allowed s0 s) (hl : ∀ p ∈ ([.retire, .log, .packages, .dram, .grf, .mover, .host,
    .faults, .out, .regGlb, .regGrf, .regTier, .regFtl] : List Component), p ∈ allowed) :
    Keeps allowed s0 (admitWaiting n s) := by
  induction n generalizing s with
  | zero => exact keep
  | succ n ih =>
    unfold Machine.admitWaiting
    cases s.grf.seqWaiting with
    | nil => cases Machine.freeSeq s <;> exact keep
    | cons w t =>
      cases Machine.freeSeq s with
      | none => exact keep
      | some i =>
        exact ih (Keeps.showSeqs (Keeps.takeSeq i w (Keeps.lit keep (hgrf := .inl (hl _ (by decide))))
          (Component.sub hl (by decide))) (Component.sub hl (by decide)))

theorem Keeps.stepBoundaryEff {s : State} (slot : Nat) (keep : Keeps allowed s0 s) (hl : ∀ p ∈ ([.retire, .log, .packages, .dram, .grf, .mover,
    .host, .faults, .out, .regGlb, .regGrf, .regTier, .regFtl] : List Component), p ∈ allowed) :
    Keeps allowed s0 (stepBoundaryEff s slot) := by
  simp only [Machine.stepBoundaryEff]
  repeat' first
    | with_reducible assumption | ((with_reducible apply Component.sub hl); decide)
    | (with_reducible first | apply Keeps.ite | apply Keeps.foldState | apply Keeps.beginRun | apply Keeps.setSeq | apply Keeps.boundarySeqs)
    | with_reducible apply Keeps.admitWaiting | intro _ | split | with_reducible refine Keeps.litGrf ?_  (hl _ (by decide))

theorem Keeps.writeSeqSel {s : State} (v : Nat) (keep : Keeps allowed s0 s) (hl : ∀ p ∈ ([.regGrf] : List Component), p ∈ allowed) :
    Keeps allowed s0 (writeSeqSel s v) := by
  simp only [Machine.writeSeqSel]
  repeat' first
    | with_reducible assumption | ((with_reducible apply Component.sub hl); decide) | with_reducible apply Keeps.setNat
    | (with_reducible refine Keeps.setWords _ _ .regGrf (fun i h => regBlock_of_grf (by unfold GRF_SEQ_DATA; omega) (by rw [wordsOf_length] at h; unfold GRF_SEQ_DATA; omega)) ?_ (Component.sub hl (by decide)))

theorem Keeps.writeClassCtrl {s : State} (c : Nat) (v : Nat) (keep : Keeps allowed s0 s) (hl : ∀ p ∈ ([.regGlb, .regGrf] : List Component), p ∈
    allowed) :
    Keeps allowed s0 (writeClassCtrl s c v) := by
  simp only [Machine.writeClassCtrl]
  repeat' first
    | with_reducible assumption | ((with_reducible apply Component.sub hl); decide)
    | ((with_reducible apply Component.sub hl); simp (disch := decide); done)
    | (with_reducible first | apply Keeps.ite | apply Keeps.setNat | apply Keeps.accErr) | intro _

end Sys2Proof.Machine
end

