-- ==== Sys2Proof/Laws/KeepsLink.lean ====
section
/-! SUPPORT. What every operation of Machine/Link.lean keeps: the queue, what lasts, the canonical forms, and every part of the state that
is not in its list. -/
set_option Elab.async false
set_option linter.all false
namespace Sys2Proof.Machine

variable {allowed : List Component} {s0 : State}

theorem Keeps.setPort {s : State} (p : Nat) (x : Port) (keep : Keeps allowed s0 s) (hl : ∀ p ∈ ([.fabric] : List Component), p ∈ allowed) :
    Keeps allowed s0 (setPort s p x) := by
  simp only [Machine.setPort]
  repeat' (with_reducible first | assumption | refine Keeps.litFabric ?_  (hl _ (by decide)))

theorem Keeps.setPortState {s : State} (p : Nat) (v : Nat) (keep : Keeps allowed s0 s) (hl : ∀ p ∈ ([.regFab] : List Component), p ∈ allowed) :
    Keeps allowed s0 (setPortState s p v) := by
  simp only [Machine.setPortState]
  repeat' first
    | with_reducible assumption | ((with_reducible apply Component.sub hl); decide)
    | ((with_reducible apply Component.sub hl); simp (disch := decide); done) | (with_reducible first | apply Keeps.setFld | apply Keeps.setBit)

theorem Keeps.showLanes {s : State} (p : Nat) (keep : Keeps allowed s0 s) (hl : ∀ p ∈ ([.regFab] : List Component), p ∈ allowed) :
    Keeps allowed s0 (showLanes s p) := by
  simp only [Machine.showLanes]
  repeat' first
    | with_reducible assumption | ((with_reducible apply Component.sub hl); decide)
    | ((with_reducible apply Component.sub hl); simp (disch := decide); done) | (with_reducible first | apply Keeps.ite | apply Keeps.setFld)
    | intro _ | split | (with_reducible refine Keeps.ofFst ?_ (by assumption))

theorem Keeps.refreshMaps {s : State} (p : Nat) (keep : Keeps allowed s0 s) (hl : ∀ p ∈ ([.fabric, .regFab] : List Component), p ∈ allowed) :
    Keeps allowed s0 (refreshMaps s p) := by
  simp only [Machine.refreshMaps]
  repeat' first
    | with_reducible assumption | ((with_reducible apply Component.sub hl); decide)
    | ((with_reducible apply Component.sub hl); simp (disch := decide); done)
    | (with_reducible first | apply Keeps.ite | apply Keeps.showLanes | apply Keeps.setPort) | intro _ | split
    | (with_reducible refine Keeps.ofFst ?_ (by assumption))

theorem Keeps.sendOne {s : State} (p : Nat) (f : Flit) (keep : Keeps allowed s0 s) (hl : ∀ p ∈ ([.fabric, .out, .regFab] : List Component), p ∈
    allowed) :
    Keeps allowed s0 (sendOne s p f) := by
  simp only [Machine.sendOne]
  repeat' first
    | with_reducible assumption | ((with_reducible apply Component.sub hl); decide)
    | ((with_reducible apply Component.sub hl); simp (disch := decide); done)
    | (with_reducible first | apply Keeps.ite | apply Keeps.refreshMaps | apply Keeps.emit | apply Keeps.setPort) | intro _ | split
    | (with_reducible refine Keeps.ofFst ?_ (by assumption))

theorem Keeps.sendCtrls {x1 : State} (x0 : List Flit) (x2 : Nat) (keep : Keeps allowed s0 x1) (hl : ∀ p ∈ ([.fabric, .out, .regFab] : List
    Component), p ∈ allowed) :
    Keeps allowed s0 (sendCtrls x0 x1 x2) := by
  induction x0 generalizing x1 x2 with
  | nil =>
    simp only [Machine.sendCtrls]
    repeat' first
      | with_reducible assumption | ((with_reducible apply Component.sub hl); decide)
      | ((with_reducible apply Component.sub hl); simp (disch := decide); done)
      | (with_reducible first | apply Keeps.ite | apply Keeps.setPort | apply Keeps.sendOne) | intro _ | split
      | (with_reducible refine Keeps.ofFst ?_ (by assumption))
  | cons _ _ ih =>
    simp only [Machine.sendCtrls]
    repeat' first
      | with_reducible apply ih | with_reducible assumption | ((with_reducible apply Component.sub hl); decide)
      | ((with_reducible apply Component.sub hl); simp (disch := decide); done)
      | (with_reducible first | apply Keeps.ite | apply Keeps.setPort | apply Keeps.sendOne) | intro _ | split
      | (with_reducible refine Keeps.ofFst ?_ (by assumption))

theorem Keeps.startPacket {s : State} (p : Nat) (vc : Nat) (fs : List Flit) (keep : Keeps allowed s0 s) (hl : ∀ p ∈ ([.fabric, .out, .regFab] :
    List Component), p ∈ allowed) :
    Keeps allowed s0 (startPacket s p vc fs) := by
  simp only [Machine.startPacket]
  repeat' first
    | with_reducible assumption | ((with_reducible apply Component.sub hl); decide)
    | ((with_reducible apply Component.sub hl); simp (disch := decide); done)
    | (with_reducible first | apply Keeps.ite | apply Keeps.setPort | apply Keeps.bump | apply Keeps.foldState | apply Keeps.sendOne) | intro _
    | split | (with_reducible refine Keeps.ofFst ?_ (by assumption))

theorem Keeps.sendPackets {x3 : State} (x0 : List (Nat × List Flit)) (x1 : List Nat) (x2 : List (Nat × List Flit)) (x4 : Nat) (keep : Keeps
    allowed s0 x3) (hl : ∀ p ∈ ([.fabric, .out, .regFab] : List Component), p ∈ allowed) :
    Keeps allowed s0 (sendPackets x0 x1 x2 x3 x4) := by
  induction x0 generalizing x1 x2 x3 x4 with
  | nil =>
    simp only [Machine.sendPackets]
    repeat' first
      | with_reducible assumption | ((with_reducible apply Component.sub hl); decide)
      | ((with_reducible apply Component.sub hl); simp (disch := decide); done)
      | (with_reducible first | apply Keeps.ite | apply Keeps.setPort | apply Keeps.startPacket) | intro _ | split
      | (with_reducible refine Keeps.ofFst ?_ (by assumption))
  | cons _ _ ih =>
    simp only [Machine.sendPackets]
    repeat' first
      | with_reducible apply ih | with_reducible assumption | ((with_reducible apply Component.sub hl); decide)
      | ((with_reducible apply Component.sub hl); simp (disch := decide); done)
      | (with_reducible first | apply Keeps.ite | apply Keeps.setPort | apply Keeps.startPacket) | intro _ | split
      | (with_reducible refine Keeps.ofFst ?_ (by assumption))

theorem Keeps.pump {s : State} (p : Nat) (keep : Keeps allowed s0 s) (hl : ∀ p ∈ ([.fabric, .out, .regFab] : List Component), p ∈ allowed) :
    Keeps allowed s0 (pump s p) := by
  simp only [Machine.pump]
  repeat' first
    | with_reducible assumption | ((with_reducible apply Component.sub hl); decide)
    | ((with_reducible apply Component.sub hl); simp (disch := decide); done)
    | (with_reducible first | apply Keeps.ite | apply Keeps.sendCtrls | apply Keeps.sendPackets) | intro _ | split
    | (with_reducible refine Keeps.ofFst ?_ (by assumption))

theorem Keeps.sendPayload {s : State} (p : Nat) (payload : List Byte) (keep : Keeps allowed s0 s) (hl : ∀ p ∈ ([.fabric, .out, .regFab] : List
    Component), p ∈ allowed) :
    Keeps allowed s0 (sendPayload s p payload) := by
  simp only [Machine.sendPayload]
  repeat' first
    | with_reducible assumption | ((with_reducible apply Component.sub hl); decide)
    | ((with_reducible apply Component.sub hl); simp (disch := decide); done)
    | (with_reducible first | apply Keeps.ite | apply Keeps.pump | apply Keeps.setPort) | intro _ | split
    | (with_reducible refine Keeps.ofFst ?_ (by assumption))

theorem Keeps.sendCtrl {s : State} (p : Nat) (ctype : Nat) (fields : List Nat) (keep : Keeps allowed s0 s) (hl : ∀ p ∈ ([.fabric, .out, .regFab] :
    List Component), p ∈ allowed) :
    Keeps allowed s0 (sendCtrl s p ctype fields) := by
  simp only [Machine.sendCtrl]
  repeat' first
    | with_reducible assumption | ((with_reducible apply Component.sub hl); decide)
    | ((with_reducible apply Component.sub hl); simp (disch := decide); done) | (with_reducible first | apply Keeps.ite | apply Keeps.sendPayload)
    | intro _ | split | (with_reducible refine Keeps.ofFst ?_ (by assumption))

theorem Keeps.sendBytes {s : State} (p : Nat) (vc : Nat) (l : List Byte) (keep : Keeps allowed s0 s) (hl : ∀ p ∈ ([.fabric, .out, .regFab] : List
    Component), p ∈ allowed) :
    Keeps allowed s0 (sendBytes s p vc l) := by
  simp only [Machine.sendBytes]
  repeat' first
    | with_reducible assumption | ((with_reducible apply Component.sub hl); decide)
    | ((with_reducible apply Component.sub hl); simp (disch := decide); done)
    | (with_reducible first | apply Keeps.ite | apply Keeps.pump | apply Keeps.setPort) | intro _ | split
    | (with_reducible refine Keeps.ofFst ?_ (by assumption))

theorem Keeps.sendPacket {s : State} (p : Nat) (vc : Nat) (type : Nat) (k : Packet) (keep : Keeps allowed s0 s) (hl : ∀ p ∈ ([.fabric, .out,
    .regFab] : List Component), p ∈ allowed) :
    Keeps allowed s0 (sendPacket s p vc type k) := by
  simp only [Machine.sendPacket]
  repeat' first
    | with_reducible assumption | ((with_reducible apply Component.sub hl); decide)
    | ((with_reducible apply Component.sub hl); simp (disch := decide); done) | (with_reducible first | apply Keeps.ite | apply Keeps.sendBytes)
    | intro _ | split | (with_reducible refine Keeps.ofFst ?_ (by assumption))

theorem Keeps.resend {s : State} (p : Nat) (fs : List Flit) (keep : Keeps allowed s0 s) (hl : ∀ p ∈ ([.out] : List Component), p ∈ allowed) :
    Keeps allowed s0 (resend s p fs) := by
  simp only [Machine.resend]
  repeat' first
    | with_reducible assumption | ((with_reducible apply Component.sub hl); decide)
    | ((with_reducible apply Component.sub hl); simp (disch := decide); done)
    | (with_reducible first | apply Keeps.ite | apply Keeps.foldState | apply Keeps.emit) | intro _ | split
    | (with_reducible refine Keeps.ofFst ?_ (by assumption))

theorem Keeps.sendIdle {s : State} (p : Nat) (keep : Keeps allowed s0 s) (hl : ∀ p ∈ ([.fabric, .out, .regFab] : List Component), p ∈ allowed) :
    Keeps allowed s0 (sendIdle s p) := by
  simp only [Machine.sendIdle]
  repeat' first
    | with_reducible assumption | ((with_reducible apply Component.sub hl); decide)
    | ((with_reducible apply Component.sub hl); simp (disch := decide); done)
    | (with_reducible first | apply Keeps.ite | apply Keeps.sendOne | apply Keeps.setPort) | intro _ | split
    | (with_reducible refine Keeps.ofFst ?_ (by assumption))

theorem Keeps.linkTick {s : State} (keep : Keeps allowed s0 s) (hl : ∀ p ∈ ([.fabric, .out, .regFab] : List Component), p ∈ allowed) :
    Keeps allowed s0 (linkTick s) := by
  simp only [Machine.linkTick]
  repeat' first
    | with_reducible assumption | ((with_reducible apply Component.sub hl); decide)
    | ((with_reducible apply Component.sub hl); simp (disch := decide); done)
    | (with_reducible first | apply Keeps.ite | apply Keeps.foldState | apply Keeps.sendIdle) | intro _ | split
    | (with_reducible refine Keeps.ofFst ?_ (by assumption))

theorem Keeps.takeFlits {s : State} (x : Rx) (n : Nat) (vc : Option Nat) (keep : Keeps allowed s0 s) (hl : ∀ p ∈ ([.fabric] : List Component), p ∈
    allowed) :
    Keeps allowed s0 (takeFlits s x n vc) := by
  simp only [Machine.takeFlits]
  repeat' first
    | with_reducible assumption | ((with_reducible apply Component.sub hl); decide)
    | ((with_reducible apply Component.sub hl); simp (disch := decide); done)
    | (with_reducible first | apply Keeps.ite | apply Keeps.foldlFst | apply Keeps.foldl | apply Keeps.setPort) | intro _ | split
    | (with_reducible refine Keeps.ofFst ?_ (by assumption))

theorem Keeps.arrive {s : State} (x : Rx) (keep : Keeps allowed s0 s) (hl : ∀ p ∈ ([.fabric, .out, .regFab] : List Component), p ∈ allowed) :
    Keeps allowed s0 (arrive s x) := by
  simp only [Machine.arrive]
  repeat' first
    | with_reducible assumption | ((with_reducible apply Component.sub hl); decide)
    | ((with_reducible apply Component.sub hl); simp (disch := decide); done)
    | (with_reducible first | apply Keeps.ite | apply Keeps.pump | apply Keeps.takeFlits) | intro _ | split
    | (with_reducible refine Keeps.ofFst ?_ (by assumption))

theorem Keeps.arrivePacket {s : State} (x : Rx) (k : Packet) (vc : Nat) (keep : Keeps allowed s0 s) (hl : ∀ p ∈ ([.fabric, .out, .regFab] : List
    Component), p ∈ allowed) :
    Keeps allowed s0 (arrivePacket s x k vc) := by
  simp only [Machine.arrivePacket]
  repeat' first
    | with_reducible assumption | ((with_reducible apply Component.sub hl); decide)
    | ((with_reducible apply Component.sub hl); simp (disch := decide); done)
    | (with_reducible first | apply Keeps.ite | apply Keeps.pump | apply Keeps.takeFlits) | intro _ | split
    | (with_reducible refine Keeps.ofFst ?_ (by assumption))

end Sys2Proof.Machine
end

