-- ==== Sys2Proof/Laws/KeepsPorts.lean ====
section
/-! SUPPORT. What every operation of Machine/Ports.lean keeps: the queue, what lasts, the canonical forms, and every part of the state that
is not in its list. -/
set_option Elab.async false
set_option linter.all false
namespace Sys2Proof.Machine

variable {allowed : List Component} {s0 : State}

theorem Keeps.sendHello {s : State} (p : Nat) (keep : Keeps allowed s0 s) (hl : ∀ p ∈ ([.fabric, .out, .regFab] : List Component), p ∈ allowed) :
    Keeps allowed s0 (sendHello s p) := by
  simp only [Machine.sendHello]
  repeat' first
    | with_reducible assumption | ((with_reducible apply Component.sub hl); decide)
    | ((with_reducible apply Component.sub hl); simp (disch := decide); done) | (with_reducible first | apply Keeps.ite | apply Keeps.sendPayload)
    | intro _ | split | (with_reducible refine Keeps.ofFst ?_ (by assumption))

theorem Keeps.updateCensus {s : State} (r : TreeRec) (keep : Keeps allowed s0 s) (hl : ∀ p ∈ ([.fabric, .out, .regFab] : List Component), p ∈
    allowed) :
    Keeps allowed s0 (updateCensus s r) := by
  simp only [Machine.updateCensus]
  repeat' first
    | with_reducible assumption | ((with_reducible apply Component.sub hl); decide)
    | ((with_reducible apply Component.sub hl); simp (disch := decide); done)
    | (with_reducible first | apply Keeps.ite | apply Keeps.setNat | apply Keeps.sendCtrl) | intro _

theorem Keeps.sendCredits {s : State} (p : Nat) (keep : Keeps allowed s0 s) (hl : ∀ p ∈ ([.fabric, .out, .regFab] : List Component), p ∈ allowed)
    :
    Keeps allowed s0 (sendCredits s p) := by
  simp only [Machine.sendCredits]
  repeat' first
    | with_reducible assumption | ((with_reducible apply Component.sub hl); decide)
    | ((with_reducible apply Component.sub hl); simp (disch := decide); done)
    | (with_reducible first | apply Keeps.ite | apply Keeps.setPort | apply Keeps.sendCtrl) | intro _ | split
    | (with_reducible refine Keeps.ofFst ?_ (by assumption)) | (with_reducible first | refine Keeps.litFresh ?_)

theorem Keeps.sendLaneMap {s : State} (p : Nat) (keep : Keeps allowed s0 s) (hl : ∀ p ∈ ([.fabric, .out, .regFab] : List Component), p ∈ allowed)
    :
    Keeps allowed s0 (sendLaneMap s p) := by
  simp only [Machine.sendLaneMap]
  repeat' first
    | with_reducible assumption | ((with_reducible apply Component.sub hl); decide)
    | ((with_reducible apply Component.sub hl); simp (disch := decide); done) | (with_reducible first | apply Keeps.ite | apply Keeps.sendCtrl)
    | intro _ | split | (with_reducible refine Keeps.ofFst ?_ (by assumption))

theorem Keeps.bringUp {s : State} (p : Nat) (tell : Bool) (keep : Keeps allowed s0 s) (hl : ∀ p ∈ ([.fabric, .out, .regFab] : List Component), p ∈
    allowed) :
    Keeps allowed s0 (bringUp s p tell) := by
  simp only [Machine.bringUp]
  repeat' first
    | with_reducible assumption | ((with_reducible apply Component.sub hl); decide)
    | ((with_reducible apply Component.sub hl); simp (disch := decide); done)
    | (with_reducible first | apply Keeps.ite | apply Keeps.setPort | apply Keeps.showLanes | apply Keeps.setPortState | apply Keeps.sendLaneMap)
    | (with_reducible first | apply Keeps.sendHello | apply Keeps.sendCredits) | intro _ | split
    | (with_reducible refine Keeps.ofFst ?_ (by assumption))

theorem Keeps.trainingEff {s : State} (p : Nat) (keep : Keeps allowed s0 s) (hl : ∀ p ∈ ([.fabric, .out, .regFab] : List Component), p ∈ allowed)
    :
    Keeps allowed s0 (trainingEff s p) := by
  simp only [Machine.trainingEff]
  repeat' first
    | with_reducible assumption | ((with_reducible apply Component.sub hl); decide)
    | ((with_reducible apply Component.sub hl); simp (disch := decide); done) | (with_reducible first | apply Keeps.ite | apply Keeps.bringUp)
    | intro _ | split | (with_reducible refine Keeps.ofFst ?_ (by assumption)) | exact Nat.le_refl _

theorem Keeps.helloResendEff {s : State} (p : Nat) (keep : Keeps allowed s0 s) (hl : ∀ p ∈ ([.fabric, .out, .regFab] : List Component), p ∈
    allowed) :
    Keeps allowed s0 (helloResendEff s p) := by
  simp only [Machine.helloResendEff]
  repeat' first
    | with_reducible assumption | ((with_reducible apply Component.sub hl); decide)
    | ((with_reducible apply Component.sub hl); simp (disch := decide); done) | (with_reducible first | apply Keeps.ite | apply Keeps.sendHello)
    | intro _ | split | (with_reducible refine Keeps.ofFst ?_ (by assumption))

theorem Keeps.creditInitEff {s : State} (x : Rx) (pool : Nat) (esc : List Nat) (keep : Keeps allowed s0 s) (hl : ∀ p ∈ ([.fabric, .out, .regFab] :
    List Component), p ∈ allowed) :
    Keeps allowed s0 (creditInitEff s x pool esc) := by
  simp only [Machine.creditInitEff]
  repeat' first
    | with_reducible assumption | ((with_reducible apply Component.sub hl); decide)
    | ((with_reducible apply Component.sub hl); simp (disch := decide); done)
    | (with_reducible first | apply Keeps.ite | apply Keeps.takeFlits | apply Keeps.pump | apply Keeps.setPort) | intro _ | split
    | (with_reducible refine Keeps.ofFst ?_ (by assumption))

theorem Keeps.flitDiscardEff {s : State} (p : Nat) (keep : Keeps allowed s0 s) (hl : ∀ p ∈ ([.fabric, .out, .regFab] : List Component), p ∈
    allowed) :
    Keeps allowed s0 (flitDiscardEff s p) := by
  simp only [Machine.flitDiscardEff]
  repeat' first
    | with_reducible assumption | ((with_reducible apply Component.sub hl); decide)
    | ((with_reducible apply Component.sub hl); simp (disch := decide); done)
    | (with_reducible first | apply Keeps.ite | apply Keeps.sendCtrl | apply Keeps.bump) | intro _ | split
    | (with_reducible refine Keeps.ofFst ?_ (by assumption))

theorem Keeps.idleEff {s : State} (p : Nat) (h : FlitHead) (differs : Bool) (keep : Keeps allowed s0 s) (hl : ∀ p ∈ ([.fabric, .out, .regFab] :
    List Component), p ∈ allowed) :
    Keeps allowed s0 (idleEff s p h differs) := by
  simp only [Machine.idleEff]
  repeat' first
    | with_reducible assumption | ((with_reducible apply Component.sub hl); decide)
    | ((with_reducible apply Component.sub hl); simp (disch := decide); done)
    | (with_reducible first | apply Keeps.ite | apply Keeps.arrive | apply Keeps.bump) | intro _ | split
    | (with_reducible refine Keeps.ofFst ?_ (by assumption))

theorem Keeps.nakEff {s : State} (rx : Rx) (expected : Nat) (keep : Keeps allowed s0 s) (hl : ∀ p ∈ ([.fabric, .out, .regFab] : List Component), p
    ∈ allowed) :
    Keeps allowed s0 (nakEff s rx expected) := by
  simp only [Machine.nakEff]
  repeat' first
    | with_reducible assumption | ((with_reducible apply Component.sub hl); decide)
    | ((with_reducible apply Component.sub hl); simp (disch := decide); done)
    | (with_reducible first | apply Keeps.ite | apply Keeps.takeFlits | apply Keeps.resend | apply Keeps.bumpBy | apply Keeps.setPort)
    | (with_reducible first | apply Keeps.pump) | intro _ | split | (with_reducible refine Keeps.ofFst ?_ (by assumption))

theorem Keeps.requestOn {s : State} (n : Nat) (q : Piece) (keep : Keeps allowed s0 s) (hl : ∀ p ∈ ([.fabric, .out, .regFab] : List Component), p ∈
    allowed) :
    Keeps allowed s0 (requestOn s n q).1 := by
  simp only [Machine.requestOn]
  repeat' first
    | with_reducible assumption | ((with_reducible apply Component.sub hl); decide)
    | ((with_reducible apply Component.sub hl); simp (disch := decide); done)
    | (with_reducible first | apply Keeps.iteFst | apply Keeps.ite | apply Keeps.draw | apply Keeps.sendBytes) | intro _ | split
    | (with_reducible refine Keeps.ofFst ?_ (by assumption))

theorem Keeps.reissue {s : State} (p : Nat) (keep : Keeps allowed s0 s) (hl : ∀ p ∈ ([.mover, .fabric, .out, .regFab] : List Component), p ∈
    allowed) :
    Keeps allowed s0 (reissue s p) := by
  simp only [Machine.reissue]
  repeat' first
    | with_reducible assumption | ((with_reducible apply Component.sub hl); decide)
    | ((with_reducible apply Component.sub hl); simp (disch := decide); done)
    | (with_reducible first | apply Keeps.ite | apply Keeps.foldState | apply Keeps.bump | apply Keeps.sendBytes) | intro _ | split
    | (with_reducible refine Keeps.ofFst ?_ (by assumption)) | (with_reducible first | refine Keeps.litMover ?_ (hl _ (by decide)))

theorem Keeps.peerPortDown {s : State} (p : Nat) (keep : Keeps allowed s0 s) (hl : ∀ p ∈ ([.regFab] : List Component), p ∈ allowed) :
    Keeps allowed s0 (peerPortDown s p) := by
  simp only [Machine.peerPortDown]
  repeat' first
    | with_reducible assumption | ((with_reducible apply Component.sub hl); decide) | (with_reducible first | apply Keeps.ite | apply Keeps.setNat)
    | intro _

theorem Keeps.portLeft {s : State} (p : Nat) (keep : Keeps allowed s0 s) (hl : ∀ p ∈ ([.fabric, .out, .regFab] : List Component), p ∈ allowed) :
    Keeps allowed s0 (portLeft s p) := by
  simp only [Machine.portLeft]
  repeat' first
    | with_reducible assumption | ((with_reducible apply Component.sub hl); decide)
    | (with_reducible first | apply Keeps.ite | apply Keeps.foldState | apply Keeps.setPort | apply Keeps.peerPortDown)
    | with_reducible apply Keeps.updateCensus | intro _

theorem Keeps.portDown {s : State} (p : Nat) (keep : Keeps allowed s0 s) (hl : ∀ p ∈ ([.mover, .fabric, .out, .regFab] : List Component), p ∈
    allowed) :
    Keeps allowed s0 (portDown s p) := by
  simp only [Machine.portDown]
  repeat' first
    | with_reducible assumption | ((with_reducible apply Component.sub hl); decide)
    | ((with_reducible apply Component.sub hl); simp (disch := decide); done)
    | (with_reducible first | apply Keeps.ite | apply Keeps.setPort | apply Keeps.setPortState | apply Keeps.reissue | apply Keeps.portLeft)
    | (with_reducible first | apply Keeps.showLanes) | intro _ | split | (with_reducible refine Keeps.ofFst ?_ (by assumption))

theorem Keeps.checkPort {s : State} (p : Nat) (keep : Keeps allowed s0 s) (hl : ∀ p ∈ ([.mover, .fabric, .out, .regFab] : List Component), p ∈
    allowed) :
    Keeps allowed s0 (checkPort s p) := by
  simp only [Machine.checkPort]
  repeat' first
    | with_reducible assumption | ((with_reducible apply Component.sub hl); decide)
    | ((with_reducible apply Component.sub hl); simp (disch := decide); done)
    | (with_reducible first | apply Keeps.ite | apply Keeps.showLanes | apply Keeps.portDown) | intro _ | split
    | (with_reducible refine Keeps.ofFst ?_ (by assumption))

theorem Keeps.retireLane {s : State} (p : Nat) (key : Nat) (r : FaultRec) (keep : Keeps allowed s0 s) (hl : ∀ p ∈ ([.retire, .log, .mover,
    .fabric, .host, .out, .regGlb, .regFab] : List Component), p ∈ allowed) :
    Keeps allowed s0 (retireLane s p key r) := by
  simp only [Machine.retireLane]
  repeat' first
    | with_reducible assumption | ((with_reducible apply Component.sub hl); decide)
    | ((with_reducible apply Component.sub hl); simp (disch := decide); done)
    | (with_reducible first | apply Keeps.ite | apply Keeps.permanentFault | apply Keeps.setPort | apply Keeps.retired | apply Keeps.checkPort)
    | (with_reducible first | apply Keeps.sendLaneMap) | intro _ | split | (with_reducible refine Keeps.ofFst ?_ (by assumption))
    | (with_reducible first | refine Keeps.litNv ?_ ?_ (nretire := .inl (hl _ (by decide))) )
    | ((with_reducible apply NvLasts.mk) <;> first | rfl | exact Nat.le_refl _ | exact fun _ h => h | exact satInc_ge _ | exact Nat.le_max_left _ _ | exact testBit_lor_left _ _ | exact List.subset_append_left _ _)

theorem Keeps.laneFault {s : State} (p : Nat) (key : Nat) (cause : Nat) (keep : Keeps allowed s0 s) (hl : ∀ p ∈ ([.retire, .log, .mover, .fabric, .host, .faults, .out, .regGlb, .regFab] : List Component), p ∈ allowed) :
    Keeps allowed s0 (laneFault s p key cause) := by
  simp only [Machine.laneFault]
  repeat' first
    | with_reducible assumption | ((with_reducible apply Component.sub hl); decide)
    | ((with_reducible apply Component.sub hl); simp (disch := decide); done)
    | (with_reducible first | apply Keeps.ite | apply Keeps.bump | apply Keeps.setPort | apply Keeps.checkPort | apply Keeps.sendLaneMap)
    | with_reducible apply Keeps.retireLane | intro _ | with_reducible refine Keeps.litFaults ?_  (hl _ (by decide))

theorem Keeps.fecErrorEff {s : State} (l : LaneId) (n : Nat) (keep : Keeps allowed s0 s) (hl : ∀ p ∈ ([.retire, .log, .mover, .fabric, .host, .faults, .out, .regGlb, .regFab] : List Component), p ∈ allowed) :
    Keeps allowed s0 (fecErrorEff s l n) := by
  simp only [Machine.fecErrorEff]
  repeat' first
    | with_reducible assumption | ((with_reducible apply Component.sub hl); simp (disch := decide); done)
    | (with_reducible first | apply Keeps.ite | apply Keeps.bumpBy | apply Keeps.laneFault) | intro _

theorem Keeps.replayLimitEff {s : State} (p : Nat) (keep : Keeps allowed s0 s) (hl : ∀ p ∈ ([.retire, .log, .mover, .fabric, .host, .faults, .out, .regGlb, .regFab] : List Component), p ∈ allowed) :
    Keeps allowed s0 (replayLimitEff s p) := by
  simp only [Machine.replayLimitEff]
  repeat' first
    | with_reducible assumption | ((with_reducible apply Component.sub hl); decide)
    | (with_reducible first | apply Keeps.ite | apply Keeps.foldState | apply Keeps.setPort | apply Keeps.laneFault) | intro _

theorem Keeps.retrainDoneEff {s : State} (l : LaneId) (good : Bool) (keep : Keeps allowed s0 s) (hl : ∀ p ∈ ([.retire, .log, .mover, .fabric,
    .host, .faults, .out, .regGlb, .regFab] : List Component), p ∈ allowed) :
    Keeps allowed s0 (retrainDoneEff s l good) := by
  simp only [Machine.retrainDoneEff]
  repeat' first
    | with_reducible assumption | ((with_reducible apply Component.sub hl); decide)
    | ((with_reducible apply Component.sub hl); simp (disch := decide); done)
    | (with_reducible first | apply Keeps.ite | apply Keeps.setPort | apply Keeps.bump | apply Keeps.showLanes | apply Keeps.bringUp)
    | (with_reducible first | apply Keeps.sendLaneMap | apply Keeps.retireLane) | intro _ | split
    | (with_reducible refine Keeps.ofFst ?_ (by assumption)) | (with_reducible first | refine Keeps.litFaults ?_ (hl _ (by decide)))

theorem Keeps.laneMapEff {s : State} (x : Rx) (mask : Nat) (first : Nat) (keep : Keeps allowed s0 s) (hl : ∀ p ∈ ([.mover, .fabric, .out, .regFab]
    : List Component), p ∈ allowed) :
    Keeps allowed s0 (laneMapEff s x mask first) := by
  simp only [Machine.laneMapEff]
  repeat' first
    | with_reducible assumption | ((with_reducible apply Component.sub hl); decide)
    | ((with_reducible apply Component.sub hl); simp (disch := decide); done)
    | (with_reducible first | apply Keeps.ite | apply Keeps.bringUp | apply Keeps.showLanes | apply Keeps.setPort | apply Keeps.takeFlits)
    | (with_reducible first | apply Keeps.portDown | apply Keeps.pump | apply Keeps.refreshMaps) | intro _ | split
    | (with_reducible refine Keeps.ofFst ?_ (by assumption))

theorem Keeps.timeSyncEff {s : State}  (keep : Keeps allowed s0 s) (hl : ∀ p ∈ ([.fabric, .out, .regFab] : List Component), p ∈ allowed) :
    Keeps allowed s0 (timeSyncEff s) := by
  simp only [Machine.timeSyncEff]
  repeat' first | (with_reducible first | assumption | apply Keeps.ite | apply Keeps.sendCtrl) | intro _ | split

theorem Keeps.tsReqEff {s : State} (x : Rx) (t1 : Nat) (t2 : Nat) (keep : Keeps allowed s0 s) (hl : ∀ p ∈ ([.fabric, .out, .regFab] : List
    Component), p ∈ allowed) :
    Keeps allowed s0 (tsReqEff s x t1 t2) := by
  simp only [Machine.tsReqEff]
  repeat' first
    | with_reducible assumption | ((with_reducible apply Component.sub hl); decide)
    | ((with_reducible apply Component.sub hl); simp (disch := decide); done)
    | (with_reducible first | apply Keeps.ite | apply Keeps.sendCtrl | apply Keeps.arrive) | intro _ | split
    | (with_reducible refine Keeps.ofFst ?_ (by assumption))

theorem Keeps.tsRspEff {s : State} (x : Rx) (t1 : Nat) (t2 : Nat) (t3 : Nat) (t4 : Nat) (keep : Keeps allowed s0 s) (hl : ∀ p ∈ ([.fabric, .out,
    .regFab] : List Component), p ∈ allowed) :
    Keeps allowed s0 (tsRspEff s x t1 t2 t3 t4) := by
  simp only [Machine.tsRspEff]
  repeat' first
    | with_reducible assumption | ((with_reducible apply Component.sub hl); decide)
    | ((with_reducible apply Component.sub hl); simp (disch := decide); done)
    | (with_reducible first | apply Keeps.ite | apply Keeps.arrive | apply Keeps.setBit) | intro _ | split
    | (with_reducible refine Keeps.ofFst ?_ (by assumption)) | (with_reducible first | refine Keeps.litFabric ?_ (hl _ (by decide)))

theorem Keeps.writeTimeSet {s : State} (off : Nat) (v : Nat) (keep : Keeps allowed s0 s) (hl : ∀ p ∈ ([.fabric, .regGlb, regBlock off] : List
    Component), p ∈ allowed) :
    Keeps allowed s0 (writeTimeSet s off v) := by
  simp only [Machine.writeTimeSet]
  repeat' first
    | with_reducible assumption | ((with_reducible apply Component.sub hl); simp (disch := decide); done)
    | (with_reducible first | apply Keeps.ite | apply Keeps.setNat | apply Keeps.accErr) | intro _ | split
    | with_reducible refine Keeps.litFabric ?_  (hl _ (by simp))

end Sys2Proof.Machine
end

