-- ==== Sys2Proof/Laws/KeepsTile.lean ====
section
/-! SUPPORT. What every operation of Machine/Tile.lean keeps: the queue, what lasts, the canonical forms, and every part of the state that
is not in its list. -/
set_option Elab.async false
set_option linter.all false
namespace Sys2Proof.Machine

variable {allowed : List Component} {s0 : State}

theorem Keeps.illegal {s : State} (t : Nat) (keep : Keeps allowed s0 s) (hl : ∀ p ∈ ([.retire, .log, .packages, .tiles, .dram, .grf, .mover, .scan,
    .fabric, .host, .faults, .out, .regGlb, .regArm, .regGrf, .regTier, .regFab, .regFtl, .regTil] : List Component), p ∈ allowed) :
    Keeps allowed s0 (illegal s t) := by
  simp only [Machine.illegal]
  repeat' first | (with_reducible first | assumption | apply Keeps.ite | apply Keeps.failPart) | intro _

theorem Keeps.chargeStep {s : State} (t : Nat) (e : Nat) (keep : Keeps allowed s0 s) (hl : ∀ p ∈ ([.ledger] : List Component), p ∈ allowed) :
    Keeps allowed s0 (chargeStep s t e) := by
  simp only [Machine.chargeStep]
  repeat' first | with_reducible assumption | split | with_reducible refine Keeps.litLedger ?_  (hl _ (by decide))

theorem Keeps.ownWrite {s : State} (t : Nat) (a : Nat) (data : List Byte) (keep : Keeps allowed s0 s) (hl : ∀ p ∈ ([.tiles, .store] : List
    Component), p ∈ allowed) :
    Keeps allowed s0 (ownWrite s t a data) := by
  simp only [Machine.ownWrite]
  repeat' first
    | with_reducible assumption | ((with_reducible apply Component.sub hl); decide)
    | (with_reducible first | apply Keeps.storeWrite | apply Keeps.setTile) | split

theorem Keeps.checkRead {s : State} (t : Nat) (u : Upset) (rs : List Range) (keep : Keeps allowed s0 s) (hl : ∀ p ∈ ([.retire, .log, .packages, .tiles, .store, .dram, .grf, .mover, .scan, .fabric, .host, .faults, .out, .regGlb, .regArm, .regGrf, .regTier, .regFab, .regSrc, .regFtl, .regTil] :
    List Component), p ∈ allowed) :
    Keeps allowed s0 (checkRead s t u rs).1 := by
  simp only [Machine.checkRead]
  repeat' first
    | with_reducible assumption | ((with_reducible apply Component.sub hl); simp (disch := decide); done)
    | (with_reducible first | apply Keeps.bump | apply Keeps.doubleBit) | split

theorem Keeps.atPc {s : State} (t : Nat) (op : Nat) (u : Upset) (go : State → Nat → Nat → State) (keep : Keeps allowed s0 s) (hl : ∀ p ∈
    ([.retire, .log, .packages, .tiles, .store, .dram, .grf, .mover, .scan, .fabric, .host, .faults, .out, .regGlb, .regArm, .regGrf, .regTier,
    .regFab, .regSrc, .regFtl, .regTil] : List Component), p ∈ allowed) (hf_go : ∀ u v1 v2, Keeps allowed s0 u → Keeps allowed s0 (go u v1 v2)) :
    Keeps allowed s0 (atPc s t op u go) := by
  simp only [Machine.atPc]
  repeat' first
    | with_reducible apply hf_go | with_reducible assumption | ((with_reducible apply Component.sub hl); decide)
    | ((with_reducible apply Component.sub hl); simp (disch := decide); done)
    | (with_reducible first | apply Keeps.ite | apply Keeps.illegal | apply Keeps.checkRead) | intro _ | split
    | (with_reducible refine Keeps.ofFst ?_ (by assumption))

theorem Keeps.afterEnd {s : State} (t : Nat) (parityBad : Bool) (u : Upset) (keep : Keeps allowed s0 s) (hl : ∀ p ∈ ([.retire, .log, .packages,
    .tiles, .store, .dram, .grf, .mover, .scan, .fabric, .host, .faults, .out, .regGlb, .regArm, .regGrf, .regTier, .regFab, .regSrc, .regFtl,
    .regTil] : List Component), p ∈ allowed) :
    Keeps allowed s0 (afterEnd s t parityBad u) := by
  simp only [Machine.afterEnd]
  repeat' first
    | with_reducible assumption | ((with_reducible apply Component.sub hl); decide)
    | ((with_reducible apply Component.sub hl); simp (disch := decide); done)
    | (with_reducible first | apply Keeps.ite | apply Keeps.tileFault | apply Keeps.bump | apply Keeps.doubleBit) | intro _ | split
    | (with_reducible refine Keeps.ofFst ?_ (by assumption))

theorem Keeps.startStream {s : State} (t : Nat) (v : StreamSt) (b : WBlock) (keep : Keeps allowed s0 s) (hl : ∀ p ∈ ([.tiles, .regTil] : List
    Component), p ∈ allowed) :
    Keeps allowed s0 (startStream s t v b) := by
  simp only [Machine.startStream]
  repeat' first
    | with_reducible assumption | ((with_reducible apply Component.sub hl); decide)
    | ((with_reducible apply Component.sub hl); simp (disch := decide); done)
    | (with_reducible first | apply Keeps.ite | apply Keeps.setFlags | apply Keeps.putTile) | intro _ | split
    | (with_reducible refine Keeps.ofFst ?_ (by assumption))

theorem Keeps.issueStream {s : State} (t : Nat) (w0 : Nat) (w1 : Nat) (keep : Keeps allowed s0 s) (hl : ∀ p ∈ ([.retire, .log, .packages, .tiles,
    .dram, .grf, .mover, .scan, .fabric, .host, .faults, .out, .regGlb, .regArm, .regGrf, .regTier, .regFab, .regFtl, .regTil] : List Component), p
    ∈ allowed) :
    Keeps allowed s0 (issueStream t s w0 w1) := by
  simp only [Machine.issueStream]
  repeat' first
    | with_reducible assumption | ((with_reducible apply Component.sub hl); decide)
    | (with_reducible first | apply Keeps.ite | apply Keeps.setTile | apply Keeps.putTile | apply Keeps.illegal | apply Keeps.startStream) | intro _
    | split

theorem Keeps.trySwap {s : State} (t : Nat) (keep : Keeps allowed s0 s) (hl : ∀ p ∈ ([.tiles, .regTil] : List Component), p ∈ allowed) :
    Keeps allowed s0 (trySwap s t) := by
  simp only [Machine.trySwap]
  repeat' first | (with_reducible first | assumption | apply Keeps.ite | apply Keeps.putTile) | intro _

theorem Keeps.endStream {s : State} (t : Nat) (keep : Keeps allowed s0 s) (hl : ∀ p ∈ ([.tiles, .regTil] : List Component), p ∈ allowed) :
    Keeps allowed s0 (endStream s t) := by
  simp only [Machine.endStream]
  repeat' first
    | with_reducible assumption | ((with_reducible apply Component.sub hl); decide)
    | ((with_reducible apply Component.sub hl); simp (disch := decide); done)
    | (with_reducible first | apply Keeps.ite | apply Keeps.trySwap | apply Keeps.putTile) | intro _ | split
    | (with_reducible refine Keeps.ofFst ?_ (by assumption))

theorem Keeps.writeElem {s : State} (t : Nat) (v : StreamSt) (b : WBlock) (p : Part) (e : Nat × Accum) (keep : Keeps allowed s0 s) (hl : ∀ p ∈
    ([.tiles, .store, .regTil] : List Component), p ∈ allowed) :
    Keeps allowed s0 (writeElem t v b p s e) := by
  simp only [Machine.writeElem]
  repeat' first
    | with_reducible assumption | ((with_reducible apply Component.sub hl); decide)
    | ((with_reducible apply Component.sub hl); simp (disch := decide); done)
    | (with_reducible first | apply Keeps.ite | apply Keeps.ownWrite | apply Keeps.histCount | apply Keeps.setFlags) | intro _ | split
    | (with_reducible refine Keeps.ofFst ?_ (by assumption))

theorem Keeps.doRowStep {s : State} (t : Nat) (b : WBlock) (v : StreamSt) (p : Part) (bn : Nat) (keep : Keeps allowed s0 s) (hl : ∀ p ∈ ([.tiles,
    .store, .ledger, .regTil] : List Component), p ∈ allowed) :
    Keeps allowed s0 (doRowStep s t b v p bn) := by
  simp only [Machine.doRowStep]
  repeat' first
    | with_reducible assumption | ((with_reducible apply Component.sub hl); decide)
    | ((with_reducible apply Component.sub hl); simp (disch := decide); done)
    | (with_reducible first | apply Keeps.ite | apply Keeps.foldlFst | apply Keeps.foldl | apply Keeps.setFlags | apply Keeps.add64)
    | (with_reducible first | apply Keeps.chargeStep | apply Keeps.setTile | apply Keeps.foldState | apply Keeps.writeElem | apply Keeps.putTile)
    | (with_reducible first | apply Keeps.endStream) | intro _ | split | (with_reducible refine Keeps.ofFst ?_ (by assumption))

theorem Keeps.parityError {s : State} (t : Nat) (b : WBlock) (v : StreamSt) (keep : Keeps allowed s0 s) (hl : ∀ p ∈ ([.retire, .log, .packages,
    .tiles, .store, .dram, .grf, .mover, .scan, .fabric, .host, .faults, .out, .regGlb, .regArm, .regGrf, .regTier, .regFab, .regSrc, .regFtl,
    .regTil] : List Component), p ∈ allowed) :
    Keeps allowed s0 (parityError s t b v) := by
  simp only [Machine.parityError]
  repeat' first
    | with_reducible assumption | ((with_reducible apply Component.sub hl); decide)
    | ((with_reducible apply Component.sub hl); simp (disch := decide); done)
    | (with_reducible first | apply Keeps.ite | apply Keeps.bump | apply Keeps.foldState | apply Keeps.ownWrite | apply Keeps.putTile)
    | (with_reducible first | apply Keeps.retireTile | apply Keeps.setFld | apply Keeps.bumpFld | apply Keeps.transientFault) | intro _ | split
    | (with_reducible refine Keeps.ofFst ?_ (by assumption))

theorem Keeps.rowStepEff {s : State} (t : Nat) (parityBad : Bool) (u : Upset) (keep : Keeps allowed s0 s) (hl : ∀ p ∈ ([.retire, .log, .packages,
    .tiles, .store, .dram, .grf, .mover, .scan, .fabric, .host, .ledger, .faults, .out, .regGlb, .regArm, .regGrf, .regTier, .regFab, .regSrc,
    .regFtl, .regTil] : List Component), p ∈ allowed) :
    Keeps allowed s0 (rowStepEff s t parityBad u) := by
  simp only [Machine.rowStepEff]
  repeat' first
    | with_reducible assumption | ((with_reducible apply Component.sub hl); decide)
    | ((with_reducible apply Component.sub hl); simp (disch := decide); done)
    | (with_reducible first | apply Keeps.ite | apply Keeps.parityError | apply Keeps.checkRead | apply Keeps.doRowStep | apply Keeps.afterEnd)
    | intro _ | split | (with_reducible refine Keeps.ofFst ?_ (by assumption))

theorem Keeps.arrayRefillEff {s : State} (t : Nat) (u : Upset) (keep : Keeps allowed s0 s) (hl : ∀ p ∈ ([.retire, .log, .packages, .tiles, .store,
    .dram, .grf, .mover, .scan, .fabric, .host, .faults, .out, .regGlb, .regArm, .regGrf, .regTier, .regFab, .regSrc, .regFtl, .regTil] : List
    Component), p ∈ allowed) :
    Keeps allowed s0 (arrayRefillEff s t u) := by
  simp only [Machine.arrayRefillEff]
  repeat' first
    | with_reducible assumption | ((with_reducible apply Component.sub hl); decide)
    | ((with_reducible apply Component.sub hl); simp (disch := decide); done)
    | (with_reducible first | apply Keeps.ite | apply Keeps.checkRead | apply Keeps.startStream | apply Keeps.setTile) | intro _ | split
    | (with_reducible refine Keeps.ofFst ?_ (by assumption))

theorem Keeps.issueLoadw {s : State} (t : Nat) (w0 : Nat) (w1 : Nat) (keep : Keeps allowed s0 s) (hl : ∀ p ∈ ([.retire, .log, .packages, .tiles,
    .dram, .grf, .mover, .scan, .fabric, .host, .faults, .out, .regGlb, .regArm, .regGrf, .regTier, .regFab, .regFtl, .regTil] : List Component),
    p ∈ allowed) :
    Keeps allowed s0 (issueLoadw t s w0 w1) := by
  simp only [Machine.issueLoadw]
  repeat' first
    | with_reducible assumption | ((with_reducible apply Component.sub hl); decide)
    | ((with_reducible apply Component.sub hl); simp (disch := decide); done)
    | (with_reducible first | apply Keeps.ite | apply Keeps.putTile | apply Keeps.illegal) | intro _ | split
    | (with_reducible refine Keeps.ofFst ?_ (by assumption))

theorem Keeps.issueSwap {s : State} (t : Nat) (u2 : Nat) (u3 : Nat) (keep : Keeps allowed s0 s) (hl : ∀ p ∈ ([.retire, .log, .packages, .tiles,
    .dram, .grf, .mover, .scan, .fabric, .host, .faults, .out, .regGlb, .regArm, .regGrf, .regTier, .regFab, .regFtl, .regTil] : List Component),
    p ∈ allowed) :
    Keeps allowed s0 (issueSwap t s u2 u3) := by
  simp only [Machine.issueSwap]
  repeat' first
    | with_reducible assumption | ((with_reducible apply Component.sub hl); decide)
    | ((with_reducible apply Component.sub hl); simp (disch := decide); done)
    | (with_reducible first | apply Keeps.ite | apply Keeps.trySwap | apply Keeps.putTile | apply Keeps.illegal) | intro _ | split
    | (with_reducible refine Keeps.ofFst ?_ (by assumption))

theorem Keeps.shadowFillEff {s : State} (t : Nat) (u : Upset) (keep : Keeps allowed s0 s) (hl : ∀ p ∈ ([.retire, .log, .packages, .tiles, .store,
    .dram, .grf, .mover, .scan, .fabric, .host, .ledger, .faults, .out, .regGlb, .regArm, .regGrf, .regTier, .regFab, .regSrc, .regFtl, .regTil] :
    List Component), p ∈ allowed) :
    Keeps allowed s0 (shadowFillEff s t u) := by
  simp only [Machine.shadowFillEff]
  repeat' first
    | with_reducible assumption | ((with_reducible apply Component.sub hl); decide)
    | ((with_reducible apply Component.sub hl); simp (disch := decide); done)
    | (with_reducible first | apply Keeps.ite | apply Keeps.afterEnd | apply Keeps.checkRead | apply Keeps.chargeStep | apply Keeps.setFlags)
    | (with_reducible first | apply Keeps.trySwap | apply Keeps.putTile) | intro _ | split | (with_reducible refine Keeps.ofFst ?_ (by assumption))

theorem Keeps.issueVec {s : State} (t : Nat) (w0 : Nat) (w1 : Nat) (keep : Keeps allowed s0 s) (hl : ∀ p ∈ ([.retire, .log, .packages, .tiles,
    .dram, .grf, .mover, .scan, .fabric, .host, .faults, .out, .regGlb, .regArm, .regGrf, .regTier, .regFab, .regFtl, .regTil] : List Component),
    p ∈ allowed) :
    Keeps allowed s0 (issueVec t s w0 w1) := by
  simp only [Machine.issueVec]
  repeat' first
    | with_reducible assumption | ((with_reducible apply Component.sub hl); decide)
    | ((with_reducible apply Component.sub hl); simp (disch := decide); done)
    | (with_reducible first | apply Keeps.ite | apply Keeps.putTile | apply Keeps.illegal) | intro _ | split
    | (with_reducible refine Keeps.ofFst ?_ (by assumption))

theorem Keeps.vecWrite {s : State} (t : Nat) (v : VecSt) (p : Part) (e : Nat × Word) (keep : Keeps allowed s0 s) (hl : ∀ p ∈ ([.tiles, .store,
    .regTil] : List Component), p ∈ allowed) :
    Keeps allowed s0 (vecWrite t v p s e) := by
  simp only [Machine.vecWrite]
  repeat' first
    | with_reducible assumption | ((with_reducible apply Component.sub hl); decide)
    | (with_reducible first | apply Keeps.ite | apply Keeps.setFlags | apply Keeps.histCount | apply Keeps.ownWrite) | intro _

theorem Keeps.vectorStepEff {s : State} (t : Nat) (u : Upset) (keep : Keeps allowed s0 s) (hl : ∀ p ∈ ([.retire, .log, .packages, .tiles, .store,
    .dram, .grf, .mover, .scan, .fabric, .host, .ledger, .faults, .out, .regGlb, .regArm, .regGrf, .regTier, .regFab, .regSrc, .regFtl, .regTil] :
    List Component), p ∈ allowed) :
    Keeps allowed s0 (vectorStepEff s t u) := by
  simp only [Machine.vectorStepEff]
  repeat' first
    | with_reducible assumption | ((with_reducible apply Component.sub hl); decide)
    | ((with_reducible apply Component.sub hl); simp (disch := decide); done)
    | (with_reducible first | apply Keeps.ite | apply Keeps.checkRead | apply Keeps.add64 | apply Keeps.chargeStep | apply Keeps.vecWrite)
    | (with_reducible first | apply Keeps.setFlags | apply Keeps.foldState | apply Keeps.putTile | apply Keeps.afterEnd) | intro _ | split
    | (with_reducible refine Keeps.ofFst ?_ (by assumption))

theorem Keeps.issueSend {s : State} (t : Nat) (w0 : Nat) (w1 : Nat) (keep : Keeps allowed s0 s) (hl : ∀ p ∈ ([.retire, .log, .packages, .tiles,
    .dram, .grf, .mover, .scan, .fabric, .host, .faults, .out, .regGlb, .regArm, .regGrf, .regTier, .regFab, .regFtl, .regTil] : List Component),
    p ∈ allowed) :
    Keeps allowed s0 (issueSend t s w0 w1) := by
  simp only [Machine.issueSend]
  repeat' first
    | with_reducible assumption | ((with_reducible apply Component.sub hl); decide)
    | ((with_reducible apply Component.sub hl); simp (disch := decide); done)
    | (with_reducible first | apply Keeps.ite | apply Keeps.putTile | apply Keeps.illegal) | intro _ | split
    | (with_reducible refine Keeps.ofFst ?_ (by assumption))

theorem Keeps.sendCompleteEff {s : State} (t : Nat) (u : Upset) (keep : Keeps allowed s0 s) (hl : ∀ p ∈ ([.retire, .log, .packages, .tiles,
    .store, .dram, .grf, .mover, .scan, .fabric, .host, .faults, .out, .regGlb, .regArm, .regGrf, .regTier, .regFab, .regSrc, .regFtl, .regTil] :
    List Component), p ∈ allowed) :
    Keeps allowed s0 (sendCompleteEff s t u) := by
  simp only [Machine.sendCompleteEff]
  repeat' first
    | with_reducible assumption | ((with_reducible apply Component.sub hl); decide)
    | ((with_reducible apply Component.sub hl); simp (disch := decide); done)
    | (with_reducible first | apply Keeps.ite | apply Keeps.afterEnd | apply Keeps.checkRead | apply Keeps.ownWrite | apply Keeps.setTile)
    | (with_reducible first | apply Keeps.putTile) | intro _ | split | (with_reducible refine Keeps.ofFst ?_ (by assumption))

theorem Keeps.issueSync {s : State} (t : Nat) (w0 : Nat) (u3 : Nat) (keep : Keeps allowed s0 s) (hl : ∀ p ∈ ([.retire, .log, .packages, .tiles,
    .dram, .grf, .mover, .scan, .fabric, .host, .faults, .out, .regGlb, .regArm, .regGrf, .regTier, .regFab, .regFtl, .regTil] : List Component),
    p ∈ allowed) :
    Keeps allowed s0 (issueSync t s w0 u3) := by
  simp only [Machine.issueSync]
  repeat' first
    | with_reducible assumption | ((with_reducible apply Component.sub hl); decide)
    | ((with_reducible apply Component.sub hl); simp (disch := decide); done)
    | (with_reducible first | apply Keeps.ite | apply Keeps.putTile | apply Keeps.illegal) | intro _ | split
    | (with_reducible refine Keeps.ofFst ?_ (by assumption))

theorem Keeps.syncReleaseEff {s : State} (t : Nat) (keep : Keeps allowed s0 s) (hl : ∀ p ∈ ([.tiles, .regTil] : List Component), p ∈ allowed) :
    Keeps allowed s0 (syncReleaseEff s t) := by
  simp only [Machine.syncReleaseEff]
  repeat' first
    | with_reducible assumption | ((with_reducible apply Component.sub hl); decide)
    | ((with_reducible apply Component.sub hl); simp (disch := decide); done) | (with_reducible first | apply Keeps.ite | apply Keeps.putTile)
    | intro _ | split | (with_reducible refine Keeps.ofFst ?_ (by assumption))

theorem Keeps.issueEnd {s : State} (t : Nat) (u0 : Nat) (u1 : Nat) (keep : Keeps allowed s0 s) (hl : ∀ p ∈ ([.retire, .log, .packages, .tiles,
    .dram, .grf, .mover, .scan, .fabric, .host, .faults, .out, .regGlb, .regArm, .regGrf, .regTier, .regFab, .regFtl, .regTil] : List Component), p
    ∈ allowed) :
    Keeps allowed s0 (issueEnd t s u0 u1) := by
  simp only [Machine.issueEnd]
  repeat' first | (with_reducible first | assumption | apply Keeps.ite | apply Keeps.endPart) | intro _

theorem Keeps.rampStageEff {s : State} (t : Nat) (keep : Keeps allowed s0 s) (hl : ∀ p ∈ ([.tiles, .regTil] : List Component), p ∈ allowed) :
    Keeps allowed s0 (rampStageEff s t) := by
  simp only [Machine.rampStageEff]
  repeat' first | (with_reducible first | assumption | apply Keeps.putTile) | split

theorem Keeps.idleGapEff {s : State} (t : Nat) (keep : Keeps allowed s0 s) (hl : ∀ p ∈ ([.tiles, .regTil] : List Component), p ∈ allowed) :
    Keeps allowed s0 (idleGapEff s t) := by
  simp only [Machine.idleGapEff]
  repeat' first | (with_reducible first | assumption | apply Keeps.putTile) | split

theorem Keeps.fillerStepEff {s : State} (t : Nat) (keep : Keeps allowed s0 s) (hl : ∀ p ∈ ([.tiles, .ledger, .regTil] : List Component), p ∈
    allowed) :
    Keeps allowed s0 (fillerStepEff s t) := by
  simp only [Machine.fillerStepEff]
  repeat' first
    | with_reducible assumption | ((with_reducible apply Component.sub hl); decide)
    | ((with_reducible apply Component.sub hl); simp (disch := decide); done)
    | (with_reducible first | apply Keeps.ite | apply Keeps.add64 | apply Keeps.setTile | apply Keeps.chargeStep) | intro _

theorem Keeps.scrubDouble {s : State} (t : Nat) (w : Nat) (keep : Keeps allowed s0 s) (hl : ∀ p ∈ ([.tiles, .regTil] : List Component), p ∈
    allowed) :
    Keeps allowed s0 (scrubDouble t s w) := by
  simp only [Machine.scrubDouble]
  repeat' first
    | with_reducible assumption | ((with_reducible apply Component.sub hl); decide)
    | ((with_reducible apply Component.sub hl); simp (disch := decide); done)
    | (with_reducible first | apply Keeps.ite | apply Keeps.setNat | apply Keeps.bump | apply Keeps.setTile) | intro _ | split
    | (with_reducible refine Keeps.ofFst ?_ (by assumption))

theorem Keeps.storeScrubEff {s : State} (t : Nat) (u : Upset) (keep : Keeps allowed s0 s) (hl : ∀ p ∈ ([.tiles, .regTil] : List Component), p ∈
    allowed) :
    Keeps allowed s0 (storeScrubEff s t u) := by
  simp only [Machine.storeScrubEff]
  repeat' first
    | with_reducible assumption | ((with_reducible apply Component.sub hl); decide)
    | ((with_reducible apply Component.sub hl); simp (disch := decide); done)
    | (with_reducible first | apply Keeps.ite | apply Keeps.setTile | apply Keeps.foldState | apply Keeps.scrubDouble | apply Keeps.bump) | intro _
    | split | (with_reducible refine Keeps.ofFst ?_ (by assumption))

theorem Keeps.watchdogEff {s : State} (t : Nat) (keep : Keeps allowed s0 s) (hl : ∀ p ∈ ([.retire, .log, .packages, .tiles, .store, .dram, .grf,
    .mover, .scan, .fabric, .host, .faults, .out, .regGlb, .regArm, .regGrf, .regTier, .regFab, .regSrc, .regFtl, .regTil] : List Component), p ∈
    allowed) :
    Keeps allowed s0 (watchdogEff s t) := by
  simp only [Machine.watchdogEff]
  repeat' first
    | with_reducible assumption | ((with_reducible apply Component.sub hl); decide)
    | ((with_reducible apply Component.sub hl); simp (disch := decide); done)
    | (with_reducible first | apply Keeps.ite | apply Keeps.tileFault | apply Keeps.setTile) | intro _ | split
    | (with_reducible refine Keeps.ofFst ?_ (by assumption))

theorem Keeps.lateAckEff {s : State} (t : Nat) (keep : Keeps allowed s0 s) (hl : ∀ p ∈ ([.tiles, .regTil] : List Component), p ∈ allowed) :
    Keeps allowed s0 (lateAckEff s t) := by
  simp only [Machine.lateAckEff]
  repeat' first
    | with_reducible assumption | ((with_reducible apply Component.sub hl); decide)
    | ((with_reducible apply Component.sub hl); simp (disch := decide); done)
    | (with_reducible first | apply Keeps.ite | apply Keeps.bump | apply Keeps.setTile) | intro _ | split
    | (with_reducible refine Keeps.ofFst ?_ (by assumption))

theorem Keeps.writeTilCtrl {s : State} (t : Nat) (v : Nat) (keep : Keeps allowed s0 s) (hl : ∀ p ∈ ([.retire, .log, .packages, .tiles, .store, .dram, .grf, .mover, .scan, .fabric, .host, .faults, .out, .regGlb, .regArm, .regGrf, .regTier, .regFab, .regSrc, .regFtl, .regTil] : List Component), p
    ∈ allowed) :
    Keeps allowed s0 (writeTilCtrl s t v) := by
  simp only [Machine.writeTilCtrl]
  repeat' first
    | with_reducible assumption | ((with_reducible apply Component.sub hl); decide)
    | (with_reducible first | apply Keeps.ite | apply Keeps.accErr | apply Keeps.tileFault) | intro _

theorem Keeps.writeHistCtrl {s : State} (t : Nat) (v : Nat) (keep : Keeps allowed s0 s) (hl : ∀ p ∈ ([.tiles, .regGlb, .regTil] : List Component),
    p ∈ allowed) :
    Keeps allowed s0 (writeHistCtrl s t v) := by
  simp only [Machine.writeHistCtrl]
  repeat' first
    | with_reducible assumption | ((with_reducible apply Component.sub hl); decide)
    | ((with_reducible apply Component.sub hl); simp (disch := decide); done)
    | (with_reducible first | apply Keeps.ite | apply Keeps.accErr | apply Keeps.histClear | apply Keeps.setTile | apply Keeps.setBit)
    | (with_reducible first | apply Keeps.setFld) | intro _ | split | (with_reducible refine Keeps.ofFst ?_ (by assumption))

theorem Keeps.writeTilRamp {s : State} (t : Nat) (v : Nat) (keep : Keeps allowed s0 s) (hl : ∀ p ∈ ([.regGlb, .regTil] : List Component), p ∈
    allowed) :
    Keeps allowed s0 (writeTilRamp s t v) := by
  simp only [Machine.writeTilRamp]
  repeat' first
    | with_reducible assumption | ((with_reducible apply Component.sub hl); decide)
    | ((with_reducible apply Component.sub hl); simp (disch := decide); done)
    | (with_reducible first | apply Keeps.ite | apply Keeps.setFld | apply Keeps.accErr) | intro _

theorem Keeps.writeTilWdog {s : State} (t : Nat) (v : Nat) (keep : Keeps allowed s0 s) (hl : ∀ p ∈ ([.regGlb, .regTil] : List Component), p ∈
    allowed) :
    Keeps allowed s0 (writeTilWdog s t v) := by
  simp only [Machine.writeTilWdog]
  repeat' first
    | with_reducible assumption | ((with_reducible apply Component.sub hl); decide)
    | ((with_reducible apply Component.sub hl); simp (disch := decide); done)
    | (with_reducible first | apply Keeps.ite | apply Keeps.setNat | apply Keeps.accErr) | intro _

end Sys2Proof.Machine
end

