-- ==== Sys2Proof/Laws/KeepsTier.lean ====
section
/-! SUPPORT. What every operation of Machine/Tier.lean keeps: the queue, what lasts, the canonical forms, and every part of the state that
is not in its list. -/
set_option Elab.async false
set_option linter.all false
namespace Sys2Proof.Machine

variable {allowed : List Component} {s0 : State}

theorem Keeps.dropEntry {s : State} (e : DirEntry) (keep : Keeps allowed s0 s) (hl : ∀ p ∈ ([.mover, .regTier] : List Component), p ∈ allowed) :
    Keeps allowed s0 (dropEntry s e) := by
  simp only [Machine.dropEntry]
  repeat' first
    | with_reducible assumption | ((with_reducible apply Component.sub hl); decide)
    | (with_reducible first | apply Keeps.showDir | refine Keeps.litMover ?_  (hl _ (by decide)))

theorem Keeps.readPiece {s : State} (a : Nat) (len : Nat) (keep : Keeps allowed s0 s) (hl : ∀ p ∈ ([.retire, .log, .dram, .mover, .host, .faults,
    .out, .regGlb, .regTier] : List Component), p ∈ allowed) :
    Keeps allowed s0 (readPiece s a len).1 := by
  simp only [Machine.readPiece]
  repeat' first
    | with_reducible assumption | ((with_reducible apply Component.sub hl); decide)
    | ((with_reducible apply Component.sub hl); simp (disch := decide); done)
    | (with_reducible first | apply Keeps.ite | apply Keeps.readAddr | apply Keeps.dropEntry) | intro _ | split
    | (with_reducible refine Keeps.ofFst ?_ (by assumption))

theorem Keeps.readMoved {s : State} (a : Nat) (len : Nat) (keep : Keeps allowed s0 s) (hl : ∀ p ∈ ([.retire, .log, .dram, .mover, .host, .faults,
    .out, .regGlb, .regTier] : List Component), p ∈ allowed) :
    Keeps allowed s0 (readMoved s a len).1 := by
  simp only [Machine.readMoved]
  repeat' first
    | with_reducible assumption | ((with_reducible apply Component.sub hl); decide)
    | ((with_reducible apply Component.sub hl); simp (disch := decide); done)
    | (with_reducible first | apply Keeps.iteFst | apply Keeps.ite | apply Keeps.readPiece) | intro _ | split
    | (with_reducible refine Keeps.ofFst ?_ (by assumption))

theorem Keeps.advanceHead {x1 : State} (x0 : Nat) (keep : Keeps allowed s0 x1) (hl : ∀ p ∈ ([.mover, .regTier] : List Component), p ∈ allowed) :
    Keeps allowed s0 (advanceHead x0 x1) := by
  induction x0 generalizing x1 with
  | zero =>
    simp only [Machine.advanceHead]
    repeat' first
      | with_reducible assumption | ((with_reducible apply Component.sub hl); decide) | (with_reducible first | apply Keeps.ite | apply Keeps.setNat)
      | intro _ | split | with_reducible refine Keeps.litMover ?_  (hl _ (by decide))
  | succ _ ih =>
    simp only [Machine.advanceHead]
    repeat' first
      | (with_reducible first | apply ih | assumption) | ((with_reducible apply Component.sub hl); decide)
      | (with_reducible first | apply Keeps.ite | apply Keeps.setNat) | intro _ | split | with_reducible refine Keeps.litMover ?_  (hl _ (by decide))

theorem Keeps.finishMove {s : State} (index : Nat) (st : Nat) (keep : Keeps allowed s0 s) (hl : ∀ p ∈ ([.retire, .log, .dram, .mover, .host,
    .faults, .out, .regGlb, .regTier] : List Component), p ∈ allowed) :
    Keeps allowed s0 (finishMove s index st) := by
  simp only [Machine.finishMove]
  repeat' first
    | with_reducible assumption | ((with_reducible apply Component.sub hl); decide)
    | (with_reducible first | apply Keeps.ite | apply Keeps.slmWrite | apply Keeps.advanceHead) | intro _
    | with_reducible refine Keeps.litMover ?_  (hl _ (by decide))

theorem Keeps.startMove {s : State} (op : Nat) (keep : Keeps allowed s0 s) (hl : ∀ p ∈ ([.retire, .log, .dram, .mover, .host, .faults, .out,
    .regGlb, .regTier] : List Component), p ∈ allowed) :
    Keeps allowed s0 (startMove s op) := by
  simp only [Machine.startMove]
  repeat' first
    | (with_reducible first | assumption | apply Keeps.ite | apply Keeps.readRange | apply Keeps.finishMove) | intro _ | split
    | (with_reducible refine Keeps.ofFst ?_ (by assumption)) | with_reducible refine Keeps.litMover ?_  (hl _ (by decide))

theorem Keeps.copyWrite {s : State} (a : Nat) (data : List Byte) (keep : Keeps allowed s0 s) (hl : ∀ p ∈ ([.retire, .log, .packages, .dram, .mover,
    .host, .faults, .out, .regGlb, .regTier, .regFtl] : List Component), p ∈ allowed) :
    Keeps allowed s0 (copyWrite s a data).1 := by
  simp only [Machine.copyWrite]
  repeat' first
    | with_reducible assumption | ((with_reducible apply Component.sub hl); decide)
    | (with_reducible first | apply Keeps.iteFst | apply Keeps.writeRange | apply Keeps.writeRegion) | intro _ | split

theorem Keeps.copyChunk {s : State} (src : Nat) (dst : Nat) (keep : Keeps allowed s0 s) (hl : ∀ p ∈ ([.retire, .log, .packages, .dram, .mover,
    .host, .faults, .out, .regGlb, .regTier, .regFtl] : List Component), p ∈ allowed) :
    Keeps allowed s0 (copyChunk s src dst).1 := by
  simp only [Machine.copyChunk]
  repeat' first
    | with_reducible assumption | ((with_reducible apply Component.sub hl); decide)
    | ((with_reducible apply Component.sub hl); simp (disch := decide); done)
    | (with_reducible first | apply Keeps.iteFst | apply Keeps.ite | apply Keeps.readMoved | apply Keeps.copyWrite | apply Keeps.foldState)
    | (with_reducible first | apply Keeps.writePoison) | intro _ | split | (with_reducible refine Keeps.ofFst ?_ (by assumption))

theorem Keeps.copyChunks {x1 : State} (x0 : Nat) (x2 : Nat) (x3 : Nat) (keep : Keeps allowed s0 x1) (hl : ∀ p ∈ ([.retire, .log, .packages, .dram,
    .mover, .host, .faults, .out, .regGlb, .regTier, .regFtl] : List Component), p ∈ allowed) :
    Keeps allowed s0 (copyChunks x0 x1 x2 x3).1 := by
  induction x0 generalizing x1 x2 x3 with
  | zero =>
    simp only [Machine.copyChunks]
    repeat' first
      | with_reducible assumption | ((with_reducible apply Component.sub hl); decide)
      | ((with_reducible apply Component.sub hl); simp (disch := decide); done) | (with_reducible first | apply Keeps.ite | apply Keeps.copyChunk)
      | intro _ | split | (with_reducible refine Keeps.ofFst ?_ (by assumption))
  | succ _ ih =>
    simp only [Machine.copyChunks]
    repeat' first
      | with_reducible apply ih | with_reducible assumption | ((with_reducible apply Component.sub hl); decide)
      | ((with_reducible apply Component.sub hl); simp (disch := decide); done) | (with_reducible first | apply Keeps.ite | apply Keeps.copyChunk)
      | intro _ | split | (with_reducible refine Keeps.ofFst ?_ (by assumption))

theorem Keeps.homeFault {s : State} (a : Nat) (len : Nat) (keep : Keeps allowed s0 s) (hl : ∀ p ∈ ([.log, .packages, .dram, .regGlb] : List
    Component), p ∈ allowed) :
    Keeps allowed s0 (homeFault s a len) := by
  simp only [Machine.homeFault]
  repeat' first
    | with_reducible assumption | ((with_reducible apply Component.sub hl); decide)
    | (with_reducible first | apply Keeps.ite | apply Keeps.interrupting | apply Keeps.reachUe | apply Keeps.noteUnreachable) | intro _ | split

theorem Keeps.copySome {x : State × Bool} (n src dst : Nat) (keep : Keeps allowed s0 x.1) (hl : ∀ p ∈ ([.retire, .log, .packages, .dram, .mover,
    .host, .faults, .out, .regGlb, .regTier, .regFtl] : List Component), p ∈ allowed) :
    Keeps allowed s0 (copySome n x src dst).1.1 := by
  induction n generalizing x src dst with
  | zero => exact keep
  | succ n ih =>
    simp only [Machine.copySome]
    split
    · exact ih _ _ (Keeps.copyChunk _ _ keep hl)
    · exact keep

theorem Keeps.doCopy {s : State} (m : Move) (keep : Keeps allowed s0 s) (hl : ∀ p ∈ ([.retire, .log, .packages, .dram, .mover, .host, .faults,
    .out, .regGlb, .regTier, .regFtl] : List Component), p ∈ allowed) :
    Keeps allowed s0 (doCopy s m) := by
  simp only [Machine.doCopy]
  repeat' first
    | with_reducible assumption | ((with_reducible apply Component.sub hl); decide)
    | ((with_reducible apply Component.sub hl); simp (disch := decide); done)
    | (with_reducible first | apply Keeps.ite | apply Keeps.invalidate | apply Keeps.copyChunks | apply Keeps.copySome | apply Keeps.finishMove | apply Keeps.homeFault)
    | intro _ | split | (with_reducible refine Keeps.ofFst ?_ (by assumption)) | (with_reducible first | refine Keeps.litMover ?_ (hl _ (by decide)))

theorem Keeps.doPlace {s : State} (m : Move) (keep : Keeps allowed s0 s) (hl : ∀ p ∈ ([.retire, .log, .packages, .dram, .mover, .host, .faults,
    .out, .regGlb, .regTier, .regFtl] : List Component), p ∈ allowed) :
    Keeps allowed s0 (doPlace s m) := by
  simp only [Machine.doPlace]
  repeat' first
    | with_reducible assumption | ((with_reducible apply Component.sub hl); decide)
    | (with_reducible first | apply Keeps.ite | apply Keeps.showDir | apply Keeps.invalidate | apply Keeps.finishMove | apply Keeps.copyChunks)
    | with_reducible apply Keeps.homeFault | intro _ | with_reducible refine Keeps.litMover ?_  (hl _ (by decide))

theorem Keeps.doEvict {s : State} (m : Move) (keep : Keeps allowed s0 s) (hl : ∀ p ∈ ([.retire, .log, .dram, .mover, .host, .faults, .out, .regGlb,
    .regTier] : List Component), p ∈ allowed) :
    Keeps allowed s0 (doEvict s m) := by
  simp only [Machine.doEvict]
  repeat' first
    | with_reducible assumption | ((with_reducible apply Component.sub hl); decide)
    | (with_reducible first | apply Keeps.dropEntry | apply Keeps.finishMove) | split

theorem Keeps.doClear {s : State} (m : Move) (keep : Keeps allowed s0 s) (hl : ∀ p ∈ ([.retire, .log, .dram, .mover, .host, .faults, .out, .regGlb,
    .regTier] : List Component), p ∈ allowed) :
    Keeps allowed s0 (doClear s m) := by
  simp only [Machine.doClear]
  repeat' first
    | with_reducible assumption | ((with_reducible apply Component.sub hl); decide)
    | (with_reducible first | apply Keeps.clearGranules | apply Keeps.invalidate | apply Keeps.finishMove)

theorem Keeps.moveCompleteEff {s : State} (index : Nat) (keep : Keeps allowed s0 s) (hl : ∀ p ∈ ([.retire, .log, .packages, .dram, .mover, .host,
    .faults, .out, .regGlb, .regTier, .regFtl] : List Component), p ∈ allowed) :
    Keeps allowed s0 (moveCompleteEff s index) := by
  simp only [Machine.moveCompleteEff]
  repeat' first
    | with_reducible assumption | ((with_reducible apply Component.sub hl); decide)
    | (with_reducible first | apply Keeps.ite | apply Keeps.doCopy | apply Keeps.doPlace | apply Keeps.doEvict | apply Keeps.doClear) | intro _
    | split

theorem Keeps.writeMqSize {s : State} (v : Nat) (keep : Keeps allowed s0 s) (hl : ∀ p ∈ ([.regGlb, .regTier] : List Component), p ∈ allowed) :
    Keeps allowed s0 (writeMqSize s v) := by
  simp only [Machine.writeMqSize]
  repeat' first
    | with_reducible assumption | ((with_reducible apply Component.sub hl); decide)
    | (with_reducible first | apply Keeps.ite | apply Keeps.setNat | apply Keeps.accErr) | intro _

theorem Keeps.writeMqBase {s : State} (off : Nat) (v : Nat) (keep : Keeps allowed s0 s) (hl : ∀ p ∈ ([.regGlb, .regTier, regBlock off] : List Component), p ∈
    allowed) :
    Keeps allowed s0 (writeMqBase s off v) := by
  simp only [Machine.writeMqBase]
  repeat' first
    | with_reducible assumption | ((with_reducible apply Component.sub hl); simp (disch := decide); done)
    | (with_reducible first | apply Keeps.ite | apply Keeps.setNat | apply Keeps.accErr) | intro _

theorem Keeps.writeMqTail {s : State} (v : Nat) (keep : Keeps allowed s0 s) (hl : ∀ p ∈ ([.regTier] : List Component), p ∈ allowed) :
    Keeps allowed s0 (writeMqTail s v) := by
  simp only [Machine.writeMqTail]
  repeat' first | with_reducible assumption | ((with_reducible apply Component.sub hl); decide) | with_reducible apply Keeps.setNat

theorem Keeps.modPiece {s : State} (id : Nat) (f : Piece → Piece) (keep : Keeps allowed s0 s) (hl : ∀ p ∈ ([.mover] : List Component), p ∈ allowed)
    :
    Keeps allowed s0 (modPiece s id f) := by
  simp only [Machine.modPiece]
  repeat' (with_reducible first | assumption | refine Keeps.litMover ?_  (hl _ (by decide)))

theorem Keeps.dropPiece {s : State} (id : Nat) (keep : Keeps allowed s0 s) (hl : ∀ p ∈ ([.mover] : List Component), p ∈ allowed) :
    Keeps allowed s0 (dropPiece s id) := by
  simp only [Machine.dropPiece]
  repeat' (with_reducible first | assumption | refine Keeps.litMover ?_  (hl _ (by decide)))

theorem Keeps.requestPiece {s : State} (id : Nat) (keep : Keeps allowed s0 s) (hl : ∀ p ∈ ([.mover, .fabric, .out, .regFab] : List Component), p ∈
    allowed) :
    Keeps allowed s0 (requestPiece s id) := by
  simp only [Machine.requestPiece]
  repeat' first
    | with_reducible assumption | ((with_reducible apply Component.sub hl); decide)
    | ((with_reducible apply Component.sub hl); simp (disch := decide); done)
    | (with_reducible first | apply Keeps.ite | apply Keeps.modPiece | apply Keeps.requestOn) | intro _ | split
    | (with_reducible refine Keeps.ofFst ?_ (by assumption))

theorem Keeps.lookupEff {s : State} (id : Nat) (keep : Keeps allowed s0 s) (hl : ∀ p ∈ ([.mover, .fabric, .out, .regTier, .regFab] : List
    Component), p ∈ allowed) :
    Keeps allowed s0 (lookupEff s id) := by
  simp only [Machine.lookupEff]
  repeat' first
    | with_reducible assumption | ((with_reducible apply Component.sub hl); decide)
    | ((with_reducible apply Component.sub hl); simp (disch := decide); done)
    | (with_reducible first | apply Keeps.ite | apply Keeps.requestPiece | apply Keeps.modPiece | apply Keeps.bump) | intro _ | split
    | (with_reducible refine Keeps.ofFst ?_ (by assumption))

theorem Keeps.pieceFails {s : State} (p : Piece) (keep : Keeps allowed s0 s) (hl : ∀ p ∈ ([.retire, .log, .packages, .tiles, .dram, .grf, .mover,
    .scan, .fabric, .host, .faults, .out, .regGlb, .regArm, .regGrf, .regTier, .regFab, .regFtl, .regTil] : List Component), p ∈ allowed) :
    Keeps allowed s0 (pieceFails s p) := by
  simp only [Machine.pieceFails]
  repeat' first
    | with_reducible assumption | ((with_reducible apply Component.sub hl); decide)
    | (with_reducible first | apply Keeps.failKernel | apply Keeps.homeFault)

theorem Keeps.deliver {s : State} (p : Piece) (dst : Nat) (l : List Byte) (keep : Keeps allowed s0 s) (hl : ∀ p ∈ ([.tiles, .store, .grf, .mover,
    .regGrf, .regTil] : List Component), p ∈ allowed) :
    Keeps allowed s0 (deliver s p dst l) := by
  simp only [Machine.deliver]
  repeat' first
    | with_reducible assumption | ((with_reducible apply Component.sub hl); decide)
    | ((with_reducible apply Component.sub hl); simp (disch := decide); done)
    | (with_reducible first | apply Keeps.ite | apply Keeps.queueFar | apply Keeps.ownWrite | apply Keeps.dropPiece) | intro _ | split
    | (with_reducible refine Keeps.ofFst ?_ (by assumption))

theorem Keeps.meetUncorrectable {s : State} (src : Nat) (len : Nat) (k : Nat) (keep : Keeps allowed s0 s) (hl : ∀ p ∈ ([.retire, .log, .dram,
    .mover, .host, .faults, .out, .regGlb, .regTier] : List Component), p ∈ allowed) :
    Keeps allowed s0 (meetUncorrectable s src len k) := by
  simp only [Machine.meetUncorrectable]
  repeat' first
    | with_reducible assumption | ((with_reducible apply Component.sub hl); decide)
    | ((with_reducible apply Component.sub hl); simp (disch := decide); done) | (with_reducible first | apply Keeps.ite | apply Keeps.poisonLine)
    | intro _ | split | (with_reducible refine Keeps.ofFst ?_ (by assumption))

theorem Keeps.pieceArrivalEff {s : State} (id : Nat) (dst : Nat) (res : PieceResult) (keep : Keeps allowed s0 s) (hl : ∀ p ∈ ([.retire, .log,
    .packages, .tiles, .store, .dram, .grf, .mover, .scan, .fabric, .host, .faults, .out, .regGlb, .regArm, .regGrf, .regTier, .regFab, .regFtl,
    .regTil] : List Component), p ∈ allowed) :
    Keeps allowed s0 (pieceArrivalEff s id dst res) := by
  simp only [Machine.pieceArrivalEff]
  repeat' first
    | with_reducible assumption | ((with_reducible apply Component.sub hl); decide)
    | ((with_reducible apply Component.sub hl); simp (disch := decide); done)
    | (with_reducible first | apply Keeps.ite | apply Keeps.bump | apply Keeps.modPiece | apply Keeps.readAddr | apply Keeps.meetUncorrectable)
    | (with_reducible first | apply Keeps.deliver | apply Keeps.requestPiece | apply Keeps.dropEntry | apply Keeps.pieceFails) | intro _ | split
    | (with_reducible refine Keeps.ofFst ?_ (by assumption))

theorem Keeps.mvLimitEff {s : State} (id : Nat) (keep : Keeps allowed s0 s) (hl : ∀ p ∈ ([.mover, .fabric, .out, .regFab] : List Component), p ∈
    allowed) :
    Keeps allowed s0 (mvLimitEff s id) := by
  simp only [Machine.mvLimitEff]
  repeat' first
    | with_reducible assumption | ((with_reducible apply Component.sub hl); decide)
    | ((with_reducible apply Component.sub hl); simp (disch := decide); done)
    | (with_reducible first | apply Keeps.ite | apply Keeps.requestPiece | apply Keeps.modPiece) | intro _ | split
    | (with_reducible refine Keeps.ofFst ?_ (by assumption))

theorem Keeps.maintenanceWake {s : State}  (keep : Keeps allowed s0 s) (hl : ∀ p ∈ ([.regHst] : List Component), p ∈ allowed) :
    Keeps allowed s0 (maintenanceWake s) := by
  simp only [Machine.maintenanceWake]
  repeat' first
    | with_reducible assumption | ((with_reducible apply Component.sub hl); decide) | (with_reducible first | apply Keeps.ite | apply Keeps.bump)
    | intro _

theorem Keeps.wbufLineLost {s : State} (p : Nat) (line : Nat) (keep : Keeps allowed s0 s) (hl : ∀ p ∈ ([.log, .packages, .host, .out, .regGlb,
    .regFtl] : List Component), p ∈ allowed) :
    Keeps allowed s0 (wbufLineLost s p line) := by
  simp only [Machine.wbufLineLost]
  repeat' first
    | with_reducible assumption | ((with_reducible apply Component.sub hl); decide)
    | ((with_reducible apply Component.sub hl); simp (disch := decide); done)
    | (with_reducible first | apply Keeps.ite | apply Keeps.bump | apply Keeps.setPkg | apply Keeps.interrupting | apply Keeps.addLedger) | intro _
    | split | (with_reducible refine Keeps.ofFst ?_ (by assumption)) | exact Nat.le_refl _ | with_reducible exact Nat.le_refl _

theorem Keeps.cacheLineLost {s : State} (p : Nat) (idx : Nat) (keep : Keeps allowed s0 s) (hl : ∀ p ∈ ([.search] : List Component), p ∈ allowed) :
    Keeps allowed s0 (cacheLineLost s p idx) := by
  simp only [Machine.cacheLineLost]
  repeat' first
    | with_reducible assumption | ((with_reducible apply Component.sub hl); decide)
    | ((with_reducible apply Component.sub hl); simp (disch := decide); done) | (with_reducible first | apply Keeps.ite) | intro _ | split
    | (with_reducible refine Keeps.ofFst ?_ (by assumption)) | (with_reducible first | refine Keeps.litSearch ?_ (hl _ (by decide)))

theorem Keeps.scanLineLost {s : State} (p : Nat) (idx : Nat) (keep : Keeps allowed s0 s) (hl : ∀ p ∈ ([.retire, .log, .dram, .mover, .scan, .host,
    .faults, .out, .regGlb, .regTier, .regScn] : List Component), p ∈ allowed) :
    Keeps allowed s0 (scanLineLost s p idx) := by
  simp only [Machine.scanLineLost]
  repeat' first
    | with_reducible assumption | ((with_reducible apply Component.sub hl); decide)
    | ((with_reducible apply Component.sub hl); simp (disch := decide); done)
    | (with_reducible first | apply Keeps.ite | apply Keeps.bump | apply Keeps.readRange | apply Keeps.modJob) | intro _ | split
    | (with_reducible refine Keeps.ofFst ?_ (by assumption)) | (with_reducible first | refine Keeps.litScan ?_ (hl _ (by decide)))

theorem Keeps.boardLineLost {s : State} (p : Nat) (idx : Nat) (keep : Keeps allowed s0 s) (hl : ∀ p ∈ ([.retire, .log, .packages, .dram, .mover,
    .scan, .search, .host, .faults, .out, .regGlb, .regTier, .regScn, .regFtl] : List Component), p ∈ allowed) :
    Keeps allowed s0 (boardLineLost s p idx) := by
  simp only [Machine.boardLineLost]
  repeat' first
    | with_reducible assumption | ((with_reducible apply Component.sub hl); decide)
    | ((with_reducible apply Component.sub hl); simp (disch := decide); done)
    | (with_reducible first | apply Keeps.ite | apply Keeps.wbufLineLost | apply Keeps.cacheLineLost | apply Keeps.scanLineLost) | intro _ | split
    | (with_reducible refine Keeps.ofFst ?_ (by assumption))

theorem Keeps.stagingLost {s : State} (slot : Nat) (keep : Keeps allowed s0 s) (hl : ∀ p ∈ ([.retire, .log, .packages, .tiles, .dram, .grf,
    .mover, .scan, .fabric, .host, .faults, .out, .regGlb, .regArm, .regGrf, .regTier, .regFab, .regFtl, .regTil] : List Component), p ∈ allowed)
    :
    Keeps allowed s0 (stagingLost s slot) := by
  simp only [Machine.stagingLost]
  repeat' first
    | with_reducible assumption | ((with_reducible apply Component.sub hl); decide)
    | ((with_reducible apply Component.sub hl); simp (disch := decide); done)
    | (with_reducible first | apply Keeps.ite | apply Keeps.foldState | apply Keeps.stopRun | apply Keeps.modRun | apply Keeps.endWaiting)
    | (with_reducible first | apply Keeps.endSeq | apply Keeps.showGrf | apply Keeps.dropResidents) | intro _ | split
    | (with_reducible refine Keeps.ofFst ?_ (by assumption)) | (with_reducible first | refine Keeps.litGrf ?_ (hl _ (by decide)))

theorem Keeps.reservedLineLost {s : State} (line : Nat) (keep : Keeps allowed s0 s) (hl : ∀ p ∈ ([.retire, .log, .packages, .tiles, .dram, .grf,
    .mover, .scan, .fabric, .host, .faults, .out, .regGlb, .regArm, .regGrf, .regTier, .regFab, .regFtl, .regTil] : List Component), p ∈ allowed)
    :
    Keeps allowed s0 (reservedLineLost s line) := by
  simp only [Machine.reservedLineLost]
  repeat' first
    | with_reducible assumption | ((with_reducible apply Component.sub hl); decide)
    | ((with_reducible apply Component.sub hl); simp (disch := decide); done)
    | (with_reducible first | apply Keeps.ite | apply Keeps.stagingLost | apply Keeps.endSeq | apply Keeps.foldState) | intro _ | split
    | (with_reducible refine Keeps.ofFst ?_ (by assumption))

theorem Keeps.lineLost {s : State} (line : Nat) (keep : Keeps allowed s0 s) (hl : ∀ p ∈ ([.retire, .log, .packages, .tiles, .dram, .grf, .mover,
    .scan, .search, .fabric, .host, .faults, .out, .regGlb, .regArm, .regGrf, .regTier, .regFab, .regScn, .regFtl, .regTil] : List Component), p ∈
    allowed) :
    Keeps allowed s0 (lineLost s line) := by
  simp only [Machine.lineLost]
  repeat' first
    | with_reducible assumption | ((with_reducible apply Component.sub hl); decide)
    | ((with_reducible apply Component.sub hl); simp (disch := decide); done)
    | (with_reducible first | apply Keeps.ite | apply Keeps.boardLineLost | apply Keeps.reservedLineLost) | intro _ | split
    | (with_reducible refine Keeps.ofFst ?_ (by assumption))

theorem Keeps.scrubLine {s : State} (line : Nat) (found : LineError) (keep : Keeps allowed s0 s) (hl : ∀ p ∈ ([.retire, .log, .packages, .tiles,
    .dram, .grf, .mover, .scan, .search, .fabric, .host, .faults, .out, .regGlb, .regArm, .regGrf, .regTier, .regFab, .regScn, .regFtl, .regTil] :
    List Component), p ∈ allowed) :
    Keeps allowed s0 (scrubLine s line found) := by
  simp only [Machine.scrubLine]
  repeat' first
    | with_reducible assumption | ((with_reducible apply Component.sub hl); decide)
    | ((with_reducible apply Component.sub hl); simp (disch := decide); done)
    | (with_reducible first | apply Keeps.ite | apply Keeps.settle | apply Keeps.lineLost | apply Keeps.countCorrected | apply Keeps.poisonLine)
    | intro _ | split | (with_reducible refine Keeps.ofFst ?_ (by assumption))

theorem Keeps.patrolScrubEff {s : State} (board : Bool) (unit : Nat) (pc : Nat) (idx : Nat) (found : LineError) (keep : Keeps allowed s0 s) (hl :
    ∀ p ∈ ([.retire, .log, .packages, .tiles, .dram, .grf, .mover, .scan, .search, .fabric, .host, .faults, .out, .regGlb, .regArm, .regGrf,
    .regTier, .regFab, .regHst, .regScn, .regFtl, .regTil] : List Component), p ∈ allowed) :
    Keeps allowed s0 (patrolScrubEff s board unit pc idx found) := by
  simp only [Machine.patrolScrubEff]
  repeat' first
    | with_reducible assumption | ((with_reducible apply Component.sub hl); decide)
    | ((with_reducible apply Component.sub hl); simp (disch := decide); done)
    | (with_reducible first | apply Keeps.ite | apply Keeps.scrubLine | apply Keeps.maintenanceWake) | intro _ | split
    | (with_reducible refine Keeps.ofFst ?_ (by assumption))
    | (with_reducible first | refine Keeps.litMem ?_ ?_ ?_ (hdram := .inl (hl _ (by decide))) )
    | ((with_reducible apply DramKeeps.mk) <;> (try dsimp only) <;> first | exact fun x => x | exact fun _ => rfl | exact Memory.wf_setBytes _ _ _ | exact Sparse.wf_set (0 : Byte) _ _ _ | exact Sparse.wf_set (0 : Nat) _ _ _ | exact Sparse.wf_filter (0 : Byte) _ _)
    | exact fun x => x | exact Memory.wf_setBytes _ _ _

theorem Keeps.pcFaultEff {s : State} (p : Nat) (cause : Nat) (exhausted : Bool) (keep : Keeps allowed s0 s) (hl : ∀ p ∈ ([.retire, .log, .mover,
    .host, .faults, .out, .regGlb, .regTier] : List Component), p ∈ allowed) :
    Keeps allowed s0 (pcFaultEff s p cause exhausted) := by
  simp only [Machine.pcFaultEff]
  repeat' first | (with_reducible first | assumption | apply Keeps.ite | apply Keeps.pcFault) | intro _

theorem Keeps.migrationEff {s : State} (p : Nat) (keep : Keeps allowed s0 s) (hl : ∀ p ∈ ([.retire, .log, .dram, .mover, .host, .faults, .out,
    .regGlb, .regTier] : List Component), p ∈ allowed) :
    Keeps allowed s0 (migrationEff s p) := by
  simp only [Machine.migrationEff]
  repeat' first
    | with_reducible assumption | ((with_reducible apply Component.sub hl); decide)
    | (with_reducible first | apply Keeps.ite | apply Keeps.setBit | apply Keeps.foldState | apply Keeps.settle) | intro _
    | with_reducible refine Keeps.litMover ?_  (hl _ (by decide))

theorem Keeps.chkDone {s : State} (result : Nat) (keep : Keeps allowed s0 s) (hl : ∀ p ∈ ([.regTier] : List Component), p ∈ allowed) :
    Keeps allowed s0 (chkDone s result) := by
  simp only [Machine.chkDone]
  repeat' first | with_reducible assumption | ((with_reducible apply Component.sub hl); decide) | with_reducible apply Keeps.setNat

theorem Keeps.loadChkData {s : State} (l : List Byte) (keep : Keeps allowed s0 s) (hl : ∀ p ∈ ([.regTier] : List Component), p ∈ allowed) :
    Keeps allowed s0 (loadChkData s l) := by
  simp only [Machine.loadChkData]
  repeat' first
    | with_reducible assumption
    | (with_reducible refine Keeps.setWords _ _ .regTier (fun i h => regBlock_of_tier (by unfold TIER_CHK_DATA; omega) (by rw [wordsOf_length] at h; unfold TIER_CHK_DATA; omega)) ?_ (Component.sub hl (by decide)))

theorem Keeps.chkWriteRaw {s : State} (line : Nat) (keep : Keeps allowed s0 s) (hl : ∀ p ∈ ([.retire, .log, .dram, .mover, .host, .faults, .out,
    .regGlb, .regTier] : List Component), p ∈ allowed) :
    Keeps allowed s0 (chkWriteRaw s line) := by
  simp only [Machine.chkWriteRaw]
  repeat' first
    | (with_reducible first | assumption | apply Keeps.settle) | intro _ | split
    | (with_reducible refine Keeps.litMem ?_ ?_ ?_ (hdram := .inl (hl _ (by decide))))
    | ((with_reducible apply DramKeeps.mk) <;> (try dsimp only) <;> first | exact fun x => x | exact fun _ => rfl | exact Memory.wf_setBytes _ _ _ | exact Sparse.wf_set (0 : Byte) _ _ _ | exact Sparse.wf_set (0 : Nat) _ _ _ | exact Sparse.wf_filter (0 : Byte) _ _)

theorem Keeps.chkReadRaw {s : State} (line : Nat) (keep : Keeps allowed s0 s) (hl : ∀ p ∈ ([.regTier] : List Component), p ∈ allowed) :
    Keeps allowed s0 (chkReadRaw s line) := by
  simp only [Machine.chkReadRaw]
  repeat' first
    | with_reducible assumption | ((with_reducible apply Component.sub hl); decide)
    | (with_reducible first | apply Keeps.set64 | apply Keeps.loadChkData)

theorem Keeps.chkRead {s : State} (line : Nat) (keep : Keeps allowed s0 s) (hl : ∀ p ∈ ([.retire, .log, .dram, .mover, .host, .faults, .out,
    .regGlb, .regTier] : List Component), p ∈ allowed) :
    Keeps allowed s0 (chkRead s line) := by
  simp only [Machine.chkRead]
  repeat' first
    | with_reducible assumption | ((with_reducible apply Component.sub hl); decide)
    | (with_reducible first | apply Keeps.ite | apply Keeps.settle | apply Keeps.chkDone | apply Keeps.loadChkData) | intro _

theorem Keeps.writeChkCtrl {s : State} (v : Nat) (keep : Keeps allowed s0 s) (hl : ∀ p ∈ ([.retire, .log, .dram, .mover, .host, .faults, .out,
    .regGlb, .regTier] : List Component), p ∈ allowed) :
    Keeps allowed s0 (writeChkCtrl s v) := by
  simp only [Machine.writeChkCtrl]
  repeat' first
    | with_reducible assumption | ((with_reducible apply Component.sub hl); decide)
    | (with_reducible first | apply Keeps.ite | apply Keeps.setNat | apply Keeps.setBit | apply Keeps.accErr | apply Keeps.chkDone)
    | (with_reducible first | apply Keeps.chkWriteRaw | apply Keeps.chkReadRaw | apply Keeps.chkRead) | intro _ | split

end Sys2Proof.Machine
end

