-- ==== Sys2Proof/Laws/KeepsNvm.lean ====
section
/-! SUPPORT. What every operation of Machine/Nvm.lean keeps: the queue, what lasts, the canonical forms, and every part of the state that
is not in its list. -/
set_option Elab.async false
set_option linter.all false
namespace Sys2Proof.Machine

variable {allowed : List Component} {s0 : State}

theorem Keeps.wakeUp {s : State}  (keep : Keeps allowed s0 s) (hl : ∀ p ∈ ([.host] : List Component), p ∈ allowed) :
    Keeps allowed s0 (wakeUp s) := by
  simp only [Machine.wakeUp]
  repeat' first | (with_reducible first | assumption | apply Keeps.ite) | intro _ | with_reducible refine Keeps.litHost ?_  (hl _ (by decide))

theorem Keeps.hold {s : State} (h : Held) (keep : Keeps allowed s0 s) (hl : ∀ p ∈ ([.host] : List Component), p ∈ allowed) :
    Keeps allowed s0 (hold s h) := by
  simp only [Machine.hold]
  repeat' (with_reducible first | assumption | apply Keeps.wakeUp | refine Keeps.litHost ?_  (hl _ (by decide)))

theorem Keeps.failUnreachable {s : State} (tag : CmdTag) (p : Nat) (keep : Keeps allowed s0 s) (hl : ∀ p ∈ ([.log, .packages, .host, .out, .regGlb]
    : List Component), p ∈ allowed) :
    Keeps allowed s0 (failUnreachable s tag p) := by
  simp only [Machine.failUnreachable]
  repeat' first
    | with_reducible assumption | ((with_reducible apply Component.sub hl); decide)
    | (with_reducible first | apply Keeps.fail | apply Keeps.noteUnreachable)

theorem Keeps.zeroBlocks {x1 : State} (dealloc : Bool) (x0 : Nat) (x2 : Region) (x3 : Nat) (x4 : Nat) (keep : Keeps allowed s0 x1) (hl : ∀ p ∈
    ([.packages, .regFtl] : List Component), p ∈ allowed) :
    Keeps allowed s0 (zeroBlocks dealloc x0 x1 x2 x3 x4) := by
  induction x0 generalizing dealloc x1 x2 x3 x4 with
  | zero =>
    simp only [Machine.zeroBlocks]
    repeat' first | (with_reducible first | assumption | apply Keeps.ite | apply Keeps.writeBlock | apply Keeps.deallocUnit) | intro _
  | succ _ ih =>
    simp only [Machine.zeroBlocks]
    repeat' first | (with_reducible first | apply ih | assumption | apply Keeps.ite | apply Keeps.writeBlock | apply Keeps.deallocUnit) | intro _

theorem Keeps.showThrottle {s : State} (keep : Keeps allowed s0 s) (hl : ∀ p ∈ ([.regFtl] : List Component), p ∈ allowed) :
    Keeps allowed s0 (showThrottle s) := by
  simp only [Machine.showThrottle]
  repeat' first
    | with_reducible assumption | ((with_reducible apply Component.sub hl); decide)
    | ((with_reducible apply Component.sub hl); simp (disch := decide); done)
    | (with_reducible first | apply Keeps.ite | apply Keeps.foldState | apply Keeps.setBit) | intro _ | split
    | (with_reducible refine Keeps.ofFst ?_ (by assumption))

theorem Keeps.doRead {s : State} (r : Region) (h : Held) (keep : Keeps allowed s0 s) (hl : ∀ p ∈ ([.host, .out] : List Component), p ∈ allowed) :
    Keeps allowed s0 (doRead s r h) := by
  simp only [Machine.doRead]
  repeat' first
    | with_reducible assumption | ((with_reducible apply Component.sub hl); decide)
    | (with_reducible first | apply Keeps.emit | apply Keeps.complete | apply Keeps.failAt) | split

theorem Keeps.doWrite {s : State} (r : Region) (h : Held) (keep : Keeps allowed s0 s) (hl : ∀ p ∈ ([.packages, .host, .out, .regFtl] : List
    Component), p ∈ allowed) :
    Keeps allowed s0 (doWrite s r h) := by
  simp only [Machine.doWrite]
  repeat' first
    | with_reducible assumption | ((with_reducible apply Component.sub hl); decide)
    | (with_reducible first | apply Keeps.ite | apply Keeps.foldState | apply Keeps.complete | apply Keeps.writeBlocks | apply Keeps.zeroBlocks)
    | intro _

theorem Keeps.doMemCopy {s : State} (r : Region) (h : Held) (keep : Keeps allowed s0 s) (hl : ∀ p ∈ ([.retire, .log, .dram, .mover, .host, .faults,
    .out, .regGlb, .regTier] : List Component), p ∈ allowed) :
    Keeps allowed s0 (doMemCopy s r h) := by
  simp only [Machine.doMemCopy]
  repeat' first
    | with_reducible assumption | ((with_reducible apply Component.sub hl); decide)
    | (with_reducible first | apply Keeps.ite | apply Keeps.complete | apply Keeps.failAt | apply Keeps.fail | apply Keeps.reachUe)
    | (with_reducible first | apply Keeps.slmWrite | apply Keeps.completeStatus) | intro _ | split

theorem Keeps.nvmCommand {s : State} (h : Held) (keep : Keeps allowed s0 s) (hl : ∀ p ∈ ([.retire, .log, .packages, .dram, .mover, .host, .faults,
    .out, .regGlb, .regTier, .regFtl] : List Component), p ∈ allowed) :
    Keeps allowed s0 (nvmCommand s h) := by
  simp only [Machine.nvmCommand]
  repeat' first
    | with_reducible assumption | ((with_reducible apply Component.sub hl); decide)
    | (with_reducible first | apply Keeps.ite | apply Keeps.fail | apply Keeps.hold | apply Keeps.failUnreachable | apply Keeps.showThrottle)
    | (with_reducible first | apply Keeps.doRead | apply Keeps.doWrite | apply Keeps.doMemCopy) | intro _ | split

theorem Keeps.flushCommand {s : State} (h : Held) (keep : Keeps allowed s0 s) (hl : ∀ p ∈ ([.host, .out] : List Component), p ∈ allowed) :
    Keeps allowed s0 (flushCommand s h) := by
  simp only [Machine.flushCommand]
  repeat' first
    | with_reducible assumption | ((with_reducible apply Component.sub hl); decide)
    | (with_reducible first | apply Keeps.ite | apply Keeps.complete | apply Keeps.fail | apply Keeps.hold) | intro _

theorem Keeps.memReadCommand {s : State} (h : Held) (keep : Keeps allowed s0 s) (hl : ∀ p ∈ ([.retire, .log, .dram, .mover, .host, .faults, .out,
    .regGlb, .regTier] : List Component), p ∈ allowed) :
    Keeps allowed s0 (memReadCommand s h) := by
  simp only [Machine.memReadCommand]
  repeat' first
    | with_reducible assumption | ((with_reducible apply Component.sub hl); decide)
    | (with_reducible first | apply Keeps.ite | apply Keeps.emit | apply Keeps.complete | apply Keeps.fail | apply Keeps.readRange)
    | (with_reducible first | apply Keeps.reachUe | apply Keeps.hold) | intro _ | split

theorem Keeps.memWriteCommand {s : State} (h : Held) (keep : Keeps allowed s0 s) (hl : ∀ p ∈ ([.retire, .log, .dram, .mover, .host, .faults, .out,
    .regGlb, .regTier] : List Component), p ∈ allowed) :
    Keeps allowed s0 (memWriteCommand s h) := by
  simp only [Machine.memWriteCommand]
  repeat' first
    | with_reducible assumption | ((with_reducible apply Component.sub hl); decide)
    | (with_reducible first | apply Keeps.ite | apply Keeps.complete | apply Keeps.fail | apply Keeps.reachUe | apply Keeps.slmWrite)
    | (with_reducible first | apply Keeps.completeStatus | apply Keeps.hold) | intro _

theorem Keeps.formatCommand {s : State} (h : Held) (keep : Keeps allowed s0 s) (hl : ∀ p ∈ ([.packages, .host, .out, .regFtl] : List Component), p ∈
    allowed) :
    Keeps allowed s0 (formatCommand s h) := by
  simp only [Machine.formatCommand]
  repeat' first
    | with_reducible assumption | ((with_reducible apply Component.sub hl); decide)
    | (with_reducible first | apply Keeps.ite | apply Keeps.foldState | apply Keeps.complete | apply Keeps.fail | apply Keeps.unmapRegion)
    | with_reducible apply Keeps.hold | intro _

theorem Keeps.runHeld {s : State} (h : Held) (keep : Keeps allowed s0 s) (hl : ∀ p ∈ ([.retire, .log, .packages, .dram, .mover, .host, .faults,
    .out, .regGlb, .regTier, .regFtl] : List Component), p ∈ allowed) :
    Keeps allowed s0 (runHeld s h) := by
  simp only [Machine.runHeld]
  repeat' first
    | with_reducible assumption | ((with_reducible apply Component.sub hl); decide)
    | (with_reducible first | apply Keeps.ite | apply Keeps.nvmCommand | apply Keeps.flushCommand | apply Keeps.memReadCommand)
    | (with_reducible first | apply Keeps.memWriteCommand | apply Keeps.formatCommand) | intro _

theorem Keeps.resumeHeld {s : State}  (keep : Keeps allowed s0 s) (hl : ∀ p ∈ ([.retire, .log, .packages, .dram, .mover, .host, .faults, .out,
    .regGlb, .regTier, .regFtl] : List Component), p ∈ allowed) :
    Keeps allowed s0 (resumeHeld s) := by
  simp only [Machine.resumeHeld]
  repeat' first
    | with_reducible assumption | ((with_reducible apply Component.sub hl); decide)
    | (with_reducible first | apply Keeps.ite | apply Keeps.foldState | apply Keeps.showThrottle | apply Keeps.runHeld) | intro _
    | with_reducible refine Keeps.litHost ?_  (hl _ (by decide))

theorem Keeps.startNvm {s : State} (h : Held) (keep : Keeps allowed s0 s) (hl : ∀ p ∈ ([.retire, .log, .packages, .dram, .mover, .host, .faults,
    .out, .regGlb, .regTier, .regFtl] : List Component), p ∈ allowed) :
    Keeps allowed s0 (startNvm s h) := by
  simp only [Machine.startNvm]
  repeat' first | (with_reducible first | assumption | apply Keeps.ite | apply Keeps.runHeld | apply Keeps.resumeHeld) | intro _

theorem Keeps.readCmd {s : State} (tag : CmdTag) (nsid : Nat) (slba : Nat) (nlb : Nat) (keep : Keeps allowed s0 s) (hl : ∀ p ∈ ([.retire, .log,
    .packages, .dram, .mover, .host, .faults, .out, .regGlb, .regTier, .regFtl] : List Component), p ∈ allowed) :
    Keeps allowed s0 (readCmd s tag nsid slba nlb) := by
  simp only [Machine.readCmd]
  repeat' first
    | with_reducible assumption | ((with_reducible apply Component.sub hl); decide)
    | (with_reducible first | apply Keeps.ite | apply Keeps.fail | apply Keeps.startNvm) | intro _

theorem Keeps.writeCmd {s : State} (tag : CmdTag) (nsid : Nat) (slba : Nat) (data : List Byte) (keep : Keeps allowed s0 s) (hl : ∀ p ∈ ([.retire,
    .log, .packages, .dram, .mover, .host, .faults, .out, .regGlb, .regTier, .regFtl] : List Component), p ∈ allowed) :
    Keeps allowed s0 (writeCmd s tag nsid slba data) := by
  simp only [Machine.writeCmd]
  repeat' first
    | with_reducible assumption | ((with_reducible apply Component.sub hl); decide)
    | (with_reducible first | apply Keeps.ite | apply Keeps.fail | apply Keeps.startNvm) | intro _

theorem Keeps.zeroesCmd {s : State} (tag : CmdTag) (nsid : Nat) (slba : Nat) (nlb : Nat) (dealloc : Bool) (keep : Keeps allowed s0 s) (hl : ∀ p ∈
    ([.retire, .log, .packages, .dram, .mover, .host, .faults, .out, .regGlb, .regTier, .regFtl] : List Component), p ∈ allowed) :
    Keeps allowed s0 (zeroesCmd s tag nsid slba nlb dealloc) := by
  simp only [Machine.zeroesCmd]
  repeat' first
    | with_reducible assumption | ((with_reducible apply Component.sub hl); decide)
    | (with_reducible first | apply Keeps.ite | apply Keeps.fail | apply Keeps.startNvm) | intro _

theorem Keeps.dsmCmd {s : State} (tag : CmdTag) (nsid : Nat) (ranges : List (Nat × Nat)) (keep : Keeps allowed s0 s) (hl : ∀ p ∈ ([.retire, .log,
    .packages, .dram, .mover, .host, .faults, .out, .regGlb, .regTier, .regFtl] : List Component), p ∈ allowed) :
    Keeps allowed s0 (dsmCmd s tag nsid ranges) := by
  simp only [Machine.dsmCmd]
  repeat' first
    | with_reducible assumption | ((with_reducible apply Component.sub hl); decide)
    | (with_reducible first | apply Keeps.ite | apply Keeps.fail | apply Keeps.startNvm) | intro _

theorem Keeps.memReadCmd {s : State} (tag : CmdTag) (addr : Nat) (len : Nat) (keep : Keeps allowed s0 s) (hl : ∀ p ∈ ([.retire, .log, .dram, .mover,
    .host, .faults, .out, .regGlb, .regTier] : List Component), p ∈ allowed) :
    Keeps allowed s0 (memReadCmd s tag addr len) := by
  unfold Machine.memReadCmd
  repeat' first
    | with_reducible assumption | ((with_reducible apply Component.sub hl); decide)
    | (with_reducible first | apply Keeps.ite | apply Keeps.fail | apply Keeps.memReadCommand) | intro _

theorem Keeps.memWriteCmd {s : State} (tag : CmdTag) (addr : Nat) (data : List Byte) (keep : Keeps allowed s0 s) (hl : ∀ p ∈ ([.retire, .log, .dram,
    .mover, .host, .faults, .out, .regGlb, .regTier] : List Component), p ∈ allowed) :
    Keeps allowed s0 (memWriteCmd s tag addr data) := by
  unfold Machine.memWriteCmd
  repeat' first
    | with_reducible assumption | ((with_reducible apply Component.sub hl); decide)
    | (with_reducible first | apply Keeps.ite | apply Keeps.fail | apply Keeps.memWriteCommand) | intro _

theorem Keeps.memCopyCmd {s : State} (tag : CmdTag) (nsid : Nat) (ranges : List (Nat × Nat)) (dst : Nat) (keep : Keeps allowed s0 s) (hl : ∀ p ∈
    ([.retire, .log, .packages, .dram, .mover, .host, .faults, .out, .regGlb, .regTier, .regFtl] : List Component), p ∈ allowed) :
    Keeps allowed s0 (memCopyCmd s tag nsid ranges dst) := by
  simp only [Machine.memCopyCmd]
  repeat' first
    | with_reducible assumption | ((with_reducible apply Component.sub hl); decide)
    | (with_reducible first | apply Keeps.ite | apply Keeps.fail | apply Keeps.nvmCommand) | intro _

end Sys2Proof.Machine
end

