-- ==== Sys2Proof/Laws/KeepsVectors.lean ====
section
/-! SUPPORT. What every operation of Machine/Vectors.lean keeps: the queue, what lasts, the canonical forms, and every part of the state that
is not in its list. -/
set_option Elab.async false
set_option linter.all false
namespace Sys2Proof.Machine

variable {allowed : List Component} {s0 : State}

theorem Keeps.freeSlabUnits {s : State} (r : Region) (slab : Nat) (keep : Keeps allowed s0 s) (hl : ∀ p ∈ ([.packages, .regFtl] : List Component),
    p ∈ allowed) :
    Keeps allowed s0 (freeSlabUnits s r slab) := by
  simp only [Machine.freeSlabUnits]
  repeat' first
    | with_reducible assumption | ((with_reducible apply Component.sub hl); decide)
    | ((with_reducible apply Component.sub hl); simp (disch := decide); done)
    | (with_reducible first | apply Keeps.ite | apply Keeps.foldState | apply Keeps.deallocUnit) | intro _ | split
    | (with_reducible refine Keeps.ofFst ?_ (by assumption))

theorem Keeps.writeTombs {s : State} (r : Region) (p : Nat) (lo : Nat) (hi : Nat) (keep : Keeps allowed s0 s) (hl : ∀ p ∈ ([.packages, .regFtl] :
    List Component), p ∈ allowed) :
    Keeps allowed s0 (writeTombs s r p lo hi) := by
  simp only [Machine.writeTombs]
  repeat' first
    | with_reducible assumption | ((with_reducible apply Component.sub hl); decide)
    | ((with_reducible apply Component.sub hl); simp (disch := decide); done)
    | (with_reducible first | apply Keeps.ite | apply Keeps.foldState | apply Keeps.writeRegion) | intro _ | split
    | (with_reducible refine Keeps.ofFst ?_ (by assumption))

theorem Keeps.addTombs {s : State} (r : Region) (new : List Tomb) (keep : Keeps allowed s0 s) (hl : ∀ p ∈ ([.packages, .corpus, .regFtl] : List
    Component), p ∈ allowed) :
    Keeps allowed s0 (addTombs s r new) := by
  simp only [Machine.addTombs]
  repeat' first
    | with_reducible assumption | ((with_reducible apply Component.sub hl); decide)
    | ((with_reducible apply Component.sub hl); simp (disch := decide); done)
    | (with_reducible first | apply Keeps.ite | apply Keeps.foldState | apply Keeps.writeTombs) | intro _ | split
    | (with_reducible refine Keeps.ofFst ?_ (by assumption)) | (with_reducible first | refine Keeps.litCorpus ?_ ?_ (hl _ (by decide)) )
    | exact Nat.le_refl _

theorem Keeps.dropTombs {s : State} (r : Region) (gone : Tomb → Bool) (keep : Keeps allowed s0 s) (hl : ∀ p ∈ ([.packages, .corpus, .regFtl] :
    List Component), p ∈ allowed) :
    Keeps allowed s0 (dropTombs s r gone) := by
  simp only [Machine.dropTombs]
  repeat' first
    | with_reducible assumption | ((with_reducible apply Component.sub hl); decide)
    | ((with_reducible apply Component.sub hl); simp (disch := decide); done)
    | (with_reducible first | apply Keeps.ite | apply Keeps.foldState | apply Keeps.writeTombs) | intro _ | split
    | (with_reducible refine Keeps.ofFst ?_ (by assumption)) | (with_reducible first | refine Keeps.litCorpus ?_ ?_ (hl _ (by decide)) )
    | exact Nat.le_refl _

theorem Keeps.setIndex {s : State} (x : Index) (keep : Keeps allowed s0 s) (hl : ∀ p ∈ ([.corpus] : List Component), p ∈ allowed) :
    Keeps allowed s0 (setIndex s x) := by
  simp only [Machine.setIndex]
  repeat' first
    | with_reducible assumption
    | (with_reducible refine Keeps.litCorpus ?_ ?_ (hl _ (by decide)))
    | exact Nat.le_refl _

theorem Keeps.writePieces {s : State} (r : Region) (ps : List (Nat × List Byte)) (keep : Keeps allowed s0 s) (hl : ∀ p ∈ ([.packages, .regFtl] :
    List Component), p ∈ allowed) :
    Keeps allowed s0 (writePieces s r ps) := by
  simp only [Machine.writePieces]
  repeat' first
    | with_reducible assumption | ((with_reducible apply Component.sub hl); decide)
    | ((with_reducible apply Component.sub hl); simp (disch := decide); done)
    | (with_reducible first | apply Keeps.ite | apply Keeps.foldState | apply Keeps.writeRegion) | intro _ | split
    | (with_reducible refine Keeps.ofFst ?_ (by assumption))

theorem Keeps.enterAll {x0 : State} (r : Region) (x1 : Nat) (x2 : List (List (Nat × List Byte))) (keep : Keeps allowed s0 x0) (hl : ∀ p ∈
    ([.packages, .regFtl] : List Component), p ∈ allowed) :
    Keeps allowed s0 (enterAll r x0 x1 x2).1 := by
  induction x2 generalizing x0 x1 with
  | nil =>
    simp only [Machine.enterAll]
    repeat' first
      | with_reducible assumption | ((with_reducible apply Component.sub hl); decide)
      | ((with_reducible apply Component.sub hl); simp (disch := decide); done)
      | (with_reducible first | apply Keeps.iteFst | apply Keeps.ite | apply Keeps.writePieces) | intro _ | split
      | (with_reducible refine Keeps.ofFst ?_ (by assumption))
  | cons _ _ ih =>
    simp only [Machine.enterAll]
    repeat' first
      | with_reducible apply ih | with_reducible assumption | ((with_reducible apply Component.sub hl); decide)
      | ((with_reducible apply Component.sub hl); simp (disch := decide); done)
      | (with_reducible first | apply Keeps.iteFst | apply Keeps.ite | apply Keeps.writePieces) | intro _ | split
      | (with_reducible refine Keeps.ofFst ?_ (by assumption))

theorem Keeps.showEpoch {s : State}  (keep : Keeps allowed s0 s) (hl : ∀ p ∈ ([.regScn] : List Component), p ∈ allowed) :
    Keeps allowed s0 (showEpoch s) := by
  simp only [Machine.showEpoch]
  repeat' first
    | with_reducible assumption | ((with_reducible apply Component.sub hl); simp (disch := decide); done)
    | (with_reducible first | apply Keeps.set64 | apply Keeps.foldState) | intro _

theorem Keeps.takeEpoch {s : State}  (keep : Keeps allowed s0 s) (hl : ∀ p ∈ ([.corpus] : List Component), p ∈ allowed) :
    Keeps allowed s0 (takeEpoch s).1 := by
  simp only [Machine.takeEpoch]
  repeat' first
    | with_reducible assumption
    | (with_reducible refine Keeps.litCorpus ?_ ?_ (hl _ (by decide)))
    | exact Nat.le_succ _

theorem Keeps.settleEpoch {s : State} (e : Nat) (keep : Keeps allowed s0 s) (hl : ∀ p ∈ ([.corpus, .regScn] : List Component), p ∈ allowed) :
    Keeps allowed s0 (settleEpoch s e) := by
  simp only [Machine.settleEpoch]
  repeat' first
    | with_reducible assumption | ((with_reducible apply Component.sub hl); decide) | with_reducible apply Keeps.showEpoch
    | (with_reducible refine Keeps.litCorpus ?_ ?_ (hl _ (by decide)))
    | exact Nat.le_refl _

theorem Keeps.resumeEpochs {s : State} (keep : Keeps allowed s0 s) (hl : ∀ p ∈ ([.corpus] : List Component), p ∈ allowed) :
    Keeps allowed s0 (resumeEpochs s) := by
  simp only [Machine.resumeEpochs]
  repeat' first
    | with_reducible assumption | ((with_reducible apply Component.sub hl); decide)
    | ((with_reducible apply Component.sub hl); simp (disch := decide); done)
    | (with_reducible first | apply Keeps.ite | apply Keeps.foldlFst | apply Keeps.foldl) | intro _ | split
    | (with_reducible refine Keeps.ofFst ?_ (by assumption)) | (with_reducible first | refine Keeps.litCorpus ?_ ?_ (hl _ (by decide)) )
    | exact Nat.le_refl _

theorem Keeps.showTombs {s : State}  (keep : Keeps allowed s0 s) (hl : ∀ p ∈ ([.regScn] : List Component), p ∈ allowed) :
    Keeps allowed s0 (showTombs s) := by
  simp only [Machine.showTombs]
  repeat' first
    | with_reducible assumption | ((with_reducible apply Component.sub hl); simp (disch := decide); done)
    | (with_reducible first | apply Keeps.setNat | apply Keeps.foldState) | intro _

end Sys2Proof.Machine
end

