-- ==== Sys2Proof/Laws/KeepsTranslation.lean ====
section
/-! SUPPORT. What every operation of Machine/Translation.lean keeps: the queue, what lasts, the canonical forms, and every part of the state that
is not in its list. -/
set_option Elab.async false
set_option linter.all false
namespace Sys2Proof.Machine

variable {allowed : List Component} {s0 : State}

theorem Wseq.startErase {w0 : Nat} {x : Package} (ks : List Nat) (le : w0 ≤ x.wseq) : w0 ≤ (startErase x ks).wseq := by
  simp only [Machine.startErase]
  repeat' first
    | (with_reducible first | assumption | apply Wseq.setBlk | apply Wseq.foldl) | intro _ | exact Nat.le_refl _ | split | dsimp only | omega

theorem Wseq.replayPage {w0 : Nat} {x : Package} (j : JPage) (le : w0 ≤ x.wseq) : w0 ≤ (replayPage x j).wseq := by
  simp only [Machine.replayPage]
  repeat' first
    | (with_reducible first | assumption | apply Wseq.touchCast | apply Wseq.foldl) | intro _ | exact Nat.le_refl _ | split | dsimp only | omega

theorem Keeps.showFlushing {s : State} (p : Nat) (keep : Keeps allowed s0 s) (hl : ∀ p ∈ ([.regFtl] : List Component), p ∈ allowed) :
    Keeps allowed s0 (showFlushing s p) := by
  simp only [Machine.showFlushing]
  repeat' first
    | with_reducible assumption | ((with_reducible apply Component.sub hl); simp (disch := decide); done) | with_reducible apply Keeps.setBit

theorem Keeps.programOk {s : State} (p : Nat) (u : Nat) (e : Nat) (keep : Keeps allowed s0 s) (hl : ∀ p ∈ ([.packages] : List Component), p ∈
    allowed) :
    Keeps allowed s0 (programOk s p u e) := by
  simp only [Machine.programOk]
  repeat' first
    | (with_reducible first | assumption | apply Keeps.ite | apply Keeps.setPkg | apply Keeps.gather | apply Keeps.programUnit)
    | with_reducible exact Nat.le_refl _ | intro _ | split

theorem Keeps.programFailed {s : State} (p : Nat) (u : Nat) (e : Nat) (keep : Keeps allowed s0 s) (hl : ∀ p ∈ ([.packages, .host, .out, .regHst,
    .regMed] : List Component), p ∈ allowed) :
    Keeps allowed s0 (programFailed s p u e) := by
  simp only [Machine.programFailed]
  repeat' first
    | with_reducible assumption | ((with_reducible apply Component.sub hl); decide)
    | (with_reducible first | apply Keeps.setPkg | apply Keeps.openBlk | apply Keeps.retireBlk | exact Nat.le_refl _ | apply Wseq.setBlk)

theorem Keeps.nandProgramEff {s : State} (p : Nat) (u : Nat) (e : Nat) (good : Bool) (keep : Keeps allowed s0 s) (hl : ∀ p ∈ ([.packages, .host,
    .out, .regHst, .regMed] : List Component), p ∈ allowed) :
    Keeps allowed s0 (nandProgramEff s p u e good) := by
  simp only [Machine.nandProgramEff]
  repeat' first
    | with_reducible assumption | ((with_reducible apply Component.sub hl); decide)
    | (with_reducible first | apply Keeps.ite | apply Keeps.releaseAll | apply Keeps.programOk | apply Keeps.programFailed) | intro _

theorem Keeps.writeCast {s : State} (p : Nat) (k : Nat) (keep : Keeps allowed s0 s) (hl : ∀ p ∈ ([.packages] : List Component), p ∈ allowed) :
    Keeps allowed s0 (writeCast s p k) := by
  simp only [Machine.writeCast]
  repeat' first
    | (with_reducible first | assumption | apply Keeps.draw | apply Keeps.setPkg) | ((with_reducible show (_ : Nat) ≤ _) <;> dsimp only) | omega

theorem Keeps.castWriteEff {s : State} (p : Nat) (keep : Keeps allowed s0 s) (hl : ∀ p ∈ ([.packages, .regFtl] : List Component), p ∈ allowed) :
    Keeps allowed s0 (castWriteEff s p) := by
  simp only [Machine.castWriteEff]
  repeat' first
    | with_reducible assumption | ((with_reducible apply Component.sub hl); decide)
    | ((with_reducible apply Component.sub hl); simp (disch := decide); done)
    | (with_reducible first | apply Keeps.ite | apply Keeps.setNat | apply Keeps.writeCast) | intro _ | split

theorem Keeps.castAll {s : State} (p : Nat) (keep : Keeps allowed s0 s) (hl : ∀ p ∈ ([.packages] : List Component), p ∈ allowed) :
    Keeps allowed s0 (castAll s p) := by
  simp only [Machine.castAll]
  repeat' first | (with_reducible first | assumption | apply Keeps.foldState | apply Keeps.writeCast) | intro _

theorem Keeps.closeStep {s : State} (p : Nat) (keep : Keeps allowed s0 s) (hl : ∀ p ∈ ([.packages] : List Component), p ∈ allowed) :
    Keeps allowed s0 (closeStep s p) := by
  simp only [Machine.closeStep]
  repeat' first | (with_reducible first | assumption | apply Keeps.ite | apply Keeps.gather | apply Keeps.castAll) | intro _

theorem Keeps.beginClose {s : State} (p : Nat) (keep : Keeps allowed s0 s) (hl : ∀ p ∈ ([.packages, .regFtl] : List Component), p ∈ allowed) :
    Keeps allowed s0 (beginClose s p) := by
  simp only [Machine.beginClose]
  repeat' first
    | with_reducible assumption | ((with_reducible apply Component.sub hl); decide)
    | (with_reducible first | apply Keeps.ite | apply Keeps.setPkg | apply Keeps.showFlushing | apply Keeps.closeStep | exact Nat.le_refl _)
    | intro _

theorem Keeps.endClose {s : State} (p : Nat) (keep : Keeps allowed s0 s) (hl : ∀ p ∈ ([.log, .life, .packages, .power, .host, .faults, .regGlb,
    .regFtl] : List Component), p ∈ allowed) :
    Keeps allowed s0 (endClose s p) := by
  simp only [Machine.endClose]
  repeat' first
    | with_reducible assumption | ((with_reducible apply Component.sub hl); decide)
    | ((with_reducible apply Component.sub hl); simp (disch := decide); done)
    | (with_reducible first | apply Keeps.ite | apply Keeps.setPkg | apply Keeps.setBit | apply Keeps.saveFaultTimes) | intro _ | split
    | (with_reducible refine Keeps.ofFst ?_ (by assumption))
    | (with_reducible first | refine Keeps.litPower ?_ (hl _ (by decide)) | refine Keeps.litHost ?_ (hl _ (by decide)) | refine Keeps.lit ?_ (hpower := .inl (hl _ (by decide))) (hhost := .inl (hl _ (by decide))))
    | exact Nat.le_refl _

theorem Keeps.journalCommitEff {s : State} (p : Nat) (verified : Bool) (keep : Keeps allowed s0 s) (hl : ∀ p ∈ ([.retire, .log, .life, .packages, .power, .dram, .mover, .host, .faults, .out, .regGlb, .regTier, .regFtl] : List Component), p ∈ allowed) :
    Keeps allowed s0 (journalCommitEff s p verified) := by
  simp only [Machine.journalCommitEff]
  repeat' first
    | with_reducible assumption | ((with_reducible apply Component.sub hl); decide)
    | (with_reducible first | apply Keeps.ite | apply Keeps.releaseAll | apply Keeps.commitPage | apply Keeps.resumeHeld)
    | (with_reducible first | apply Keeps.showFlushing | apply Keeps.closeStep | apply Keeps.endClose) | intro _

theorem Keeps.shutdownEff {s : State} (p : Nat) (keep : Keeps allowed s0 s) (hl : ∀ p ∈ ([.log, .life, .packages, .host, .faults, .regGlb,
    .regFtl] : List Component), p ∈ allowed) :
    Keeps allowed s0 (shutdownEff s p) := by
  simp only [Machine.shutdownEff]
  repeat' first
    | with_reducible assumption | ((with_reducible apply Component.sub hl); decide)
    | ((with_reducible apply Component.sub hl); simp (disch := decide); done)
    | (with_reducible first | apply Keeps.ite | apply Keeps.beginClose | apply Keeps.saveFaultTimes) | intro _ | split
    | (with_reducible refine Keeps.ofFst ?_ (by assumption)) | (with_reducible first | refine Keeps.litHost ?_ (hl _ (by decide)))

theorem Keeps.writeFtlCtrl {s : State} (p : Nat) (v : Nat) (keep : Keeps allowed s0 s) (hl : ∀ p ∈ ([.packages, .regGlb, .regFtl] : List Component),
    p ∈ allowed) :
    Keeps allowed s0 (writeFtlCtrl s p v) := by
  simp only [Machine.writeFtlCtrl]
  repeat' first
    | with_reducible assumption | ((with_reducible apply Component.sub hl); decide)
    | ((with_reducible apply Component.sub hl); simp (disch := decide); done)
    | (with_reducible first | apply Keeps.ite | apply Keeps.setNat | apply Keeps.accErr | apply Keeps.setPkg | apply Keeps.rewatermark)
    | (with_reducible first | apply Keeps.showFlushing | apply Keeps.castAll | exact Nat.le_refl _) | intro _

theorem Keeps.writeCastCycle {s : State} (p : Nat) (v : Nat) (keep : Keeps allowed s0 s) (hl : ∀ p ∈ ([.regGlb, .regFtl] : List Component), p ∈
    allowed) :
    Keeps allowed s0 (writeCastCycle s p v) := by
  simp only [Machine.writeCastCycle]
  repeat' first
    | with_reducible assumption | ((with_reducible apply Component.sub hl); decide)
    | ((with_reducible apply Component.sub hl); simp (disch := decide); done)
    | (with_reducible first | apply Keeps.ite | apply Keeps.setNat | apply Keeps.accErr) | intro _

theorem Keeps.copyUnit {s : State} (p : Nat) (refresh : Bool) (m : (Nat × Nat) × Nat) (keep : Keeps allowed s0 s) (hl : ∀ p ∈ ([.packages, .regMed]
    : List Component), p ∈ allowed) :
    Keeps allowed s0 (copyUnit p refresh s m) := by
  simp only [Machine.copyUnit]
  repeat' first
    | with_reducible assumption | ((with_reducible apply Component.sub hl); decide)
    | ((with_reducible apply Component.sub hl); simp (disch := decide); done)
    | (with_reducible first | apply Keeps.ite | apply Keeps.bump | apply Keeps.gather | apply Keeps.programUnit | apply Keeps.readBlk) | intro _
    | split

theorem Keeps.gcBatchEff {s : State} (p : Nat) (key : Nat) (places : List Nat) (keep : Keeps allowed s0 s) (hl : ∀ p ∈ ([.packages, .regFtl,
    .regMed] : List Component), p ∈ allowed) :
    Keeps allowed s0 (gcBatchEff s p key places) := by
  simp only [Machine.gcBatchEff]
  repeat' first
    | with_reducible assumption | ((with_reducible apply Component.sub hl); decide)
    | ((with_reducible apply Component.sub hl); simp (disch := decide); done)
    | (with_reducible first | apply Keeps.ite | apply Keeps.setPkg | apply Keeps.foldState | apply Keeps.copyUnit | apply Keeps.add64)
    | (with_reducible first | apply Keeps.releaseAll) | intro _ | split | (with_reducible refine Keeps.ofFst ?_ (by assumption))
    | exact Nat.le_refl _ | apply Wseq.setBlk

theorem Keeps.blockEraseEff {s : State} (p : Nat) (group : Nat) (keep : Keeps allowed s0 s) (hl : ∀ p ∈ ([.packages] : List Component), p ∈ allowed)
    :
    Keeps allowed s0 (blockEraseEff s p group) := by
  simp only [Machine.blockEraseEff]
  repeat' first
    | (with_reducible first | assumption | apply Keeps.ite | apply Keeps.setPkg | exact Nat.le_refl _ | apply Wseq.startErase) | intro _ | split

theorem Keeps.levelWear {s : State} (p : Nat) (half : Nat) (egrp : Nat) (top : Nat) (slc : Bool) (keep : Keeps allowed s0 s) (hl : ∀ p ∈
    ([.packages, .regMed] : List Component), p ∈ allowed) :
    Keeps allowed s0 (levelWear s p half egrp top slc) := by
  simp only [Machine.levelWear]
  repeat' first
    | with_reducible assumption | ((with_reducible apply Component.sub hl); decide)
    | ((with_reducible apply Component.sub hl); simp (disch := decide); done)
    | (with_reducible first | apply Keeps.ite | apply Keeps.bump | apply Keeps.setPkg | exact Nat.le_refl _ | apply Wseq.foldl)
    | with_reducible apply Wseq.setBlk | intro _ | split

theorem Keeps.erasedBlk {s : State} (p : Nat) (key : Nat) (keep : Keeps allowed s0 s) (hl : ∀ p ∈ ([.packages, .host, .out, .regHst, .regMed] : List
    Component), p ∈ allowed) :
    Keeps allowed s0 (erasedBlk s p key) := by
  simp only [Machine.erasedBlk]
  repeat' first
    | with_reducible assumption | ((with_reducible apply Component.sub hl); decide)
    | (with_reducible first | apply Keeps.setPkg | apply Keeps.testStages | apply Keeps.levelWear | exact Nat.le_refl _ | apply Wseq.setBlk)

theorem Keeps.eraseDoneEff {s : State} (p : Nat) (key : Nat) (good : Bool) (keep : Keeps allowed s0 s) (hl : ∀ p ∈ ([.packages, .host, .out,
    .regHst, .regMed] : List Component), p ∈ allowed) :
    Keeps allowed s0 (eraseDoneEff s p key good) := by
  simp only [Machine.eraseDoneEff]
  repeat' first | (with_reducible first | assumption | apply Keeps.ite | apply Keeps.retireBlk | apply Keeps.erasedBlk) | intro _

theorem Keeps.eraseSuspendEff {s : State} (p : Nat) (key : Nat) (keep : Keeps allowed s0 s) (hl : ∀ p ∈ ([.packages, .regMed] : List Component), p ∈
    allowed) :
    Keeps allowed s0 (eraseSuspendEff s p key) := by
  simp only [Machine.eraseSuspendEff]
  repeat' first
    | with_reducible assumption | ((with_reducible apply Component.sub hl); decide)
    | ((with_reducible apply Component.sub hl); simp (disch := decide); done)
    | (with_reducible first | apply Keeps.ite | apply Keeps.bump | apply Keeps.setPkg | exact Nat.le_refl _ | apply Wseq.setBlk) | intro _

theorem Keeps.atRecovery {s : State} (p : Nat) (n : Nat) (keep : Keeps allowed s0 s) (hl : ∀ p ∈ ([.packages] : List Component), p ∈ allowed) :
    Keeps allowed s0 (atRecovery s p n) := by
  simp only [Machine.atRecovery]
  repeat' (with_reducible first | assumption | apply Keeps.setPkg | exact Nat.le_refl _)

theorem Keeps.showInit {s : State}  (keep : Keeps allowed s0 s) (hl : ∀ p ∈ ([.regTier] : List Component), p ∈ allowed) :
    Keeps allowed s0 (showInit s) := by
  simp only [Machine.showInit]
  repeat' first | with_reducible assumption | ((with_reducible apply Component.sub hl); decide) | with_reducible apply Keeps.setBit

theorem Keeps.headsEff {s : State} (p : Nat) (keep : Keeps allowed s0 s) (hl : ∀ p ∈ ([.packages, .dram, .search, .regTier, .regFtl] : List
    Component), p ∈ allowed) :
    Keeps allowed s0 (headsEff s p) := by
  simp only [Machine.headsEff]
  repeat' first
    | with_reducible assumption | ((with_reducible apply Component.sub hl); decide)
    | ((with_reducible apply Component.sub hl); simp (disch := decide); done)
    | (with_reducible first | apply Keeps.ite | apply Keeps.setPkg | apply Keeps.initLines | apply Keeps.showInit | apply Keeps.setBit) | intro _
    | split | (with_reducible refine Keeps.ofFst ?_ (by assumption))
    | (with_reducible first | refine Keeps.litSearch ?_ (hl _ (by decide)) | refine Keeps.litMem ?_ ?_ ?_ (hdram := .inl (hl _ (by decide))) (hsearch := .inl (hl _ (by decide))))
    | ((with_reducible apply DramKeeps.mk) <;> (try dsimp only) <;> first | exact fun x => x | exact fun _ => rfl | exact Memory.wf_setBytes _ _ _ | exact Sparse.wf_set (0 : Byte) _ _ _ | exact Sparse.wf_set (0 : Nat) _ _ _ | exact Sparse.wf_filter (0 : Byte) _ _)
    | exact fun x => x | exact Memory.wf_setBytes _ _ _ | exact Nat.le_refl _ | with_reducible exact Nat.le_refl _

theorem Keeps.restoreReads {s : State} (p : Nat) (b : Nat × Blk) (keep : Keeps allowed s0 s) (hl : ∀ p ∈ ([.packages, .regMed] : List Component), p
    ∈ allowed) :
    Keeps allowed s0 (restoreReads p s b) := by
  simp only [Machine.restoreReads]
  repeat' first
    | with_reducible assumption | ((with_reducible apply Component.sub hl); decide)
    | ((with_reducible apply Component.sub hl); simp (disch := decide); done)
    | (with_reducible first | apply Keeps.ite | apply Keeps.bump | apply Keeps.setPkg | exact Nat.le_refl _ | apply Wseq.setBlk) | intro _

theorem Keeps.castsEff {s : State} (p : Nat) (keep : Keeps allowed s0 s) (hl : ∀ p ∈ ([.packages, .regMed] : List Component), p ∈ allowed) :
    Keeps allowed s0 (castsEff s p) := by
  simp only [Machine.castsEff]
  repeat' first
    | with_reducible assumption | ((with_reducible apply Component.sub hl); decide)
    | (with_reducible first | apply Keeps.ite | apply Keeps.foldState | apply Keeps.setPkg | apply Keeps.restoreReads | exact Nat.le_refl _)
    | intro _

theorem Keeps.replayEff {s : State} (p : Nat) (keep : Keeps allowed s0 s) (hl : ∀ p ∈ ([.packages, .corpus, .regFtl] : List Component), p ∈
    allowed) :
    Keeps allowed s0 (replayEff s p) := by
  simp only [Machine.replayEff]
  repeat' first
    | with_reducible assumption | ((with_reducible apply Component.sub hl); decide)
    | ((with_reducible apply Component.sub hl); simp (disch := decide); done)
    | (with_reducible first | apply Keeps.ite | apply Keeps.foldlFst | apply Keeps.foldl | apply Keeps.resumeEpochs | apply Keeps.showJournal)
    | (with_reducible first | apply Keeps.setPkg) | intro _ | split | (with_reducible refine Keeps.ofFst ?_ (by assumption)) | exact Nat.le_refl _
    | apply Wseq.replayPage | apply Wseq.foldl

theorem Keeps.reconcileEff {s : State} (p : Nat) (keep : Keeps allowed s0 s) (hl : ∀ p ∈ ([.packages, .regFtl] : List Component), p ∈ allowed) :
    Keeps allowed s0 (reconcileEff s p) := by
  simp only [Machine.reconcileEff]
  repeat' first
    | with_reducible assumption | ((with_reducible apply Component.sub hl); decide)
    | ((with_reducible apply Component.sub hl); simp (disch := decide); done)
    | (with_reducible first | apply Keeps.ite | apply Keeps.bumpBy | apply Keeps.setPkg | exact Wseq.bumpBy_le _ _ _ _ | apply Wseq.foldl)
    | with_reducible apply Wseq.setEntry | intro _

theorem Keeps.countsEff {s : State} (p : Nat) (keep : Keeps allowed s0 s) (hl : ∀ p ∈ ([.packages, .regFtl] : List Component), p ∈ allowed) :
    Keeps allowed s0 (countsEff s p) := by
  simp only [Machine.countsEff]
  repeat' first
    | with_reducible assumption | ((with_reducible apply Component.sub hl); decide)
    | ((with_reducible apply Component.sub hl); simp (disch := decide); done)
    | (with_reducible first | apply Keeps.ite | apply Keeps.bumpBy | apply Keeps.releaseAll | apply Keeps.atRecovery) | intro _

theorem Keeps.showStart {s : State}  (keep : Keeps allowed s0 s) (hl : ∀ p ∈ ([.regGlb] : List Component), p ∈ allowed) :
    Keeps allowed s0 (showStart s) := by
  simp only [Machine.showStart]
  repeat' first
    | with_reducible assumption | ((with_reducible apply Component.sub hl); decide) | (with_reducible first | apply Keeps.ite | apply Keeps.setNat)
    | intro _

theorem Keeps.showRdy {s : State}  (keep : Keeps allowed s0 s) (hl : ∀ p ∈ ([.host] : List Component), p ∈ allowed) :
    Keeps allowed s0 (showRdy s) := by
  simp only [Machine.showRdy]
  repeat' (with_reducible first | assumption | refine Keeps.litHost ?_  (hl _ (by decide)))

theorem Keeps.readyEff {s : State} (p : Nat) (ms : Nat) (keep : Keeps allowed s0 s) (hl : ∀ p ∈ ([.retire, .log, .packages, .dram, .mover, .host,
    .faults, .out, .regGlb, .regTier, .regScn, .regFtl] : List Component), p ∈ allowed) :
    Keeps allowed s0 (readyEff s p ms) := by
  simp only [Machine.readyEff]
  repeat' first
    | with_reducible assumption | ((with_reducible apply Component.sub hl); decide)
    | ((with_reducible apply Component.sub hl); simp (disch := decide); done)
    | (with_reducible first | apply Keeps.ite | apply Keeps.setPkg | apply Keeps.addLedger | apply Keeps.draw | apply Keeps.interrupting)
    | (with_reducible first | apply Keeps.setNat | apply Keeps.setBit | apply Keeps.resumeHeld | apply Keeps.showRdy | apply Keeps.showStart)
    | (with_reducible first | apply Keeps.showEpoch | apply Keeps.showTombs | apply Keeps.rewatermark | apply Keeps.showJournal) | intro _ | split
    | (with_reducible refine Keeps.ofFst ?_ (by assumption)) | exact Nat.le_refl _ | apply Wseq.draw_le

theorem Wseq.scanEntry {w0 : Nat} {x : Package} (u : Nat) (le : w0 ≤ x.wseq) : w0 ≤ (scanEntry x u).wseq := by
  simp only [Machine.scanEntry]
  exact Wseq.setEntry u _ le

theorem Keeps.mapLineEff {s : State} (p : Nat) (line : Nat) (castReadable : Bool) (keep : Keeps allowed s0 s) (hl : ∀ p ∈ ([.log, .packages,
    .host, .out, .regGlb, .regFtl] : List Component), p ∈ allowed) :
    Keeps allowed s0 (mapLineEff s p line castReadable) := by
  simp only [Machine.mapLineEff]
  refine Keeps.ite (fun _ => ?_) (fun _ => keep)
  have kept : Keeps allowed s0 (Machine.bump s (ftlReg p 0x44)) := by
    repeat' first
      | with_reducible assumption | ((with_reducible apply Component.sub hl); decide)
      | ((with_reducible apply Component.sub hl); simp (disch := decide); done) | with_reducible apply Keeps.bump
  refine Keeps.ite (fun _ => kept) (fun _ => ?_)
  have mapped := Keeps.setPkg p _ kept (fun q h => hl q (by revert q; decide))
    (Wseq.foldl (Machine.scanned (Machine.bump s (ftlReg p 0x44)) p line) (Nat.le_refl _) (fun _ u le => Wseq.scanEntry u le))
  have listed := Keeps.addLedger (scanLost (Machine.bump s (ftlReg p 0x44)) p line) 1 mapped (fun q h => hl q (by revert q; decide))
  exact Keeps.ite (fun _ => listed) (fun _ => Keeps.interrupting 3 allBits (Keeps.draw listed) (fun q h => hl q (by revert q; decide)))

end Sys2Proof.Machine
end

