-- ==== Sys2Proof/Laws/KeepsMedia.lean ====
section
/-! SUPPORT. What every operation of Machine/Media.lean keeps: the queue, what lasts, the canonical forms, and every part of the state that
is not in its list. -/
set_option Elab.async false
set_option linter.all false
namespace Sys2Proof.Machine

variable {allowed : List Component} {s0 : State}

theorem Keeps.queueRefresh {s : State} (p : Nat) (key : Nat) (keep : Keeps allowed s0 s) (hl : ∀ p ∈ ([.packages] : List Component), p ∈ allowed) :
    Keeps allowed s0 (queueRefresh s p key) := by
  simp only [Machine.queueRefresh]
  repeat' (with_reducible first | assumption | apply Keeps.setPkg | exact Nat.le_refl _ | apply Wseq.setBlk)

theorem Keeps.queueRetention {s : State} (p : Nat) (key : Nat) (keep : Keeps allowed s0 s) (hl : ∀ p ∈ ([.packages, .regMed] : List Component), p ∈
    allowed) :
    Keeps allowed s0 (queueRetention s p key) := by
  simp only [Machine.queueRetention]
  repeat' first
    | with_reducible assumption | ((with_reducible apply Component.sub hl); decide)
    | ((with_reducible apply Component.sub hl); simp (disch := decide); done)
    | (with_reducible first | apply Keeps.ite | apply Keeps.bump | apply Keeps.setPkg | exact Nat.le_refl _ | apply Wseq.setBlk) | intro _

theorem Keeps.climb {s : State} (p : Nat) (key : Nat) (stage : ReadStage) (keep : Keeps allowed s0 s) (hl : ∀ p ∈ ([.packages, .regMed] : List
    Component), p ∈ allowed) :
    Keeps allowed s0 (climb s p key stage) := by
  simp only [Machine.climb]
  repeat' first
    | with_reducible assumption | ((with_reducible apply Component.sub hl); simp (disch := decide); done)
    | (with_reducible first | apply Keeps.bumpBy | apply Keeps.bump | apply Keeps.readBlk) | split

theorem Keeps.readStripe {s : State} (p : Nat) (key : Nat) (keep : Keeps allowed s0 s) (hl : ∀ p ∈ ([.packages, .regMed] : List Component), p ∈
    allowed) :
    Keeps allowed s0 (readStripe s p key) := by
  simp only [Machine.readStripe]
  repeat' first | (with_reducible first | assumption | apply Keeps.foldState | apply Keeps.readBlk) | intro _

theorem Keeps.loseUnit {s : State} (p : Nat) (pk : Nat) (mask : Nat) (cause : Nat) (chanA : Nat) (chanB : Nat) (keep : Keeps allowed s0 s) (hl : ∀ p
    ∈ ([.log, .packages, .host, .out] : List Component), p ∈ allowed) :
    Keeps allowed s0 (loseUnit s p pk mask cause chanA chanB) := by
  simp only [Machine.loseUnit]
  repeat' first
    | with_reducible assumption | ((with_reducible apply Component.sub hl); decide)
    | (with_reducible first | apply Keeps.ite | apply Keeps.setPkg | apply Keeps.addMediaLoss | exact Nat.le_refl _) | intro _ | split

theorem Keeps.readEnds {s : State} (p : Nat) (key : Nat) (pk : Nat) (stage : ReadStage) (keep : Keeps allowed s0 s) (hl : ∀ p ∈ ([.log, .packages,
    .host, .out, .regGlb, .regMed] : List Component), p ∈ allowed) :
    Keeps allowed s0 (readEnds s p key pk stage) := by
  simp only [Machine.readEnds]
  repeat' first
    | with_reducible assumption | ((with_reducible apply Component.sub hl); decide)
    | ((with_reducible apply Component.sub hl); simp (disch := decide); done)
    | (with_reducible first | apply Keeps.ite | apply Keeps.setPkg | apply Keeps.queueRetention | apply Keeps.queueRefresh | apply Keeps.readStripe)
    | (with_reducible first | apply Keeps.bump | apply Keeps.mediaLost | apply Keeps.loseUnit) | intro _ | split
    | (with_reducible refine Keeps.ofFst ?_ (by assumption)) | exact Nat.le_refl _ | apply Wseq.setBlk | with_reducible apply Wseq.setBlk

theorem Keeps.markPieces {s : State} (p : Nat) (u : Nat) (stage : ReadStage) (keep : Keeps allowed s0 s) (hl : ∀ p ∈ ([.mover] : List Component),
    p ∈ allowed) :
    Keeps allowed s0 (markPieces s p u stage) := by
  simp only [Machine.markPieces]
  repeat' first
    | with_reducible assumption | ((with_reducible apply Component.sub hl); decide)
    | ((with_reducible apply Component.sub hl); simp (disch := decide); done) | (with_reducible first | apply Keeps.ite) | intro _ | split
    | (with_reducible refine Keeps.ofFst ?_ (by assumption)) | (with_reducible first | refine Keeps.litMover ?_ (hl _ (by decide)))

theorem Keeps.nandReadEff {s : State} (p : Nat) (u : Nat) (stage : ReadStage) (keep : Keeps allowed s0 s) (hl : ∀ p ∈ ([.log, .packages, .mover,
    .host, .out, .regGlb, .regMed] : List Component), p ∈ allowed) :
    Keeps allowed s0 (nandReadEff s p u stage) := by
  simp only [Machine.nandReadEff]
  repeat' first
    | with_reducible assumption | ((with_reducible apply Component.sub hl); decide)
    | ((with_reducible apply Component.sub hl); simp (disch := decide); done)
    | (with_reducible first | apply Keeps.ite | apply Keeps.readEnds | apply Keeps.markPieces | apply Keeps.climb) | intro _ | split
    | (with_reducible refine Keeps.ofFst ?_ (by assumption))

theorem Keeps.patrolEff {s : State} (p : Nat) (key : Nat) (refresh : Bool) (keep : Keeps allowed s0 s) (hl : ∀ p ∈ ([.packages, .regHst, .regMed] :
    List Component), p ∈ allowed) :
    Keeps allowed s0 (patrolEff s p key refresh) := by
  simp only [Machine.patrolEff]
  repeat' first
    | with_reducible assumption | ((with_reducible apply Component.sub hl); decide)
    | (with_reducible first | apply Keeps.ite | apply Keeps.draw | apply Keeps.readBlk | apply Keeps.maintenanceWake)
    | with_reducible apply Keeps.queueRetention | intro _

theorem Keeps.writeBlkSel {s : State} (p : Nat) (v : Nat) (keep : Keeps allowed s0 s) (hl : ∀ p ∈ ([.regGlb, .regMed] : List Component), p ∈
    allowed) :
    Keeps allowed s0 (writeBlkSel s p v) := by
  simp only [Machine.writeBlkSel]
  repeat' first
    | with_reducible assumption | ((with_reducible apply Component.sub hl); decide)
    | ((with_reducible apply Component.sub hl); simp (disch := decide); done)
    | (with_reducible first | apply Keeps.ite | apply Keeps.setNat | apply Keeps.accErr) | intro _

theorem Keeps.rawDone {s : State} (p : Nat) (status : Nat) (keep : Keeps allowed s0 s) (hl : ∀ p ∈ ([.regMed] : List Component), p ∈ allowed) :
    Keeps allowed s0 (rawDone s p status) := by
  simp only [Machine.rawDone]
  repeat' first
    | with_reducible assumption | ((with_reducible apply Component.sub hl); simp (disch := decide); done) | with_reducible apply Keeps.setNat

theorem Keeps.rawWrite {s : State} (p : Nat) (status : Nat) (data : List Byte) (keep : Keeps allowed s0 s) (hl : ∀ p ∈ ([.retire, .log, .dram,
    .mover, .host, .faults, .out, .regGlb, .regTier, .regMed] : List Component), p ∈ allowed) :
    Keeps allowed s0 (rawWrite s p status data) := by
  simp only [Machine.rawWrite]
  repeat' first
    | with_reducible assumption | ((with_reducible apply Component.sub hl); decide)
    | (with_reducible first | apply Keeps.ite | apply Keeps.slmWrite | apply Keeps.rawDone) | intro _

theorem Keeps.rawCommand {s : State} (p : Nat) (cmd : Nat) (stage : ReadStage) (sensed : List Byte) (keep : Keeps allowed s0 s) (hl : ∀ p ∈
    ([.retire, .log, .packages, .dram, .mover, .host, .faults, .out, .regGlb, .regTier, .regMed] : List Component), p ∈ allowed) :
    Keeps allowed s0 (rawCommand s p cmd stage sensed) := by
  simp only [Machine.rawCommand]
  repeat' first
    | with_reducible assumption | ((with_reducible apply Component.sub hl); decide)
    | (with_reducible first | apply Keeps.ite | apply Keeps.readBlk | apply Keeps.climb | apply Keeps.rawDone | apply Keeps.rawWrite) | intro _
    | split | with_reducible apply Keeps.litFresh

theorem Keeps.writeRawCtrl {s : State} (p : Nat) (v : Nat) (stage : ReadStage) (sensed : List Byte) (keep : Keeps allowed s0 s) (hl : ∀ p ∈
    ([.retire, .log, .packages, .dram, .mover, .host, .faults, .out, .regGlb, .regTier, .regMed] : List Component), p ∈ allowed) :
    Keeps allowed s0 (writeRawCtrl s p v stage sensed) := by
  simp only [Machine.writeRawCtrl]
  repeat' first
    | with_reducible assumption | ((with_reducible apply Component.sub hl); decide)
    | (with_reducible first | apply Keeps.ite | apply Keeps.accErr | apply Keeps.rawCommand) | intro _

theorem Keeps.writeMedCtrl {s : State} (p : Nat) (v : Nat) (keep : Keeps allowed s0 s) (hl : ∀ p ∈ ([.regGlb, .regMed] : List Component), p ∈
    allowed) :
    Keeps allowed s0 (writeMedCtrl s p v) := by
  simp only [Machine.writeMedCtrl]
  repeat' first
    | with_reducible assumption | ((with_reducible apply Component.sub hl); decide)
    | ((with_reducible apply Component.sub hl); simp (disch := decide); done)
    | (with_reducible first | apply Keeps.ite | apply Keeps.setNat | apply Keeps.accErr) | intro _

theorem Keeps.showChans {s : State} (p : Nat) (keep : Keeps allowed s0 s) (hl : ∀ p ∈ ([.regScn, .regMed] : List Component), p ∈ allowed) :
    Keeps allowed s0 (showChans s p) := by
  simp only [Machine.showChans]
  repeat' first
    | with_reducible assumption | ((with_reducible apply Component.sub hl); simp (disch := decide); done)
    | (with_reducible first | apply Keeps.setNat | apply Keeps.setFld | apply Keeps.setBit)

theorem Keeps.showOptSingle {s : State}  (keep : Keeps allowed s0 s) (hl : ∀ p ∈ ([.regMed] : List Component), p ∈ allowed) :
    Keeps allowed s0 (showOptSingle s) := by
  simp only [Machine.showOptSingle]
  repeat' first | with_reducible assumption | ((with_reducible apply Component.sub hl); decide) | with_reducible apply Keeps.setBit

theorem Keeps.doubleFault {s : State} (p : Nat) (c : Nat) (g : Group) (keep : Keeps allowed s0 s) (hl : ∀ p ∈ ([.log, .packages, .host, .out] : List
    Component), p ∈ allowed) :
    Keeps allowed s0 (doubleFault p c s g) := by
  simp only [Machine.doubleFault]
  repeat' first | (with_reducible first | assumption | apply Keeps.foldState | apply Keeps.loseUnit | apply Keeps.foldl) | intro _ | split

theorem Keeps.loseOptHome {s : State} (p : Nat) (c : Nat) (keep : Keeps allowed s0 s) (hl : ∀ p ∈ ([.opt, .regMed] : List Component), p ∈ allowed) :
    Keeps allowed s0 (loseOptHome s p c) := by
  simp only [Machine.loseOptHome]
  repeat' first
    | with_reducible assumption | ((with_reducible apply Component.sub hl); decide)
    | (with_reducible first | apply Keeps.ite | apply Keeps.showOptSingle) | intro _
    | (with_reducible refine Keeps.litNv ?_ ?_ (nopt := .inl (hl _ (by decide))))
    | ((with_reducible apply NvLasts.mk) <;> first | rfl | exact Nat.le_refl _ | exact fun _ h => h | exact satInc_ge _ | exact Nat.le_max_left _ _ | exact testBit_lor_left _ _ | exact List.subset_append_left _ _)

theorem Keeps.retireChan {s : State} (p : Nat) (c : Nat) (cause : Nat) (keep : Keeps allowed s0 s) (hl : ∀ p ∈ ([.retire, .log, .opt, .packages,
    .host, .out, .regGlb, .regHst, .regScn, .regFtl, .regMed] : List Component), p ∈ allowed) :
    Keeps allowed s0 (retireChan s p c cause) := by
  unfold Machine.retireChan
  extract_lets unit limit rec_ s1 n1 s2 x mine t2 x2 left touched x3 s3
  have h2 : Keeps allowed s0 s2 := Keeps.litNv (Keeps.permanentFault _ keep (Component.sub hl (by decide))) (by
    constructor <;> first | rfl | exact Nat.le_refl _ | exact fun _ h => h | exact List.subset_append_left _ _) (nretire := .inl (hl _ (by decide)))
  clear_value s2
  have h4 : Keeps allowed s0 t2 := Keeps.mediaLost _ _ _ h2 (Keeps.foldState _ h2 (fun _ _ h => Keeps.doubleFault _ _ _ h
    (Component.sub hl (by decide)))) (Component.sub hl (by decide))
  clear_value t2
  have hw : (pkg t2 p).wseq ≤ touched.wseq := Wseq.foldl _ (Nat.le_refl _) (fun y g h => Wseq.foldl _ h (fun y k h => by
    split
    · exact h
    · exact Wseq.setBlk _ _ h))
  clear_value touched
  exact Keeps.retired _ (Keeps.releaseAll _ (Keeps.testStages _ (Keeps.rewatermark _ (Keeps.loseOptHome _ _ (Keeps.showChans _
    (Keeps.setPkg p x3 h4 (Component.sub hl (by decide)) hw) (Component.sub hl (by decide))) (Component.sub hl (by decide)))
    (Component.sub hl (by decide))) (Component.sub hl (by decide))) (Component.sub hl (by decide))) (Component.sub hl (by decide))

theorem Keeps.chanFault {s : State} (p : Nat) (c : Nat) (cause : Nat) (exhausted : Bool) (keep : Keeps allowed s0 s) (hl : ∀ p ∈ ([.retire, .log,
    .opt, .packages, .host, .faults, .out, .regGlb, .regHst, .regScn, .regFtl, .regMed] : List Component), p ∈ allowed) :
    Keeps allowed s0 (chanFault s p c cause exhausted) := by
  simp only [Machine.chanFault]
  repeat' first
    | with_reducible assumption | ((with_reducible apply Component.sub hl); decide)
    | ((with_reducible apply Component.sub hl); simp (disch := decide); done)
    | (with_reducible first | apply Keeps.ite | apply Keeps.bump | apply Keeps.transientFault | apply Keeps.retireChan) | intro _

theorem Keeps.rebuildDoneEff {s : State} (p : Nat) (keep : Keeps allowed s0 s) (hl : ∀ p ∈ ([.packages, .regScn, .regMed] : List Component), p ∈
    allowed) :
    Keeps allowed s0 (rebuildDoneEff s p) := by
  simp only [Machine.rebuildDoneEff]
  repeat' first
    | with_reducible assumption | ((with_reducible apply Component.sub hl); decide)
    | (with_reducible first | apply Keeps.ite | apply Keeps.setPkg | apply Keeps.showChans | exact Nat.le_refl _) | intro _ | split

theorem Keeps.optMoveEff {s : State} (half : Nat) (keep : Keeps allowed s0 s) (hl : ∀ p ∈ ([.opt, .regMed] : List Component), p ∈ allowed) :
    Keeps allowed s0 (optMoveEff s half) := by
  simp only [Machine.optMoveEff]
  repeat' first
    | with_reducible assumption | ((with_reducible apply Component.sub hl); decide)
    | (with_reducible first | apply Keeps.ite | apply Keeps.showOptSingle) | intro _ | split
    | (with_reducible refine Keeps.litNv ?_ ?_ (nopt := .inl (hl _ (by decide))))
    | ((with_reducible apply NvLasts.mk) <;> first | rfl | exact Nat.le_refl _ | exact fun _ h => h | exact satInc_ge _ | exact Nat.le_max_left _ _ | exact testBit_lor_left _ _ | exact List.subset_append_left _ _)

end Sys2Proof.Machine
end

