-- ==== Sys2Proof/Laws/KeepsScan.lean ====
section
/-! SUPPORT. What every operation of Machine/Scan.lean keeps: the queue, what lasts, the canonical forms, and every part of the state that
is not in its list. -/
set_option Elab.async false
set_option linter.all false
namespace Sys2Proof.Machine

variable {allowed : List Component} {s0 : State}

theorem Keeps.readSlm {s : State} (a : Nat) (len : Nat) (keep : Keeps allowed s0 s) (hl : ∀ p ∈ ([.retire, .log, .dram, .mover, .host, .faults,
    .out, .regGlb, .regTier] : List Component), p ∈ allowed) :
    Keeps allowed s0 (readSlm s a len).1 := by
  simp only [Machine.readSlm]
  repeat' (with_reducible first | assumption | apply Keeps.readRange)

theorem Keeps.showScan {s : State}  (keep : Keeps allowed s0 s) (hl : ∀ p ∈ ([.regScn] : List Component), p ∈ allowed) :
    Keeps allowed s0 (showScan s) := by
  simp only [Machine.showScan]
  repeat' first
    | with_reducible assumption | ((with_reducible apply Component.sub hl); decide)
    | ((with_reducible apply Component.sub hl); simp (disch := decide); done) | (with_reducible first | apply Keeps.setFld | apply Keeps.foldState)
    | intro _

theorem Keeps.advanceJobs {x1 : State} (x0 : Nat) (keep : Keeps allowed s0 x1) (hl : ∀ p ∈ ([.scan, .regScn] : List Component), p ∈ allowed) :
    Keeps allowed s0 (advanceJobs x0 x1) := by
  induction x0 generalizing x1 with
  | zero =>
    simp only [Machine.advanceJobs]
    repeat' first
      | with_reducible assumption | ((with_reducible apply Component.sub hl); decide) | (with_reducible first | apply Keeps.ite | apply Keeps.setNat)
      | intro _ | split | with_reducible refine Keeps.litScan ?_  (hl _ (by decide))
  | succ _ ih =>
    simp only [Machine.advanceJobs]
    repeat' first
      | (with_reducible first | apply ih | assumption) | ((with_reducible apply Component.sub hl); decide)
      | (with_reducible first | apply Keeps.ite | apply Keeps.setNat) | intro _ | split | with_reducible refine Keeps.litScan ?_  (hl _ (by decide))

theorem Keeps.endJob {s : State} (index : Nat) (st : Nat) (energyUj : Nat) (keep : Keeps allowed s0 s) (hl : ∀ p ∈ ([.retire, .log, .corpus,
    .dram, .mover, .scan, .host, .faults, .out, .regGlb, .regTier, .regScn] : List Component), p ∈ allowed) :
    Keeps allowed s0 (endJob s index st energyUj) := by
  simp only [Machine.endJob]
  repeat' first
    | with_reducible assumption | ((with_reducible apply Component.sub hl); decide)
    | ((with_reducible apply Component.sub hl); simp (disch := decide); done)
    | (with_reducible first | apply Keeps.ite | apply Keeps.slmWrite | apply Keeps.settleEpoch | apply Keeps.modJob | apply Keeps.showScan)
    | (with_reducible first | apply Keeps.advanceJobs) | intro _ | split | (with_reducible refine Keeps.ofFst ?_ (by assumption))

theorem Keeps.jobError {s : State} (st : Nat) (off : Nat) (keep : Keeps allowed s0 s) (hl : ∀ p ∈ ([.regScn] : List Component), p ∈ allowed) :
    Keeps allowed s0 (jobError s st off) := by
  simp only [Machine.jobError]
  repeat' first | with_reducible assumption | ((with_reducible apply Component.sub hl); decide) | with_reducible apply Keeps.setNat

theorem Keeps.failJob {s : State} (j : Job) (st : Nat) (off : Nat) (keep : Keeps allowed s0 s) (hl : ∀ p ∈ ([.retire, .log, .corpus, .dram, .mover, .scan, .host, .faults, .out, .regGlb, .regTier, .regScn] : List Component), p ∈ allowed) :
    Keeps allowed s0 (failJob s j st off) := by
  simp only [Machine.failJob]
  repeat' first
    | with_reducible assumption | ((with_reducible apply Component.sub hl); decide)
    | (with_reducible first | apply Keeps.endJob | apply Keeps.jobError | refine Keeps.litScan ?_  (hl _ (by decide)))

theorem Keeps.startAppend {s : State} (j : Job) (src : Nat) (g : Region) (keep : Keeps allowed s0 s) (hl : ∀ p ∈ ([.retire, .log, .corpus, .dram,
    .mover, .scan, .host, .faults, .out, .regGlb, .regTier, .regScn] : List Component), p ∈ allowed) :
    Keeps allowed s0 (startAppend s j src g) := by
  simp only [Machine.startAppend]
  repeat' first
    | with_reducible assumption | ((with_reducible apply Component.sub hl); decide)
    | (with_reducible first | apply Keeps.ite | apply Keeps.takeEpoch | apply Keeps.settleEpoch | apply Keeps.readSlm | apply Keeps.showScan)
    | with_reducible apply Keeps.failJob | intro _ | split | (with_reducible refine Keeps.ofFst ?_ (by assumption))
    | (with_reducible refine Keeps.litCorpus ?_ ?_ (hl _ (by decide)) (hscan := .inl (hl _ (by decide))))
    | exact Nat.le_refl _

theorem Keeps.startDelete {s : State} (j : Job) (src : Nat) (u0 : Region) (keep : Keeps allowed s0 s) (hl : ∀ p ∈ ([.retire, .log, .corpus, .dram,
    .mover, .scan, .host, .faults, .out, .regGlb, .regTier, .regScn] : List Component), p ∈ allowed) :
    Keeps allowed s0 (startDelete s j src u0) := by
  simp only [Machine.startDelete]
  repeat' first
    | with_reducible assumption | ((with_reducible apply Component.sub hl); decide)
    | (with_reducible first | apply Keeps.ite | apply Keeps.takeEpoch | apply Keeps.settleEpoch | apply Keeps.readSlm | apply Keeps.showScan)
    | with_reducible apply Keeps.failJob | intro _ | split | (with_reducible refine Keeps.ofFst ?_ (by assumption))
    | with_reducible refine Keeps.litScan ?_  (hl _ (by decide))

theorem Keeps.readProgram {s : State} (j : Job) (addr : Nat) (fl : Nat) (keep : Keeps allowed s0 s) (hl : ∀ p ∈ ([.retire, .log, .dram, .mover,
    .host, .faults, .out, .regGlb, .regTier] : List Component), p ∈ allowed) :
    Keeps allowed s0 (readProgram s j addr fl).1 := by
  simp only [Machine.readProgram]
  repeat' first
    | (with_reducible first | assumption | apply Keeps.iteFst | apply Keeps.readSlm) | intro _ | split
    | (with_reducible refine Keeps.ofFst ?_ (by assumption))

theorem Keeps.enterJob {s : State} (j : Job) (keep : Keeps allowed s0 s) (hl : ∀ p ∈ ([.scan, .regScn] : List Component), p ∈ allowed) :
    Keeps allowed s0 (enterJob s j) := by
  simp only [Machine.enterJob]
  repeat' first
    | with_reducible assumption | ((with_reducible apply Component.sub hl); decide)
    | (with_reducible first | apply Keeps.showScan | refine Keeps.litScan ?_  (hl _ (by decide)))

theorem Keeps.startFilter {s : State} (j : Job) (prog : Nat) (g : Region) (keep : Keeps allowed s0 s) (hl : ∀ p ∈ ([.retire, .log, .corpus, .dram, .mover, .scan, .host, .faults, .out, .regGlb, .regTier, .regScn] : List Component), p ∈ allowed) :
    Keeps allowed s0 (startFilter s j prog g) := by
  simp only [Machine.startFilter]
  repeat' first
    | with_reducible assumption | ((with_reducible apply Component.sub hl); decide)
    | (with_reducible first | apply Keeps.ite | apply Keeps.failJob | apply Keeps.readProgram | apply Keeps.enterJob) | intro _ | split
    | (with_reducible refine Keeps.ofFst ?_ (by assumption))

theorem Keeps.startEmbed {s : State} (j : Job) (prog : Nat) (g : Region) (keep : Keeps allowed s0 s) (hl : ∀ p ∈ ([.retire, .log, .corpus, .dram,
    .mover, .scan, .host, .faults, .out, .regGlb, .regTier, .regScn] : List Component), p ∈ allowed) :
    Keeps allowed s0 (startEmbed s j prog g) := by
  simp only [Machine.startEmbed]
  repeat' first
    | with_reducible assumption | ((with_reducible apply Component.sub hl); decide)
    | ((with_reducible apply Component.sub hl); simp (disch := decide); done)
    | (with_reducible first | apply Keeps.ite | apply Keeps.failJob | apply Keeps.readProgram | apply Keeps.enterJob) | intro _ | split
    | (with_reducible refine Keeps.ofFst ?_ (by assumption))

theorem Keeps.startJob {s : State} (op : Nat) (keep : Keeps allowed s0 s) (hl : ∀ p ∈ ([.retire, .log, .corpus, .dram, .mover, .scan, .host,
    .faults, .out, .regGlb, .regTier, .regScn] : List Component), p ∈ allowed) :
    Keeps allowed s0 (startJob s op) := by
  simp only [Machine.startJob]
  repeat' first
    | with_reducible assumption | ((with_reducible apply Component.sub hl); decide)
    | (with_reducible first | apply Keeps.ite | apply Keeps.readRange | apply Keeps.failJob | apply Keeps.startAppend | apply Keeps.startDelete)
    | (with_reducible first | apply Keeps.startFilter | apply Keeps.startEmbed) | intro _ | split
    | (with_reducible refine Keeps.ofFst ?_ (by assumption)) | with_reducible refine Keeps.litScan ?_  (hl _ (by decide))

theorem Keeps.submitBatch {s : State} (j : Job) (keep : Keeps allowed s0 s) (hl : ∀ p ∈ ([.retire, .log, .packages, .dram, .grf, .mover, .scan,
    .host, .faults, .out, .regGlb, .regGrf, .regTier, .regFtl] : List Component), p ∈ allowed) :
    Keeps allowed s0 (submitBatch s j) := by
  simp only [Machine.submitBatch]
  repeat' first
    | with_reducible assumption | ((with_reducible apply Component.sub hl); decide)
    | ((with_reducible apply Component.sub hl); simp (disch := decide); done)
    | (with_reducible first | apply Keeps.ite | apply Keeps.modJob | apply Keeps.startRun) | intro _ | split
    | (with_reducible refine Keeps.ofFst ?_ (by assumption)) | (with_reducible first | refine Keeps.litGrf ?_ (hl _ (by decide)))

theorem Keeps.firstBatch {s : State} (j : Job) (keep : Keeps allowed s0 s) (hl : ∀ p ∈ ([.retire, .log, .packages, .dram, .grf, .mover, .scan,
    .host, .faults, .out, .regGlb, .regGrf, .regTier, .regFtl] : List Component), p ∈ allowed) :
    Keeps allowed s0 (firstBatch s j) := by
  simp only [Machine.firstBatch]
  repeat' first
    | with_reducible assumption | ((with_reducible apply Component.sub hl); decide)
    | ((with_reducible apply Component.sub hl); simp (disch := decide); done)
    | (with_reducible first | apply Keeps.ite | apply Keeps.fillBatch | apply Keeps.submitBatch) | intro _ | split
    | (with_reducible refine Keeps.ofFst ?_ (by assumption))

theorem Keeps.noteLost {s : State} (k : Nat × Nat × Nat) (lost : Bool) (keep : Keeps allowed s0 s) (hl : ∀ p ∈ ([.log, .corpus, .regGlb] : List
    Component), p ∈ allowed) :
    Keeps allowed s0 (noteLost s k lost) := by
  simp only [Machine.noteLost]
  repeat' first
    | with_reducible assumption | ((with_reducible apply Component.sub hl); decide)
    | (with_reducible first | apply Keeps.ite | apply Keeps.interrupting) | intro _
    | (with_reducible refine Keeps.litCorpus ?_ ?_ (hl _ (by decide)))
    | exact Nat.le_refl _

theorem Keeps.stallInstr {s : State} (p : Nat) (num : Nat) (den : Nat) (bytes : Nat) (keep : Keeps allowed s0 s) (hl : ∀ p ∈ ([.regScn] : List
    Component), p ∈ allowed) :
    Keeps allowed s0 (stallInstr s p num den bytes) := by
  simp only [Machine.stallInstr]
  repeat' first
    | with_reducible assumption | ((with_reducible apply Component.sub hl); decide)
    | ((with_reducible apply Component.sub hl); simp (disch := decide); done) | (with_reducible first | apply Keeps.ite | apply Keeps.bumpBy)
    | intro _ | split | (with_reducible refine Keeps.ofFst ?_ (by assumption))

theorem Keeps.slabStalls {s : State} (p : Nat) (j : Job) (records : Nat) (keep : Keeps allowed s0 s) (hl : ∀ p ∈ ([.regScn] : List Component), p ∈
    allowed) :
    Keeps allowed s0 (slabStalls s p j records) := by
  simp only [Machine.slabStalls]
  repeat' first
    | with_reducible assumption | ((with_reducible apply Component.sub hl); decide)
    | ((with_reducible apply Component.sub hl); simp (disch := decide); done)
    | (with_reducible first | apply Keeps.ite | apply Keeps.stallInstr | apply Keeps.bumpBy | apply Keeps.draw) | intro _ | split
    | (with_reducible refine Keeps.ofFst ?_ (by assumption))

theorem Keeps.slabScanEff {s : State} (index : Nat) (slab : Nat) (lost : Bool) (crcBad : Nat) (keep : Keeps allowed s0 s) (hl : ∀ p ∈ ([.retire,
    .log, .packages, .corpus, .dram, .grf, .mover, .scan, .host, .faults, .out, .regGlb, .regGrf, .regTier, .regScn, .regFtl] : List Component), p
    ∈ allowed) :
    Keeps allowed s0 (slabScanEff s index slab lost crcBad) := by
  simp only [Machine.slabScanEff]
  repeat' first
    | with_reducible assumption | ((with_reducible apply Component.sub hl); decide)
    | ((with_reducible apply Component.sub hl); simp (disch := decide); done)
    | (with_reducible first | apply Keeps.ite | apply Keeps.slabStalls | apply Keeps.add64 | apply Keeps.noteLost | apply Keeps.bumpBy)
    | (with_reducible first | apply Keeps.modJob | apply Keeps.firstBatch) | intro _ | split | (with_reducible refine Keeps.ofFst ?_ (by assumption))

theorem Keeps.endFilter {s : State} (j : Job) (energyUj : Nat) (keep : Keeps allowed s0 s) (hl : ∀ p ∈ ([.retire, .log, .corpus, .dram, .mover,
    .scan, .host, .faults, .out, .regGlb, .regTier, .regScn] : List Component), p ∈ allowed) :
    Keeps allowed s0 (endFilter s j energyUj) := by
  simp only [Machine.endFilter]
  repeat' first
    | with_reducible assumption | ((with_reducible apply Component.sub hl); decide)
    | ((with_reducible apply Component.sub hl); simp (disch := decide); done)
    | (with_reducible first | apply Keeps.ite | apply Keeps.endJob | apply Keeps.slmWrite | apply Keeps.modJob) | intro _ | split
    | (with_reducible refine Keeps.ofFst ?_ (by assumption))

theorem Keeps.stopJob {s : State} (j : Job) (st : Nat) (energyUj : Nat) (keep : Keeps allowed s0 s) (hl : ∀ p ∈ ([.retire, .log, .corpus, .dram,
    .mover, .scan, .host, .faults, .out, .regGlb, .regTier, .regScn] : List Component), p ∈ allowed) :
    Keeps allowed s0 (stopJob s j st energyUj) := by
  simp only [Machine.stopJob]
  repeat' first
    | with_reducible assumption | ((with_reducible apply Component.sub hl); decide)
    | ((with_reducible apply Component.sub hl); simp (disch := decide); done)
    | (with_reducible first | apply Keeps.ite | apply Keeps.slmWrite | apply Keeps.draw | apply Keeps.endJob | apply Keeps.modJob) | intro _ | split
    | (with_reducible refine Keeps.ofFst ?_ (by assumption))

theorem Keeps.jobCompleteEff {s : State} (index : Nat) (energyUj : Nat) (keep : Keeps allowed s0 s) (hl : ∀ p ∈ ([.retire, .log, .corpus, .dram,
    .mover, .scan, .host, .faults, .out, .regGlb, .regTier, .regScn] : List Component), p ∈ allowed) :
    Keeps allowed s0 (jobCompleteEff s index energyUj) := by
  simp only [Machine.jobCompleteEff]
  repeat' first
    | with_reducible assumption | ((with_reducible apply Component.sub hl); decide)
    | ((with_reducible apply Component.sub hl); simp (disch := decide); done)
    | (with_reducible first | apply Keeps.ite | apply Keeps.endJob | apply Keeps.stopJob | apply Keeps.endFilter) | intro _ | split
    | (with_reducible refine Keeps.ofFst ?_ (by assumption))

theorem Keeps.commitAppend {s : State} (j : Job) (g : Region) (keep : Keeps allowed s0 s) (hl : ∀ p ∈ ([.packages, .corpus, .scan, .regScn,
    .regFtl] : List Component), p ∈ allowed) :
    Keeps allowed s0 (commitAppend s j g) := by
  simp only [Machine.commitAppend]
  repeat' first
    | with_reducible assumption | ((with_reducible apply Component.sub hl); decide)
    | ((with_reducible apply Component.sub hl); simp (disch := decide); done)
    | (with_reducible first | apply Keeps.ite | apply Keeps.enterAll | apply Keeps.modJob | apply Keeps.settleEpoch | apply Keeps.writePieces)
    | intro _ | split | (with_reducible refine Keeps.ofFst ?_ (by assumption))
    | (with_reducible first | refine Keeps.litCorpus ?_ ?_ (hl _ (by decide)) ) | exact Nat.le_refl _

theorem Keeps.commitDelete {s : State} (j : Job) (g : Region) (keep : Keeps allowed s0 s) (hl : ∀ p ∈ ([.packages, .corpus, .scan, .regScn,
    .regFtl] : List Component), p ∈ allowed) :
    Keeps allowed s0 (commitDelete s j g) := by
  simp only [Machine.commitDelete]
  repeat' first
    | with_reducible assumption | ((with_reducible apply Component.sub hl); decide)
    | ((with_reducible apply Component.sub hl); simp (disch := decide); done)
    | (with_reducible first | apply Keeps.ite | apply Keeps.showTombs | apply Keeps.addTombs | apply Keeps.modJob | apply Keeps.settleEpoch)
    | intro _ | split | (with_reducible refine Keeps.ofFst ?_ (by assumption)) | exact Nat.le_refl _

theorem Keeps.placeBatch {s : State} (j : Job) (r : Region) (x : Index) (keep : Keeps allowed s0 s) (hl : ∀ p ∈ ([.corpus, .scan, .regScn] : List
    Component), p ∈ allowed) :
    Keeps allowed s0 (placeBatch s j r x) := by
  simp only [Machine.placeBatch]
  repeat' first
    | with_reducible assumption | ((with_reducible apply Component.sub hl); decide)
    | ((with_reducible apply Component.sub hl); simp (disch := decide); done)
    | (with_reducible first | apply Keeps.ite | apply Keeps.modJob | apply Keeps.takeEpoch | apply Keeps.settleEpoch) | intro _ | split
    | (with_reducible refine Keeps.ofFst ?_ (by assumption))

theorem Keeps.enterEntries {s : State} (r : Region) (x : Index) (opened : List IndexSlab) (n : Nat) (es : List Entry) (keep : Keeps allowed s0 s)
    (hl : ∀ p ∈ ([.packages, .regFtl] : List Component), p ∈ allowed) :
    Keeps allowed s0 (enterEntries s r x opened n es).1 := by
  simp only [Machine.enterEntries]
  repeat' first
    | with_reducible assumption | ((with_reducible apply Component.sub hl); decide)
    | ((with_reducible apply Component.sub hl); simp (disch := decide); done) | (with_reducible first | apply Keeps.ite | apply Keeps.enterAll)
    | intro _ | split | (with_reducible refine Keeps.ofFst ?_ (by assumption))

theorem Keeps.commitBatch {s : State} (j : Job) (keep : Keeps allowed s0 s) (hl : ∀ p ∈ ([.retire, .log, .packages, .corpus, .dram, .grf, .mover,
    .scan, .host, .faults, .out, .regGlb, .regGrf, .regTier, .regScn, .regFtl] : List Component), p ∈ allowed) :
    Keeps allowed s0 (commitBatch s j) := by
  simp only [Machine.commitBatch]
  repeat' first
    | with_reducible assumption | ((with_reducible apply Component.sub hl); decide)
    | ((with_reducible apply Component.sub hl); simp (disch := decide); done)
    | (with_reducible first | apply Keeps.ite | apply Keeps.modJob | apply Keeps.placeBatch | apply Keeps.enterEntries | apply Keeps.settleEpoch)
    | (with_reducible first | apply Keeps.setIndex | apply Keeps.submitBatch) | intro _ | split
    | (with_reducible refine Keeps.ofFst ?_ (by assumption))

theorem Keeps.commitJob {s : State} (j : Job) (keep : Keeps allowed s0 s) (hl : ∀ p ∈ ([.retire, .log, .packages, .corpus, .dram, .grf, .mover,
    .scan, .host, .faults, .out, .regGlb, .regGrf, .regTier, .regScn, .regFtl] : List Component), p ∈ allowed) :
    Keeps allowed s0 (commitJob s j) := by
  simp only [Machine.commitJob]
  repeat' first
    | with_reducible assumption | ((with_reducible apply Component.sub hl); decide)
    | ((with_reducible apply Component.sub hl); simp (disch := decide); done)
    | (with_reducible first | apply Keeps.ite | apply Keeps.commitAppend | apply Keeps.commitDelete | apply Keeps.commitBatch) | intro _ | split
    | (with_reducible refine Keeps.ofFst ?_ (by assumption))

theorem Keeps.compactCorpus {s : State} (region : Nat) (slab : Nat) (keep : Keeps allowed s0 s) (hl : ∀ p ∈ ([.corpus] : List Component), p ∈
    allowed) :
    Keeps allowed s0 (compactCorpus s region slab) := by
  simp only [Machine.compactCorpus]
  repeat' first
    | with_reducible assumption | ((with_reducible apply Component.sub hl); decide)
    | ((with_reducible apply Component.sub hl); simp (disch := decide); done) | (with_reducible first | apply Keeps.ite) | intro _ | split
    | (with_reducible refine Keeps.ofFst ?_ (by assumption)) | (with_reducible first | refine Keeps.litCorpus ?_ ?_ (hl _ (by decide)) )
    | exact Nat.le_refl _

theorem Keeps.compactSlab {s : State} (region : Nat) (slab : Nat) (keep : Keeps allowed s0 s) (hl : ∀ p ∈ ([.packages, .corpus, .regScn, .regFtl]
    : List Component), p ∈ allowed) :
    Keeps allowed s0 (compactSlab s region slab) := by
  simp only [Machine.compactSlab]
  repeat' first
    | with_reducible assumption | ((with_reducible apply Component.sub hl); decide)
    | ((with_reducible apply Component.sub hl); simp (disch := decide); done)
    | (with_reducible first | apply Keeps.ite | apply Keeps.showTombs | apply Keeps.bump | apply Keeps.freeSlabUnits | apply Keeps.dropTombs)
    | (with_reducible first | apply Keeps.writePieces | apply Keeps.compactCorpus) | intro _ | split
    | (with_reducible refine Keeps.ofFst ?_ (by assumption)) | exact Nat.le_refl _

theorem Keeps.writeScnCtrl {s : State} (p : Nat) (v : Nat) (keep : Keeps allowed s0 s) (hl : ∀ p ∈ ([.regGlb, .regScn] : List Component), p ∈
    allowed) :
    Keeps allowed s0 (writeScnCtrl s p v) := by
  simp only [Machine.writeScnCtrl]
  repeat' first
    | with_reducible assumption | ((with_reducible apply Component.sub hl); decide)
    | ((with_reducible apply Component.sub hl); simp (disch := decide); done)
    | (with_reducible first | apply Keeps.ite | apply Keeps.setNat | apply Keeps.accErr) | intro _

theorem Keeps.writeJqSize {s : State} (v : Nat) (keep : Keeps allowed s0 s) (hl : ∀ p ∈ ([.regGlb, .regScn] : List Component), p ∈ allowed) :
    Keeps allowed s0 (writeJqSize s v) := by
  simp only [Machine.writeJqSize]
  repeat' first
    | with_reducible assumption | ((with_reducible apply Component.sub hl); decide)
    | (with_reducible first | apply Keeps.ite | apply Keeps.setNat | apply Keeps.accErr) | intro _

theorem Keeps.writeJqBase {s : State} (off : Nat) (v : Nat) (keep : Keeps allowed s0 s) (hl : ∀ p ∈ ([.regGlb, .regScn, regBlock off] : List Component), p ∈
    allowed) :
    Keeps allowed s0 (writeJqBase s off v) := by
  simp only [Machine.writeJqBase]
  repeat' first
    | with_reducible assumption | ((with_reducible apply Component.sub hl); simp (disch := decide); done)
    | (with_reducible first | apply Keeps.ite | apply Keeps.setNat | apply Keeps.accErr) | intro _

theorem Keeps.writeJqCancel {s : State} (v : Nat) (keep : Keeps allowed s0 s) (hl : ∀ p ∈ ([.scan] : List Component), p ∈ allowed) :
    Keeps allowed s0 (writeJqCancel s v) := by
  simp only [Machine.writeJqCancel]
  repeat' first
    | (with_reducible first | assumption | apply Keeps.ite | apply Keeps.modJob) | intro _ | split
    | with_reducible refine Keeps.litScan ?_  (hl _ (by decide))

theorem Keeps.abortJobs {s : State}  (keep : Keeps allowed s0 s) (hl : ∀ p ∈ ([.retire, .log, .corpus, .dram, .mover, .scan, .host, .faults, .out, .regGlb, .regTier, .regScn] : List Component), p ∈ allowed) :
    Keeps allowed s0 (abortJobs s) := by
  simp only [Machine.abortJobs]
  repeat' first | (with_reducible first | assumption | apply Keeps.ite | apply Keeps.foldState | apply Keeps.stopJob) | intro _

end Sys2Proof.Machine
end

