-- ==== Sys2Proof/Laws/KeepsSearch.lean ====
section
/-! SUPPORT. What every operation of Machine/Search.lean keeps: the queue, what lasts, the canonical forms, and every part of the state that
is not in its list. -/
set_option Elab.async false
set_option linter.all false
namespace Sys2Proof.Machine

variable {allowed : List Component} {s0 : State}

theorem Keeps.modQuery {s : State} (index : Nat) (f : Query → Query) (keep : Keeps allowed s0 s) (hl : ∀ p ∈ ([.search] : List Component), p ∈
    allowed) :
    Keeps allowed s0 (modQuery s index f) := by
  simp only [Machine.modQuery]
  repeat' (with_reducible first | assumption | refine Keeps.litSearch ?_  (hl _ (by decide)))

theorem Keeps.showSearch {s : State}  (keep : Keeps allowed s0 s) (hl : ∀ p ∈ ([.regSrc] : List Component), p ∈ allowed) :
    Keeps allowed s0 (showSearch s) := by
  simp only [Machine.showSearch]
  repeat' first
    | with_reducible assumption | ((with_reducible apply Component.sub hl); simp (disch := decide); done)
    | (with_reducible first | apply Keeps.setFld | apply Keeps.foldState) | intro _

theorem Keeps.advanceQueries {x1 : State} (x0 : Nat) (keep : Keeps allowed s0 x1) (hl : ∀ p ∈ ([.search, .regSrc] : List Component), p ∈ allowed) :
    Keeps allowed s0 (advanceQueries x0 x1) := by
  induction x0 generalizing x1 with
  | zero =>
    simp only [Machine.advanceQueries]
    repeat' first
      | with_reducible assumption | ((with_reducible apply Component.sub hl); decide) | (with_reducible first | apply Keeps.ite | apply Keeps.setNat)
      | intro _ | split | with_reducible refine Keeps.litSearch ?_  (hl _ (by decide))
  | succ _ ih =>
    simp only [Machine.advanceQueries]
    repeat' first
      | (with_reducible first | apply ih | assumption) | ((with_reducible apply Component.sub hl); decide)
      | (with_reducible first | apply Keeps.ite | apply Keeps.setNat) | intro _ | split
      | with_reducible refine Keeps.litSearch ?_  (hl _ (by decide))

theorem Keeps.endQuery {s : State} (index : Nat) (returned : Nat) (st : Nat) (keep : Keeps allowed s0 s) (hl : ∀ p ∈ ([.retire, .log, .dram,
    .mover, .search, .host, .faults, .out, .regGlb, .regTier, .regSrc] : List Component), p ∈ allowed) :
    Keeps allowed s0 (endQuery s index returned st) := by
  simp only [Machine.endQuery]
  repeat' first
    | with_reducible assumption | ((with_reducible apply Component.sub hl); decide)
    | ((with_reducible apply Component.sub hl); simp (disch := decide); done)
    | (with_reducible first | apply Keeps.ite | apply Keeps.slmWrite | apply Keeps.draw | apply Keeps.modQuery | apply Keeps.showSearch)
    | (with_reducible first | apply Keeps.advanceQueries) | intro _ | split | (with_reducible refine Keeps.ofFst ?_ (by assumption))

theorem Keeps.takeTurn {s : State} (q : Query) (keep : Keeps allowed s0 s) (hl : ∀ p ∈ ([.search] : List Component), p ∈ allowed) :
    Keeps allowed s0 (takeTurn s q) := by
  simp only [Machine.takeTurn]
  repeat' first
    | with_reducible assumption | ((with_reducible apply Component.sub hl); decide)
    | ((with_reducible apply Component.sub hl); simp (disch := decide); done) | (with_reducible first | apply Keeps.ite) | intro _ | split
    | (with_reducible refine Keeps.ofFst ?_ (by assumption)) | (with_reducible first | refine Keeps.litSearch ?_ (hl _ (by decide)))

theorem Keeps.failQuery {s : State} (q : Query) (st : Nat) (off : Nat) (keep : Keeps allowed s0 s) (hl : ∀ p ∈ ([.retire, .log, .dram, .mover,
    .search, .host, .faults, .out, .regGlb, .regTier, .regSrc] : List Component), p ∈ allowed) :
    Keeps allowed s0 (failQuery s q st off) := by
  simp only [Machine.failQuery]
  repeat' first
    | with_reducible assumption | ((with_reducible apply Component.sub hl); decide)
    | ((with_reducible apply Component.sub hl); simp (disch := decide); done)
    | (with_reducible first | apply Keeps.ite | apply Keeps.endQuery | apply Keeps.setNat | apply Keeps.takeTurn) | intro _ | split
    | (with_reducible refine Keeps.ofFst ?_ (by assumption)) | refine Keeps.litSearch ?_ (hl _ (by decide))

theorem Keeps.enterQuery {s : State} (q : Query) (keep : Keeps allowed s0 s) (hl : ∀ p ∈ ([.search, .regSrc] : List Component), p ∈ allowed) :
    Keeps allowed s0 (enterQuery s q) := by
  simp only [Machine.enterQuery]
  repeat' first
    | with_reducible assumption | ((with_reducible apply Component.sub hl); decide)
    | ((with_reducible apply Component.sub hl); simp (disch := decide); done)
    | (with_reducible first | apply Keeps.ite | apply Keeps.showSearch | apply Keeps.takeTurn) | intro _ | split
    | (with_reducible refine Keeps.ofFst ?_ (by assumption)) | refine Keeps.litSearch ?_ (hl _ (by decide))

theorem Keeps.startQuery {s : State} (q : Query) (src : Nat) (r : Region) (x : Index) (keep : Keeps allowed s0 s) (hl : ∀ p ∈ ([.retire, .log,
    .dram, .mover, .search, .host, .faults, .out, .regGlb, .regTier, .regSrc] : List Component), p ∈ allowed) :
    Keeps allowed s0 (startQuery s q src r x) := by
  simp only [Machine.startQuery]
  repeat' first
    | with_reducible assumption | ((with_reducible apply Component.sub hl); decide)
    | ((with_reducible apply Component.sub hl); simp (disch := decide); done)
    | (with_reducible first | apply Keeps.ite | apply Keeps.failQuery | apply Keeps.readSlm | apply Keeps.enterQuery) | intro _ | split
    | (with_reducible refine Keeps.ofFst ?_ (by assumption))

theorem Keeps.failTaken {s : State} (q : Query) (st : Nat) (off : Nat) (keep : Keeps allowed s0 s) (hl : ∀ p ∈ ([.retire, .log, .corpus, .dram,
    .mover, .search, .host, .faults, .out, .regGlb, .regTier, .regScn, .regSrc] : List Component), p ∈ allowed) :
    Keeps allowed s0 (failTaken s q st off) := by
  simp only [Machine.failTaken]
  repeat' first
    | with_reducible assumption | ((with_reducible apply Component.sub hl); decide)
    | (with_reducible first | apply Keeps.settleEpoch | apply Keeps.failQuery)

theorem Keeps.startInsert {s : State} (q : Query) (count : Nat) (src : Nat) (src2 : Nat) (r : Region) (x : Index) (keep : Keeps allowed s0 s) (hl
    : ∀ p ∈ ([.retire, .log, .corpus, .dram, .mover, .search, .host, .faults, .out, .regGlb, .regTier, .regScn, .regSrc] : List Component), p ∈
    allowed) :
    Keeps allowed s0 (startInsert s q count src src2 r x) := by
  simp only [Machine.startInsert]
  repeat' first
    | with_reducible assumption | ((with_reducible apply Component.sub hl); decide)
    | ((with_reducible apply Component.sub hl); simp (disch := decide); done)
    | (with_reducible first | apply Keeps.ite | apply Keeps.failQuery | apply Keeps.takeEpoch | apply Keeps.readSlm | apply Keeps.failTaken)
    | (with_reducible first | apply Keeps.enterQuery) | intro _ | split | (with_reducible refine Keeps.ofFst ?_ (by assumption))

theorem Keeps.startIndexDelete {s : State} (q : Query) (count : Nat) (src : Nat) (x : Index) (keep : Keeps allowed s0 s) (hl : ∀ p ∈ ([.retire,
    .log, .corpus, .dram, .mover, .search, .host, .faults, .out, .regGlb, .regTier, .regScn, .regSrc] : List Component), p ∈ allowed) :
    Keeps allowed s0 (startIndexDelete s q count src x) := by
  simp only [Machine.startIndexDelete]
  repeat' first
    | with_reducible assumption | ((with_reducible apply Component.sub hl); decide)
    | (with_reducible first | apply Keeps.ite | apply Keeps.takeEpoch | apply Keeps.readSlm | apply Keeps.failQuery | apply Keeps.enterQuery)
    | with_reducible apply Keeps.failTaken | intro _ | split | (with_reducible refine Keeps.ofFst ?_ (by assumption))

theorem Keeps.startCreate {s : State} (q : Query) (count : Nat) (src : Nat) (src2 : Nat) (r : Region) (x : Index) (keep : Keeps allowed s0 s) (hl
    : ∀ p ∈ ([.retire, .log, .corpus, .dram, .mover, .search, .host, .faults, .out, .regGlb, .regTier, .regScn, .regSrc] : List Component), p ∈
    allowed) :
    Keeps allowed s0 (startCreate s q count src src2 r x) := by
  simp only [Machine.startCreate]
  repeat' first
    | with_reducible assumption | ((with_reducible apply Component.sub hl); decide)
    | ((with_reducible apply Component.sub hl); simp (disch := decide); done)
    | (with_reducible first | apply Keeps.ite | apply Keeps.failQuery | apply Keeps.takeEpoch | apply Keeps.readSlm | apply Keeps.failTaken)
    | (with_reducible first | apply Keeps.enterQuery) | intro _ | split | (with_reducible refine Keeps.ofFst ?_ (by assumption))

theorem Keeps.startDescriptor {s : State} (op : Nat) (keep : Keeps allowed s0 s) (hl : ∀ p ∈ ([.retire, .log, .corpus, .dram, .mover, .search,
    .host, .faults, .out, .regGlb, .regTier, .regScn, .regSrc] : List Component), p ∈ allowed) :
    Keeps allowed s0 (startDescriptor s op) := by
  simp only [Machine.startDescriptor]
  repeat' first
    | with_reducible assumption | ((with_reducible apply Component.sub hl); decide)
    | ((with_reducible apply Component.sub hl); simp (disch := decide); done)
    | (with_reducible first | apply Keeps.ite | apply Keeps.readRange | apply Keeps.failQuery | apply Keeps.startQuery | apply Keeps.startInsert)
    | (with_reducible first | apply Keeps.startIndexDelete | apply Keeps.startCreate) | intro _ | split
    | (with_reducible refine Keeps.ofFst ?_ (by assumption))

theorem Keeps.commitInsert {s : State} (q : Query) (r : Region) (x : Index) (keep : Keeps allowed s0 s) (hl : ∀ p ∈ ([.retire, .log, .packages,
    .corpus, .dram, .mover, .search, .host, .faults, .out, .regGlb, .regTier, .regScn, .regSrc, .regFtl] : List Component), p ∈ allowed) :
    Keeps allowed s0 (commitInsert s q r x) := by
  simp only [Machine.commitInsert]
  repeat' first
    | with_reducible assumption | ((with_reducible apply Component.sub hl); decide)
    | ((with_reducible apply Component.sub hl); simp (disch := decide); done)
    | (with_reducible first | apply Keeps.ite | apply Keeps.enterEntries | apply Keeps.modQuery | apply Keeps.endQuery | apply Keeps.settleEpoch)
    | (with_reducible first | apply Keeps.setIndex) | intro _ | split | (with_reducible refine Keeps.ofFst ?_ (by assumption))

theorem Keeps.commitQuery {s : State} (q : Query) (keep : Keeps allowed s0 s) (hl : ∀ p ∈ ([.retire, .log, .packages, .corpus, .dram, .mover,
    .search, .host, .faults, .out, .regGlb, .regTier, .regScn, .regSrc, .regFtl] : List Component), p ∈ allowed) :
    Keeps allowed s0 (commitQuery s q) := by
  simp only [Machine.commitQuery]
  repeat' first
    | with_reducible assumption | ((with_reducible apply Component.sub hl); decide)
    | ((with_reducible apply Component.sub hl); simp (disch := decide); done)
    | (with_reducible first | apply Keeps.ite | apply Keeps.commitInsert | apply Keeps.endQuery | apply Keeps.settleEpoch | apply Keeps.setIndex)
    | (with_reducible first | apply Keeps.showTombs | apply Keeps.addTombs | apply Keeps.modQuery) | intro _ | split
    | (with_reducible refine Keeps.ofFst ?_ (by assumption)) | exact Nat.le_refl _

theorem Keeps.jobCommitEff {s : State} (index : Nat) (keep : Keeps allowed s0 s) (hl : ∀ p ∈ ([.retire, .log, .packages, .corpus, .dram, .grf,
    .mover, .scan, .search, .host, .faults, .out, .regGlb, .regGrf, .regTier, .regScn, .regSrc, .regFtl] : List Component), p ∈ allowed) :
    Keeps allowed s0 (jobCommitEff s index) := by
  simp only [Machine.jobCommitEff]
  repeat' first
    | with_reducible assumption | ((with_reducible apply Component.sub hl); decide)
    | (with_reducible first | apply Keeps.commitJob | apply Keeps.commitQuery) | split

theorem Keeps.centroidScoresEff {s : State} (index : Nat) (keep : Keeps allowed s0 s) (hl : ∀ p ∈ ([.search] : List Component), p ∈ allowed) :
    Keeps allowed s0 (centroidScoresEff s index) := by
  simp only [Machine.centroidScoresEff]
  repeat' first
    | with_reducible assumption | ((with_reducible apply Component.sub hl); decide)
    | ((with_reducible apply Component.sub hl); simp (disch := decide); done) | (with_reducible first | apply Keeps.ite | apply Keeps.modQuery)
    | intro _ | split | (with_reducible refine Keeps.ofFst ?_ (by assumption))
    | (with_reducible first | refine Keeps.litSearch ?_ (hl _ (by decide)))

theorem Keeps.cacheUse {s : State} (v : CachedVec) (keep : Keeps allowed s0 s) (hl : ∀ p ∈ ([.search] : List Component), p ∈ allowed) :
    Keeps allowed s0 (cacheUse s v) := by
  simp only [Machine.cacheUse]
  repeat' first
    | with_reducible assumption | ((with_reducible apply Component.sub hl); decide)
    | ((with_reducible apply Component.sub hl); simp (disch := decide); done) | (with_reducible first | apply Keeps.ite) | intro _ | split
    | (with_reducible refine Keeps.ofFst ?_ (by assumption)) | (with_reducible first | refine Keeps.litSearch ?_ (hl _ (by decide)))

theorem Keeps.fetchVector {a : State × Query} (r : Region) (x : Index) (slabs : List Nat) (cacheBad : Bool) (c : Candidate) (keep : Keeps allowed
    s0 a.1) (hl : ∀ p ∈ ([.log, .corpus, .search, .regGlb, .regSrc] : List Component), p ∈ allowed) :
    Keeps allowed s0 (fetchVector r x slabs cacheBad a c).1 := by
  simp only [Machine.fetchVector]
  repeat' first
    | with_reducible assumption | ((with_reducible apply Component.sub hl); decide)
    | ((with_reducible apply Component.sub hl); simp (disch := decide); done)
    | (with_reducible first | apply Keeps.iteFst | apply Keeps.ite | apply Keeps.bump | apply Keeps.add64 | apply Keeps.cacheUse)
    | (with_reducible first | apply Keeps.foldState | apply Keeps.noteLost | apply Keeps.bumpBy) | intro _ | split
    | (with_reducible refine Keeps.ofFst ?_ (by assumption)) | (with_reducible first | refine Keeps.litSearch ?_ (hl _ (by decide)))

theorem Keeps.earlyPolish {a : State × Query} (r : Region) (x : Index) (p : Nat) (slabs : List Nat) (keep : Keeps allowed s0 a.1) (hl : ∀ p ∈
    ([.log, .corpus, .search, .regGlb, .regSrc] : List Component), p ∈ allowed) :
    Keeps allowed s0 (earlyPolish r x p slabs a).1 := by
  simp only [Machine.earlyPolish]
  repeat' first
    | with_reducible assumption | ((with_reducible apply Component.sub hl); decide)
    | ((with_reducible apply Component.sub hl); simp (disch := decide); done)
    | (with_reducible first | apply Keeps.iteFst | apply Keeps.ite | apply Keeps.foldlFst | apply Keeps.foldl | apply Keeps.fetchVector)
    | (with_reducible first | apply Keeps.bump) | intro _ | split | (with_reducible refine Keeps.ofFst ?_ (by assumption))

theorem Keeps.boundEntry {a : State × Query} (r : Region) (x : Index) (p : Nat) (slabs : List Nat) (e : Entry) (keep : Keeps allowed s0 a.1) (hl :
    ∀ p ∈ ([.log, .corpus, .search, .regGlb, .regSrc] : List Component), p ∈ allowed) :
    Keeps allowed s0 (boundEntry r x p slabs a e).1 := by
  simp only [Machine.boundEntry]
  repeat' first
    | with_reducible assumption | ((with_reducible apply Component.sub hl); decide)
    | ((with_reducible apply Component.sub hl); simp (disch := decide); done)
    | (with_reducible first | apply Keeps.iteFst | apply Keeps.ite | apply Keeps.earlyPolish) | intro _ | split
    | (with_reducible refine Keeps.ofFst ?_ (by assumption))

theorem Keeps.raspQuery {s : State} (r : Region) (x : Index) (p : Nat) (cluster : Nat) (slabs : List Nat) (lost : List Nat) (q : Query) (keep :
    Keeps allowed s0 s) (hl : ∀ p ∈ ([.log, .corpus, .search, .regGlb, .regSrc] : List Component), p ∈ allowed) :
    Keeps allowed s0 (raspQuery s r x p cluster slabs lost q) := by
  simp only [Machine.raspQuery]
  repeat' first
    | with_reducible assumption | ((with_reducible apply Component.sub hl); decide)
    | ((with_reducible apply Component.sub hl); simp (disch := decide); done)
    | (with_reducible first | apply Keeps.ite | apply Keeps.foldlFst | apply Keeps.foldl | apply Keeps.boundEntry | apply Keeps.add64)
    | (with_reducible first | apply Keeps.modQuery) | intro _ | split | (with_reducible refine Keeps.ofFst ?_ (by assumption))
    | (with_reducible first | refine Keeps.litSearch ?_ (hl _ (by decide)))

theorem Keeps.raspStall {s : State} (r : Region) (p : Nat) (pairs : Nat) (bytes : Nat) (keep : Keeps allowed s0 s) (hl : ∀ p ∈ ([.regScn] : List
    Component), p ∈ allowed) :
    Keeps allowed s0 (raspStall s r p pairs bytes) := by
  simp only [Machine.raspStall]
  repeat' first
    | with_reducible assumption | ((with_reducible apply Component.sub hl); decide)
    | ((with_reducible apply Component.sub hl); simp (disch := decide); done) | (with_reducible first | apply Keeps.ite | apply Keeps.stallInstr)
    | intro _ | split | (with_reducible refine Keeps.ofFst ?_ (by assumption))

theorem Keeps.raspBatchEff {s : State} (p : Nat) (region : Nat) (cluster : Nat) (lost : List Nat) (keep : Keeps allowed s0 s) (hl : ∀ p ∈ ([.log,
    .corpus, .search, .regGlb, .regScn, .regSrc] : List Component), p ∈ allowed) :
    Keeps allowed s0 (raspBatchEff s p region cluster lost) := by
  simp only [Machine.raspBatchEff]
  repeat' first
    | with_reducible assumption | ((with_reducible apply Component.sub hl); decide)
    | ((with_reducible apply Component.sub hl); simp (disch := decide); done)
    | (with_reducible first | apply Keeps.ite | apply Keeps.add64 | apply Keeps.raspStall | apply Keeps.foldState | apply Keeps.noteLost)
    | (with_reducible first | apply Keeps.bumpBy | apply Keeps.raspQuery) | intro _ | split | (with_reducible refine Keeps.ofFst ?_ (by assumption))

theorem Keeps.vectorFetchEff {s : State} (index : Nat) (p : Nat) (cacheBad : Bool) (lost : Bool) (keep : Keeps allowed s0 s) (hl : ∀ p ∈ ([.log,
    .corpus, .search, .regGlb, .regSrc] : List Component), p ∈ allowed) :
    Keeps allowed s0 (vectorFetchEff s index p cacheBad lost) := by
  simp only [Machine.vectorFetchEff]
  repeat' first
    | with_reducible assumption | ((with_reducible apply Component.sub hl); decide)
    | ((with_reducible apply Component.sub hl); simp (disch := decide); done)
    | (with_reducible first | apply Keeps.ite | apply Keeps.fetchVector | apply Keeps.modQuery) | intro _ | split
    | (with_reducible refine Keeps.ofFst ?_ (by assumption)) | ((with_reducible apply Component.sub hl); split <;> first | decide | (simp; done))

theorem Keeps.thresholdExchangeEff {s : State} (index : Nat) (src : Nat) (dst : Nat) (keep : Keeps allowed s0 s) (hl : ∀ p ∈ ([.search] : List
    Component), p ∈ allowed) :
    Keeps allowed s0 (thresholdExchangeEff s index src dst) := by
  simp only [Machine.thresholdExchangeEff]
  repeat' (with_reducible first | assumption | apply Keeps.modQuery)

theorem Keeps.writeResult {s : State} (q : Query) (keep : Keeps allowed s0 s) (hl : ∀ p ∈ ([.retire, .log, .dram, .mover, .search, .host, .faults,
    .out, .regGlb, .regTier, .regSrc] : List Component), p ∈ allowed) :
    Keeps allowed s0 (writeResult s q) := by
  simp only [Machine.writeResult]
  repeat' first
    | with_reducible assumption | ((with_reducible apply Component.sub hl); decide)
    | (with_reducible first | apply Keeps.slmWrite | apply Keeps.endQuery) | split

theorem Keeps.contextCompleteEff {s : State} (index : Nat) (p : Nat) (keep : Keeps allowed s0 s) (hl : ∀ p ∈ ([.retire, .log, .dram, .mover,
    .search, .host, .faults, .out, .regGlb, .regTier, .regSrc] : List Component), p ∈ allowed) :
    Keeps allowed s0 (contextCompleteEff s index p) := by
  simp only [Machine.contextCompleteEff]
  repeat' first
    | with_reducible assumption | ((with_reducible apply Component.sub hl); decide)
    | ((with_reducible apply Component.sub hl); simp (disch := decide); done)
    | (with_reducible first | apply Keeps.ite | apply Keeps.add64 | apply Keeps.modQuery | apply Keeps.showSearch | apply Keeps.writeResult)
    | intro _ | split

theorem Keeps.stopQuery {s : State} (q : Query) (st : Nat) (keep : Keeps allowed s0 s) (hl : ∀ p ∈ ([.retire, .log, .packages, .dram, .mover,
    .search, .host, .faults, .out, .regGlb, .regTier, .regSrc, .regFtl] : List Component), p ∈ allowed) :
    Keeps allowed s0 (stopQuery s q st) := by
  simp only [Machine.stopQuery]
  repeat' first
    | with_reducible assumption | ((with_reducible apply Component.sub hl); decide)
    | (with_reducible first | apply Keeps.scramble | apply Keeps.endQuery)

theorem Keeps.queryDeadlineEff {s : State} (index : Nat) (keep : Keeps allowed s0 s) (hl : ∀ p ∈ ([.retire, .log, .packages, .dram, .mover,
    .search, .host, .faults, .out, .regGlb, .regTier, .regSrc, .regFtl] : List Component), p ∈ allowed) :
    Keeps allowed s0 (queryDeadlineEff s index) := by
  simp only [Machine.queryDeadlineEff]
  repeat' first
    | with_reducible assumption | ((with_reducible apply Component.sub hl); decide)
    | ((with_reducible apply Component.sub hl); simp (disch := decide); done) | (with_reducible first | apply Keeps.ite | apply Keeps.stopQuery)
    | intro _ | split | (with_reducible refine Keeps.ofFst ?_ (by assumption))

theorem Keeps.compactList {s : State} (rtype : Nat) (id : Nat) (slab : Nat) (keep : Keeps allowed s0 s) (hl : ∀ p ∈ ([.packages, .corpus, .search,
    .regScn, .regFtl] : List Component), p ∈ allowed) :
    Keeps allowed s0 (compactList s rtype id slab) := by
  simp only [Machine.compactList]
  repeat' first
    | with_reducible assumption | ((with_reducible apply Component.sub hl); decide)
    | ((with_reducible apply Component.sub hl); simp (disch := decide); done)
    | (with_reducible first | apply Keeps.ite | apply Keeps.setIndex | apply Keeps.dropTombs | apply Keeps.writePieces | apply Keeps.foldState)
    | (with_reducible first | apply Keeps.freeSlabUnits | apply Keeps.showTombs | apply Keeps.bump) | intro _ | split
    | (with_reducible refine Keeps.ofFst ?_ (by assumption)) | (with_reducible first | refine Keeps.litSearch ?_ (hl _ (by decide)))

theorem Keeps.compactionEff {s : State} (region : Nat) (slab : Nat) (keep : Keeps allowed s0 s) (hl : ∀ p ∈ ([.packages, .corpus, .search,
    .regScn, .regFtl] : List Component), p ∈ allowed) :
    Keeps allowed s0 (compactionEff s region slab) := by
  simp only [Machine.compactionEff]
  repeat' first
    | with_reducible assumption | ((with_reducible apply Component.sub hl); decide)
    | ((with_reducible apply Component.sub hl); simp (disch := decide); done)
    | (with_reducible first | apply Keeps.ite | apply Keeps.compactSlab | apply Keeps.compactList) | intro _ | split
    | (with_reducible refine Keeps.ofFst ?_ (by assumption))

theorem Keeps.writeSrcCtrl {s : State} (p : Nat) (v : Nat) (keep : Keeps allowed s0 s) (hl : ∀ p ∈ ([.regGlb, .regSrc] : List Component), p ∈
    allowed) :
    Keeps allowed s0 (writeSrcCtrl s p v) := by
  simp only [Machine.writeSrcCtrl]
  repeat' first
    | with_reducible assumption | ((with_reducible apply Component.sub hl); decide)
    | ((with_reducible apply Component.sub hl); simp (disch := decide); done)
    | (with_reducible first | apply Keeps.ite | apply Keeps.setNat | apply Keeps.accErr) | intro _

theorem Keeps.writeQqSize {s : State} (v : Nat) (keep : Keeps allowed s0 s) (hl : ∀ p ∈ ([.regGlb, .regSrc] : List Component), p ∈ allowed) :
    Keeps allowed s0 (writeQqSize s v) := by
  simp only [Machine.writeQqSize]
  repeat' first
    | with_reducible assumption | ((with_reducible apply Component.sub hl); decide)
    | (with_reducible first | apply Keeps.ite | apply Keeps.setNat | apply Keeps.accErr) | intro _

theorem Keeps.writeQqBase {s : State} (off : Nat) (v : Nat) (keep : Keeps allowed s0 s) (hl : ∀ p ∈ ([.regGlb, .regSrc, regBlock off] : List Component), p ∈
    allowed) :
    Keeps allowed s0 (writeQqBase s off v) := by
  simp only [Machine.writeQqBase]
  repeat' first
    | with_reducible assumption | ((with_reducible apply Component.sub hl); simp (disch := decide); done)
    | (with_reducible first | apply Keeps.ite | apply Keeps.setNat | apply Keeps.accErr) | intro _

theorem Keeps.writeQqCancel {s : State} (v : Nat) (keep : Keeps allowed s0 s) (hl : ∀ p ∈ ([.retire, .log, .packages, .dram, .mover, .search, .host,
    .faults, .out, .regGlb, .regTier, .regSrc, .regFtl] : List Component), p ∈ allowed) :
    Keeps allowed s0 (writeQqCancel s v) := by
  simp only [Machine.writeQqCancel]
  repeat' first
    | (with_reducible first | assumption | apply Keeps.ite | apply Keeps.stopQuery) | intro _ | split
    | with_reducible refine Keeps.litSearch ?_  (hl _ (by decide))

theorem Keeps.abortQueries {s : State}  (keep : Keeps allowed s0 s) (hl : ∀ p ∈ ([.retire, .log, .packages, .dram, .mover, .search, .host, .faults,
    .out, .regGlb, .regTier, .regSrc, .regFtl] : List Component), p ∈ allowed) :
    Keeps allowed s0 (abortQueries s) := by
  simp only [Machine.abortQueries]
  repeat' first | (with_reducible first | assumption | apply Keeps.ite | apply Keeps.foldState | apply Keeps.stopQuery) | intro _

end Sys2Proof.Machine
end

