-- ==== Sys2Proof/Laws/KeepsFabric.lean ====
section
/-! SUPPORT. What every operation of Machine/Fabric.lean keeps: the queue, what lasts, the canonical forms, and every part of the state that
is not in its list. -/
set_option Elab.async false
set_option linter.all false
namespace Sys2Proof.Machine

variable {allowed : List Component} {s0 : State}

theorem Keeps.setTree {s : State} (t : Nat) (x : Tree) (keep : Keeps allowed s0 s) (hl : ∀ p ∈ ([.fabric] : List Component), p ∈ allowed) :
    Keeps allowed s0 (setTree s t x) := by
  simp only [Machine.setTree]
  repeat' (with_reducible first | assumption | refine Keeps.litFabric ?_  (hl _ (by decide)))

theorem Keeps.setTreeState {s : State} (t : Nat) (v : Nat) (keep : Keeps allowed s0 s) (hl : ∀ p ∈ ([.regFab] : List Component), p ∈ allowed) :
    Keeps allowed s0 (setTreeState s t v) := by
  simp only [Machine.setTreeState]
  repeat' first
    | with_reducible assumption | ((with_reducible apply Component.sub hl); simp (disch := decide); done) | with_reducible apply Keeps.setFld

theorem Keeps.sendWindow {s : State} (r : TreeRec) (p : Nat) (keep : Keeps allowed s0 s) (hl : ∀ p ∈ ([.fabric, .out, .regFab] : List Component), p ∈
    allowed) :
    Keeps allowed s0 (sendWindow s r p) := by
  simp only [Machine.sendWindow]
  repeat' first | (with_reducible first | assumption | apply Keeps.ite | apply Keeps.sendCtrl) | intro _

theorem Keeps.sendWindows {s : State} (r : TreeRec) (keep : Keeps allowed s0 s) (hl : ∀ p ∈ ([.fabric, .out, .regFab] : List Component), p ∈ allowed) :
    Keeps allowed s0 (sendWindows s r) := by
  simp only [Machine.sendWindows]
  repeat' first | (with_reducible first | assumption | apply Keeps.foldState | apply Keeps.sendWindow) | intro _

theorem Keeps.activate {s : State} (t : Nat) (keep : Keeps allowed s0 s) (hl : ∀ p ∈ ([.regFab] : List Component), p ∈ allowed) :
    Keeps allowed s0 (activate s t) := by
  simp only [Machine.activate]
  repeat' first | (with_reducible first | assumption | apply Keeps.ite | apply Keeps.setTreeState) | intro _

theorem Keeps.refreshMode {s : State} (r : TreeRec) (keep : Keeps allowed s0 s) (hl : ∀ p ∈ ([.regFab] : List Component), p ∈ allowed) :
    Keeps allowed s0 (refreshMode s r) := by
  simp only [Machine.refreshMode]
  repeat' first
    | with_reducible assumption | ((with_reducible apply Component.sub hl); decide)
    | ((with_reducible apply Component.sub hl); simp (disch := decide); done) | (with_reducible first | apply Keeps.ite | apply Keeps.setBit)
    | intro _ | split | (with_reducible refine Keeps.ofFst ?_ (by assumption))

theorem Keeps.freshStep {s : State} (r : TreeRec) (keep : Keeps allowed s0 s) (hl : ∀ p ∈ ([.fabric, .regFab, .regUpd] : List Component), p ∈
    allowed) :
    Keeps allowed s0 (freshStep s r) := by
  simp only [Machine.freshStep]
  repeat' first
    | with_reducible assumption | ((with_reducible apply Component.sub hl); decide)
    | ((with_reducible apply Component.sub hl); simp (disch := decide); done)
    | (with_reducible first | apply Keeps.ite | apply Keeps.setTree | apply Keeps.setBit | apply Keeps.setNat) | intro _ | split
    | (with_reducible refine Keeps.ofFst ?_ (by assumption))

theorem Keeps.logStep {s : State} (r : TreeRec) (aborted : Bool) (cause : Nat) (cur : Nat) (keep : Keeps allowed s0 s) (hl : ∀ p ∈ ([.fabric,
    .regUpd] : List Component), p ∈ allowed) :
    Keeps allowed s0 (logStep s r aborted cause cur) := by
  simp only [Machine.logStep]
  repeat' first
    | with_reducible assumption | ((with_reducible apply Component.sub hl); decide) | (with_reducible first | apply Keeps.ite | apply Keeps.setNat)
    | intro _ | split | with_reducible refine Keeps.litFabric ?_  (hl _ (by decide))

theorem Keeps.treeEvent {s : State} (t : Nat) (bit : Nat) (ctrl : Nat) (keep : Keeps allowed s0 s) (hl : ∀ p ∈ ([.host, .out, .regFab] : List
    Component), p ∈ allowed) :
    Keeps allowed s0 (treeEvent s t bit ctrl) := by
  simp only [Machine.treeEvent]
  repeat' first
    | with_reducible assumption | ((with_reducible apply Component.sub hl); decide)
    | (with_reducible first | apply Keeps.ite | apply Keeps.setBit | apply Keeps.notice) | intro _

theorem Keeps.toReady {s : State} (r : TreeRec) (keep : Keeps allowed s0 s) (hl : ∀ p ∈ ([.fabric, .regFab] : List Component), p ∈ allowed) :
    Keeps allowed s0 (toReady s r) := by
  simp only [Machine.toReady]
  repeat' first
    | with_reducible assumption | ((with_reducible apply Component.sub hl); decide)
    | ((with_reducible apply Component.sub hl); simp (disch := decide); done)
    | (with_reducible first | apply Keeps.ite | apply Keeps.setTreeState | apply Keeps.setTree | apply Keeps.activateOnPost) | intro _ | split
    | (with_reducible refine Keeps.ofFst ?_ (by assumption))

theorem Keeps.completeStep {s : State} (r : TreeRec) (keep : Keeps allowed s0 s) (hl : ∀ p ∈ ([.fabric, .host, .out, .regFab, .regUpd] : List
    Component), p ∈ allowed) :
    Keeps allowed s0 (completeStep s r) := by
  simp only [Machine.completeStep]
  repeat' first
    | with_reducible assumption | ((with_reducible apply Component.sub hl); decide)
    | ((with_reducible apply Component.sub hl); simp (disch := decide); done)
    | (with_reducible first | apply Keeps.ite | apply Keeps.setBit | apply Keeps.setFld | apply Keeps.logStep | apply Keeps.setNat)
    | (with_reducible first | apply Keeps.freshStep | apply Keeps.setTree | apply Keeps.treeEvent | apply Keeps.toReady | apply Keeps.sendWindows)
    | (with_reducible first | apply Keeps.refreshMode) | intro _ | split | (with_reducible refine Keeps.ofFst ?_ (by assumption))

theorem Keeps.abortTree {s : State} (r : TreeRec) (origin : Nat) (seg : Nat) (cause : Nat) (came : Option Nat) (keep : Keeps allowed s0 s) (hl : ∀
    p ∈ ([.fabric, .host, .out, .regFab, .regUpd] : List Component), p ∈ allowed) :
    Keeps allowed s0 (abortTree s r origin seg cause came) := by
  simp only [Machine.abortTree]
  repeat' first
    | with_reducible assumption | ((with_reducible apply Component.sub hl); decide)
    | ((with_reducible apply Component.sub hl); simp (disch := decide); done)
    | (with_reducible first | apply Keeps.ite | apply Keeps.logStep | apply Keeps.setTree | apply Keeps.setBit | apply Keeps.setNat)
    | (with_reducible first | apply Keeps.setFld | apply Keeps.setTreeState | apply Keeps.treeEvent | apply Keeps.foldState | apply Keeps.sendCtrl)
    | intro _ | split | (with_reducible refine Keeps.ofFst ?_ (by assumption))

theorem Keeps.leaveDown {s : State} (r : TreeRec) (keep : Keeps allowed s0 s) (hl : ∀ p ∈ ([.fabric, .out, .regFab, .regUpd] : List Component), p
    ∈ allowed) :
    Keeps allowed s0 (leaveDown s r) := by
  simp only [Machine.leaveDown]
  repeat' first
    | with_reducible assumption | ((with_reducible apply Component.sub hl); decide)
    | ((with_reducible apply Component.sub hl); simp (disch := decide); done)
    | (with_reducible first | apply Keeps.ite | apply Keeps.sendWindows | apply Keeps.refreshMode | apply Keeps.toReady | apply Keeps.freshStep)
    | intro _ | split | (with_reducible refine Keeps.ofFst ?_ (by assumption))

theorem Keeps.tellAdder {s : State} (r : TreeRec) (keep : Keeps allowed s0 s) (hl : ∀ p ∈ ([.fabric, .out, .regFab] : List Component), p ∈
    allowed) :
    Keeps allowed s0 (tellAdder s r) := by
  simp only [Machine.tellAdder]
  repeat' first
    | with_reducible assumption | ((with_reducible apply Component.sub hl); decide)
    | ((with_reducible apply Component.sub hl); simp (disch := decide); done) | (with_reducible first | apply Keeps.ite | apply Keeps.sendCtrl)
    | intro _ | split | (with_reducible refine Keeps.ofFst ?_ (by assumption))

theorem Keeps.markAdder {s : State} (r : TreeRec) (p : Nat) (gone : Bool) (keep : Keeps allowed s0 s) (hl : ∀ p ∈ ([.fabric] : List Component), p
    ∈ allowed) :
    Keeps allowed s0 (markAdder s r p gone) := by
  simp only [Machine.markAdder]
  repeat' first
    | with_reducible assumption | ((with_reducible apply Component.sub hl); decide)
    | ((with_reducible apply Component.sub hl); simp (disch := decide); done) | (with_reducible first | apply Keeps.ite | apply Keeps.setTree)
    | intro _ | split | (with_reducible refine Keeps.ofFst ?_ (by assumption))

theorem Keeps.modeChanged {s : State} (r : TreeRec) (keep : Keeps allowed s0 s) (hl : ∀ p ∈ ([.fabric, .out, .regFab] : List Component), p ∈
    allowed) :
    Keeps allowed s0 (modeChanged s r) := by
  simp only [Machine.modeChanged]
  repeat' first
    | with_reducible assumption | ((with_reducible apply Component.sub hl); decide)
    | ((with_reducible apply Component.sub hl); simp (disch := decide); done)
    | (with_reducible first | apply Keeps.ite | apply Keeps.sendWindows | apply Keeps.refreshMode | apply Keeps.tellAdder) | intro _ | split
    | (with_reducible refine Keeps.ofFst ?_ (by assumption))

theorem Keeps.portCameUp {s : State} (p : Nat) (keep : Keeps allowed s0 s) (hl : ∀ p ∈ ([.fabric, .out, .regFab, .regUpd] : List Component), p ∈
    allowed) :
    Keeps allowed s0 (portCameUp s p) := by
  simp only [Machine.portCameUp]
  repeat' first
    | with_reducible assumption | ((with_reducible apply Component.sub hl); decide)
    | ((with_reducible apply Component.sub hl); simp (disch := decide); done)
    | (with_reducible first | apply Keeps.ite | apply Keeps.pump | apply Keeps.foldState | apply Keeps.updateCensus | apply Keeps.tellAdder)
    | (with_reducible first | apply Keeps.leaveDown | apply Keeps.sendWindow) | intro _ | split
    | (with_reducible refine Keeps.ofFst ?_ (by assumption))

theorem Keeps.returned {s : State} (p : Nat) (keep : Keeps allowed s0 s) (hl : ∀ p ∈ ([.fabric, .out, .regFab] : List Component), p ∈ allowed) :
    Keeps allowed s0 (returned s p) := by
  simp only [Machine.returned]
  repeat' first
    | with_reducible assumption | ((with_reducible apply Component.sub hl); decide)
    | ((with_reducible apply Component.sub hl); simp (disch := decide); done)
    | (with_reducible first | apply Keeps.ite | apply Keeps.foldState | apply Keeps.modeChanged | apply Keeps.markAdder) | intro _ | split
    | (with_reducible refine Keeps.ofFst ?_ (by assumption))

theorem Keeps.internalUp {s : State} (p : Nat) (keep : Keeps allowed s0 s) (hl : ∀ p ∈ ([.packages, .fabric, .out, .regFab] : List Component), p ∈
    allowed) :
    Keeps allowed s0 (internalUp s p) := by
  simp only [Machine.internalUp]
  repeat' first
    | with_reducible assumption | ((with_reducible apply Component.sub hl); decide)
    | ((with_reducible apply Component.sub hl); simp (disch := decide); done)
    | (with_reducible first | apply Keeps.ite | apply Keeps.pump | apply Keeps.setPortState | apply Keeps.setPkg) | intro _ | split
    | (with_reducible refine Keeps.ofFst ?_ (by assumption)) | exact Nat.le_refl _

theorem Keeps.helloEff {s : State} (x : Rx) (m : HelloMsg) (keep : Keeps allowed s0 s) (hl : ∀ p ∈ ([.packages, .fabric, .out, .regFab, .regUpd] :
    List Component), p ∈ allowed) :
    Keeps allowed s0 (helloEff s x m) := by
  simp only [Machine.helloEff]
  repeat' first
    | with_reducible assumption | ((with_reducible apply Component.sub hl); decide)
    | ((with_reducible apply Component.sub hl); simp (disch := decide); done)
    | (with_reducible first | apply Keeps.ite | apply Keeps.arrive | apply Keeps.setFld | apply Keeps.setPort | apply Keeps.internalUp)
    | (with_reducible first | apply Keeps.setPortState | apply Keeps.portCameUp | apply Keeps.returned | apply Keeps.portLeft) | intro _ | split
    | (with_reducible refine Keeps.ofFst ?_ (by assumption))

theorem Keeps.departEff {s : State} (x : Rx) (keep : Keeps allowed s0 s) (hl : ∀ p ∈ ([.fabric, .out, .regFab] : List Component), p ∈ allowed) :
    Keeps allowed s0 (departEff s x) := by
  simp only [Machine.departEff]
  repeat' first
    | with_reducible assumption | ((with_reducible apply Component.sub hl); decide)
    | ((with_reducible apply Component.sub hl); simp (disch := decide); done)
    | (with_reducible first | apply Keeps.ite | apply Keeps.arrive | apply Keeps.setPort | apply Keeps.setFld | apply Keeps.setPortState)
    | (with_reducible first | apply Keeps.portLeft) | intro _ | split | (with_reducible refine Keeps.ofFst ?_ (by assumption))

theorem Keeps.departAll {s : State}  (keep : Keeps allowed s0 s) (hl : ∀ p ∈ ([.fabric, .out, .regFab] : List Component), p ∈ allowed) :
    Keeps allowed s0 (departAll s) := by
  simp only [Machine.departAll]
  repeat' first | (with_reducible first | assumption | apply Keeps.ite | apply Keeps.foldState | apply Keeps.sendCtrl) | intro _

theorem Keeps.censusEff {s : State} (x : Rx) (t : Nat) (count : Nat) (keep : Keeps allowed s0 s) (hl : ∀ p ∈ ([.fabric, .out, .regFab] : List
    Component), p ∈ allowed) :
    Keeps allowed s0 (censusEff s x t count) := by
  simp only [Machine.censusEff]
  repeat' first
    | with_reducible assumption | ((with_reducible apply Component.sub hl); decide)
    | ((with_reducible apply Component.sub hl); simp (disch := decide); done)
    | (with_reducible first | apply Keeps.ite | apply Keeps.arrive | apply Keeps.updateCensus | apply Keeps.setPort) | intro _ | split
    | (with_reducible refine Keeps.ofFst ?_ (by assumption))

theorem Keeps.releaseRacc {s : State} (r : TreeRec) (keep : Keeps allowed s0 s) (hl : ∀ p ∈ ([.fabric, .out, .regFab] : List Component), p ∈
    allowed) :
    Keeps allowed s0 (releaseRacc s r) := by
  simp only [Machine.releaseRacc]
  repeat' first
    | with_reducible assumption | ((with_reducible apply Component.sub hl); decide)
    | ((with_reducible apply Component.sub hl); simp (disch := decide); done)
    | (with_reducible first | apply Keeps.ite | apply Keeps.setTree | apply Keeps.foldState | apply Keeps.sendPacket | apply Keeps.activate)
    | intro _ | split | (with_reducible refine Keeps.ofFst ?_ (by assumption))

theorem Keeps.windowEff {s : State} (x : Rx) (t : Nat) (mode : Nat) (step : Nat) (base : Nat) (keep : Keeps allowed s0 s) (hl : ∀ p ∈ ([.fabric,
    .out, .regFab] : List Component), p ∈ allowed) :
    Keeps allowed s0 (windowEff s x t mode step base) := by
  simp only [Machine.windowEff]
  repeat' first
    | with_reducible assumption | ((with_reducible apply Component.sub hl); decide)
    | ((with_reducible apply Component.sub hl); simp (disch := decide); done)
    | (with_reducible first | apply Keeps.ite | apply Keeps.arrive | apply Keeps.setTree | apply Keeps.refreshMode | apply Keeps.releaseRacc)
    | (with_reducible first | apply Keeps.sendWindows) | intro _ | split | (with_reducible refine Keeps.ofFst ?_ (by assumption))

theorem Keeps.abortFlitEff {s : State} (x : Rx) (t : Nat) (origin : Nat) (step : Nat) (seg : Nat) (keep : Keeps allowed s0 s) (hl : ∀ p ∈
    ([.fabric, .host, .out, .regFab, .regUpd] : List Component), p ∈ allowed) :
    Keeps allowed s0 (abortFlitEff s x t origin step seg) := by
  simp only [Machine.abortFlitEff]
  repeat' first
    | with_reducible assumption | ((with_reducible apply Component.sub hl); decide)
    | ((with_reducible apply Component.sub hl); simp (disch := decide); done)
    | (with_reducible first | apply Keeps.ite | apply Keeps.arrive | apply Keeps.abortTree) | intro _ | split
    | (with_reducible refine Keeps.ofFst ?_ (by assumption))

theorem Keeps.modeEff {s : State} (x : Rx) (t : Nat) (flag : Nat) (keep : Keeps allowed s0 s) (hl : ∀ p ∈ ([.fabric, .out, .regFab] : List
    Component), p ∈ allowed) :
    Keeps allowed s0 (modeEff s x t flag) := by
  simp only [Machine.modeEff]
  repeat' first
    | with_reducible assumption | ((with_reducible apply Component.sub hl); decide)
    | ((with_reducible apply Component.sub hl); simp (disch := decide); done)
    | (with_reducible first | apply Keeps.ite | apply Keeps.arrive | apply Keeps.modeChanged | apply Keeps.markAdder) | intro _ | split
    | (with_reducible refine Keeps.ofFst ?_ (by assumption))

theorem Keeps.lateCopy {s : State}  (keep : Keeps allowed s0 s) (hl : ∀ p ∈ ([.regFab] : List Component), p ∈ allowed) :
    Keeps allowed s0 (lateCopy s) := by
  simp only [Machine.lateCopy]
  repeat' first | with_reducible assumption | ((with_reducible apply Component.sub hl); decide) | with_reducible apply Keeps.bump

theorem Keeps.startSeg {s : State} (t : Nat) (g : Nat) (keep : Keeps allowed s0 s) (hl : ∀ p ∈ ([.fabric] : List Component), p ∈ allowed) :
    Keeps allowed s0 (startSeg s t g) := by
  simp only [Machine.startSeg]
  repeat' first
    | with_reducible assumption | ((with_reducible apply Component.sub hl); decide)
    | ((with_reducible apply Component.sub hl); simp (disch := decide); done) | (with_reducible first | apply Keeps.ite | apply Keeps.setTree)
    | intro _ | split | (with_reducible refine Keeps.ofFst ?_ (by assumption))

theorem Keeps.takeCopy {s : State} (r : TreeRec) (p : Nat) (k : Packet) (keep : Keeps allowed s0 s) (hl : ∀ p ∈ ([.fabric, .regFab] : List
    Component), p ∈ allowed) :
    Keeps allowed s0 (takeCopy s r p k) := by
  simp only [Machine.takeCopy]
  repeat' first
    | with_reducible assumption | ((with_reducible apply Component.sub hl); decide)
    | ((with_reducible apply Component.sub hl); simp (disch := decide); done)
    | (with_reducible first | apply Keeps.ite | apply Keeps.startSeg | apply Keeps.activate | apply Keeps.setTree | apply Keeps.lateCopy)
    | (with_reducible first | apply Keeps.bump) | intro _ | split | (with_reducible refine Keeps.ofFst ?_ (by assumption))

theorem Keeps.treePacket {s : State} (x : Rx) (k : Packet) (up : Bool) (keep : Keeps allowed s0 s) (hl : ∀ p ∈ ([.fabric, .out, .regFab] : List
    Component), p ∈ allowed) :
    Keeps allowed s0 (treePacket s x k up).1 := by
  simp only [Machine.treePacket]
  repeat' first
    | with_reducible assumption | ((with_reducible apply Component.sub hl); decide)
    | ((with_reducible apply Component.sub hl); simp (disch := decide); done)
    | (with_reducible first | apply Keeps.iteFst | apply Keeps.ite | apply Keeps.arrivePacket | apply Keeps.bump) | intro _ | split
    | (with_reducible refine Keeps.ofFst ?_ (by assumption))

theorem Keeps.gradEff {s : State} (rx : Rx) (k : Packet) (keep : Keeps allowed s0 s) (hl : ∀ p ∈ ([.fabric, .out, .regFab] : List Component), p ∈
    allowed) :
    Keeps allowed s0 (gradEff s rx k) := by
  simp only [Machine.gradEff]
  repeat' first
    | with_reducible assumption | ((with_reducible apply Component.sub hl); decide)
    | ((with_reducible apply Component.sub hl); simp (disch := decide); done)
    | (with_reducible first | apply Keeps.ite | apply Keeps.treePacket | apply Keeps.lateCopy | apply Keeps.takeCopy) | intro _ | split
    | (with_reducible refine Keeps.ofFst ?_ (by assumption))

theorem Keeps.loseAdder {s : State} (r : TreeRec) (seg : Nat) (keep : Keeps allowed s0 s) (hl : ∀ p ∈ ([.log, .fabric, .host, .out, .regGlb,
    .regFab, .regUpd] : List Component), p ∈ allowed) :
    Keeps allowed s0 (loseAdder s r seg) := by
  simp only [Machine.loseAdder]
  repeat' first
    | with_reducible assumption | ((with_reducible apply Component.sub hl); decide)
    | ((with_reducible apply Component.sub hl); simp (disch := decide); done)
    | (with_reducible first | apply Keeps.ite | apply Keeps.setBit | apply Keeps.abortTree | apply Keeps.tellAdder | apply Keeps.interrupting)
    | intro _ | split | (with_reducible refine Keeps.ofFst ?_ (by assumption))

theorem Keeps.adderError {s : State} (r : TreeRec) (seg : Nat) (keep : Keeps allowed s0 s) (hl : ∀ p ∈ ([.retire, .log, .fabric, .host, .faults,
    .out, .regGlb, .regFab, .regUpd] : List Component), p ∈ allowed) :
    Keeps allowed s0 (adderError s r seg).1 := by
  simp only [Machine.adderError]
  repeat' first
    | with_reducible assumption | ((with_reducible apply Component.sub hl); decide)
    | (with_reducible first | apply Keeps.iteFst | apply Keeps.bump | apply Keeps.foldState | apply Keeps.transientFault)
    | (with_reducible first | apply Keeps.permanentFault | apply Keeps.retired | apply Keeps.loseAdder) | intro _ | split
    | (with_reducible refine Keeps.litNv ?_ ?_ (nretire := .inl (hl _ (by decide))))
    | ((with_reducible apply NvLasts.mk) <;> first | rfl | exact Nat.le_refl _ | exact fun _ h => h | exact satInc_ge _ | exact Nat.le_max_left _ _ | exact testBit_lor_left _ _ | exact List.subset_append_left _ _)

theorem Keeps.finishSeg {s : State} (r : TreeRec) (g : Nat) (keep : Keeps allowed s0 s) (hl : ∀ p ∈ ([.fabric, .out, .regFab] : List Component), p ∈
    allowed) :
    Keeps allowed s0 (finishSeg s r g) := by
  simp only [Machine.finishSeg]
  repeat' first
    | with_reducible assumption | ((with_reducible apply Component.sub hl); decide)
    | ((with_reducible apply Component.sub hl); simp (disch := decide); done)
    | (with_reducible first | apply Keeps.ite | apply Keeps.setNat | apply Keeps.setTree | apply Keeps.sendWindows) | intro _

theorem Keeps.takeBackups {s : State} (r : TreeRec) (g : Nat) (keep : Keeps allowed s0 s) (hl : ∀ p ∈ ([.fabric, .regFab] : List Component), p ∈
    allowed) :
    Keeps allowed s0 (takeBackups s r g) := by
  simp only [Machine.takeBackups]
  repeat' first
    | with_reducible assumption | ((with_reducible apply Component.sub hl); decide)
    | ((with_reducible apply Component.sub hl); simp (disch := decide); done)
    | (with_reducible first | apply Keeps.ite | apply Keeps.foldState | apply Keeps.bump | apply Keeps.setTree) | intro _ | split
    | (with_reducible refine Keeps.ofFst ?_ (by assumption))

theorem Keeps.sumPositions {s : State} (r : TreeRec) (g : Nat) (keep : Keeps allowed s0 s) (hl : ∀ p ∈ ([.fabric, .out, .regFab] : List
    Component), p ∈ allowed) :
    Keeps allowed s0 (sumPositions s r g) := by
  simp only [Machine.sumPositions]
  repeat' first
    | with_reducible assumption | ((with_reducible apply Component.sub hl); decide)
    | ((with_reducible apply Component.sub hl); simp (disch := decide); done)
    | (with_reducible first | apply Keeps.ite | apply Keeps.foldlFst | apply Keeps.foldl | apply Keeps.bumpBy | apply Keeps.activate)
    | (with_reducible first | apply Keeps.finishSeg | apply Keeps.setTree | apply Keeps.sendPacket) | intro _ | split
    | (with_reducible refine Keeps.ofFst ?_ (by assumption))

theorem Keeps.raccEff {s : State} (x : Rx) (k : Packet) (keep : Keeps allowed s0 s) (hl : ∀ p ∈ ([.fabric, .out, .regFab] : List Component), p ∈
    allowed) :
    Keeps allowed s0 (raccEff s x k) := by
  simp only [Machine.raccEff]
  repeat' first
    | with_reducible assumption | ((with_reducible apply Component.sub hl); decide)
    | ((with_reducible apply Component.sub hl); simp (disch := decide); done)
    | (with_reducible first | apply Keeps.ite | apply Keeps.treePacket | apply Keeps.releaseRacc | apply Keeps.setTree | apply Keeps.lateCopy)
    | (with_reducible first | apply Keeps.draw | apply Keeps.startSeg | apply Keeps.activate) | intro _ | split
    | (with_reducible refine Keeps.ofFst ?_ (by assumption))

theorem Keeps.raSegment {s : State} (r : TreeRec) (g : Nat) (keep : Keeps allowed s0 s) (hl : ∀ p ∈ ([.fabric, .out, .regFab] : List Component), p
    ∈ allowed) :
    Keeps allowed s0 (raSegment s r g) := by
  simp only [Machine.raSegment]
  repeat' first
    | with_reducible assumption | ((with_reducible apply Component.sub hl); decide)
    | ((with_reducible apply Component.sub hl); simp (disch := decide); done)
    | (with_reducible first | apply Keeps.ite | apply Keeps.bumpBy | apply Keeps.activate | apply Keeps.finishSeg | apply Keeps.setTree)
    | (with_reducible first | apply Keeps.sendPacket) | intro _ | split | (with_reducible refine Keeps.ofFst ?_ (by assumption))

theorem Keeps.segmentSumEff {s : State} (t : Nat) (g : Nat) (residueBad : Bool) (keep : Keeps allowed s0 s) (hl : ∀ p ∈ ([.retire, .log, .fabric,
    .host, .faults, .out, .regGlb, .regFab, .regUpd] : List Component), p ∈ allowed) :
    Keeps allowed s0 (segmentSumEff s t g residueBad) := by
  simp only [Machine.segmentSumEff]
  repeat' first
    | with_reducible assumption | ((with_reducible apply Component.sub hl); decide)
    | (with_reducible first | apply Keeps.ite | apply Keeps.adderError | apply Keeps.takeBackups | apply Keeps.sumPositions)
    | with_reducible apply Keeps.raSegment | intro _ | split

theorem Keeps.expirePosition {s : State} (r : TreeRec) (g : Nat) (i : Nat) (keep : Keeps allowed s0 s) (hl : ∀ p ∈ ([.log, .fabric, .host, .out,
    .regGlb, .regFab, .regUpd] : List Component), p ∈ allowed) :
    Keeps allowed s0 (expirePosition r g s i) := by
  simp only [Machine.expirePosition]
  repeat' first
    | with_reducible assumption | ((with_reducible apply Component.sub hl); decide)
    | ((with_reducible apply Component.sub hl); simp (disch := decide); done)
    | (with_reducible first | apply Keeps.ite | apply Keeps.setTree | apply Keeps.bump | apply Keeps.abortTree | apply Keeps.interrupting) | intro _
    | split | (with_reducible refine Keeps.ofFst ?_ (by assumption))

theorem Keeps.raExpiry {s : State} (r : TreeRec) (g : Nat) (keep : Keeps allowed s0 s) (hl : ∀ p ∈ ([.fabric, .host, .out, .regFab, .regUpd] :
    List Component), p ∈ allowed) :
    Keeps allowed s0 (raExpiry s r g) := by
  simp only [Machine.raExpiry]
  repeat' first
    | with_reducible assumption | ((with_reducible apply Component.sub hl); decide)
    | ((with_reducible apply Component.sub hl); simp (disch := decide); done)
    | (with_reducible first | apply Keeps.ite | apply Keeps.bump | apply Keeps.abortTree | apply Keeps.bumpBy | apply Keeps.setTree) | intro _
    | split | (with_reducible refine Keeps.ofFst ?_ (by assumption))

theorem Keeps.reductionExpiry {s : State} (t : Nat) (g : Nat) (keep : Keeps allowed s0 s) (hl : ∀ p ∈ ([.log, .fabric, .host, .out, .regGlb,
    .regFab, .regUpd] : List Component), p ∈ allowed) :
    Keeps allowed s0 (reductionExpiry s t g) := by
  simp only [Machine.reductionExpiry]
  repeat' first
    | with_reducible assumption | ((with_reducible apply Component.sub hl); decide)
    | ((with_reducible apply Component.sub hl); simp (disch := decide); done)
    | (with_reducible first | apply Keeps.ite | apply Keeps.raExpiry | apply Keeps.takeBackups | apply Keeps.foldState | apply Keeps.expirePosition)
    | (with_reducible first | apply Keeps.bump) | intro _ | split | (with_reducible refine Keeps.ofFst ?_ (by assumption))

theorem Keeps.writeParam {s : State} (r : TreeRec) (k : Packet) (keep : Keeps allowed s0 s) (hl : ∀ p ∈ ([.retire, .log, .dram, .mover, .host,
    .faults, .out, .regGlb, .regTier, .regUpd] : List Component), p ∈ allowed) :
    Keeps allowed s0 (writeParam s r k) := by
  simp only [Machine.writeParam]
  repeat' first
    | with_reducible assumption | ((with_reducible apply Component.sub hl); decide)
    | ((with_reducible apply Component.sub hl); simp (disch := decide); done)
    | (with_reducible first | apply Keeps.ite | apply Keeps.bump | apply Keeps.slmWrite) | intro _

theorem Keeps.deliverParam {s : State} (r : TreeRec) (k : Packet) (keep : Keeps allowed s0 s) (hl : ∀ p ∈ ([.retire, .log, .dram, .mover, .fabric,
    .host, .faults, .out, .regGlb, .regTier, .regFab, .regUpd] : List Component), p ∈ allowed) :
    Keeps allowed s0 (deliverParam s r k) := by
  simp only [Machine.deliverParam]
  repeat' first
    | with_reducible assumption | ((with_reducible apply Component.sub hl); decide)
    | (with_reducible first | apply Keeps.ite | apply Keeps.foldState | apply Keeps.sendPacket | apply Keeps.setTree | apply Keeps.completeStep)
    | with_reducible apply Keeps.writeParam | intro _

theorem Keeps.paramEff {s : State} (x : Rx) (k : Packet) (keep : Keeps allowed s0 s) (hl : ∀ p ∈ ([.retire, .log, .dram, .mover, .fabric, .host,
    .faults, .out, .regGlb, .regTier, .regFab, .regUpd] : List Component), p ∈ allowed) :
    Keeps allowed s0 (paramEff s x k) := by
  simp only [Machine.paramEff]
  repeat' first
    | with_reducible assumption | ((with_reducible apply Component.sub hl); decide)
    | ((with_reducible apply Component.sub hl); simp (disch := decide); done)
    | (with_reducible first | apply Keeps.ite | apply Keeps.treePacket | apply Keeps.deliverParam) | intro _ | split
    | (with_reducible refine Keeps.ofFst ?_ (by assumption))

theorem Keeps.writeTreeStep {s : State} (t : Nat) (v : Nat) (keep : Keeps allowed s0 s) (hl : ∀ p ∈ ([.fabric, .out, .regGlb, .regFab, .regUpd] :
    List Component), p ∈ allowed) :
    Keeps allowed s0 (writeTreeStep s t v) := by
  simp only [Machine.writeTreeStep]
  repeat' first
    | with_reducible assumption | ((with_reducible apply Component.sub hl); decide)
    | ((with_reducible apply Component.sub hl); simp (disch := decide); done)
    | (with_reducible first | apply Keeps.ite | apply Keeps.accErr | apply Keeps.setNat | apply Keeps.sendWindows | apply Keeps.refreshMode)
    | (with_reducible first | apply Keeps.activateOnPost | apply Keeps.freshStep) | intro _ | split
    | (with_reducible refine Keeps.ofFst ?_ (by assumption))

theorem Keeps.writePostCount {s : State} (t : Nat) (count : Nat) (keep : Keeps allowed s0 s) (hl : ∀ p ∈ ([.fabric, .regGlb, .regFab] : List
    Component), p ∈ allowed) :
    Keeps allowed s0 (writePostCount s t count) := by
  simp only [Machine.writePostCount]
  repeat' first
    | with_reducible assumption | ((with_reducible apply Component.sub hl); decide)
    | (with_reducible first | apply Keeps.ite | apply Keeps.accErr | apply Keeps.addPosts) | intro _ | split

theorem Keeps.treeCommand {s : State} (r : TreeRec) (cmd : Nat) (keep : Keeps allowed s0 s) (hl : ∀ p ∈ ([.fabric, .host, .out, .regGlb, .regFab,
    .regUpd] : List Component), p ∈ allowed) :
    Keeps allowed s0 (treeCommand s r cmd) := by
  simp only [Machine.treeCommand]
  repeat' first
    | with_reducible assumption | ((with_reducible apply Component.sub hl); decide)
    | ((with_reducible apply Component.sub hl); simp (disch := decide); done)
    | (with_reducible first | apply Keeps.ite | apply Keeps.abortTree | apply Keeps.freshStep | apply Keeps.setTree | apply Keeps.sendWindows)
    | (with_reducible first | apply Keeps.refreshMode | apply Keeps.toReady | apply Keeps.accErr | apply Keeps.setTreeState) | intro _ | split
    | (with_reducible refine Keeps.ofFst ?_ (by assumption))

theorem Keeps.writeTreeCtrl {s : State} (t : Nat) (v : Nat) (keep : Keeps allowed s0 s) (hl : ∀ p ∈ ([.fabric, .host, .out, .regGlb, .regFab,
    .regUpd] : List Component), p ∈ allowed) :
    Keeps allowed s0 (writeTreeCtrl s t v) := by
  simp only [Machine.writeTreeCtrl]
  repeat' first
    | with_reducible assumption | ((with_reducible apply Component.sub hl); decide)
    | ((with_reducible apply Component.sub hl); simp (disch := decide); done)
    | (with_reducible first | apply Keeps.ite | apply Keeps.setFld | apply Keeps.accErr | apply Keeps.sendWindows | apply Keeps.refreshMode)
    | with_reducible apply Keeps.treeCommand | intro _ | split

theorem Keeps.peerPackets {s : State} (p : Nat) (dst : Nat) (x0 : Nat) (x1 : Nat) (x2 : List Byte) (keep : Keeps allowed s0 s) (hl : ∀ p ∈
    ([.fabric, .out, .regFab] : List Component), p ∈ allowed) :
    Keeps allowed s0 (peerPackets s p dst x0 x1 x2) := by
  induction x0 generalizing s p dst x1 x2 with
  | zero =>
    simp only [Machine.peerPackets]
    repeat' (with_reducible first | assumption | apply Keeps.sendPacket)
  | succ _ ih =>
    simp only [Machine.peerPackets]
    repeat' (with_reducible first | apply ih | assumption | apply Keeps.sendPacket)

theorem Keeps.endPeer {s : State} (result : Nat) (keep : Keeps allowed s0 s) (hl : ∀ p ∈ ([.regFab] : List Component), p ∈ allowed) :
    Keeps allowed s0 (endPeer s result) := by
  simp only [Machine.endPeer]
  repeat' first | with_reducible assumption | ((with_reducible apply Component.sub hl); decide) | with_reducible apply Keeps.setNat

theorem Keeps.startPeer {s : State}  (keep : Keeps allowed s0 s) (hl : ∀ p ∈ ([.retire, .log, .dram, .mover, .fabric, .host, .faults, .out, .regGlb,
    .regTier, .regFab] : List Component), p ∈ allowed) :
    Keeps allowed s0 (startPeer s) := by
  simp only [Machine.startPeer]
  repeat' first
    | with_reducible assumption | ((with_reducible apply Component.sub hl); decide)
    | (with_reducible first | apply Keeps.ite | apply Keeps.setNat | apply Keeps.accErr | apply Keeps.readRange | apply Keeps.peerPackets)
    | with_reducible apply Keeps.endPeer | intro _ | split | with_reducible refine Keeps.litFabric ?_  (hl _ (by decide))

theorem Keeps.writePeerCtrl {s : State} (v : Nat) (keep : Keeps allowed s0 s) (hl : ∀ p ∈ ([.retire, .log, .dram, .mover, .fabric, .host, .faults,
    .out, .regGlb, .regTier, .regFab] : List Component), p ∈ allowed) :
    Keeps allowed s0 (writePeerCtrl s v) := by
  simp only [Machine.writePeerCtrl]
  repeat' first
    | with_reducible assumption | ((with_reducible apply Component.sub hl); decide)
    | (with_reducible first | apply Keeps.ite | apply Keeps.setFld | apply Keeps.startPeer) | intro _

theorem Keeps.peerAckEff {s : State} (x : Rx) (result : Nat) (bytes : Nat) (keep : Keeps allowed s0 s) (hl : ∀ p ∈ ([.fabric, .out, .regFab] :
    List Component), p ∈ allowed) :
    Keeps allowed s0 (peerAckEff s x result bytes) := by
  simp only [Machine.peerAckEff]
  repeat' first
    | with_reducible assumption | ((with_reducible apply Component.sub hl); decide)
    | ((with_reducible apply Component.sub hl); simp (disch := decide); done)
    | (with_reducible first | apply Keeps.ite | apply Keeps.arrive | apply Keeps.endPeer) | intro _ | split
    | (with_reducible refine Keeps.ofFst ?_ (by assumption)) | (with_reducible first | refine Keeps.litFabric ?_ (hl _ (by decide)))

theorem Keeps.peerWrEff {s : State} (x : Rx) (k : Packet) (keep : Keeps allowed s0 s) (hl : ∀ p ∈ ([.retire, .log, .dram, .mover, .fabric, .host,
    .faults, .out, .regGlb, .regTier, .regFab] : List Component), p ∈ allowed) :
    Keeps allowed s0 (peerWrEff s x k) := by
  simp only [Machine.peerWrEff]
  repeat' first
    | with_reducible assumption | ((with_reducible apply Component.sub hl); decide)
    | ((with_reducible apply Component.sub hl); simp (disch := decide); done)
    | (with_reducible first | apply Keeps.ite | apply Keeps.arrivePacket | apply Keeps.bump | apply Keeps.slmWrite | apply Keeps.sendCtrl) | intro _
    | split | (with_reducible refine Keeps.ofFst ?_ (by assumption))

end Sys2Proof.Machine
end

