-- ==== Sys2Proof/Laws/KeepsUpdate.lean ====
section
/-! SUPPORT. What every operation of Machine/Update.lean keeps: the queue, what lasts, the canonical forms, and every part of the state that
is not in its list. -/
set_option Elab.async false
set_option linter.all false
namespace Sys2Proof.Machine

variable {allowed : List Component} {s0 : State}

theorem Keeps.loadProgSlot {s : State} (slot : Nat) (keep : Keeps allowed s0 s) (hl : ∀ p ∈ ([.regUpd] : List Component), p ∈ allowed) :
    Keeps allowed s0 (loadProgSlot s slot) := by
  simp only [Machine.loadProgSlot]
  repeat' first
    | with_reducible assumption | ((with_reducible apply Component.sub hl); decide)
    | (with_reducible first | apply Keeps.ite | apply Keeps.setFld | apply Keeps.setBit | apply Keeps.draw) | intro _ | split
    | (with_reducible refine Keeps.setWords _ _ .regUpd (fun i h => regBlock_of_upd (by unfold UPD_SLOT; omega) (by rw [List.length_map, List.length_range] at h; unfold UPD_SLOT; omega)) ?_ (Component.sub hl (by decide)))

theorem Keeps.writeProgCtrl {s : State} (v : Nat) (keep : Keeps allowed s0 s) (hl : ∀ p ∈ ([.regUpd] : List Component), p ∈ allowed) :
    Keeps allowed s0 (writeProgCtrl s v) := by
  simp only [Machine.writeProgCtrl]
  repeat' first
    | with_reducible assumption | ((with_reducible apply Component.sub hl); decide)
    | (with_reducible first | apply Keeps.ite | apply Keeps.setFld | apply Keeps.setBit | apply Keeps.loadProgSlot) | intro _

theorem Keeps.writeUpdLogSel {s : State} (v : Nat) (keep : Keeps allowed s0 s) (hl : ∀ p ∈ ([.regUpd] : List Component), p ∈ allowed) :
    Keeps allowed s0 (writeUpdLogSel s v) := by
  simp only [Machine.writeUpdLogSel]
  repeat' first
    | with_reducible assumption | ((with_reducible apply Component.sub hl); decide) | with_reducible apply Keeps.setNat
    | (with_reducible refine Keeps.setWords _ _ .regUpd (fun i h => regBlock_of_upd (by unfold UPD_LOG_DATA; omega) (by rw [List.length_map, List.length_range] at h; unfold UPD_LOG_DATA; omega)) ?_ (Component.sub hl (by decide)))

theorem Keeps.updAbort {s : State} (r : TreeRec) (g : Nat) (cause : Nat) (keep : Keeps allowed s0 s) (hl : ∀ p ∈ ([.fabric, .host, .out, .regFab,
    .regUpd] : List Component), p ∈ allowed) :
    Keeps allowed s0 (updAbort s r g cause) := by
  simp only [Machine.updAbort]
  repeat' first
    | with_reducible assumption | ((with_reducible apply Component.sub hl); simp (disch := decide); done)
    | (with_reducible first | apply Keeps.setFld | apply Keeps.abortTree)

theorem Keeps.latchLr {s : State} (t : Nat) (keep : Keeps allowed s0 s) (hl : ∀ p ∈ ([.regUpd] : List Component), p ∈ allowed) :
    Keeps allowed s0 (latchLr s t) := by
  simp only [Machine.latchLr]
  repeat' first
    | with_reducible assumption | ((with_reducible apply Component.sub hl); decide)
    | ((with_reducible apply Component.sub hl); simp (disch := decide); done) | (with_reducible first | apply Keeps.setReg | apply Keeps.setBit)

theorem Keeps.runSegment {s : State} (r : TreeRec) (g : Nat) (sum : List Word) (nflags : Nat) (flags : Nat) (masters : List Byte) (states : List
    Byte) (keep : Keeps allowed s0 s) (hl : ∀ p ∈ ([.retire, .log, .dram, .mover, .fabric, .host, .faults, .out, .regGlb, .regTier, .regFab,
    .regUpd] : List Component), p ∈ allowed) :
    Keeps allowed s0 (runSegment s r g sum nflags flags masters states) := by
  simp only [Machine.runSegment]
  repeat' first
    | with_reducible assumption | ((with_reducible apply Component.sub hl); decide)
    | ((with_reducible apply Component.sub hl); simp (disch := decide); done)
    | (with_reducible first | apply Keeps.ite | apply Keeps.foldlFst | apply Keeps.foldl | apply Keeps.slmWrite | apply Keeps.interrupting)
    | (with_reducible first | apply Keeps.updAbort | apply Keeps.setFld | apply Keeps.bump | apply Keeps.add64 | apply Keeps.deliverParam)
    | (with_reducible first | apply Keeps.setTree) | intro _ | split | (with_reducible refine Keeps.ofFst ?_ (by assumption))

theorem Keeps.updateSegmentEff {s : State} (t : Nat) (g : Nat) (keep : Keeps allowed s0 s) (hl : ∀ p ∈ ([.retire, .log, .dram, .mover, .fabric,
    .host, .faults, .out, .regGlb, .regTier, .regFab, .regUpd] : List Component), p ∈ allowed) :
    Keeps allowed s0 (updateSegmentEff s t g) := by
  simp only [Machine.updateSegmentEff]
  repeat' first
    | with_reducible assumption | ((with_reducible apply Component.sub hl); decide)
    | ((with_reducible apply Component.sub hl); simp (disch := decide); done)
    | (with_reducible first | apply Keeps.ite | apply Keeps.updAbort | apply Keeps.setFld | apply Keeps.setTree | apply Keeps.bump)
    | (with_reducible first | apply Keeps.setBit | apply Keeps.latchLr | apply Keeps.readRange | apply Keeps.runSegment | apply Keeps.interrupting)
    | intro _ | split | (with_reducible refine Keeps.ofFst ?_ (by assumption))

theorem Keeps.writeLrTag {s : State} (t : Nat) (v : Nat) (keep : Keeps allowed s0 s) (hl : ∀ p ∈ ([.regUpd] : List Component), p ∈ allowed) :
    Keeps allowed s0 (writeLrTag s t v) := by
  simp only [Machine.writeLrTag]
  repeat' first
    | with_reducible assumption | ((with_reducible apply Component.sub hl); decide)
    | ((with_reducible apply Component.sub hl); simp (disch := decide); done)
    | (with_reducible first | apply Keeps.ite | apply Keeps.setReg | apply Keeps.setNat | apply Keeps.bump | apply Keeps.latchLr) | intro _

theorem Keeps.lrWaitEff {s : State} (t : Nat) (keep : Keeps allowed s0 s) (hl : ∀ p ∈ ([.fabric, .host, .out, .regFab, .regUpd] : List Component),
    p ∈ allowed) :
    Keeps allowed s0 (lrWaitEff s t) := by
  simp only [Machine.lrWaitEff]
  repeat' first
    | with_reducible assumption | ((with_reducible apply Component.sub hl); decide)
    | ((with_reducible apply Component.sub hl); simp (disch := decide); done)
    | (with_reducible first | apply Keeps.ite | apply Keeps.updAbort | apply Keeps.setTree) | intro _ | split
    | (with_reducible refine Keeps.ofFst ?_ (by assumption))

theorem Keeps.writeUpdWindow {s : State} (t : Nat) (k : Nat) (v : Nat) (keep : Keeps allowed s0 s) (hl : ∀ p ∈ ([.regGlb, .regUpd] : List
    Component), p ∈ allowed) :
    Keeps allowed s0 (writeUpdWindow s t k v) := by
  simp only [Machine.writeUpdWindow]
  repeat' first
    | with_reducible assumption | ((with_reducible apply Component.sub hl); decide)
    | ((with_reducible apply Component.sub hl); simp (disch := decide); done)
    | (with_reducible first | apply Keeps.ite | apply Keeps.setNat | apply Keeps.accErr) | intro _

end Sys2Proof.Machine
end

