-- ==== Sys2Proof/Laws/KeepsHost.lean ====
section
/-! SUPPORT. What every operation of Machine/Host.lean keeps: the queue, what lasts, the canonical forms, and every part of the state that
is not in its list. -/
set_option Elab.async false
set_option linter.all false
namespace Sys2Proof.Machine

variable {allowed : List Component} {s0 : State}

theorem Keeps.drainRun {s : State} (id : Nat) (keep : Keeps allowed s0 s) (hl : ∀ p ∈ ([.retire, .log, .packages, .dram, .grf, .mover, .scan, .host,
    .faults, .out, .regGlb, .regArm, .regGrf, .regTier, .regFtl] : List Component), p ∈ allowed) :
    Keeps allowed s0 (drainRun s id) := by
  simp only [Machine.drainRun]
  repeat' first
    | with_reducible assumption | ((with_reducible apply Component.sub hl); decide)
    | (with_reducible first | apply Keeps.modRun | apply Keeps.finishRun)

theorem Keeps.dropTags {s : State}  (keep : Keeps allowed s0 s) (hl : ∀ p ∈ ([.grf] : List Component), p ∈ allowed) :
    Keeps allowed s0 (dropTags s) := by
  simp only [Machine.dropTags]
  repeat' (with_reducible first | assumption | refine Keeps.litGrf ?_  (hl _ (by decide)))

theorem Keeps.freeEnding {s : State}  (keep : Keeps allowed s0 s) (hl : ∀ p ∈ ([.grf, .regGrf] : List Component), p ∈ allowed) :
    Keeps allowed s0 (freeEnding s) := by
  simp only [Machine.freeEnding]
  repeat' first | (with_reducible first | assumption | apply Keeps.ite | apply Keeps.foldState | apply Keeps.setSeq) | intro _

theorem Keeps.abortSelfTest {s : State} (result : Nat) (keep : Keeps allowed s0 s) (hl : ∀ p ∈ ([.host] : List Component), p ∈ allowed) :
    Keeps allowed s0 (abortSelfTest s result) := by
  simp only [Machine.abortSelfTest]
  repeat' first | (with_reducible first | assumption | apply Keeps.ite) | intro _ | with_reducible refine Keeps.litHost ?_  (hl _ (by decide))

theorem Keeps.controllerReset {s : State}  (keep : Keeps allowed s0 s) (hl : ∀ p ∈ ([.retire, .log, .packages, .corpus, .dram, .grf, .mover, .scan, .search, .fabric, .host, .faults, .out, .regGlb, .regArm, .regGrf, .regTier, .regScn, .regSrc, .regFtl] : List Component), p ∈ allowed) :
    Keeps allowed s0 (controllerReset s) := by
  simp only [Machine.controllerReset]
  repeat' first
    | with_reducible assumption | ((with_reducible apply Component.sub hl); decide)
    | (with_reducible first | apply Keeps.setNat | apply Keeps.foldState | apply Keeps.abortSeqs | apply Keeps.abortJobs)
    | (with_reducible first | apply Keeps.abortQueries | apply Keeps.drainRun | apply Keeps.dropTags | apply Keeps.freeEnding)
    | with_reducible apply Keeps.abortSelfTest | intro _
    | (with_reducible refine Keeps.lit ?_ (hfabric := .inl (hl _ (by decide))) (hhost := .inl (hl _ (by decide))))

theorem Keeps.disableEff {s : State}  (keep : Keeps allowed s0 s) (hl : ∀ p ∈ ([.retire, .log, .packages, .corpus, .dram, .grf, .mover, .scan, .search, .fabric, .host, .faults, .out, .regGlb, .regArm, .regGrf, .regTier, .regScn, .regSrc, .regFtl] : List Component), p ∈ allowed) :
    Keeps allowed s0 (disableEff s) := by
  simp only [Machine.disableEff]
  repeat' first | (with_reducible first | assumption | apply Keeps.ite | apply Keeps.controllerReset) | intro _

theorem Keeps.enableEff {s : State} (crime : Bool) (keep : Keeps allowed s0 s) (hl : ∀ p ∈ ([.host] : List Component), p ∈ allowed) :
    Keeps allowed s0 (enableEff s crime) := by
  simp only [Machine.enableEff]
  repeat' first
    | (with_reducible first | assumption | apply Keeps.ite | apply Keeps.showRdy) | intro _
    | with_reducible refine Keeps.litHost ?_  (hl _ (by decide))

theorem Keeps.linkUpEff {s : State} (gen : Nat) (width : Nat) (flit : Bool) (keep : Keeps allowed s0 s) (hl : ∀ p ∈ ([.retire, .log, .packages,
    .dram, .mover, .host, .faults, .out, .regGlb, .regTier, .regHst, .regFtl] : List Component), p ∈ allowed) :
    Keeps allowed s0 (linkUpEff s gen width flit) := by
  simp only [Machine.linkUpEff]
  repeat' first
    | with_reducible assumption | ((with_reducible apply Component.sub hl); decide)
    | (with_reducible first | apply Keeps.ite | apply Keeps.setFld | apply Keeps.setBit | apply Keeps.postWaiting | apply Keeps.resumeHeld) | intro _
    | with_reducible refine Keeps.litHost ?_  (hl _ (by decide))

theorem Keeps.transferFails {s : State} (tag : CmdTag) (keep : Keeps allowed s0 s) (hl : ∀ p ∈ ([.host, .out, .regHst] : List Component), p ∈
    allowed) :
    Keeps allowed s0 (transferFails s tag) := by
  simp only [Machine.transferFails]
  repeat' first
    | with_reducible assumption | ((with_reducible apply Component.sub hl); decide)
    | (with_reducible first | apply Keeps.bump | apply Keeps.fail | refine Keeps.litHost ?_  (hl _ (by decide)))

theorem Keeps.sqTailEff {s : State} (sq : Nat) (tail : Nat) (keep : Keeps allowed s0 s) (hl : ∀ p ∈ ([.host, .out] : List Component), p ∈ allowed) :
    Keeps allowed s0 (sqTailEff s sq tail) := by
  simp only [Machine.sqTailEff]
  repeat' first
    | with_reducible assumption | ((with_reducible apply Component.sub hl); decide)
    | (with_reducible first | apply Keeps.ite | apply Keeps.raiseEvent | apply Keeps.wakeUp) | intro _ | split
    | with_reducible refine Keeps.litHost ?_  (hl _ (by decide))

theorem Keeps.freePosted {s : State}  (keep : Keeps allowed s0 s) (hl : ∀ p ∈ ([.grf, .regGrf] : List Component), p ∈ allowed) :
    Keeps allowed s0 (freePosted s) := by
  simp only [Machine.freePosted]
  repeat' first | (with_reducible first | assumption | apply Keeps.ite | apply Keeps.foldState | apply Keeps.setSeq) | intro _

theorem Keeps.cqHeadEff {s : State} (cq : Nat) (head : Nat) (keep : Keeps allowed s0 s) (hl : ∀ p ∈ ([.grf, .host, .out, .regGrf] : List Component),
    p ∈ allowed) :
    Keeps allowed s0 (cqHeadEff s cq head) := by
  simp only [Machine.cqHeadEff]
  repeat' first
    | with_reducible assumption | ((with_reducible apply Component.sub hl); decide)
    | (with_reducible first | apply Keeps.ite | apply Keeps.postWaiting | apply Keeps.raiseEvent | apply Keeps.freePosted) | intro _ | split
    | with_reducible refine Keeps.litHost ?_  (hl _ (by decide))

theorem Keeps.fetchEff {s : State} (tag : CmdTag) (opcode : Nat) (nsid : Nat) (first : Nat) (count : Nat) (keep : Keeps allowed s0 s) (hl : ∀ p ∈
    ([.host, .out] : List Component), p ∈ allowed) :
    Keeps allowed s0 (fetchEff s tag opcode nsid first count) := by
  simp only [Machine.fetchEff]
  repeat' first
    | (with_reducible first | assumption | apply Keeps.ite | apply Keeps.fail) | intro _ | with_reducible refine Keeps.litHost ?_  (hl _ (by decide))

theorem Keeps.adminCmd {s t : State} (tag : CmdTag) (keep : Keeps allowed s0 s) (keep1 : Keeps allowed s0 t) (hl : ∀ p ∈ ([.host, .out] : List
    Component), p ∈ allowed) :
    Keeps allowed s0 (adminCmd s tag t) := by
  simp only [Machine.adminCmd]
  repeat' first | (with_reducible first | assumption | apply Keeps.ite | apply Keeps.fail) | intro _

theorem Keeps.createCq {s : State} (tag : CmdTag) (qid : Nat) (size : Nat) (vector : Nat) (keep : Keeps allowed s0 s) (hl : ∀ p ∈ ([.host, .out] :
    List Component), p ∈ allowed) :
    Keeps allowed s0 (createCq s tag qid size vector) := by
  simp only [Machine.createCq]
  repeat' first
    | (with_reducible first | assumption | apply Keeps.ite | apply Keeps.complete | apply Keeps.fail) | intro _
    | with_reducible refine Keeps.litHost ?_  (hl _ (by decide))

theorem Keeps.createSq {s : State} (tag : CmdTag) (qid : Nat) (size : Nat) (cqid : Nat) (keep : Keeps allowed s0 s) (hl : ∀ p ∈ ([.host, .out] :
    List Component), p ∈ allowed) :
    Keeps allowed s0 (createSq s tag qid size cqid) := by
  simp only [Machine.createSq]
  repeat' first
    | (with_reducible first | assumption | apply Keeps.ite | apply Keeps.complete | apply Keeps.fail) | intro _
    | with_reducible refine Keeps.litHost ?_  (hl _ (by decide))

theorem Keeps.deleteSq {s : State} (tag : CmdTag) (qid : Nat) (keep : Keeps allowed s0 s) (hl : ∀ p ∈ ([.host, .out] : List Component), p ∈ allowed)
    :
    Keeps allowed s0 (deleteSq s tag qid) := by
  simp only [Machine.deleteSq]
  repeat' first
    | (with_reducible first | assumption | apply Keeps.ite | apply Keeps.foldState | apply Keeps.complete | apply Keeps.fail)
    | with_reducible apply Keeps.endQuiet | intro _ | with_reducible refine Keeps.litHost ?_  (hl _ (by decide))

theorem Keeps.deleteCq {s : State} (tag : CmdTag) (qid : Nat) (keep : Keeps allowed s0 s) (hl : ∀ p ∈ ([.host, .out] : List Component), p ∈ allowed)
    :
    Keeps allowed s0 (deleteCq s tag qid) := by
  simp only [Machine.deleteCq]
  repeat' first
    | (with_reducible first | assumption | apply Keeps.ite | apply Keeps.complete | apply Keeps.fail) | intro _
    | with_reducible refine Keeps.litHost ?_  (hl _ (by decide))

theorem Keeps.abortCmd {s : State} (tag : CmdTag) (target : CmdTag) (keep : Keeps allowed s0 s) (hl : ∀ p ∈ ([.retire, .log, .packages, .tiles,
    .dram, .grf, .mover, .scan, .fabric, .host, .faults, .out, .regGlb, .regArm, .regGrf, .regTier, .regFab, .regFtl, .regTil] : List Component), p
    ∈ allowed) :
    Keeps allowed s0 (abortCmd s tag target) := by
  simp only [Machine.abortCmd]
  repeat' first
    | with_reducible assumption | ((with_reducible apply Component.sub hl); decide)
    | (with_reducible first | apply Keeps.ite | apply Keeps.complete | apply Keeps.endQuiet | apply Keeps.abortExecute) | intro _
    | with_reducible refine Keeps.litHost ?_  (hl _ (by decide))

theorem Keeps.aerCmd {s : State} (tag : CmdTag) (keep : Keeps allowed s0 s) (hl : ∀ p ∈ ([.host, .out] : List Component), p ∈ allowed) :
    Keeps allowed s0 (aerCmd s tag) := by
  simp only [Machine.aerCmd]
  repeat' first
    | (with_reducible first | assumption | apply Keeps.ite | apply Keeps.complete | apply Keeps.fail) | intro _ | split
    | with_reducible refine Keeps.litHost ?_  (hl _ (by decide))

theorem Keeps.beginEntry {s : State} (target : Nat) (keep : Keeps allowed s0 s) (hl : ∀ p ∈ ([.host, .regHst] : List Component), p ∈ allowed) :
    Keeps allowed s0 (beginEntry s target) := by
  simp only [Machine.beginEntry]
  repeat' first
    | with_reducible assumption | ((with_reducible apply Component.sub hl); decide) | (with_reducible first | apply Keeps.ite | apply Keeps.setBit)
    | intro _ | split | with_reducible refine Keeps.litHost ?_  (hl _ (by decide))

theorem Keeps.apstEff {s : State} (target : Nat) (keep : Keeps allowed s0 s) (hl : ∀ p ∈ ([.host, .regHst] : List Component), p ∈ allowed) :
    Keeps allowed s0 (apstEff s target) := by
  simp only [Machine.apstEff]
  repeat' first | (with_reducible first | assumption | apply Keeps.ite | apply Keeps.beginEntry) | intro _

theorem Keeps.psEntered {s : State}  (keep : Keeps allowed s0 s) (hl : ∀ p ∈ ([.host, .regHst] : List Component), p ∈ allowed) :
    Keeps allowed s0 (psEntered s) := by
  simp only [Machine.psEntered]
  repeat' first
    | with_reducible assumption | ((with_reducible apply Component.sub hl); decide)
    | (with_reducible first | apply Keeps.ite | apply Keeps.setFld | apply Keeps.setBit) | intro _
    | with_reducible refine Keeps.litHost ?_  (hl _ (by decide))

theorem Keeps.psExited {s : State}  (keep : Keeps allowed s0 s) (hl : ∀ p ∈ ([.retire, .log, .packages, .dram, .mover, .host, .faults, .out,
    .regGlb, .regTier, .regHst, .regFtl] : List Component), p ∈ allowed) :
    Keeps allowed s0 (psExited s) := by
  simp only [Machine.psExited]
  repeat' first
    | with_reducible assumption | ((with_reducible apply Component.sub hl); decide)
    | (with_reducible first | apply Keeps.ite | apply Keeps.setFld | apply Keeps.setBit | apply Keeps.resumeHeld) | intro _
    | with_reducible refine Keeps.litHost ?_  (hl _ (by decide))

end Sys2Proof.Machine
end

