-- ==== Sys2Proof/Laws/KeepsAdmin.lean ====
section
/-! SUPPORT. What every operation of Machine/Admin.lean keeps: the queue, what lasts, the canonical forms, and every part of the state that
is not in its list. -/
set_option Elab.async false
set_option linter.all false
namespace Sys2Proof.Machine

variable {allowed : List Component} {s0 : State}

theorem Keeps.giveData {s : State} (tag : CmdTag) (n : Nat) (fields : List (Nat × List Byte)) (keep : Keeps allowed s0 s) (hl : ∀ p ∈ ([.host, .out]
    : List Component), p ∈ allowed) :
    Keeps allowed s0 (giveData s tag n fields) := by
  simp only [Machine.giveData]
  repeat' first
    | with_reducible assumption | ((with_reducible apply Component.sub hl); decide)
    | (with_reducible first | apply Keeps.emit | apply Keeps.complete | apply Keeps.litFresh)

theorem Keeps.giveZeros {s : State} (tag : CmdTag) (n : Nat) (fields : List (Nat × List Byte)) (keep : Keeps allowed s0 s) (hl : ∀ p ∈ ([.host,
    .out] : List Component), p ∈ allowed) :
    Keeps allowed s0 (giveZeros s tag n fields) := by
  simp only [Machine.giveZeros]
  repeat' first
    | with_reducible assumption | ((with_reducible apply Component.sub hl); decide)
    | (with_reducible first | apply Keeps.emit | apply Keeps.complete)

theorem Keeps.reportCompute {s : State} (tag : CmdTag) (keep : Keeps allowed s0 s) (hl : ∀ p ∈ ([.out] : List Component), p ∈ allowed) :
    Keeps allowed s0 (reportCompute s tag) := by
  simp only [Machine.reportCompute]
  repeat' first
    | with_reducible assumption | ((with_reducible apply Component.sub hl); decide)
    | ((with_reducible apply Component.sub hl); simp (disch := decide); done) | (with_reducible first | apply Keeps.ite | apply Keeps.emit) | intro _
    | split | (with_reducible refine Keeps.ofFst ?_ (by assumption))

theorem Keeps.identifyCmd {s : State} (tag : CmdTag) (cns : Nat) (nsid : Nat) (keep : Keeps allowed s0 s) (hl : ∀ p ∈ ([.host, .out] : List
    Component), p ∈ allowed) :
    Keeps allowed s0 (identifyCmd s tag cns nsid) := by
  simp only [Machine.identifyCmd]
  repeat' first
    | with_reducible assumption | ((with_reducible apply Component.sub hl); decide)
    | ((with_reducible apply Component.sub hl); simp (disch := decide); done)
    | (with_reducible first | apply Keeps.ite | apply Keeps.foldlFst | apply Keeps.foldl | apply Keeps.giveData | apply Keeps.fail)
    | (with_reducible first | apply Keeps.reportCompute | apply Keeps.giveZeros) | intro _ | split
    | (with_reducible refine Keeps.ofFst ?_ (by assumption))

theorem Keeps.getFeatureCmd {s : State} (tag : CmdTag) (fid : Nat) (keep : Keeps allowed s0 s) (hl : ∀ p ∈ ([.host, .out] : List Component), p ∈
    allowed) :
    Keeps allowed s0 (getFeatureCmd s tag fid) := by
  simp only [Machine.getFeatureCmd]
  repeat' first
    | with_reducible assumption | ((with_reducible apply Component.sub hl); decide)
    | (with_reducible first | apply Keeps.ite | apply Keeps.emit | apply Keeps.complete | apply Keeps.fail) | intro _

theorem Keeps.setPowerState {s : State} (tag : CmdTag) (ps : Nat) (keep : Keeps allowed s0 s) (hl : ∀ p ∈ ([.host, .out, .regHst] : List Component),
    p ∈ allowed) :
    Keeps allowed s0 (setPowerState s tag ps) := by
  simp only [Machine.setPowerState]
  repeat' first
    | with_reducible assumption | ((with_reducible apply Component.sub hl); decide)
    | (with_reducible first | apply Keeps.ite | apply Keeps.setFld | apply Keeps.complete | apply Keeps.fail | apply Keeps.wakeUp)
    | with_reducible apply Keeps.beginEntry | intro _ | with_reducible refine Keeps.litHost ?_  (hl _ (by decide))

theorem Keeps.setFeatureCmd {s : State} (tag : CmdTag) (fid : Nat) (dw11 : Nat) (apst : List (Nat × Nat)) (keep : Keeps allowed s0 s) (hl : ∀ p ∈
    ([.host, .out, .regHst] : List Component), p ∈ allowed) :
    Keeps allowed s0 (setFeatureCmd s tag fid dw11 apst) := by
  simp only [Machine.setFeatureCmd]
  repeat' first
    | with_reducible assumption | ((with_reducible apply Component.sub hl); decide)
    | (with_reducible first | apply Keeps.ite | apply Keeps.setBit | apply Keeps.complete | apply Keeps.fail | apply Keeps.setPowerState) | intro _
    | split | with_reducible refine Keeps.litHost ?_  (hl _ (by decide))

theorem Keeps.showAlert {s : State}  (keep : Keeps allowed s0 s) (hl : ∀ p ∈ ([.regHst] : List Component), p ∈ allowed) :
    Keeps allowed s0 (showAlert s) := by
  simp only [Machine.showAlert]
  repeat' first | with_reducible assumption | ((with_reducible apply Component.sub hl); decide) | with_reducible apply Keeps.setBit

theorem Keeps.logPageCmd {s : State} (tag : CmdTag) (lid : Nat) (lsp : Nat) (nsid : Nat) (keep : Keeps allowed s0 s) (hl : ∀ p ∈ ([.log, .host,
    .out, .regFtl] : List Component), p ∈ allowed) :
    Keeps allowed s0 (logPageCmd s tag lid lsp nsid) := by
  simp only [Machine.logPageCmd]
  repeat' first
    | with_reducible assumption | ((with_reducible apply Component.sub hl); decide)
    | ((with_reducible apply Component.sub hl); simp (disch := decide); done)
    | (with_reducible first | apply Keeps.ite | apply Keeps.foldlFst | apply Keeps.foldl | apply Keeps.fail | apply Keeps.giveZeros)
    | (with_reducible first | apply Keeps.giveData | apply Keeps.complete | apply Keeps.emit | apply Keeps.foldState | apply Keeps.setBit) | intro _
    | split | (with_reducible refine Keeps.ofFst ?_ (by assumption))
    | (with_reducible first | refine Keeps.litHost ?_ (hl _ (by decide)) | refine Keeps.litNv ?_ ?_ (nlog := .inl (hl _ (by decide))) (hhost := .inl (hl _ (by decide))))
    | ((with_reducible apply NvLasts.mk) <;> first | rfl | exact Nat.le_refl _ | exact fun _ h => h | exact satInc_ge _ | exact Nat.le_max_left _ _ | exact testBit_lor_left _ _ | exact List.subset_append_left _ _)

theorem Keeps.fwDownload {s : State} (tag : CmdTag) (off : Nat) (data : List Byte) (keep : Keeps allowed s0 s) (hl : ∀ p ∈ ([.host, .out] : List
    Component), p ∈ allowed) :
    Keeps allowed s0 (fwDownload s tag off data) := by
  simp only [Machine.fwDownload]
  repeat' first
    | (with_reducible first | assumption | apply Keeps.ite | apply Keeps.complete | apply Keeps.fail) | intro _
    | with_reducible refine Keeps.litHost ?_  (hl _ (by decide))

theorem Keeps.showPending {s : State}  (keep : Keeps allowed s0 s) (hl : ∀ p ∈ ([.regGlb] : List Component), p ∈ allowed) :
    Keeps allowed s0 (showPending s) := by
  simp only [Machine.showPending]
  repeat' first
    | with_reducible assumption | ((with_reducible apply Component.sub hl); decide)
    | (with_reducible first | apply Keeps.setFld | apply Keeps.setBit)

theorem Keeps.storeFw {s : State} (slot : Nat) (f : FwImage) (keep : Keeps allowed s0 s) (hl : ∀ p ∈ ([.firmware] : List Component), p ∈ allowed) :
    Keeps allowed s0 (storeFw s slot f) := by
  simp only [Machine.storeFw]
  repeat' first
    | with_reducible assumption | split
    | (with_reducible refine Keeps.litNv ?_ ?_ (nfirmware := .inl (hl _ (by decide))))
    | ((with_reducible apply NvLasts.mk) <;> first | rfl | exact Nat.le_refl _ | exact fun _ h => h | exact satInc_ge _ | exact Nat.le_max_left _ _ | exact testBit_lor_left _ _ | exact List.subset_append_left _ _)

theorem Keeps.namePending {s : State} (slot : Nat) (keep : Keeps allowed s0 s) (hl : ∀ p ∈ ([.firmware, .regGlb] : List Component), p ∈ allowed) :
    Keeps allowed s0 (namePending s slot) := by
  simp only [Machine.namePending]
  repeat' first
    | with_reducible assumption | ((with_reducible apply Component.sub hl); decide) | with_reducible apply Keeps.showPending
    | (with_reducible refine Keeps.litNv ?_ ?_ (nfirmware := .inl (hl _ (by decide))))
    | ((with_reducible apply NvLasts.mk) <;> first | rfl | exact Nat.le_refl _ | exact fun _ h => h | exact satInc_ge _ | exact Nat.le_max_left _ _ | exact testBit_lor_left _ _ | exact List.subset_append_left _ _)

theorem Keeps.recoveryCommit {s : State} (tag : CmdTag) (action : Nat) (keep : Keeps allowed s0 s) (hl : ∀ p ∈ ([.firmware, .power, .host, .out,
    .regGlb] : List Component), p ∈ allowed) :
    Keeps allowed s0 (recoveryCommit s tag action) := by
  simp only [Machine.recoveryCommit]
  repeat' first
    | with_reducible assumption | ((with_reducible apply Component.sub hl); decide)
    | (with_reducible first | apply Keeps.ite | apply Keeps.complete | apply Keeps.fail | apply Keeps.storeFw | apply Keeps.namePending) | intro _
    | split
    | (with_reducible refine Keeps.litNv ?_ ?_ (nfirmware := .inl (hl _ (by decide))) (hpower := .inl (hl _ (by decide))))
    | ((with_reducible apply NvLasts.mk) <;> first | rfl | exact Nat.le_refl _ | exact fun _ h => h | exact satInc_ge _ | exact Nat.le_max_left _ _ | exact testBit_lor_left _ _ | exact List.subset_append_left _ _)

theorem Keeps.fwCommit {s : State} (tag : CmdTag) (slot : Nat) (action : Nat) (keep : Keeps allowed s0 s) (hl : ∀ p ∈ ([.firmware, .power, .host,
    .out, .regGlb] : List Component), p ∈ allowed) :
    Keeps allowed s0 (fwCommit s tag slot action) := by
  simp only [Machine.fwCommit]
  repeat' first
    | with_reducible assumption | ((with_reducible apply Component.sub hl); decide)
    | (with_reducible first | apply Keeps.ite | apply Keeps.complete | apply Keeps.fail | apply Keeps.endQuiet | apply Keeps.storeFw)
    | (with_reducible first | apply Keeps.namePending | apply Keeps.recoveryCommit) | intro _ | split

theorem Keeps.selfTestCmd {s : State} (tag : CmdTag) (stc : Nat) (keep : Keeps allowed s0 s) (hl : ∀ p ∈ ([.host, .out] : List Component), p ∈
    allowed) :
    Keeps allowed s0 (selfTestCmd s tag stc) := by
  simp only [Machine.selfTestCmd]
  repeat' first
    | with_reducible assumption | ((with_reducible apply Component.sub hl); decide)
    | (with_reducible first | apply Keeps.ite | apply Keeps.complete | apply Keeps.fail | apply Keeps.abortSelfTest) | intro _
    | with_reducible refine Keeps.litHost ?_  (hl _ (by decide))

end Sys2Proof.Machine
end

