-- ==== Sys2Proof/Laws/KeepsPower.lean ====
section
/-! SUPPORT. What every operation of Machine/Power.lean keeps: the queue, what lasts, the canonical forms, and every part of the state that
is not in its list. -/
set_option Elab.async false
set_option linter.all false
namespace Sys2Proof.Machine

variable {allowed : List Component} {s0 : State}

theorem Wseq.flushOldest {w0 : Nat} {x : Package} (n : Nat) (le : w0 ≤ x.wseq) : w0 ≤ (flushOldest x n).wseq := by
  simp only [Machine.flushOldest]
  repeat' first | with_reducible assumption | exact Nat.le_refl _ | split | dsimp only | omega

theorem Keeps.clearCore {s : State}  (keep : Keeps allowed s0 s) (hl : ∀ p ∈ ([.power, .loader, .tiles, .store, .dram, .grf, .mover, .scan, .search,
    .fabric, .host, .ledger, .sec] : List Component), p ∈ allowed) :
    Keeps allowed s0 (clearCore s) := by
  simp only [Machine.clearCore]
  repeat' first
    | with_reducible assumption | intro _
    | (with_reducible refine Keeps.litMem ?_ ?_ ?_ (hstore := .inl (hl _ (by decide))) (hdram := .inl (hl _ (by decide))) (hpower := .inl (hl _ (by decide))) (hloader := .inl (hl _ (by decide))) (htiles := .inl (hl _ (by decide))) (hgrf := .inl (hl _ (by decide))) (hmover := .inl (hl _ (by decide))) (hscan := .inl (hl _ (by decide))) (hsearch := .inl (hl _ (by decide))) (hfabric := .inl (hl _ (by decide))) (hhost := .inl (hl _ (by decide))) (hledger := .inl (hl _ (by decide))) (hsec := .inl (hl _ (by decide))))
    | ((with_reducible show Memory.wf [] = true); rfl)
    | ((with_reducible apply DramKeeps.mk) <;> (try dsimp only) <;> first | exact fun x => x | exact fun _ => rfl | exact Memory.wf_setBytes _ _ _ | exact Sparse.wf_set (0 : Byte) _ _ _ | exact Sparse.wf_set (0 : Nat) _ _ _ | exact Sparse.wf_filter (0 : Byte) _ _)

theorem Keeps.packageDown {s : State} (p : Nat) (keep : Keeps allowed s0 s) (hl : ∀ p ∈ ([.packages, .regFtl] : List Component), p ∈ allowed) :
    Keeps allowed s0 (packageDown s p) := by
  simp only [Machine.packageDown]
  repeat' first
    | with_reducible assumption | ((with_reducible apply Component.sub hl); decide)
    | ((with_reducible apply Component.sub hl); simp (disch := decide); done)
    | (with_reducible first | apply Keeps.setBit | apply Keeps.setPkg | apply Keeps.showFlushing | exact Nat.le_refl _) | split

theorem Keeps.beginStandby {s : State} (keep : Keeps allowed s0 s) (hl : ∀ p ∈ ([.power, .time, .bus, .loader, .tiles, .store, .dram, .grf, .mover, .scan, .search, .fabric, .host, .ledger, .sec, .faults, .regGlb, .regLed, .regArm, .regGrf, .regTier, .regFab, .regUpd, .regHst, .regScn, .regSrc, .regFtl, .regMed, .regTil] : List Component), p ∈ allowed) :
    Keeps allowed s0 (beginStandby s) :=
  Keeps.showCore (Keeps.afresh keep _ _ _ _ _ _ _ _ _ _ _ _ _ _ _ _ hl) (Component.sub hl (by decide))

theorem Keeps.poweredOff {s : State}  (keep : Keeps allowed s0 s) (hl : ∀ p ∈ ([.power, .time, .bus, .loader, .tiles, .store, .dram, .grf, .mover,
    .scan, .search, .fabric, .host, .ledger, .sec, .faults, .regGlb, .regLed, .regArm, .regGrf, .regTier, .regFab, .regUpd, .regHst, .regScn,
    .regSrc, .regFtl, .regMed, .regTil] : List Component), p ∈ allowed) :
    Keeps allowed s0 (poweredOff s) := by
  simp only [Machine.poweredOff]
  repeat' (with_reducible first | assumption | apply Keeps.beginStandby | refine Keeps.litPower ?_  (hl _ (by decide)))

theorem Keeps.downEnds {s : State}  (keep : Keeps allowed s0 s) (hl : ∀ p ∈ ([.power, .time, .bus, .loader, .tiles, .store, .dram, .grf, .mover,
    .scan, .search, .fabric, .host, .ledger, .sec, .faults, .regGlb, .regLed, .regArm, .regGrf, .regTier, .regFab, .regUpd, .regHst, .regScn,
    .regSrc, .regFtl, .regMed, .regTil] : List Component), p ∈ allowed) :
    Keeps allowed s0 (downEnds s) := by
  simp only [Machine.downEnds]
  repeat' first | (with_reducible first | assumption | apply Keeps.ite | apply Keeps.beginStandby | apply Keeps.poweredOff) | intro _ | split

theorem Keeps.tearSelector {s : State} (keep : Keeps allowed s0 s) (hl : ∀ p ∈ ([.slots] : List Component), p ∈ allowed) :
    Keeps allowed s0 (tearSelector s) := by
  simp only [Machine.tearSelector]
  repeat' first
    | with_reducible assumption | ((with_reducible apply Component.sub hl); decide)
    | ((with_reducible apply Component.sub hl); simp (disch := decide); done) | (with_reducible first | apply Keeps.ite | apply Keeps.draw) | intro _
    | split | (with_reducible refine Keeps.ofFst ?_ (by assumption))
    | (with_reducible first | refine Keeps.litNv ?_ ?_ (nslots := .inl (hl _ (by decide))) )
    | ((with_reducible apply NvLasts.mk) <;> first | rfl | exact Nat.le_refl _ | exact fun _ h => h | exact satInc_ge _ | exact Nat.le_max_left _ _ | exact testBit_lor_left _ _ | exact List.subset_append_left _ _)

theorem Keeps.powerDown {s : State} (c : DownCause) (keep : Keeps allowed s0 s) (hl : ∀ p ∈ ([.slots, .packages, .power, .time, .bus, .loader,
    .tiles, .store, .dram, .grf, .mover, .scan, .search, .fabric, .host, .ledger, .sec, .faults, .regGlb, .regLed, .regArm, .regGrf, .regTier,
    .regFab, .regUpd, .regHst, .regScn, .regSrc, .regFtl, .regMed, .regTil] : List Component), p ∈ allowed) :
    Keeps allowed s0 (powerDown s c) := by
  simp only [Machine.powerDown]
  repeat' first
    | with_reducible assumption | ((with_reducible apply Component.sub hl); decide)
    | ((with_reducible apply Component.sub hl); simp (disch := decide); done)
    | (with_reducible first | apply Keeps.ite | apply Keeps.downEnds | apply Keeps.tearSelector | apply Keeps.foldState | apply Keeps.packageDown)
    | (with_reducible first | apply Keeps.clearCore | apply Keeps.setNat) | intro _ | split | (with_reducible refine Keeps.ofFst ?_ (by assumption))
    | (with_reducible first | refine Keeps.litPower ?_ (hl _ (by decide)) | refine Keeps.litMem ?_ ?_ ?_ (hdram := .inl (hl _ (by decide))) (hpower := .inl (hl _ (by decide))))
    | ((with_reducible apply DramKeeps.mk) <;> (try dsimp only) <;> first | exact fun x => x | exact fun _ => rfl | exact Memory.wf_setBytes _ _ _ | exact Sparse.wf_set (0 : Byte) _ _ _ | exact Sparse.wf_set (0 : Nat) _ _ _ | exact Sparse.wf_filter (0 : Byte) _ _)
    | exact fun x => x | exact Memory.wf_setBytes _ _ _ | exact DramKeeps.refl _

theorem Keeps.powerFailureEff {s : State}  (keep : Keeps allowed s0 s) (hl : ∀ p ∈ ([.slots, .packages, .power, .time, .bus, .loader, .tiles, .store, .dram, .grf, .mover, .scan, .search, .fabric, .host, .ledger, .sec, .faults, .regGlb, .regLed, .regArm, .regGrf, .regTier, .regFab, .regUpd, .regHst, .regScn, .regSrc, .regFtl, .regMed, .regTil] : List Component), p ∈ allowed) :
    Keeps allowed s0 (powerFailureEff s) := by
  simp only [Machine.powerFailureEff]
  repeat' first
    | (with_reducible first | assumption | apply Keeps.ite | apply Keeps.powerDown) | intro _
    | with_reducible refine Keeps.litPower ?_  (hl _ (by decide))

theorem Keeps.dirtyListEff {s : State} (p : Nat) (keep : Keeps allowed s0 s) (hl : ∀ p ∈ ([.packages] : List Component), p ∈ allowed) :
    Keeps allowed s0 (dirtyListEff s p) := by
  simp only [Machine.dirtyListEff]
  repeat' first
    | (with_reducible first | assumption | apply Keeps.ite | apply Keeps.setPkg) | intro _ | ((with_reducible show (_ : Nat) ≤ _) <;> dsimp only)
    | omega

theorem Wseq.flushBut {w0 : Nat} {x : Package} (lost : List Nat) (le : w0 ≤ x.wseq) : w0 ≤ (flushBut x lost).wseq := by
  simp only [Machine.flushBut]
  omega

theorem Keeps.holdupDoneEff {s : State} (p : Nat) (lost : List Nat) (keep : Keeps allowed s0 s) (hl : ∀ p ∈ ([.packages, .regFtl] : List
    Component), p ∈ allowed) :
    Keeps allowed s0 (holdupDoneEff s p lost) := by
  simp only [Machine.holdupDoneEff]
  repeat' first
    | with_reducible assumption | ((with_reducible apply Component.sub hl); decide)
    | ((with_reducible apply Component.sub hl); simp (disch := decide); done)
    | (with_reducible first | apply Keeps.ite | apply Keeps.showDirty | apply Keeps.setPkg) | intro _ | split
    | (with_reducible refine Keeps.ofFst ?_ (by assumption)) | exact Nat.le_refl _ | apply Wseq.flushBut

theorem Keeps.sealEff {s : State} (p : Nat) (keep : Keeps allowed s0 s) (hl : ∀ p ∈ ([.packages, .power, .time, .bus, .loader, .tiles, .store,
    .dram, .grf, .mover, .scan, .search, .fabric, .host, .ledger, .sec, .faults, .regGlb, .regLed, .regArm, .regGrf, .regTier, .regFab, .regUpd,
    .regHst, .regScn, .regSrc, .regFtl, .regMed, .regTil] : List Component), p ∈ allowed) :
    Keeps allowed s0 (sealEff s p) := by
  simp only [Machine.sealEff]
  repeat' first
    | with_reducible assumption | ((with_reducible apply Component.sub hl); decide)
    | (with_reducible first | apply Keeps.ite | apply Keeps.setPkg | apply Keeps.downEnds) | intro _
    | ((with_reducible show (_ : Nat) ≤ _) <;> dsimp only) | omega

theorem Keeps.exhaustedEff {s : State} (p : Nat) (keep : Keeps allowed s0 s) (hl : ∀ p ∈ ([.packages, .power, .time, .bus, .loader, .tiles, .store,
    .dram, .grf, .mover, .scan, .search, .fabric, .host, .ledger, .sec, .faults, .regGlb, .regLed, .regArm, .regGrf, .regTier, .regFab, .regUpd,
    .regHst, .regScn, .regSrc, .regFtl, .regMed, .regTil] : List Component), p ∈ allowed) :
    Keeps allowed s0 (exhaustedEff s p) := by
  simp only [Machine.exhaustedEff]
  repeat' first
    | with_reducible assumption | ((with_reducible apply Component.sub hl); decide)
    | (with_reducible first | apply Keeps.ite | apply Keeps.draw | apply Keeps.setPkg | apply Keeps.downEnds | exact Wseq.draw_le _ _)
    | with_reducible apply Wseq.flushOldest | intro _

theorem Keeps.pwrdisEff {s : State}  (keep : Keeps allowed s0 s) (hl : ∀ p ∈ ([.slots, .packages, .power, .time, .bus, .loader, .tiles, .store, .dram, .grf, .mover, .scan, .search, .fabric, .host, .ledger, .sec, .faults, .regGlb, .regLed, .regArm, .regGrf, .regTier, .regFab, .regUpd, .regHst, .regScn, .regSrc, .regFtl, .regMed, .regTil] : List Component), p ∈ allowed) :
    Keeps allowed s0 (pwrdisEff s) := by
  simp only [Machine.pwrdisEff]
  repeat' first
    | (with_reducible first | assumption | apply Keeps.ite | apply Keeps.powerDown) | intro _
    | with_reducible refine Keeps.litPower ?_  (hl _ (by decide))

theorem Keeps.pwrdisDownEff {s : State}  (keep : Keeps allowed s0 s) (hl : ∀ p ∈ ([.power, .time, .bus, .loader, .tiles, .store, .dram, .grf,
    .mover, .scan, .search, .fabric, .host, .ledger, .sec, .faults, .regGlb, .regLed, .regArm, .regGrf, .regTier, .regFab, .regUpd, .regHst,
    .regScn, .regSrc, .regFtl, .regMed, .regTil] : List Component), p ∈ allowed) :
    Keeps allowed s0 (pwrdisDownEff s) := by
  simp only [Machine.pwrdisDownEff]
  repeat' first
    | (with_reducible first | assumption | apply Keeps.ite | apply Keeps.beginStandby) | intro _
    | with_reducible refine Keeps.litPower ?_  (hl _ (by decide))

theorem Keeps.overcurrentEff {s : State}  (keep : Keeps allowed s0 s) (hl : ∀ p ∈ ([.slots, .packages, .power, .time, .bus, .loader, .tiles, .store, .dram, .grf, .mover, .scan, .search, .fabric, .host, .ledger, .sec, .faults, .regGlb, .regLed, .regArm, .regGrf, .regTier, .regFab, .regUpd, .regHst, .regScn, .regSrc, .regFtl, .regMed, .regTil] : List Component), p ∈ allowed) :
    Keeps allowed s0 (overcurrentEff s) := by
  simp only [Machine.overcurrentEff]
  repeat' first
    | (with_reducible first | assumption | apply Keeps.ite | apply Keeps.powerDown) | intro _
    | with_reducible refine Keeps.litPower ?_  (hl _ (by decide))

theorem Keeps.tripNow {s : State} (interrupts : Bool) (keep : Keeps allowed s0 s) (hl : ∀ p ∈ ([.slots, .log, .packages, .power, .time, .bus, .loader, .tiles, .store, .dram, .grf, .mover, .scan, .search, .fabric, .host, .ledger, .sec, .faults, .regGlb, .regLed, .regArm, .regGrf, .regTier, .regFab, .regUpd, .regHst, .regScn, .regSrc, .regFtl, .regMed, .regTil] : List Component), p ∈ allowed) :
    Keeps allowed s0 (tripNow s interrupts) := by
  simp only [Machine.tripNow]
  repeat' first
    | with_reducible assumption | ((with_reducible apply Component.sub hl); decide)
    | (with_reducible first | apply Keeps.ite | apply Keeps.setBit | apply Keeps.interrupting | apply Keeps.powerDown) | intro _ | split
    | with_reducible refine Keeps.litPower ?_  (hl _ (by decide))

end Sys2Proof.Machine
end

