-- ==== Sys2Proof/Laws/KeepsLedgerSteps.lean ====
section
/-! SUPPORT. What every operation of Machine/LedgerSteps.lean keeps: the queue, what lasts, the canonical forms, and every part of the state that
is not in its list. -/
set_option Elab.async false
set_option linter.all false
namespace Sys2Proof.Machine

variable {allowed : List Component} {s0 : State}

theorem Keeps.meterDomain {s : State} (r : Readings) (d : Nat) (keep : Keeps allowed s0 s) (hl : ∀ p ∈ ([.ledger, .regLed] : List Component), p ∈
    allowed) :
    Keeps allowed s0 (meterDomain r s d) := by
  simp only [Machine.meterDomain]
  repeat' first
    | with_reducible assumption | ((with_reducible apply Component.sub hl); simp (disch := decide); done)
    | (with_reducible first | apply Keeps.ite | apply Keeps.setNat | apply Keeps.add64) | intro _
    | with_reducible refine Keeps.litLedger ?_  (hl _ (by decide))

theorem Keeps.meterAll {s : State} (r : Readings) (keep : Keeps allowed s0 s) (hl : ∀ p ∈ ([.ledger, .regLed] : List Component), p ∈ allowed) :
    Keeps allowed s0 (meterAll r s) := by
  simp only [Machine.meterAll]
  repeat' first
    | with_reducible assumption | ((with_reducible apply Component.sub hl); decide)
    | (with_reducible first | apply Keeps.setNat | apply Keeps.setFld | apply Keeps.add64 | apply Keeps.foldState | apply Keeps.meterDomain)
    | intro _ | with_reducible refine Keeps.litLedger ?_  (hl _ (by decide))

theorem Keeps.showRate {s : State} (r : Readings) (t : Nat) (keep : Keeps allowed s0 s) (hl : ∀ p ∈ ([.tiles, .regTil] : List Component), p ∈
    allowed) :
    Keeps allowed s0 (showRate r s t) := by
  simp only [Machine.showRate]
  repeat' first
    | with_reducible assumption | ((with_reducible apply Component.sub hl); decide)
    | ((with_reducible apply Component.sub hl); simp (disch := decide); done)
    | (with_reducible first | apply Keeps.ite | apply Keeps.setNat | apply Keeps.setTile) | intro _

theorem Keeps.attribute_ {s : State} (e : Nat) (total : Nat) (eta : Nat) (v : Nat) (k : Nat × Nat) (keep : Keeps allowed s0 s) (hl : ∀ p ∈ ([.grf] :
    List Component), p ∈ allowed) :
    Keeps allowed s0 (attribute_ e total eta v s k) := by
  simp only [Machine.attribute_]
  repeat' first | (with_reducible first | assumption | apply Keeps.ite | apply Keeps.modKernel) | intro _

theorem Keeps.attributeAll {s : State} (r : Readings) (keep : Keeps allowed s0 s) (hl : ∀ p ∈ ([.grf, .ledger] : List Component), p ∈ allowed) :
    Keeps allowed s0 (attributeAll r s) := by
  simp only [Machine.attributeAll]
  repeat' first
    | with_reducible assumption | ((with_reducible apply Component.sub hl); decide)
    | (with_reducible first | apply Keeps.foldState | apply Keeps.attribute_) | intro _
    | with_reducible refine Keeps.litLedger ?_  (hl _ (by decide))

theorem Keeps.applyBudgets {s : State} (r : Readings) (keep : Keeps allowed s0 s) (hl : ∀ p ∈ ([.ledger, .regLed] : List Component), p ∈ allowed) :
    Keeps allowed s0 (applyBudgets r s) := by
  simp only [Machine.applyBudgets]
  repeat' first
    | with_reducible assumption | ((with_reducible apply Component.sub hl); decide)
    | (with_reducible first | apply Keeps.setFld | apply Keeps.setBit | apply Keeps.draw | refine Keeps.litLedger ?_  (hl _ (by decide)))

theorem Keeps.ceilingStep {s : State} (top : Nat) (keep : Keeps allowed s0 s) (hl : ∀ p ∈ ([.ledger] : List Component), p ∈ allowed) :
    Keeps allowed s0 (ceilingStep s top) := by
  simp only [Machine.ceilingStep]
  repeat' first
    | (with_reducible first | assumption | apply Keeps.ite) | intro _ | split | with_reducible refine Keeps.litLedger ?_  (hl _ (by decide))

theorem Keeps.thermBit {s : State} (bit : Nat) (event : Nat) (on : Bool) (keep : Keeps allowed s0 s) (hl : ∀ p ∈ ([.regLed] : List Component), p ∈
    allowed) :
    Keeps allowed s0 (thermBit s bit event on) := by
  simp only [Machine.thermBit]
  repeat' first
    | with_reducible assumption | ((with_reducible apply Component.sub hl); decide) | (with_reducible first | apply Keeps.ite | apply Keeps.setBit)
    | intro _

theorem Keeps.thermal {s : State} (r : Readings) (keep : Keeps allowed s0 s) (hl : ∀ p ∈ ([.ledger, .regLed] : List Component), p ∈ allowed) :
    Keeps allowed s0 (thermal r s) := by
  simp only [Machine.thermal]
  repeat' first
    | with_reducible assumption | ((with_reducible apply Component.sub hl); decide)
    | (with_reducible first | apply Keeps.thermBit | refine Keeps.litLedger ?_  (hl _ (by decide)))

theorem Keeps.controlCore {s : State} (r : Readings) (keep : Keeps allowed s0 s) (hl : ∀ p ∈ ([.grf, .ledger, .regLed] : List Component), p ∈
    allowed) :
    Keeps allowed s0 (controlCore r s) := by
  simp only [Machine.controlCore]
  repeat' first
    | with_reducible assumption | ((with_reducible apply Component.sub hl); decide)
    | ((with_reducible apply Component.sub hl); simp (disch := decide); done)
    | (with_reducible first | apply Keeps.ite | apply Keeps.foldlFst | apply Keeps.foldl | apply Keeps.applyBudgets | apply Keeps.attributeAll)
    | (with_reducible first | apply Keeps.ceilingStep | apply Keeps.setBit | apply Keeps.bump | apply Keeps.setFld) | intro _ | split
    | (with_reducible refine Keeps.ofFst ?_ (by assumption)) | (with_reducible first | refine Keeps.litLedger ?_ (hl _ (by decide)))

theorem Keeps.sampleEff {s : State} (r : Readings) (keep : Keeps allowed s0 s) (hl : ∀ p ∈ ([.slots, .log, .packages, .power, .time, .bus,
    .loader, .tiles, .store, .dram, .grf, .mover, .scan, .search, .fabric, .host, .ledger, .sec, .faults, .regGlb, .regLed, .regArm, .regGrf,
    .regTier, .regFab, .regUpd, .regHst, .regScn, .regSrc, .regFtl, .regMed, .regTil] : List Component), p ∈ allowed) :
    Keeps allowed s0 (sampleEff r s) := by
  simp only [Machine.sampleEff]
  repeat' first
    | with_reducible assumption | ((with_reducible apply Component.sub hl); decide)
    | ((with_reducible apply Component.sub hl); simp (disch := decide); done)
    | (with_reducible first | apply Keeps.ite | apply Keeps.thermal | apply Keeps.meterAll | apply Keeps.foldState | apply Keeps.showRate)
    | (with_reducible first | apply Keeps.controlCore | apply Keeps.showAlert | apply Keeps.healthChanged | apply Keeps.tripNow) | intro _ | split
    | (with_reducible refine Keeps.ofFst ?_ (by assumption))

theorem Keeps.comparatorEff {s : State}  (keep : Keeps allowed s0 s) (hl : ∀ p ∈ ([.ledger, .regLed] : List Component), p ∈ allowed) :
    Keeps allowed s0 (comparatorEff s) := by
  simp only [Machine.comparatorEff]
  repeat' first
    | with_reducible assumption | ((with_reducible apply Component.sub hl); decide)
    | (with_reducible first | apply Keeps.ite | apply Keeps.setFld | apply Keeps.setBit | apply Keeps.bump) | intro _
    | with_reducible refine Keeps.litLedger ?_  (hl _ (by decide))

theorem Keeps.beginMeasure {s : State}  (keep : Keeps allowed s0 s) (hl : ∀ p ∈ ([.ledger, .regLed, .regFtl] : List Component), p ∈ allowed) :
    Keeps allowed s0 (beginMeasure s) := by
  simp only [Machine.beginMeasure]
  repeat' first
    | with_reducible assumption | ((with_reducible apply Component.sub hl); decide)
    | (with_reducible first | apply Keeps.ite | apply Keeps.setBit | apply Keeps.rewatermarkAll) | intro _
    | with_reducible refine Keeps.litLedger ?_  (hl _ (by decide))

theorem Keeps.bankChargedEff {s : State}  (keep : Keeps allowed s0 s) (hl : ∀ p ∈ ([.power, .ledger, .regLed, .regFtl] : List Component), p ∈
    allowed) :
    Keeps allowed s0 (bankChargedEff s) := by
  simp only [Machine.bankChargedEff]
  repeat' first
    | with_reducible assumption | ((with_reducible apply Component.sub hl); decide)
    | (with_reducible first | apply Keeps.ite | apply Keeps.beginMeasure) | intro _ | with_reducible refine Keeps.litPower ?_  (hl _ (by decide))

theorem Keeps.loadEff {s : State} (esr : Nat) (keep : Keeps allowed s0 s) (hl : ∀ p ∈ ([.ledger, .regLed] : List Component), p ∈ allowed) :
    Keeps allowed s0 (loadEff s esr) := by
  simp only [Machine.loadEff]
  repeat' first
    | with_reducible assumption | ((with_reducible apply Component.sub hl); decide) | (with_reducible first | apply Keeps.ite | apply Keeps.setNat)
    | intro _ | with_reducible refine Keeps.litLedger ?_  (hl _ (by decide))

theorem Keeps.fallEff {s : State} (us : Nat) (keep : Keeps allowed s0 s) (hl : ∀ p ∈ ([.ledger, .regLed] : List Component), p ∈ allowed) :
    Keeps allowed s0 (fallEff s us) := by
  simp only [Machine.fallEff]
  repeat' first
    | with_reducible assumption | ((with_reducible apply Component.sub hl); decide) | (with_reducible first | apply Keeps.ite | apply Keeps.setNat)
    | intro _ | with_reducible refine Keeps.litLedger ?_  (hl _ (by decide))

theorem Keeps.showHoldup {s : State} (eu : Nat) (keep : Keeps allowed s0 s) (hl : ∀ p ∈ ([.host, .ledger, .out, .regLed, .regHst] : List Component),
    p ∈ allowed) :
    Keeps allowed s0 (showHoldup s eu) := by
  simp only [Machine.showHoldup]
  repeat' first
    | with_reducible assumption | ((with_reducible apply Component.sub hl); decide)
    | (with_reducible first | apply Keeps.ite | apply Keeps.setNat | apply Keeps.setBit | apply Keeps.raiseEvent | apply Keeps.healthChanged)
    | intro _ | split | with_reducible refine Keeps.litLedger ?_  (hl _ (by decide))

theorem Keeps.measureEnds {s : State} (full : Bool) (keep : Keeps allowed s0 s) (hl : ∀ p ∈ ([.retire, .log, .packages, .dram, .mover, .host,
    .ledger, .faults, .out, .regGlb, .regLed, .regTier, .regHst, .regFtl] : List Component), p ∈ allowed) :
    Keeps allowed s0 (measureEnds s full) := by
  simp only [Machine.measureEnds]
  repeat' first
    | with_reducible assumption | ((with_reducible apply Component.sub hl); decide)
    | (with_reducible first | apply Keeps.ite | apply Keeps.setBit | apply Keeps.rewatermarkAll | apply Keeps.resumeHeld)
    | with_reducible apply Keeps.showHoldup | intro _ | with_reducible refine Keeps.litLedger ?_  (hl _ (by decide))

end Sys2Proof.Machine
end

