-- ==== Sys2Proof/Laws/KeepsSettings.lean ====
section
/-! SUPPORT. What every operation of Machine/Settings.lean keeps: the queue, what lasts, the canonical forms, and every part of the state that
is not in its list. -/
set_option Elab.async false
set_option linter.all false
namespace Sys2Proof.Machine

variable {allowed : List Component} {s0 : State}

theorem Keeps.formRatios {s : State} (old : Nat) (new : Nat) (p : Nat) (keep : Keeps allowed s0 s) (hl : ∀ p ∈ ([.packages] : List Component), p ∈
    allowed) :
    Keeps allowed s0 (formRatios s old new p) := by
  simp only [Machine.formRatios]
  repeat' first
    | with_reducible assumption | ((with_reducible apply Component.sub hl); decide)
    | ((with_reducible apply Component.sub hl); simp (disch := decide); done) | (with_reducible first | apply Keeps.ite | apply Keeps.setPkg)
    | intro _ | split | (with_reducible refine Keeps.ofFst ?_ (by assumption)) | exact Nat.le_refl _

theorem Wseq.renumber {w0 : Nat} (f : Nat → Option Nat) {x : Package} (le : w0 ≤ x.wseq) : w0 ≤ (renumber f x).wseq := by
  simp only [Machine.renumber]
  repeat' first | (with_reducible first | assumption | apply Wseq.foldl) | intro _ | exact Nat.le_refl _ | split | dsimp only | omega

theorem Keeps.writeLayout {s : State} (a : Armature) (keep : Keeps allowed s0 s) (hl : ∀ p ∈ ([.layout, .packages, .corpus, .regFtl] : List
    Component), p ∈ allowed) :
    Keeps allowed s0 (writeLayout s a) := by
  simp only [Machine.writeLayout]
  repeat' first
    | with_reducible assumption | ((with_reducible apply Component.sub hl); decide)
    | (with_reducible first | apply Keeps.foldState | apply Keeps.ite | apply Keeps.formRatios | apply Keeps.setPkg | apply Keeps.showDirty | exact Nat.le_refl _ | apply Wseq.renumber)
    | intro _ | split
    | (with_reducible refine Keeps.litNv ?_ ?_ (nlayout := .inl (hl _ (by decide))))
    | ((with_reducible apply NvLasts.mk) <;> first | rfl | exact Nat.le_refl _ | exact fun _ h => h | exact satInc_ge _ | exact Nat.le_max_left _ _ | exact testBit_lor_left _ _ | exact List.subset_append_left _ _)
    | (with_reducible refine Keeps.litCorpus ?_ ?_ (hl _ (by decide)))
    | exact Nat.le_refl _

theorem Keeps.showSource {s : State} (keep : Keeps allowed s0 s) (hl : ∀ p ∈ ([.regArm] : List Component), p ∈ allowed) :
    Keeps allowed s0 (showSource s) := by
  simp only [Machine.showSource]
  repeat' first
    | with_reducible assumption | ((with_reducible apply Component.sub hl); decide)
    | ((with_reducible apply Component.sub hl); simp (disch := decide); done)
    | (with_reducible first | apply Keeps.ite | apply Keeps.setBit | apply Keeps.setFld) | intro _ | split
    | (with_reducible refine Keeps.ofFst ?_ (by assumption))

theorem Keeps.showSlots {s : State}  (keep : Keeps allowed s0 s) (hl : ∀ p ∈ ([.regArm] : List Component), p ∈ allowed) :
    Keeps allowed s0 (showSlots s) := by
  simp only [Machine.showSlots]
  repeat' first | with_reducible assumption | ((with_reducible apply Component.sub hl); decide) | with_reducible apply Keeps.setNat

theorem Keeps.loadPackageRegs {s : State} (p : Nat) (keep : Keeps allowed s0 s) (hl : ∀ p ∈ ([.regFtl, .regMed] : List Component), p ∈ allowed) :
    Keeps allowed s0 (loadPackageRegs s p) := by
  simp only [Machine.loadPackageRegs]
  repeat' first
    | with_reducible assumption | ((with_reducible apply Component.sub hl); decide)
    | ((with_reducible apply Component.sub hl); simp (disch := decide); done)
    | (with_reducible first | apply Keeps.setNat | apply Keeps.foldState | apply Keeps.rewatermark) | intro _

theorem Keeps.loadTreeRegs {s : State} (t : Nat) (keep : Keeps allowed s0 s) (hl : ∀ p ∈ ([.regFab, .regUpd] : List Component), p ∈ allowed) :
    Keeps allowed s0 (loadTreeRegs s t) := by
  simp only [Machine.loadTreeRegs]
  repeat' first
    | with_reducible assumption | ((with_reducible apply Component.sub hl); decide)
    | ((with_reducible apply Component.sub hl); simp (disch := decide); done) | (with_reducible first | apply Keeps.setNat | apply Keeps.setBit)
    | split

theorem Keeps.loadArmRegs {s : State}  (keep : Keeps allowed s0 s) (hl : ∀ p ∈ ([.ledger, .sec, .regGlb, .regLed, .regArm, .regFab, .regUpd,
    .regHst, .regFtl, .regMed] : List Component), p ∈ allowed) :
    Keeps allowed s0 (loadArmRegs s) := by
  simp only [Machine.loadArmRegs]
  repeat' first
    | with_reducible assumption | ((with_reducible apply Component.sub hl); decide)
    | ((with_reducible apply Component.sub hl); simp (disch := decide); done)
    | (with_reducible first | apply Keeps.ite | apply Keeps.setNat | apply Keeps.setFld | apply Keeps.set64 | apply Keeps.foldState)
    | (with_reducible first | apply Keeps.loadPackageRegs | apply Keeps.loadTreeRegs) | intro _ | split
    | (with_reducible refine Keeps.lit ?_ (hledger := .inl (hl _ (by decide))) (hsec := .inl (hl _ (by decide))))

theorem Keeps.emptyCache {s : State} (n : Nat) (i : Nat) (keep : Keeps allowed s0 s) (hl : ∀ p ∈ ([.search] : List Component), p ∈ allowed) :
    Keeps allowed s0 (emptyCache s n i) := by
  simp only [Machine.emptyCache]
  repeat' first
    | with_reducible assumption | ((with_reducible apply Component.sub hl); decide)
    | ((with_reducible apply Component.sub hl); simp (disch := decide); done) | (with_reducible first | apply Keeps.ite) | intro _ | split
    | (with_reducible refine Keeps.ofFst ?_ (by assumption)) | (with_reducible first | refine Keeps.litSearch ?_ (hl _ (by decide)))

theorem Keeps.clearMoved {s : State} (old : Armature) (new : Armature) (keep : Keeps allowed s0 s) (hl : ∀ p ∈ ([.dram, .search] : List
    Component), p ∈ allowed) :
    Keeps allowed s0 (clearMoved old new s) := by
  simp only [Machine.clearMoved]
  repeat' first
    | with_reducible assumption | ((with_reducible apply Component.sub hl); decide)
    | ((with_reducible apply Component.sub hl); simp (disch := decide); done)
    | (with_reducible first | apply Keeps.ite | apply Keeps.clearGranules | apply Keeps.foldState | apply Keeps.emptyCache) | intro _ | split
    | (with_reducible refine Keeps.ofFst ?_ (by assumption))

theorem Keeps.keepDirectory {s : State} (old : Armature) (new : Armature) (keep : Keeps allowed s0 s) (hl : ∀ p ∈ ([.dram, .mover, .regTier] : List
    Component), p ∈ allowed) :
    Keeps allowed s0 (keepDirectory old new s) := by
  simp only [Machine.keepDirectory]
  repeat' first
    | with_reducible assumption | ((with_reducible apply Component.sub hl); decide)
    | (with_reducible first | apply Keeps.ite | apply Keeps.clearGranules | apply Keeps.showDir) | intro _
    | with_reducible refine Keeps.litMover ?_  (hl _ (by decide))

theorem Keeps.bindTiles {s : State} (old : Armature) (new : Armature) (start : Bool) (keep : Keeps allowed s0 s) (hl : ∀ p ∈ ([.tiles, .store,
    .grf, .regSrc] : List Component), p ∈ allowed) :
    Keeps allowed s0 (bindTiles old new start s) := by
  simp only [Machine.bindTiles]
  repeat' first
    | with_reducible assumption | ((with_reducible apply Component.sub hl); decide)
    | ((with_reducible apply Component.sub hl); simp (disch := decide); done)
    | (with_reducible first | apply Keeps.ite | apply Keeps.foldState | apply Keeps.setTile | apply Keeps.storeClear | apply Keeps.showAssist)
    | intro _ | split | (with_reducible refine Keeps.ofFst ?_ (by assumption)) | (with_reducible first | refine Keeps.litGrf ?_ (hl _ (by decide)))

theorem Keeps.bindGen8 {s : State} (keep : Keeps allowed s0 s) (hl : ∀ p ∈ ([.regArm, .regTil] : List Component), p ∈ allowed) :
    Keeps allowed s0 (bindGen8 s) := by
  simp only [Machine.bindGen8]
  repeat' first
    | with_reducible assumption | ((with_reducible apply Component.sub hl); decide)
    | ((with_reducible apply Component.sub hl); simp (disch := decide); done)
    | (with_reducible first | apply Keeps.ite | apply Keeps.foldState | apply Keeps.histWordsClear | apply Keeps.setBit) | intro _ | split
    | (with_reducible refine Keeps.ofFst ?_ (by assumption))

theorem Keeps.bindPort {s : State} (p : Nat) (keep : Keeps allowed s0 s) (hl : ∀ p ∈ ([.fabric, .regFab] : List Component), p ∈ allowed) :
    Keeps allowed s0 (bindPort s p) := by
  simp only [Machine.bindPort]
  repeat' first
    | with_reducible assumption | ((with_reducible apply Component.sub hl); decide)
    | ((with_reducible apply Component.sub hl); simp (disch := decide); done)
    | (with_reducible first | apply Keeps.ite | apply Keeps.setNat | apply Keeps.setPort | apply Keeps.showLanes | apply Keeps.setPortState)
    | intro _ | split | (with_reducible refine Keeps.ofFst ?_ (by assumption))

theorem Keeps.bindTree {s : State} (t : Nat) (keep : Keeps allowed s0 s) (hl : ∀ p ∈ ([.fabric, .out, .regFab, .regUpd] : List Component), p ∈
    allowed) :
    Keeps allowed s0 (bindTree s t) := by
  simp only [Machine.bindTree]
  repeat' first
    | with_reducible assumption | ((with_reducible apply Component.sub hl); decide)
    | ((with_reducible apply Component.sub hl); simp (disch := decide); done)
    | (with_reducible first | apply Keeps.ite | apply Keeps.setNat | apply Keeps.setTree | apply Keeps.setBit | apply Keeps.setFld)
    | (with_reducible first | apply Keeps.updateCensus | apply Keeps.freshStep | apply Keeps.leaveDown) | intro _ | split
    | (with_reducible refine Keeps.ofFst ?_ (by assumption)) | (with_reducible first | refine Keeps.litFabric ?_ (hl _ (by decide)))

theorem Keeps.noteNamespaces {s : State} (old : List Region) (new : List Region) (keep : Keeps allowed s0 s) (hl : ∀ p ∈ ([.host, .out] : List
    Component), p ∈ allowed) :
    Keeps allowed s0 (noteNamespaces old new s) := by
  simp only [Machine.noteNamespaces]
  repeat' first
    | (with_reducible first | assumption | apply Keeps.ite | apply Keeps.notice) | intro _
    | with_reducible refine Keeps.litHost ?_  (hl _ (by decide))

theorem Keeps.bind {s : State} (a : Armature) (src : Selected) (inForce : Bool) (start : Bool) (keep : Keeps allowed s0 s) (hl : ∀ p ∈ ([.loader,
    .tiles, .store, .dram, .grf, .mover, .search, .fabric, .host, .ledger, .sec, .out, .regGlb, .regLed, .regArm, .regTier, .regFab, .regUpd,
    .regHst, .regSrc, .regFtl, .regMed, .regTil] : List Component), p ∈ allowed) :
    Keeps allowed s0 (bind s a src inForce start) := by
  simp only [Machine.bind]
  repeat' first
    | with_reducible assumption | ((with_reducible apply Component.sub hl); decide)
    | ((with_reducible apply Component.sub hl); simp (disch := decide); done)
    | (with_reducible first | apply Keeps.ite | apply Keeps.keepDirectory | apply Keeps.clearMoved | apply Keeps.bindGen8 | apply Keeps.bindTiles)
    | (with_reducible first | apply Keeps.showCore | apply Keeps.setBit | apply Keeps.showSource | apply Keeps.loadArmRegs | apply Keeps.checkStrength)
    | (with_reducible first | apply Keeps.foldState | apply Keeps.bindTree | apply Keeps.bindPort | apply Keeps.noteNamespaces) | intro _ | split
    | (with_reducible refine Keeps.ofFst ?_ (by assumption)) | (with_reducible first | refine Keeps.litLoader ?_ (hl _ (by decide)))

end Sys2Proof.Machine
end

