-- ==== Sys2Proof/Laws/KeepsArm.lean ====
section
/-! SUPPORT. What every operation of Machine/Arm.lean keeps: the queue, what lasts, the canonical forms, and every part of the state that
is not in its list. -/
set_option Elab.async false
set_option linter.all false
namespace Sys2Proof.Machine

variable {allowed : List Component} {s0 : State}

theorem Keeps.checkMaquette {s : State}  (keep : Keeps allowed s0 s) :
    Keeps allowed s0 (checkMaquette s).1 := by
  simp only [Machine.checkMaquette]
  repeat' first | (with_reducible first | assumption | apply Keeps.iteFst | apply Keeps.draw) | intro _

theorem Keeps.readImage {x1 : State} (x0 : Nat) (x2 : Nat) (x3 : Nat) (keep : Keeps allowed s0 x1) (hl : ∀ p ∈ ([.retire, .log, .dram, .mover,
    .host, .faults, .out, .regGlb, .regTier] : List Component), p ∈ allowed) :
    Keeps allowed s0 (readImage x0 x1 x2 x3).1 := by
  induction x0 generalizing x1 x2 x3 with
  | zero =>
    simp only [Machine.readImage]
    repeat' first
      | with_reducible assumption | ((with_reducible apply Component.sub hl); decide)
      | (with_reducible first | apply Keeps.readLine | apply Keeps.reachUe) | split | (with_reducible refine Keeps.ofFst ?_ (by assumption))
  | succ _ ih =>
    simp only [Machine.readImage]
    repeat' first
      | (with_reducible first | apply ih | assumption) | ((with_reducible apply Component.sub hl); decide)
      | (with_reducible first | apply Keeps.readLine | apply Keeps.reachUe) | split | (with_reducible refine Keeps.ofFst ?_ (by assumption))

theorem Keeps.setArmState {s : State} (v : Nat) (keep : Keeps allowed s0 s) (hl : ∀ p ∈ ([.regArm] : List Component), p ∈ allowed) :
    Keeps allowed s0 (setArmState s v) := by
  simp only [Machine.setArmState]
  repeat' first | with_reducible assumption | ((with_reducible apply Component.sub hl); decide) | with_reducible apply Keeps.setFld

theorem Keeps.armResult {s : State} (cause : Nat) (detail : Nat) (keep : Keeps allowed s0 s) (hl : ∀ p ∈ ([.regArm] : List Component), p ∈ allowed)
    :
    Keeps allowed s0 (armResult s cause detail) := by
  simp only [Machine.armResult]
  repeat' first
    | with_reducible assumption | ((with_reducible apply Component.sub hl); decide)
    | (with_reducible first | apply Keeps.setNat | apply Keeps.setFld)

theorem Keeps.armDone {s : State}  (keep : Keeps allowed s0 s) (hl : ∀ p ∈ ([.loader, .regArm] : List Component), p ∈ allowed) :
    Keeps allowed s0 (armDone s) := by
  simp only [Machine.armDone]
  repeat' first
    | with_reducible assumption | ((with_reducible apply Component.sub hl); decide)
    | (with_reducible first | apply Keeps.setBit | apply Keeps.setArmState | refine Keeps.litLoader ?_  (hl _ (by decide)))

theorem Keeps.armFails {s : State} (cause : Nat) (detail : Nat) (keep : Keeps allowed s0 s) (hl : ∀ p ∈ ([.loader, .regArm] : List Component), p ∈
    allowed) :
    Keeps allowed s0 (armFails s cause detail) := by
  simp only [Machine.armFails]
  repeat' first
    | with_reducible assumption | ((with_reducible apply Component.sub hl); decide)
    | (with_reducible first | apply Keeps.armResult | apply Keeps.armDone)

theorem Keeps.commandCheck {s : State} (cmd : Nat) (keep : Keeps allowed s0 s) (hl : ∀ p ∈ ([.retire, .log, .dram, .mover, .host, .faults, .out,
    .regGlb, .regTier] : List Component), p ∈ allowed) :
    Keeps allowed s0 (commandCheck s cmd).1 := by
  simp only [Machine.commandCheck]
  repeat' first
    | with_reducible assumption | ((with_reducible apply Component.sub hl); decide)
    | ((with_reducible apply Component.sub hl); simp (disch := decide); done)
    | (with_reducible first | apply Keeps.iteFst | apply Keeps.ite | apply Keeps.readImage) | intro _ | split
    | (with_reducible refine Keeps.ofFst ?_ (by assumption))

theorem Keeps.armCommand {s : State} (cmd : Nat) (drain : Bool) (keep : Keeps allowed s0 s) (hl : ∀ p ∈ ([.retire, .log, .loader, .dram, .mover,
    .host, .faults, .out, .regGlb, .regArm, .regTier] : List Component), p ∈ allowed) :
    Keeps allowed s0 (armCommand s cmd drain) := by
  simp only [Machine.armCommand]
  repeat' first
    | with_reducible assumption | ((with_reducible apply Component.sub hl); decide)
    | (with_reducible first | apply Keeps.ite | apply Keeps.setBit | apply Keeps.accErr | apply Keeps.setArmState | apply Keeps.armFails)
    | with_reducible apply Keeps.commandCheck | intro _ | split | (with_reducible refine Keeps.ofFst ?_ (by assumption))
    | with_reducible refine Keeps.litLoader ?_  (hl _ (by decide))

theorem Keeps.abortUnfinished {s : State}  (keep : Keeps allowed s0 s) (hl : ∀ p ∈ ([.retire, .log, .packages, .corpus, .tiles, .dram, .grf, .mover, .scan, .search, .fabric, .host, .faults, .out, .regGlb, .regArm, .regGrf, .regTier, .regFab, .regScn, .regSrc, .regFtl, .regTil] : List Component), p ∈
    allowed) :
    Keeps allowed s0 (abortUnfinished s) := by
  simp only [Machine.abortUnfinished]
  repeat' first
    | with_reducible assumption | ((with_reducible apply Component.sub hl); decide)
    | (with_reducible first | apply Keeps.ite | apply Keeps.setBit | apply Keeps.foldState | apply Keeps.completeStatusOpt)
    | (with_reducible first | apply Keeps.showSeqs | apply Keeps.endSeq | apply Keeps.abortRuns | apply Keeps.stopJob | apply Keeps.abortQueries)
    | intro _ | with_reducible refine Keeps.litGrf ?_  (hl _ (by decide))

theorem Keeps.beginQuiesce {s : State} (keep : Keeps allowed s0 s) (hl : ∀ p ∈ ([.retire, .log, .packages, .corpus, .loader, .tiles, .dram, .grf,
    .mover, .scan, .search, .fabric, .host, .faults, .out, .regGlb, .regArm, .regGrf, .regTier, .regFab, .regScn, .regSrc, .regFtl, .regTil] :
    List Component), p ∈ allowed) :
    Keeps allowed s0 (beginQuiesce s) := by
  simp only [Machine.beginQuiesce]
  repeat' first
    | with_reducible assumption | ((with_reducible apply Component.sub hl); decide)
    | ((with_reducible apply Component.sub hl); simp (disch := decide); done)
    | (with_reducible first | apply Keeps.ite | apply Keeps.abortSelfTest | apply Keeps.setArmState | apply Keeps.abortUnfinished) | intro _ | split
    | (with_reducible refine Keeps.ofFst ?_ (by assumption)) | (with_reducible first | refine Keeps.litLoader ?_ (hl _ (by decide)))

theorem Keeps.validateCommand {s : State}  (keep : Keeps allowed s0 s) (hl : ∀ p ∈ ([.retire, .log, .dram, .mover, .host, .faults, .out, .regGlb,
    .regTier] : List Component), p ∈ allowed) :
    Keeps allowed s0 (validateCommand s).1 := by
  simp only [Machine.validateCommand]
  repeat' first
    | (with_reducible first | assumption | apply Keeps.iteFst | apply Keeps.checkMaquette | apply Keeps.readImage) | intro _ | split
    | (with_reducible refine Keeps.ofFst ?_ (by assumption))

theorem Keeps.validationEff {s : State}  (keep : Keeps allowed s0 s) (hl : ∀ p ∈ ([.retire, .log, .packages, .corpus, .loader, .tiles, .dram, .grf, .mover, .scan, .search, .fabric, .host, .faults, .out, .regGlb, .regArm, .regGrf, .regTier, .regFab, .regScn, .regSrc, .regFtl, .regTil] : List
    Component), p ∈ allowed) :
    Keeps allowed s0 (validationEff s) := by
  simp only [Machine.validationEff]
  repeat' first
    | with_reducible assumption | ((with_reducible apply Component.sub hl); decide)
    | (with_reducible first | apply Keeps.ite | apply Keeps.setArmState | apply Keeps.armResult | apply Keeps.armDone | apply Keeps.armFails)
    | (with_reducible first | apply Keeps.beginQuiesce | apply Keeps.validateCommand) | intro _ | split
    | (with_reducible refine Keeps.ofFst ?_ (by assumption)) | with_reducible refine Keeps.litLoader ?_  (hl _ (by decide))

theorem Keeps.storeImage {s : State} (keep : Keeps allowed s0 s) (hl : ∀ p ∈ ([.slots, .loader, .regArm] : List Component), p ∈ allowed) :
    Keeps allowed s0 (storeImage s) := by
  simp only [Machine.storeImage]
  repeat' first
    | with_reducible assumption | ((with_reducible apply Component.sub hl); decide)
    | ((with_reducible apply Component.sub hl); simp (disch := decide); done) | (with_reducible first | apply Keeps.ite | apply Keeps.showSlots)
    | intro _ | split | (with_reducible refine Keeps.ofFst ?_ (by assumption))
    | (with_reducible first | refine Keeps.litLoader ?_ (hl _ (by decide)) | refine Keeps.litNv ?_ ?_ (nslots := .inl (hl _ (by decide))) (hloader := .inl (hl _ (by decide))))
    | ((with_reducible apply NvLasts.mk) <;> first | rfl | exact Nat.le_refl _ | exact fun _ h => h | exact satInc_ge _ | exact Nat.le_max_left _ _ | exact testBit_lor_left _ _ | exact List.subset_append_left _ _)

theorem Keeps.storingEff {s : State}  (keep : Keeps allowed s0 s) (hl : ∀ p ∈ ([.slots, .retire, .log, .packages, .corpus, .loader, .tiles, .dram, .grf, .mover, .scan, .search, .fabric, .host, .faults, .out, .regGlb, .regArm, .regGrf, .regTier, .regFab, .regScn, .regSrc, .regFtl, .regTil] : List
    Component), p ∈ allowed) :
    Keeps allowed s0 (storingEff s) := by
  simp only [Machine.storingEff]
  repeat' first
    | with_reducible assumption | ((with_reducible apply Component.sub hl); decide)
    | (with_reducible first | apply Keeps.ite | apply Keeps.armDone | apply Keeps.beginQuiesce | apply Keeps.storeImage) | intro _

theorem Keeps.quiesceEff {s : State}  (keep : Keeps allowed s0 s) (hl : ∀ p ∈ ([.retire, .log, .packages, .corpus, .tiles, .dram, .grf, .mover, .scan, .search, .fabric, .host, .faults, .out, .regGlb, .regArm, .regGrf, .regTier, .regFab, .regScn, .regSrc, .regFtl, .regTil] : List Component), p ∈
    allowed) :
    Keeps allowed s0 (quiesceEff s) := by
  simp only [Machine.quiesceEff]
  repeat' first
    | with_reducible assumption | ((with_reducible apply Component.sub hl); decide)
    | (with_reducible first | apply Keeps.ite | apply Keeps.foldState | apply Keeps.setPkg | apply Keeps.showFlushing | apply Keeps.departAll)
    | (with_reducible first | apply Keeps.setArmState | apply Keeps.abortUnfinished | exact Nat.le_refl _) | intro _

theorem Keeps.qlimitEff {s : State} (keep : Keeps allowed s0 s) (hl : ∀ p ∈ ([.retire, .log, .packages, .corpus, .loader, .tiles, .dram, .grf,
    .mover, .scan, .search, .fabric, .host, .faults, .out, .regGlb, .regArm, .regGrf, .regTier, .regFab, .regScn, .regSrc, .regFtl, .regTil] :
    List Component), p ∈ allowed) :
    Keeps allowed s0 (qlimitEff s) := by
  simp only [Machine.qlimitEff]
  repeat' first
    | with_reducible assumption | ((with_reducible apply Component.sub hl); decide)
    | ((with_reducible apply Component.sub hl); simp (disch := decide); done)
    | (with_reducible first | apply Keeps.ite | apply Keeps.abortUnfinished) | intro _ | split
    | (with_reducible refine Keeps.ofFst ?_ (by assumption)) | (with_reducible first | refine Keeps.litLoader ?_ (hl _ (by decide)))

theorem Keeps.drainEff {s : State}  (keep : Keeps allowed s0 s) (hl : ∀ p ∈ ([.log, .life, .faults, .regGlb, .regArm] : List Component), p ∈
    allowed) :
    Keeps allowed s0 (drainEff s) := by
  simp only [Machine.drainEff]
  repeat' first
    | with_reducible assumption | ((with_reducible apply Component.sub hl); decide)
    | (with_reducible first | apply Keeps.ite | apply Keeps.saveFaultTimes | apply Keeps.setArmState) | intro _

theorem Keeps.commitEff {s : State} (keep : Keeps allowed s0 s) (hl : ∀ p ∈ ([.slots, .layout, .packages, .corpus, .regArm, .regFtl] : List
    Component), p ∈ allowed) :
    Keeps allowed s0 (commitEff s) := by
  simp only [Machine.commitEff, Machine.writeSelector]
  repeat' first
    | with_reducible assumption | ((with_reducible apply Component.sub hl); decide)
    | ((with_reducible apply Component.sub hl); simp (disch := decide); done)
    | (with_reducible first | apply Keeps.ite | apply Keeps.writeLayout | apply Keeps.setArmState) | intro _ | split
    | (with_reducible refine Keeps.ofFst ?_ (by assumption)) | (with_reducible first | refine Keeps.litNv ?_ ?_ (nslots := .inl (hl _ (by decide))) )
    | ((with_reducible apply NvLasts.mk) <;> first | rfl | exact Nat.le_refl _ | exact fun _ h => h | exact satInc_ge _ | exact Nat.le_max_left _ _ | exact testBit_lor_left _ _ | exact List.subset_append_left _ _)

theorem Keeps.rebind {s : State} (a : Armature) (src : Selected) (inForce : Bool) (start : Bool) (hwFault : Bool) (againFault : Bool) (prev :
    Armature) (prevSrc : Selected) (prevIn : Bool) (keep : Keeps allowed s0 s) (hl : ∀ p ∈ ([.loader, .tiles, .store, .dram, .grf, .mover,
    .search, .fabric, .host, .ledger, .sec, .out, .regGlb, .regLed, .regArm, .regTier, .regFab, .regUpd, .regHst, .regSrc, .regFtl, .regMed,
    .regTil] : List Component), p ∈ allowed) :
    Keeps allowed s0 (rebind s a src inForce start hwFault againFault prev prevSrc prevIn) := by
  simp only [Machine.rebind]
  repeat' first
    | with_reducible assumption | ((with_reducible apply Component.sub hl); decide)
    | ((with_reducible apply Component.sub hl); simp (disch := decide); done)
    | (with_reducible first | apply Keeps.ite | apply Keeps.bind | apply Keeps.setBit) | intro _ | split
    | (with_reducible refine Keeps.ofFst ?_ (by assumption))

theorem Keeps.rebindEff {s : State} (hwFault : Bool) (againFault : Bool) (keep : Keeps allowed s0 s) (hl : ∀ p ∈ ([.retire, .log, .packages, .loader, .tiles, .store, .dram, .grf, .mover, .search, .fabric, .host, .ledger, .sec, .faults, .out, .regGlb, .regLed, .regArm, .regTier, .regFab, .regUpd, .regHst, .regSrc, .regFtl, .regMed, .regTil] : List Component), p ∈ allowed) :
    Keeps allowed s0 (rebindEff s hwFault againFault) := by
  simp only [Machine.rebindEff]
  repeat' first
    | with_reducible assumption | ((with_reducible apply Component.sub hl); decide)
    | (with_reducible first | apply Keeps.ite | apply Keeps.bump | apply Keeps.notice | apply Keeps.resumeHeld | apply Keeps.armDone)
    | with_reducible apply Keeps.rebind | intro _ | split

end Sys2Proof.Machine
end

