-- ==== Sys2Proof/Laws/KeepsStartup.lean ====
section
/-! SUPPORT. What every operation of Machine/Startup.lean keeps: the queue, what lasts, the canonical forms, and every part of the state that
is not in its list. -/
set_option Elab.async false
set_option linter.all false
namespace Sys2Proof.Machine

variable {allowed : List Component} {s0 : State}

theorem Keeps.showOption {s : State}  (keep : Keeps allowed s0 s) (hl : ∀ p ∈ ([.regGlb, .regArm, .regTier, .regFab, .regScn, .regFtl, .regMed] :
    List Component), p ∈ allowed) :
    Keeps allowed s0 (showOption s) := by
  simp only [Machine.showOption]
  repeat' first
    | with_reducible assumption | ((with_reducible apply Component.sub hl); decide)
    | ((with_reducible apply Component.sub hl); simp (disch := decide); done)
    | (with_reducible first | apply Keeps.ite | apply Keeps.setNat | apply Keeps.setBit | apply Keeps.foldState | apply Keeps.showHours)
    | (with_reducible first | apply Keeps.showPcs | apply Keeps.showJournal | apply Keeps.showStages | apply Keeps.showCore)
    | (with_reducible first | apply Keeps.showLanes | apply Keeps.showEpoch | apply Keeps.showChans | apply Keeps.showOptSingle)
    | (with_reducible first | apply Keeps.showPending | apply Keeps.showSlots) | intro _

theorem Keeps.resetRegs {s : State}  (keep : Keeps allowed s0 s) (hl : ∀ p ∈ ([.bus, .ledger, .sec, .regGlb, .regLed, .regArm, .regGrf, .regTier,
    .regFab, .regUpd, .regHst, .regScn, .regSrc, .regFtl, .regMed, .regTil] : List Component), p ∈ allowed) :
    Keeps allowed s0 (resetRegs s) := by
  simp only [Machine.resetRegs]
  repeat' first
    | with_reducible assumption | ((with_reducible apply Component.sub hl); decide)
    | (with_reducible first | apply Keeps.setFld | apply Keeps.setBit | apply Keeps.rewatermarkAll | apply Keeps.loadArmRegs)
    | with_reducible apply Keeps.showOption | intro _
    | (with_reducible refine Keeps.litRegs ?_ ?_ (Component.sub hl (by decide)) (hlatch := .inl (hl _ (by decide))) (hreadData := .inl (hl _ (by decide))))
    | exact canonicalFrom_filter _ _ _ _ (by assumption)

theorem Keeps.showFirmware {s : State}  (keep : Keeps allowed s0 s) (hl : ∀ p ∈ ([.regGlb] : List Component), p ∈ allowed) :
    Keeps allowed s0 (showFirmware s) := by
  simp only [Machine.showFirmware]
  repeat' first | with_reducible assumption | ((with_reducible apply Component.sub hl); decide) | with_reducible apply Keeps.setNat | split

theorem Keeps.enterRecovery {s : State}  (keep : Keeps allowed s0 s) (hl : ∀ p ∈ ([.log, .power, .regGlb] : List Component), p ∈ allowed) :
    Keeps allowed s0 (enterRecovery s) := by
  simp only [Machine.enterRecovery]
  repeat' first
    | with_reducible assumption | ((with_reducible apply Component.sub hl); decide)
    | (with_reducible first | apply Keeps.setBit | apply Keeps.interrupting | refine Keeps.litPower ?_  (hl _ (by decide)))

theorem Keeps.takeOther {s : State} (other : Nat) (keep : Keeps allowed s0 s) (hl : ∀ p ∈ ([.firmware, .log, .power, .regGlb] : List Component), p ∈
    allowed) :
    Keeps allowed s0 (takeOther s other) := by
  simp only [Machine.takeOther]
  repeat' first
    | with_reducible assumption | ((with_reducible apply Component.sub hl); decide)
    | (with_reducible first | apply Keeps.ite | apply Keeps.setBit | apply Keeps.interrupting | apply Keeps.namePending)
    | with_reducible apply Keeps.enterRecovery | intro _ | with_reducible refine Keeps.litPower ?_  (hl _ (by decide))

theorem Keeps.chooseFw {s : State}  (keep : Keeps allowed s0 s) (hl : ∀ p ∈ ([.firmware, .log, .power, .regGlb] : List Component), p ∈ allowed) :
    Keeps allowed s0 (chooseFw s) := by
  simp only [Machine.chooseFw]
  repeat' first
    | (with_reducible first | assumption | apply Keeps.ite | apply Keeps.takeOther) | intro _ | split
    | with_reducible refine Keeps.litPower ?_  (hl _ (by decide))

theorem Keeps.tryFirmware {s : State}  (keep : Keeps allowed s0 s) (hl : ∀ p ∈ ([.power] : List Component), p ∈ allowed) :
    Keeps allowed s0 (tryFirmware s) := by
  simp only [Machine.tryFirmware]
  repeat' first | (with_reducible first | assumption | apply Keeps.ite) | intro _ | with_reducible refine Keeps.litPower ?_  (hl _ (by decide))

theorem Keeps.startCore {s : State}  (keep : Keeps allowed s0 s) (hl : ∀ p ∈ ([.power, .regArm] : List Component), p ∈ allowed) :
    Keeps allowed s0 (startCore s) := by
  simp only [Machine.startCore]
  repeat' first
    | with_reducible assumption | ((with_reducible apply Component.sub hl); decide)
    | (with_reducible first | apply Keeps.setBit | apply Keeps.tryFirmware | refine Keeps.litPower ?_  (hl _ (by decide)))

theorem Keeps.restartRecovery {s : State} (p : Nat) (keep : Keeps allowed s0 s) (hl : ∀ p ∈ ([.packages] : List Component), p ∈ allowed) :
    Keeps allowed s0 (restartRecovery s p) := by
  simp only [Machine.restartRecovery]
  repeat' first | (with_reducible first | assumption | apply Keeps.ite | apply Keeps.setPkg | exact Nat.le_refl _) | intro _

theorem Keeps.stopCore {s : State}  (keep : Keeps allowed s0 s) (hl : ∀ p ∈ ([.packages, .power, .bus, .loader, .tiles, .store, .dram, .grf, .mover,
    .scan, .search, .fabric, .host, .ledger, .sec, .regGlb, .regLed, .regArm, .regGrf, .regTier, .regFab, .regUpd, .regHst, .regScn, .regSrc,
    .regFtl, .regMed, .regTil] : List Component), p ∈ allowed) :
    Keeps allowed s0 (stopCore s) := by
  simp only [Machine.stopCore]
  repeat' first
    | with_reducible assumption | ((with_reducible apply Component.sub hl); decide)
    | (with_reducible first | apply Keeps.foldState | apply Keeps.beginClose | apply Keeps.clearCore | apply Keeps.resetRegs)
    | with_reducible apply Keeps.restartRecovery | intro _ | with_reducible refine Keeps.litPower ?_  (hl _ (by decide))

theorem Keeps.perstAssertEff {s : State}  (keep : Keeps allowed s0 s) (hl : ∀ p ∈ ([.packages, .power, .bus, .loader, .tiles, .store, .dram, .grf,
    .mover, .scan, .search, .fabric, .host, .ledger, .sec, .regGlb, .regLed, .regArm, .regGrf, .regTier, .regFab, .regUpd, .regHst, .regScn,
    .regSrc, .regFtl, .regMed, .regTil] : List Component), p ∈ allowed) :
    Keeps allowed s0 (perstAssertEff s) := by
  simp only [Machine.perstAssertEff]
  repeat' first
    | (with_reducible first | assumption | apply Keeps.ite | apply Keeps.stopCore) | intro _
    | with_reducible refine Keeps.litPower ?_  (hl _ (by decide))

theorem Keeps.leaveRecovery {s : State}  (keep : Keeps allowed s0 s) (hl : ∀ p ∈ ([.power, .regGlb] : List Component), p ∈ allowed) :
    Keeps allowed s0 (leaveRecovery s) := by
  simp only [Machine.leaveRecovery]
  repeat' first
    | with_reducible assumption | ((with_reducible apply Component.sub hl); decide)
    | (with_reducible first | apply Keeps.ite | apply Keeps.setBit | apply Keeps.showFirmware) | intro _
    | with_reducible refine Keeps.litPower ?_  (hl _ (by decide))

theorem Keeps.leaveTrip {s : State}  (keep : Keeps allowed s0 s) (hl : ∀ p ∈ ([.power, .bus, .ledger, .sec, .regGlb, .regLed, .regArm, .regGrf,
    .regTier, .regFab, .regUpd, .regHst, .regScn, .regSrc, .regFtl, .regMed, .regTil] : List Component), p ∈ allowed) :
    Keeps allowed s0 (leaveTrip s) := by
  simp only [Machine.leaveTrip]
  repeat' first
    | with_reducible assumption | ((with_reducible apply Component.sub hl); decide)
    | (with_reducible first | apply Keeps.ite | apply Keeps.resetRegs) | intro _ | with_reducible refine Keeps.litPower ?_  (hl _ (by decide))

theorem Keeps.perstDeassertEff {s : State} (strapLow : Bool) (keep : Keeps allowed s0 s) (hl : ∀ p ∈ ([.power, .bus, .ledger, .sec, .regGlb,
    .regLed, .regArm, .regGrf, .regTier, .regFab, .regUpd, .regHst, .regScn, .regSrc, .regFtl, .regMed, .regTil] : List Component), p ∈ allowed) :
    Keeps allowed s0 (perstDeassertEff s strapLow) := by
  simp only [Machine.perstDeassertEff]
  repeat' first
    | with_reducible assumption | ((with_reducible apply Component.sub hl); decide)
    | (with_reducible first | apply Keeps.ite | apply Keeps.startCore | apply Keeps.leaveRecovery | apply Keeps.leaveTrip) | intro _
    | with_reducible refine Keeps.litPower ?_  (hl _ (by decide))

theorem Keeps.subsystemReset {s : State}  (keep : Keeps allowed s0 s) (hl : ∀ p ∈ ([.packages, .power, .bus, .loader, .tiles, .store, .dram, .grf,
    .mover, .scan, .search, .fabric, .host, .ledger, .sec, .regGlb, .regLed, .regArm, .regGrf, .regTier, .regFab, .regUpd, .regHst, .regScn,
    .regSrc, .regFtl, .regMed, .regTil] : List Component), p ∈ allowed) :
    Keeps allowed s0 (subsystemReset s) := by
  simp only [Machine.subsystemReset]
  repeat' first
    | with_reducible assumption | ((with_reducible apply Component.sub hl); decide)
    | (with_reducible first | apply Keeps.ite | apply Keeps.startCore | apply Keeps.stopCore | apply Keeps.leaveRecovery) | intro _

theorem Keeps.inputRiseEff {s : State}  (keep : Keeps allowed s0 s) (hl : ∀ p ∈ ([.power, .time, .bus, .loader, .tiles, .store, .dram, .grf, .mover,
    .scan, .search, .fabric, .host, .ledger, .sec, .faults, .regGlb, .regLed, .regArm, .regGrf, .regTier, .regFab, .regUpd, .regHst, .regScn,
    .regSrc, .regFtl, .regMed, .regTil] : List Component), p ∈ allowed) :
    Keeps allowed s0 (inputRiseEff s) := by
  simp only [Machine.inputRiseEff]
  repeat' first
    | (with_reducible first | assumption | apply Keeps.ite | apply Keeps.beginStandby) | intro _
    | with_reducible refine Keeps.litPower ?_  (hl _ (by decide))

theorem Keeps.atStandby {s : State} (n : Nat) (keep : Keeps allowed s0 s) (hl : ∀ p ∈ ([.power] : List Component), p ∈ allowed) :
    Keeps allowed s0 (atStandby s n) := by
  simp only [Machine.atStandby]
  repeat' (with_reducible first | assumption | refine Keeps.litPower ?_  (hl _ (by decide)))

theorem Keeps.regulatedEff {s : State} (keep : Keeps allowed s0 s) (hl : ∀ p ∈ ([.power, .time, .faults, .regArm] : List Component), p ∈ allowed)
    :
    Keeps allowed s0 (regulatedEff s) := by
  simp only [Machine.regulatedEff]
  repeat' first
    | with_reducible assumption | ((with_reducible apply Component.sub hl); decide)
    | ((with_reducible apply Component.sub hl); simp (disch := decide); done)
    | (with_reducible first | apply Keeps.ite | apply Keeps.atStandby | apply Keeps.startCore) | intro _ | split
    | (with_reducible refine Keeps.ofFst ?_ (by assumption))
    | (with_reducible first | refine Keeps.litFaults ?_ (hl _ (by decide)) | refine Keeps.lit ?_ (htb := .inl (hl _ (by decide))) (hfaults := .inl (hl _ (by decide))))

theorem Keeps.otpEff {s : State} (strapLow : Bool) (keep : Keeps allowed s0 s) (hl : ∀ p ∈ ([.power, .regGlb, .regArm] : List Component), p ∈
    allowed) :
    Keeps allowed s0 (otpEff s strapLow) := by
  simp only [Machine.otpEff]
  repeat' first
    | with_reducible assumption | ((with_reducible apply Component.sub hl); decide)
    | (with_reducible first | apply Keeps.ite | apply Keeps.setNat | apply Keeps.setBit | apply Keeps.atStandby) | intro _
    | with_reducible refine Keeps.litPower ?_  (hl _ (by decide))

theorem Keeps.optionEff {s : State} (copyA : Bool) (copyB : Bool) (keep : Keeps allowed s0 s) (hl : ∀ p ∈ ([.slots, .power, .ledger, .sec,
    .faults, .regGlb, .regLed, .regArm, .regTier, .regFab, .regUpd, .regHst, .regScn, .regFtl, .regMed] : List Component), p ∈ allowed) :
    Keeps allowed s0 (optionEff s copyA copyB) := by
  simp only [Machine.optionEff]
  repeat' first
    | with_reducible assumption | ((with_reducible apply Component.sub hl); decide)
    | ((with_reducible apply Component.sub hl); simp (disch := decide); done)
    | (with_reducible first | apply Keeps.ite | apply Keeps.atStandby | apply Keeps.foldState | apply Keeps.setNat | apply Keeps.rewatermarkAll)
    | (with_reducible first | apply Keeps.loadArmRegs | apply Keeps.showOption) | intro _ | split
    | (with_reducible refine Keeps.ofFst ?_ (by assumption))
    | (with_reducible first | refine Keeps.litFaults ?_ (hl _ (by decide)) | refine Keeps.litNv ?_ ?_ (nslots := .inl (hl _ (by decide))) (hfaults := .inl (hl _ (by decide))))
    | ((with_reducible apply NvLasts.mk) <;> first | rfl | exact Nat.le_refl _ | exact fun _ h => h | exact satInc_ge _ | exact Nat.le_max_left _ _ | exact testBit_lor_left _ _ | exact List.subset_append_left _ _)

theorem Keeps.identityEff {s : State} (copyMatches : Bool) (keep : Keeps allowed s0 s) (hl : ∀ p ∈ ([.power, .regGlb] : List Component), p ∈
    allowed) :
    Keeps allowed s0 (identityEff s copyMatches) := by
  simp only [Machine.identityEff]
  repeat' first
    | with_reducible assumption | ((with_reducible apply Component.sub hl); decide)
    | (with_reducible first | apply Keeps.ite | apply Keeps.setNat | apply Keeps.setBit | apply Keeps.atStandby) | intro _

theorem Keeps.verifiedEff {s : State}  (keep : Keeps allowed s0 s) (hl : ∀ p ∈ ([.firmware, .log, .power, .regGlb] : List Component), p ∈ allowed) :
    Keeps allowed s0 (verifiedEff s) := by
  simp only [Machine.verifiedEff]
  repeat' first
    | with_reducible assumption | ((with_reducible apply Component.sub hl); decide)
    | (with_reducible first | apply Keeps.ite | apply Keeps.showFirmware | apply Keeps.chooseFw | apply Keeps.atStandby) | intro _
    | with_reducible refine Keeps.litPower ?_  (hl _ (by decide))

theorem Keeps.fwRunningEff {s : State}  (keep : Keeps allowed s0 s) (hl : ∀ p ∈ ([.life, .power, .regGlb] : List Component), p ∈ allowed) :
    Keeps allowed s0 (fwRunningEff s) := by
  simp only [Machine.fwRunningEff]
  repeat' first
    | with_reducible assumption | ((with_reducible apply Component.sub hl); decide)
    | (with_reducible first | apply Keeps.ite | apply Keeps.setNat | apply Keeps.showFirmware | apply Keeps.atStandby) | intro _
    | (with_reducible refine Keeps.litNv ?_ ?_ (nlife := .inl (hl _ (by decide))) (hpower := .inl (hl _ (by decide))))
    | ((with_reducible apply NvLasts.mk) <;> first | rfl | exact Nat.le_refl _ | exact fun _ h => h | exact satInc_ge _ | exact Nat.le_max_left _ _ | exact testBit_lor_left _ _ | exact List.subset_append_left _ _)

theorem Keeps.railsEff {s : State}  (keep : Keeps allowed s0 s) (hl : ∀ p ∈ ([.power, .fabric, .out, .regLed, .regFab] : List Component),
    p ∈ allowed) :
    Keeps allowed s0 (railsEff s) := by
  simp only [Machine.railsEff]
  repeat' first
    | with_reducible assumption | ((with_reducible apply Component.sub hl); decide)
    | (with_reducible first | apply Keeps.ite | apply Keeps.setFld | apply Keeps.foldState | apply Keeps.trainingEff) | intro _
    | with_reducible refine Keeps.litPower ?_  (hl _ (by decide))

theorem Keeps.stacksEff {s : State} (keep : Keeps allowed s0 s) (hl : ∀ p ∈ ([.power, .dram, .regTier] : List Component), p ∈ allowed) :
    Keeps allowed s0 (stacksEff s) := by
  simp only [Machine.stacksEff]
  repeat' first
    | with_reducible assumption | ((with_reducible apply Component.sub hl); decide)
    | ((with_reducible apply Component.sub hl); simp (disch := decide); done)
    | (with_reducible first | apply Keeps.ite | apply Keeps.initLines | apply Keeps.showInit) | intro _ | split
    | (with_reducible refine Keeps.ofFst ?_ (by assumption))
    | (with_reducible first | refine Keeps.litPower ?_ (hl _ (by decide)) | refine Keeps.litMem ?_ ?_ ?_ (hdram := .inl (hl _ (by decide))) (hpower := .inl (hl _ (by decide))))
    | ((with_reducible apply DramKeeps.mk) <;> (try dsimp only) <;> first | exact fun x => x | exact fun _ => rfl | exact Memory.wf_setBytes _ _ _ | exact Sparse.wf_set (0 : Byte) _ _ _ | exact Sparse.wf_set (0 : Nat) _ _ _ | exact Sparse.wf_filter (0 : Byte) _ _)
    | exact fun x => x | exact Memory.wf_setBytes _ _ _

theorem Keeps.selfTestEff {s : State} (failed : List Nat) (keep : Keeps allowed s0 s) (hl : ∀ p ∈ ([.retire, .log, .packages, .power, .tiles,
    .store, .dram, .grf, .mover, .scan, .fabric, .host, .faults, .out, .regGlb, .regArm, .regGrf, .regTier, .regFab, .regSrc, .regFtl, .regTil] :
    List Component), p ∈ allowed) :
    Keeps allowed s0 (selfTestEff s failed) := by
  simp only [Machine.selfTestEff]
  repeat' first
    | with_reducible assumption | ((with_reducible apply Component.sub hl); decide)
    | ((with_reducible apply Component.sub hl); simp (disch := decide); done)
    | (with_reducible first | apply Keeps.ite | apply Keeps.foldState | apply Keeps.tileFault | apply Keeps.setFld) | intro _ | split
    | (with_reducible refine Keeps.ofFst ?_ (by assumption))
    | (with_reducible first | refine Keeps.litPower ?_ (hl _ (by decide)) | refine Keeps.litTiles ?_ (hl _ (by decide)) | refine Keeps.lit ?_ (hpower := .inl (hl _ (by decide))) (htiles := .inl (hl _ (by decide))) | refine Keeps.litMem ?_ ?_ ?_ (hstore := .inl (hl _ (by decide))) (hpower := .inl (hl _ (by decide))) (htiles := .inl (hl _ (by decide))))
    | ((with_reducible apply DramKeeps.mk) <;> (try dsimp only) <;> first | exact fun x => x | exact fun _ => rfl | exact Memory.wf_setBytes _ _ _ | exact Sparse.wf_set (0 : Byte) _ _ _ | exact Sparse.wf_set (0 : Nat) _ _ _ | exact Sparse.wf_filter (0 : Byte) _ _)
    | exact fun x => x | exact Memory.wf_setBytes _ _ _ | ((with_reducible show Memory.wf [] = true); rfl) | exact DramKeeps.refl _

theorem Keeps.takeImage {s : State} (a : Armature) (src : Selected) (keep : Keeps allowed s0 s) (hl : ∀ p ∈ ([.loader] : List Component), p ∈
    allowed) :
    Keeps allowed s0 (takeImage s a src) := by
  simp only [Machine.takeImage]
  repeat' (with_reducible first | assumption | refine Keeps.litLoader ?_  (hl _ (by decide)))

theorem Keeps.takeMaquette {s : State} (good : Bool) (keep : Keeps allowed s0 s) (hl : ∀ p ∈ ([.loader] : List Component), p ∈ allowed) :
    Keeps allowed s0 (takeMaquette s good) := by
  simp only [Machine.takeMaquette]
  repeat' first | with_reducible assumption | split | with_reducible refine Keeps.litLoader ?_  (hl _ (by decide))

theorem Keeps.selectEff {s : State} (maquetteOk : Bool) (keep : Keeps allowed s0 s) (hl : ∀ p ∈ ([.slots, .power, .loader, .regArm] : List
    Component), p ∈ allowed) :
    Keeps allowed s0 (selectEff s maquetteOk) := by
  simp only [Machine.selectEff]
  repeat' first
    | with_reducible assumption | ((with_reducible apply Component.sub hl); decide)
    | ((with_reducible apply Component.sub hl); simp (disch := decide); done)
    | (with_reducible first | apply Keeps.ite | apply Keeps.takeMaquette | apply Keeps.armResult | apply Keeps.checkMaquette | apply Keeps.takeImage)
    | intro _ | split | (with_reducible refine Keeps.ofFst ?_ (by assumption))
    | (with_reducible first | refine Keeps.litPower ?_ (hl _ (by decide)) | refine Keeps.litNv ?_ ?_ (nslots := .inl (hl _ (by decide))) (hpower := .inl (hl _ (by decide))))
    | ((with_reducible apply NvLasts.mk) <;> first | rfl | exact Nat.le_refl _ | exact fun _ h => h | exact satInc_ge _ | exact Nat.le_max_left _ _ | exact testBit_lor_left _ _ | exact List.subset_append_left _ _)

theorem Keeps.activateFw {s : State}  (keep : Keeps allowed s0 s) (hl : ∀ p ∈ ([.firmware, .regGlb] : List Component), p ∈ allowed) :
    Keeps allowed s0 (activateFw s) := by
  simp only [Machine.activateFw]
  repeat' first
    | with_reducible assumption | ((with_reducible apply Component.sub hl); decide)
    | (with_reducible first | apply Keeps.ite | apply Keeps.setNat | apply Keeps.namePending) | intro _ | split
    | (with_reducible refine Keeps.litNv ?_ ?_ (nfirmware := .inl (hl _ (by decide))))
    | ((with_reducible apply NvLasts.mk) <;> first | rfl | exact Nat.le_refl _ | exact fun _ h => h | exact satInc_ge _ | exact Nat.le_max_left _ _ | exact testBit_lor_left _ _ | exact List.subset_append_left _ _)

theorem Keeps.coreRebindEff {s : State} (hwFault : Bool) (keep : Keeps allowed s0 s) (hl : ∀ p ∈ ([.firmware, .retire, .log, .packages, .power,
    .loader, .tiles, .store, .dram, .grf, .mover, .search, .fabric, .host, .ledger, .sec, .faults, .out, .regGlb, .regLed, .regArm, .regTier,
    .regFab, .regUpd, .regHst, .regSrc, .regFtl, .regMed, .regTil] : List Component), p ∈ allowed) :
    Keeps allowed s0 (coreRebindEff s hwFault) := by
  simp only [Machine.coreRebindEff]
  repeat' first
    | with_reducible assumption | ((with_reducible apply Component.sub hl); decide)
    | ((with_reducible apply Component.sub hl); simp (disch := decide); done)
    | (with_reducible first | apply Keeps.ite | apply Keeps.bind | apply Keeps.setBit | apply Keeps.resumeHeld | apply Keeps.showRdy)
    | (with_reducible first | apply Keeps.activateFw) | intro _ | split | (with_reducible refine Keeps.ofFst ?_ (by assumption))
    | (with_reducible first | refine Keeps.litPower ?_ (hl _ (by decide)) | refine Keeps.litLoader ?_ (hl _ (by decide)) | refine Keeps.lit ?_ (hpower := .inl (hl _ (by decide))) (hloader := .inl (hl _ (by decide))))

theorem Keeps.watchdogBootEff {s : State}  (keep : Keeps allowed s0 s) (hl : ∀ p ∈ ([.firmware, .log, .packages, .power, .bus, .loader, .tiles,
    .store, .dram, .grf, .mover, .scan, .search, .fabric, .host, .ledger, .sec, .regGlb, .regLed, .regArm, .regGrf, .regTier, .regFab, .regUpd,
    .regHst, .regScn, .regSrc, .regFtl, .regMed, .regTil] : List Component), p ∈ allowed) :
    Keeps allowed s0 (watchdogBootEff s) := by
  simp only [Machine.watchdogBootEff]
  repeat' first
    | with_reducible assumption | ((with_reducible apply Component.sub hl); decide)
    | (with_reducible first | apply Keeps.ite | apply Keeps.showFirmware | apply Keeps.takeOther | apply Keeps.startCore | apply Keeps.stopCore)
    | intro _ | with_reducible refine Keeps.litPower ?_  (hl _ (by decide))

end Sys2Proof.Machine
end

