-- ==== Sys2Proof/Laws/KeepsSideband.lean ====
section
/-! SUPPORT. What every operation of Machine/Sideband.lean keeps: the queue, what lasts, the canonical forms, and every part of the state that
is not in its list. -/
set_option Elab.async false
set_option linter.all false
namespace Sys2Proof.Machine

variable {allowed : List Component} {s0 : State}

theorem Keeps.miAnswer {s : State} (status : Nat) (bytes : List Byte) (keep : Keeps allowed s0 s) (hl : ∀ p ∈ ([.out] : List Component), p ∈
    allowed) :
    Keeps allowed s0 (miAnswer s status bytes) := by
  simp only [Machine.miAnswer]
  repeat' (with_reducible first | assumption | apply Keeps.emit)

theorem Keeps.mctpEff {s : State} (eid : Nat) (keep : Keeps allowed s0 s) (hl : ∀ p ∈ ([.out, .regHst] : List Component), p ∈ allowed) :
    Keeps allowed s0 (mctpEff s eid) := by
  simp only [Machine.mctpEff]
  repeat' first
    | with_reducible assumption | ((with_reducible apply Component.sub hl); decide)
    | (with_reducible first | apply Keeps.ite | apply Keeps.setFld | apply Keeps.emit) | intro _

theorem Keeps.clearHealth {s : State} (clear : Bool) (keep : Keeps allowed s0 s) (hl : ∀ p ∈ ([.host, .regHst] : List Component), p ∈ allowed) :
    Keeps allowed s0 (clearHealth s clear) := by
  simp only [Machine.clearHealth]
  repeat' first
    | with_reducible assumption | ((with_reducible apply Component.sub hl); decide)
    | (with_reducible first | apply Keeps.ite | apply Keeps.showAlert) | intro _ | with_reducible refine Keeps.litHost ?_  (hl _ (by decide))

theorem Keeps.subsystemPoll {s : State} (clear : Bool) (keep : Keeps allowed s0 s) (hl : ∀ p ∈ ([.host, .out, .regHst] : List Component), p ∈
    allowed) :
    Keeps allowed s0 (subsystemPoll s clear) := by
  simp only [Machine.subsystemPoll]
  repeat' first
    | with_reducible assumption | ((with_reducible apply Component.sub hl); decide)
    | (with_reducible first | apply Keeps.ite | apply Keeps.miAnswer | apply Keeps.clearHealth) | intro _

theorem Keeps.controllerPoll {s : State} (clear : Bool) (keep : Keeps allowed s0 s) (hl : ∀ p ∈ ([.host, .out, .regHst] : List Component), p ∈
    allowed) :
    Keeps allowed s0 (controllerPoll s clear) := by
  simp only [Machine.controllerPoll]
  repeat' first
    | with_reducible assumption | ((with_reducible apply Component.sub hl); decide)
    | (with_reducible first | apply Keeps.ite | apply Keeps.miAnswer | apply Keeps.clearHealth) | intro _

theorem Keeps.miCommand {s go : State}  (keep : Keeps allowed s0 s) (keep1 : Keeps allowed s0 go) :
    Keeps allowed s0 (miCommand s go) := by
  simp only [Machine.miCommand]
  repeat' first | (with_reducible first | assumption | apply Keeps.ite) | intro _

theorem Keeps.miStructure {s : State} (dtyp : Nat) (keep : Keeps allowed s0 s) (hl : ∀ p ∈ ([.out] : List Component), p ∈ allowed) :
    Keeps allowed s0 (miStructure s dtyp) := by
  simp only [Machine.miStructure]
  repeat' first | (with_reducible first | assumption | apply Keeps.ite | apply Keeps.miAnswer) | intro _ | with_reducible apply Keeps.litFresh

theorem Keeps.configGet {s : State} (item : Nat) (keep : Keeps allowed s0 s) (hl : ∀ p ∈ ([.out] : List Component), p ∈ allowed) :
    Keeps allowed s0 (configGet s item) := by
  simp only [Machine.configGet]
  repeat' first | (with_reducible first | assumption | apply Keeps.ite | apply Keeps.miAnswer) | intro _

theorem Keeps.configSet {s : State} (item : Nat) (value : Nat) (keep : Keeps allowed s0 s) (hl : ∀ p ∈ ([.host, .out, .regHst] : List Component), p
    ∈ allowed) :
    Keeps allowed s0 (configSet s item value) := by
  simp only [Machine.configSet]
  repeat' first
    | with_reducible assumption | ((with_reducible apply Component.sub hl); decide)
    | (with_reducible first | apply Keeps.ite | apply Keeps.setFld | apply Keeps.miAnswer | apply Keeps.clearHealth) | intro _
    | with_reducible refine Keeps.litHost ?_  (hl _ (by decide))

theorem Keeps.setSpdm {s : State} (via : Transport) (c : Spdm) (keep : Keeps allowed s0 s) (hl : ∀ p ∈ ([.sec] : List Component), p ∈ allowed) :
    Keeps allowed s0 (setSpdm s via c) := by
  simp only [Machine.setSpdm]
  repeat' first | with_reducible assumption | split | with_reducible refine Keeps.litSec ?_  (hl _ (by decide))

theorem Keeps.spdmAnswer {s : State} (via : Transport) (code : Nat) (bytes : List Byte) (keep : Keeps allowed s0 s) (hl : ∀ p ∈ ([.out] : List
    Component), p ∈ allowed) :
    Keeps allowed s0 (spdmAnswer s via code bytes) := by
  simp only [Machine.spdmAnswer]
  repeat' (with_reducible first | assumption | apply Keeps.emit)

theorem Keeps.spdmError {s : State} (via : Transport) (code : Nat) (keep : Keeps allowed s0 s) (hl : ∀ p ∈ ([.out] : List Component), p ∈ allowed) :
    Keeps allowed s0 (spdmError s via code) := by
  simp only [Machine.spdmError]
  repeat' (with_reducible first | assumption | apply Keeps.spdmAnswer)

theorem Keeps.spdmRequest {s go : State} (via : Transport) (keep : Keeps allowed s0 s) (keep1 : Keeps allowed s0 go) :
    Keeps allowed s0 (spdmRequest s via go) := by
  simp only [Machine.spdmRequest]
  repeat' first | (with_reducible first | assumption | apply Keeps.ite) | intro _

theorem Keeps.spdmStage {s go : State} (via : Transport) (need : Spdm → Bool) (keep : Keeps allowed s0 s) (keep1 : Keeps allowed s0 go) (hl : ∀ p ∈
    ([.out] : List Component), p ∈ allowed) :
    Keeps allowed s0 (spdmStage s via need go) := by
  simp only [Machine.spdmStage]
  repeat' first | (with_reducible first | assumption | apply Keeps.ite | apply Keeps.spdmError | apply Keeps.spdmRequest) | intro _

theorem Keeps.certificate {s : State} (via : Transport) (slot : Nat) (offset : Nat) (len : Nat) (keep : Keeps allowed s0 s) (hl : ∀ p ∈ ([.out] :
    List Component), p ∈ allowed) :
    Keeps allowed s0 (certificate s via slot offset len) := by
  simp only [Machine.certificate]
  repeat' first | (with_reducible first | assumption | apply Keeps.ite | apply Keeps.spdmAnswer | apply Keeps.spdmError) | intro _

theorem Keeps.signedAnswer {s : State} (via : Transport) (code : Nat) (nonce : List Byte) (body : List Byte) (keep : Keeps allowed s0 s) (hl : ∀ p ∈
    ([.out] : List Component), p ∈ allowed) :
    Keeps allowed s0 (signedAnswer s via code nonce body) := by
  simp only [Machine.signedAnswer]
  repeat' (with_reducible first | assumption | apply Keeps.spdmAnswer | apply Keeps.litFresh)

theorem Keeps.measurements {s : State} (via : Transport) (index : Nat) (nonce : List Byte) (keep : Keeps allowed s0 s) (hl : ∀ p ∈ ([.out] : List
    Component), p ∈ allowed) :
    Keeps allowed s0 (measurements s via index nonce) := by
  simp only [Machine.measurements]
  repeat' first
    | (with_reducible first | assumption | apply Keeps.ite | apply Keeps.spdmAnswer | apply Keeps.spdmError | apply Keeps.signedAnswer) | intro _
    | with_reducible apply Keeps.litFresh

end Sys2Proof.Machine
end

