-- ==== Sys2Proof/Laws/KeepsGlb.lean ====
section
/-! SUPPORT. What every operation of Machine/Glb.lean keeps: the queue, what lasts, the canonical forms, and every part of the state that
is not in its list. -/
set_option Elab.async false
set_option linter.all false
namespace Sys2Proof.Machine

variable {allowed : List Component} {s0 : State}

theorem Keeps.writePanel {s : State} (v : Nat) (keep : Keeps allowed s0 s) (hl : ∀ p ∈ ([.power, .regGlb] : List Component), p ∈ allowed) :
    Keeps allowed s0 (writePanel s v) := by
  simp only [Machine.writePanel]
  repeat' first
    | with_reducible assumption | ((with_reducible apply Component.sub hl); decide)
    | (with_reducible first | apply Keeps.ite | apply Keeps.setNat | apply Keeps.accErr) | intro _ | split
    | with_reducible refine Keeps.litPower ?_  (hl _ (by decide))

theorem Keeps.writeIdSel {s : State} (v : Nat) (keep : Keeps allowed s0 s) (hl : ∀ p ∈ ([.regGlb] : List Component), p ∈ allowed) :
    Keeps allowed s0 (writeIdSel s v) := by
  simp only [Machine.writeIdSel]
  repeat' first
    | with_reducible assumption | ((with_reducible apply Component.sub hl); decide)
    | (with_reducible first | apply Keeps.ite | apply Keeps.setNat | apply Keeps.set64 | apply Keeps.accErr) | intro _

theorem Keeps.writeFrecSel {s : State} (v : Nat) (keep : Keeps allowed s0 s) (hl : ∀ p ∈ ([.regGlb] : List Component), p ∈ allowed) :
    Keeps allowed s0 (writeFrecSel s v) := by
  simp only [Machine.writeFrecSel]
  repeat' first
    | with_reducible assumption | ((with_reducible apply Component.sub hl); decide) | with_reducible apply Keeps.setNat
    | (with_reducible refine Keeps.setWords _ _ .regGlb (fun i h => regBlock_of_glb (by rw [wordsOf_length] at h; unfold GLB_FREC_DATA; omega)) ?_ (Component.sub hl (by decide)))

theorem Keeps.windowLapse {s : State} (cls : Nat) (unit : Nat) (keep : Keeps allowed s0 s) (hl : ∀ p ∈ ([.faults] : List Component), p ∈ allowed) :
    Keeps allowed s0 (windowLapse s cls unit) := by
  simp only [Machine.windowLapse]
  repeat' first
    | (with_reducible first | assumption | apply Keeps.ite) | intro _ | split | with_reducible refine Keeps.litFaults ?_  (hl _ (by decide))

theorem Keeps.writeWindowHi {s : State} (c : Nat) (v : Word) (keep : Keeps allowed s0 s) (hl : ∀ p ∈ ([.sec] : List Component), p ∈ allowed) :
    Keeps allowed s0 (writeWindowHi s c v) := by
  simp only [Machine.writeWindowHi]
  repeat' (with_reducible first | assumption | refine Keeps.litSec ?_  (hl _ (by decide)))

theorem Keeps.writeWindowLo {s : State} (c : Nat) (v : Word) (keep : Keeps allowed s0 s) (hl : ∀ p ∈ ([.sec, .regGlb] : List Component), p ∈
    allowed) :
    Keeps allowed s0 (writeWindowLo s c v) := by
  simp only [Machine.writeWindowLo]
  repeat' first
    | with_reducible assumption | ((with_reducible apply Component.sub hl); decide)
    | ((with_reducible apply Component.sub hl); simp (disch := decide); done)
    | (with_reducible first | apply Keeps.ite | apply Keeps.set64 | apply Keeps.accErr) | intro _
    | with_reducible refine Keeps.litSec ?_  (hl _ (by decide))

theorem Keeps.installDone {s : State} (result : Nat) (keep : Keeps allowed s0 s) (hl : ∀ p ∈ ([.regGlb] : List Component), p ∈ allowed) :
    Keeps allowed s0 (installDone s result) := by
  simp only [Machine.installDone]
  repeat' first
    | with_reducible assumption | ((with_reducible apply Component.sub hl); decide)
    | (with_reducible first | apply Keeps.setFld | apply Keeps.setBit)

theorem Keeps.installEff {s : State}  (keep : Keeps allowed s0 s) (hl : ∀ p ∈ ([.owner, .retire, .log, .dram, .mover, .host, .faults, .out, .regGlb,
    .regTier] : List Component), p ∈ allowed) :
    Keeps allowed s0 (installEff s) := by
  simp only [Machine.installEff]
  repeat' first
    | with_reducible assumption | ((with_reducible apply Component.sub hl); decide)
    | (with_reducible first | apply Keeps.ite | apply Keeps.setNat | apply Keeps.setBit | apply Keeps.draw | apply Keeps.readRange)
    | with_reducible apply Keeps.installDone | intro _ | split
    | (with_reducible refine Keeps.litNv ?_ ?_ (nowner := .inl (hl _ (by decide))))
    | ((with_reducible apply NvLasts.mk) <;> first | rfl | exact Nat.le_refl _ | exact fun _ h => h | exact satInc_ge _ | exact Nat.le_max_left _ _ | exact testBit_lor_left _ _ | exact List.subset_append_left _ _)

theorem Keeps.writeOwnCtrl {s : State} (v : Nat) (keep : Keeps allowed s0 s) (hl : ∀ p ∈ ([.owner, .retire, .log, .dram, .mover, .host, .faults,
    .out, .regGlb, .regTier] : List Component), p ∈ allowed) :
    Keeps allowed s0 (writeOwnCtrl s v) := by
  simp only [Machine.writeOwnCtrl]
  repeat' first | (with_reducible first | assumption | apply Keeps.ite | apply Keeps.installEff) | intro _

theorem Keeps.endSelfTest {s : State}  (keep : Keeps allowed s0 s) (hl : ∀ p ∈ ([.host] : List Component), p ∈ allowed) :
    Keeps allowed s0 (endSelfTest s) := by
  simp only [Machine.endSelfTest]
  repeat' first | with_reducible assumption | split | with_reducible refine Keeps.litHost ?_  (hl _ (by decide))

theorem Keeps.noteSegment {s : State} (good : Bool) (keep : Keeps allowed s0 s) (hl : ∀ p ∈ ([.host] : List Component), p ∈ allowed) :
    Keeps allowed s0 (noteSegment s good) := by
  simp only [Machine.noteSegment]
  repeat' first | (with_reducible first | assumption | apply Keeps.ite) | intro _ | with_reducible refine Keeps.litHost ?_  (hl _ (by decide))

theorem Keeps.beginSegment3 {s : State}  (keep : Keeps allowed s0 s) (hl : ∀ p ∈ ([.host, .ledger, .regLed, .regFtl] : List Component), p ∈ allowed)
    :
    Keeps allowed s0 (beginSegment3 s) := by
  simp only [Machine.beginSegment3]
  repeat' first
    | with_reducible assumption | ((with_reducible apply Component.sub hl); decide)
    | (with_reducible first | apply Keeps.beginMeasure | refine Keeps.litHost ?_  (hl _ (by decide)))

theorem Keeps.beginTile {s : State} (t : Nat) (keep : Keeps allowed s0 s) (hl : ∀ p ∈ ([.host, .ledger, .regLed, .regFtl] : List Component), p ∈
    allowed) :
    Keeps allowed s0 (beginTile s t) := by
  simp only [Machine.beginTile]
  repeat' first
    | (with_reducible first | assumption | apply Keeps.beginSegment3) | split | with_reducible refine Keeps.litHost ?_  (hl _ (by decide))

theorem Keeps.segmentEff {s : State} (good : Bool) (t : Nat) (keep : Keeps allowed s0 s) (hl : ∀ p ∈ ([.retire, .log, .packages, .tiles, .store,
    .dram, .grf, .mover, .scan, .fabric, .host, .ledger, .faults, .out, .regGlb, .regLed, .regArm, .regGrf, .regTier, .regFab, .regSrc, .regFtl,
    .regTil] : List Component), p ∈ allowed) :
    Keeps allowed s0 (segmentEff s good t) := by
  simp only [Machine.segmentEff]
  repeat' first
    | with_reducible assumption | ((with_reducible apply Component.sub hl); decide)
    | ((with_reducible apply Component.sub hl); simp (disch := decide); done)
    | (with_reducible first | apply Keeps.ite | apply Keeps.noteSegment | apply Keeps.beginTile | apply Keeps.tileFault | apply Keeps.endSelfTest)
    | intro _ | split | (with_reducible refine Keeps.ofFst ?_ (by assumption)) | (with_reducible first | refine Keeps.litHost ?_ (hl _ (by decide)))

end Sys2Proof.Machine
end

