-- ==== Sys2Proof/Laws/KeepsWindow.lean ====
section
/-! SUPPORT. What every operation of Machine/Window.lean keeps: the queue, what lasts, the canonical forms, and every part of the state that
is not in its list. -/
set_option Elab.async false
set_option linter.all false
namespace Sys2Proof.Machine

variable {allowed : List Component} {s0 : State}

theorem Keeps.serve {s : State} (off : Nat) (size : Nat) (go : State → State) (keep : Keeps allowed s0 s) (hl : ∀ p ∈ ([.regGlb] : List Component),
    p ∈ allowed) (hf_go : ∀ u , Keeps allowed s0 u → Keeps allowed s0 (go u )) :
    Keeps allowed s0 (serve s off size go) := by
  simp only [Machine.serve]
  repeat' first | (with_reducible first | assumption | apply Keeps.ite | apply hf_go | apply Keeps.accErr) | intro _

theorem Keeps.readServed {s : State} (off : Nat) (keep : Keeps allowed s0 s) (hl : ∀ p ∈ ([.bus, regBlock off] : List Component), p ∈ allowed) :
    Keeps allowed s0 (readServed off s) := by
  simp only [Machine.readServed]
  repeat' first
    | with_reducible assumption | ((with_reducible apply Component.sub hl); simp (disch := decide); done)
    | (with_reducible first | apply Keeps.ite | apply Keeps.setReg) | intro _ | split
    | (with_reducible refine Keeps.lit ?_ (hlatch := .inl (hl _ (by simp))) (hreadData := .inl (hl _ (by simp))))

theorem Keeps.busRead {s : State} (off : Nat) (size : Nat) (keep : Keeps allowed s0 s) (hl : ∀ p ∈ ([.bus, .regGlb, regBlock off] : List
    Component), p ∈ allowed) :
    Keeps allowed s0 (busRead s off size) := by
  simp only [Machine.busRead]
  repeat' first
    | with_reducible assumption | ((with_reducible apply Component.sub hl); decide)
    | ((with_reducible apply Component.sub hl); simp (disch := decide); done)
    | (with_reducible first | apply Keeps.ite | apply Keeps.serve | apply Keeps.readServed) | intro _ | split
    | (with_reducible refine Keeps.ofFst ?_ (by assumption)) | (with_reducible first | refine Keeps.lit ?_ (hreadData := .inl (hl _ (by simp))))

theorem Keeps.store {s : State} (off : Nat) (v : Nat) (keep : Keeps allowed s0 s) (hl : ∀ p ∈ ([regBlock off] : List Component), p ∈ allowed) :
    Keeps allowed s0 (store s off v) := by
  simp only [Machine.store]
  repeat' first | (with_reducible first | assumption | apply Keeps.setReg) | split

theorem Keeps.storeAligned {s : State} (off : Nat) (n : Nat) (v : Nat) (keep : Keeps allowed s0 s) (hl : ∀ p ∈ ([.regGlb, regBlock off] : List
    Component), p ∈ allowed) :
    Keeps allowed s0 (storeAligned s off n v) := by
  simp only [Machine.storeAligned]
  repeat' first
    | with_reducible assumption | ((with_reducible apply Component.sub hl); simp (disch := decide); done)
    | (with_reducible first | apply Keeps.ite | apply Keeps.accErr | apply Keeps.store) | intro _

theorem Keeps.storeArm {s : State} (bit : Nat) (good : Bool) (off : Nat) (v : Nat) (keep : Keeps allowed s0 s) (hl : ∀ p ∈ ([.regGlb, regBlock off]
    : List Component), p ∈ allowed) :
    Keeps allowed s0 (storeArm s bit good off v) := by
  simp only [Machine.storeArm]
  repeat' first
    | with_reducible assumption | ((with_reducible apply Component.sub hl); simp (disch := decide); done)
    | (with_reducible first | apply Keeps.ite | apply Keeps.accErr | apply Keeps.store) | intro _

theorem Keeps.writeGlb {s : State} (off : Nat) (v : Nat) (keep : Keeps allowed s0 s) (hl : ∀ p ∈ ([.owner, .retire, .log, .power, .dram, .mover,
    .host, .sec, .faults, .out, .regGlb, .regTier, regBlock off] : List Component), p ∈ allowed) :
    Keeps allowed s0 (writeGlb s off v) := by
  simp only [Machine.writeGlb]
  repeat' first
    | with_reducible assumption | ((with_reducible apply Component.sub hl); simp (disch := decide); done)
    | (with_reducible first | apply Keeps.ite | apply Keeps.accErr | apply Keeps.writePanel | apply Keeps.writeIdSel | apply Keeps.writeFrecSel)
    | (with_reducible first | apply Keeps.writeWindowHi | apply Keeps.writeWindowLo | apply Keeps.writeOwnCtrl | apply Keeps.store)
    | (with_reducible first | apply Keeps.storeAligned | apply Keeps.storeArm) | intro _

theorem Keeps.writeLed {s : State} (off : Nat) (v : Nat) (keep : Keeps allowed s0 s) (hl : ∀ p ∈ ([.ledger, .regGlb, .regLed, .regFtl, regBlock off]
    : List Component), p ∈ allowed) :
    Keeps allowed s0 (writeLed s off v) := by
  simp only [Machine.writeLed]
  repeat' first
    | with_reducible assumption | ((with_reducible apply Component.sub hl); simp (disch := decide); done)
    | ((with_reducible apply Component.sub hl); simp [show regBlock LED_CTRL = Component.regLed from rfl]; done)
    | (with_reducible first | apply Keeps.ite | apply Keeps.setBit | apply Keeps.accErr | apply Keeps.beginMeasure | apply Keeps.store)
    | with_reducible apply Keeps.storeArm | intro _

theorem Keeps.writeArm {s : State} (off : Nat) (v : Nat) (keep : Keeps allowed s0 s) (hl : ∀ p ∈ ([.retire, .log, .loader, .dram, .mover, .host,
    .faults, .out, .regGlb, .regArm, .regTier, regBlock off] : List Component), p ∈ allowed) :
    Keeps allowed s0 (writeArm s off v) := by
  simp only [Machine.writeArm]
  repeat' first
    | with_reducible assumption | ((with_reducible apply Component.sub hl); simp (disch := decide); done)
    | (with_reducible first | apply Keeps.ite | apply Keeps.armCommand | apply Keeps.store) | intro _

theorem Keeps.writeGrf {s : State} (off : Nat) (v : Nat) (keep : Keeps allowed s0 s) (hl : ∀ p ∈ ([.regGlb, .regGrf, regBlock off] : List
    Component), p ∈ allowed) :
    Keeps allowed s0 (writeGrf s off v) := by
  simp only [Machine.writeGrf]
  repeat' first
    | with_reducible assumption | ((with_reducible apply Component.sub hl); simp (disch := decide); done)
    | (with_reducible first | apply Keeps.ite | apply Keeps.writeSeqSel | apply Keeps.writeClassCtrl | apply Keeps.store) | intro _

theorem Keeps.writeTier {s : State} (off : Nat) (v : Nat) (keep : Keeps allowed s0 s) (hl : ∀ p ∈ ([.retire, .log, .dram, .mover, .host, .faults,
    .out, .regGlb, .regTier, regBlock off] : List Component), p ∈ allowed) :
    Keeps allowed s0 (writeTier s off v) := by
  simp only [Machine.writeTier]
  repeat' first
    | with_reducible assumption | ((with_reducible apply Component.sub hl); simp (disch := decide); done)
    | (with_reducible first | apply Keeps.ite | apply Keeps.writeMqSize | apply Keeps.writeMqBase | apply Keeps.writeMqTail)
    | (with_reducible first | apply Keeps.writeChkCtrl | apply Keeps.store) | intro _

theorem Keeps.writeTree {s : State} (t : Nat) (k : Nat) (v : Nat) (keep : Keeps allowed s0 s) (hl : ∀ p ∈ ([.fabric, .host, .out, .regGlb, .regFab,
    .regUpd] : List Component), p ∈ allowed) :
    Keeps allowed s0 (writeTree s t k v) := by
  simp only [Machine.writeTree]
  repeat' first
    | with_reducible assumption | ((with_reducible apply Component.sub hl); decide)
    | ((with_reducible apply Component.sub hl); simp (disch := decide); done)
    | (with_reducible first | apply Keeps.ite | apply Keeps.accErr | apply Keeps.writeTreeStep | apply Keeps.writePostCount)
    | (with_reducible first | apply Keeps.writeTreeCtrl | apply Keeps.store | apply Keeps.storeAligned | apply Keeps.storeArm) | intro _

theorem Keeps.writeFab {s : State} (off : Nat) (v : Nat) (keep : Keeps allowed s0 s) (hl : ∀ p ∈ ([.retire, .log, .dram, .mover, .fabric, .host,
    .faults, .out, .regGlb, .regTier, .regFab, .regUpd, regBlock off] : List Component), p ∈ allowed) :
    Keeps allowed s0 (writeFab s off v) := by
  simp only [Machine.writeFab]
  repeat' first
    | with_reducible assumption | ((with_reducible apply Component.sub hl); simp (disch := decide); done)
    | (with_reducible first | apply Keeps.ite | apply Keeps.writeTimeSet | apply Keeps.writePeerCtrl | apply Keeps.store)
    | (with_reducible first | apply Keeps.storeAligned | apply Keeps.writeTree) | intro _

theorem Keeps.writeUpd {s : State} (off : Nat) (v : Nat) (keep : Keeps allowed s0 s) (hl : ∀ p ∈ ([.regGlb, .regUpd, regBlock off] : List
    Component), p ∈ allowed) :
    Keeps allowed s0 (writeUpd s off v) := by
  simp only [Machine.writeUpd]
  repeat' first
    | with_reducible assumption | ((with_reducible apply Component.sub hl); simp (disch := decide); done)
    | (with_reducible first | apply Keeps.ite | apply Keeps.writeProgCtrl | apply Keeps.writeUpdLogSel | apply Keeps.writeLrTag)
    | (with_reducible first | apply Keeps.writeUpdWindow | apply Keeps.store) | intro _

theorem Keeps.writeRawFree {s : State} (p : Nat) (v : Nat) (keep : Keeps allowed s0 s) (hl : ∀ p ∈ ([.retire, .log, .packages, .dram, .mover, .host,
    .faults, .out, .regGlb, .regTier, .regMed] : List Component), p ∈ allowed) :
    Keeps allowed s0 (writeRawFree s p v) := by
  simp only [Machine.writeRawFree]
  repeat' first | (with_reducible first | assumption | apply Keeps.ite | apply Keeps.writeRawCtrl) | intro _ | with_reducible apply Keeps.litFresh

theorem Keeps.writeMed {s : State} (p : Nat) (k : Nat) (v : Nat) (keep : Keeps allowed s0 s) (hl : ∀ p ∈ ([.retire, .log, .packages, .dram, .mover,
    .host, .faults, .out, .regGlb, .regTier, .regMed] : List Component), p ∈ allowed) :
    Keeps allowed s0 (writeMed s p k v) := by
  simp only [Machine.writeMed]
  repeat' first
    | with_reducible assumption | ((with_reducible apply Component.sub hl); decide)
    | ((with_reducible apply Component.sub hl); simp (disch := decide); done)
    | (with_reducible first | apply Keeps.ite | apply Keeps.writeBlkSel | apply Keeps.writeMedCtrl | apply Keeps.store)
    | (with_reducible first | apply Keeps.storeAligned | apply Keeps.storeArm | apply Keeps.writeRawFree) | intro _

theorem Keeps.writePackage {s : State} (p : Nat) (k : Nat) (v : Nat) (keep : Keeps allowed s0 s) (hl : ∀ p ∈ ([.retire, .log, .packages, .dram,
    .mover, .scan, .search, .host, .faults, .out, .regGlb, .regLed, .regArm, .regGrf, .regTier, .regFab, .regUpd, .regHst, .regScn, .regSrc,
    .regFtl, .regMed, .regTil] : List Component), p ∈ allowed) :
    Keeps allowed s0 (writePackage s p k v) := by
  simp only [Machine.writePackage]
  repeat' first
    | with_reducible assumption | ((with_reducible apply Component.sub hl); decide)
    | ((with_reducible apply Component.sub hl); exact Component.sub_off (by decide))
    | ((with_reducible apply Component.sub hl); repeat' first | exact List.forall_mem_nil _ | refine Component.sub_cons ?_ ?_ | exact Component.off_mem _ (by decide) | decide)
    | (with_reducible first | apply Keeps.ite | apply Keeps.writeFtlCtrl | apply Keeps.writeCastCycle | apply Keeps.writeScnCtrl)
    | (with_reducible first | apply Keeps.writeJqSize | apply Keeps.writeJqBase | apply Keeps.writeJqCancel | apply Keeps.writeSrcCtrl)
    | (with_reducible first | apply Keeps.writeQqSize | apply Keeps.writeQqBase | apply Keeps.writeQqCancel | apply Keeps.store)
    | with_reducible apply Keeps.writeMed | intro _

theorem Keeps.writeTile {s : State} (t : Nat) (k : Nat) (v : Nat) (keep : Keeps allowed s0 s) (hl : ∀ p ∈ ([.retire, .log, .packages, .tiles, .store, .dram, .grf, .mover, .scan, .fabric, .host, .faults, .out, .regGlb, .regArm, .regGrf, .regTier, .regFab, .regSrc, .regFtl, .regTil] : List
    Component), p ∈ allowed) :
    Keeps allowed s0 (writeTile s t k v) := by
  simp only [Machine.writeTile]
  repeat' first
    | with_reducible assumption | ((with_reducible apply Component.sub hl); decide)
    | ((with_reducible apply Component.sub hl); simp (disch := decide); done)
    | (with_reducible first | apply Keeps.ite | apply Keeps.accErr | apply Keeps.writeTilCtrl | apply Keeps.writeHistCtrl)
    | (with_reducible first | apply Keeps.writeTilRamp | apply Keeps.writeTilWdog | apply Keeps.store) | intro _

theorem Keeps.writeRegister {s : State} (off : Nat) (v : Nat) (keep : Keeps allowed s0 s) (hl : ∀ p ∈ ([.owner, .retire, .log, .packages, .power,
    .loader, .tiles, .store, .dram, .grf, .mover, .scan, .search, .fabric, .host, .ledger, .sec, .faults, .out, .regGlb, .regLed, .regArm, .regGrf,
    .regTier, .regFab, .regUpd, .regHst, .regScn, .regSrc, .regFtl, .regMed, .regTil, regBlock off] : List Component), p ∈ allowed) :
    Keeps allowed s0 (writeRegister off v s) := by
  simp only [Machine.writeRegister]
  repeat' first
    | with_reducible assumption | ((with_reducible apply Component.sub hl); simp (disch := decide); done)
    | (with_reducible first | apply Keeps.ite | apply Keeps.store | apply Keeps.writeGlb | apply Keeps.writeLed | apply Keeps.writeArm)
    | (with_reducible first | apply Keeps.writeGrf | apply Keeps.writeTier | apply Keeps.writeFab | apply Keeps.writeUpd)
    | (with_reducible first | apply Keeps.writePackage | apply Keeps.writeTile) | intro _

theorem Keeps.writeServed {s : State} (off : Nat) (v : Nat) (keep : Keeps allowed s0 s) (hl : ∀ p ∈ ([.owner, .retire, .log, .packages, .power,
    .loader, .tiles, .store, .dram, .grf, .mover, .scan, .search, .fabric, .host, .ledger, .sec, .faults, .out, .regGlb, .regLed, .regArm, .regGrf,
    .regTier, .regFab, .regUpd, .regHst, .regScn, .regSrc, .regFtl, .regMed, .regTil, regBlock off] : List Component), p ∈ allowed) :
    Keeps allowed s0 (writeServed off v s) := by
  simp only [Machine.writeServed]
  repeat' first
    | with_reducible assumption | ((with_reducible apply Component.sub hl); simp (disch := decide); done)
    | (with_reducible first | apply Keeps.ite | apply Keeps.accErr | apply Keeps.writeRegister) | intro _

theorem Keeps.busWriteSized {s : State} (off : Nat) (size : Nat) (v : Nat) (keep : Keeps allowed s0 s) (hl : ∀ p ∈ ([.owner, .retire, .log,
    .packages, .power, .loader, .tiles, .store, .dram, .grf, .mover, .scan, .search, .fabric, .host, .ledger, .sec, .faults, .out, .regGlb, .regLed,
    .regArm, .regGrf, .regTier, .regFab, .regUpd, .regHst, .regScn, .regSrc, .regFtl, .regMed, .regTil] : List Component), p ∈ allowed) :
    Keeps allowed s0 (busWriteSized s off size v) := by
  simp only [Machine.busWriteSized]
  repeat' first
    | with_reducible assumption | ((with_reducible apply Component.sub hl); decide)
    | ((with_reducible apply Component.sub hl); repeat' first | exact List.forall_mem_nil _ | refine Component.sub_cons ?_ ?_ | exact Component.off_mem _ (by decide) | decide)
    | (with_reducible first | apply Keeps.ite | apply Keeps.serve | apply Keeps.writeServed) | intro _

theorem Keeps.busWrite {s : State} (off : Nat) (v : Nat) (keep : Keeps allowed s0 s) (hl : ∀ p ∈ ([.owner, .retire, .log, .packages, .power,
    .loader, .tiles, .store, .dram, .grf, .mover, .scan, .search, .fabric, .host, .ledger, .sec, .faults, .out, .regGlb, .regLed, .regArm, .regGrf,
    .regTier, .regFab, .regUpd, .regHst, .regScn, .regSrc, .regFtl, .regMed, .regTil] : List Component), p ∈ allowed) :
    Keeps allowed s0 (busWrite s off v) := by
  simp only [Machine.busWrite]
  repeat' (with_reducible first | assumption | apply Keeps.busWriteSized)

end Sys2Proof.Machine
end

