-- ==== Sys2Proof/Laws/KeepsWrites.lean ====
section
/-! SUPPORT. What every operation of Machine/Writes.lean keeps: the queue, what lasts, the canonical forms, and every part of the state that
is not in its list. -/
set_option Elab.async false
set_option linter.all false
namespace Sys2Proof.Machine

variable {allowed : List Component} {s0 : State}

theorem Keeps.treeCmd {s : State} (t : Nat) (cmd : Nat) (keep : Keeps allowed s0 s) (hl : ∀ p ∈ ([.owner, .retire, .log, .packages, .power, .loader,
    .tiles, .store, .dram, .grf, .mover, .scan, .search, .fabric, .host, .ledger, .sec, .faults, .out, .regGlb, .regLed, .regArm, .regGrf, .regTier,
    .regFab, .regUpd, .regHst, .regScn, .regSrc, .regFtl, .regMed, .regTil] : List Component), p ∈ allowed) :
    Keeps allowed s0 (treeCmd s t cmd) := by
  simp only [Machine.treeCmd]
  repeat' (with_reducible first | assumption | apply Keeps.busWrite)

theorem Keeps.rawWriteBus {s : State} (p : Nat) (key : Nat) (cmd : Nat) (stage : ReadStage) (sensed : List Byte) (keep : Keeps allowed s0 s) (hl : ∀
    p ∈ ([.retire, .log, .packages, .dram, .mover, .host, .faults, .out, .regGlb, .regTier, .regMed] : List Component), p ∈ allowed) :
    Keeps allowed s0 (rawWriteBus s p key cmd stage sensed) := by
  simp only [Machine.rawWriteBus]
  repeat' first
    | with_reducible assumption | ((with_reducible apply Component.sub hl); decide)
    | (with_reducible first | apply Keeps.ite | apply Keeps.writeRawCtrl | apply Keeps.serve) | intro _

end Sys2Proof.Machine
end

