-- ==== Sys2Proof/Laws/KeepsTick.lean ====
section
/-! SUPPORT. What every operation of Machine/Tick.lean keeps: the queue, what lasts, the canonical forms, and every part of the state that
is not in its list. -/
set_option Elab.async false
set_option linter.all false
namespace Sys2Proof.Machine

variable {allowed : List Component} {s0 : State}

theorem Keeps.tileTick {s : State} (e : Nat × Tile) (keep : Keeps allowed s0 s) (hl : ∀ p ∈ ([.grf, .regTier, .regTil] : List Component), p ∈
    allowed) :
    Keeps allowed s0 (tileTick s e) := by
  simp only [Machine.tileTick]
  repeat' first
    | with_reducible assumption | ((with_reducible apply Component.sub hl); decide)
    | ((with_reducible apply Component.sub hl); simp (disch := decide); done)
    | (with_reducible first | apply Keeps.ite | apply Keeps.bump | apply Keeps.modKernel) | intro _ | split
    | (with_reducible refine Keeps.ofFst ?_ (by assumption))

theorem Keeps.classTick {s : State} (keep : Keeps allowed s0 s) (hl : ∀ p ∈ ([.grf] : List Component), p ∈ allowed) :
    Keeps allowed s0 (classTick s) := by
  simp only [Machine.classTick]
  repeat' first
    | with_reducible assumption | ((with_reducible apply Component.sub hl); decide)
    | ((with_reducible apply Component.sub hl); simp (disch := decide); done)
    | (with_reducible first | apply Keeps.ite | apply Keeps.foldlFst | apply Keeps.foldl) | intro _ | split
    | (with_reducible refine Keeps.ofFst ?_ (by assumption)) | (with_reducible first | refine Keeps.litGrf ?_ (hl _ (by decide)))

theorem Keeps.useTick {s : State} (slot : Nat) (keep : Keeps allowed s0 s) (hl : ∀ p ∈ ([.grf, .regGrf] : List Component), p ∈ allowed) :
    Keeps allowed s0 (useTick s slot) := by
  simp only [Machine.useTick]
  repeat' first
    | with_reducible assumption | ((with_reducible apply Component.sub hl); decide)
    | ((with_reducible apply Component.sub hl); simp (disch := decide); done) | (with_reducible first | apply Keeps.ite | apply Keeps.add64)
    | intro _ | split | (with_reducible refine Keeps.ofFst ?_ (by assumption)) | (with_reducible first | refine Keeps.litGrf ?_ (hl _ (by decide)))

theorem Keeps.bumpIf {s : State} (b : Bool) (off : Nat) (keep : Keeps allowed s0 s) (hl : ∀ p ∈ ([regBlock off] : List Component), p ∈ allowed) :
    Keeps allowed s0 (bumpIf b s off) := by
  simp only [Machine.bumpIf]
  repeat' first | (with_reducible first | assumption | apply Keeps.ite | apply Keeps.bump) | intro _

theorem Keeps.countTick {s : State} (keep : Keeps allowed s0 s) (hl : ∀ p ∈ ([.grf, .regLed, .regGrf, .regTier, .regHst, .regSrc, .regFtl,
    .regTil] : List Component), p ∈ allowed) :
    Keeps allowed s0 (countTick s) := by
  simp only [Machine.countTick]
  repeat' first
    | with_reducible assumption | ((with_reducible apply Component.sub hl); decide)
    | ((with_reducible apply Component.sub hl); simp (disch := decide); done)
    | (with_reducible first | apply Keeps.ite | apply Keeps.foldState | apply Keeps.tileTick | apply Keeps.useTick | apply Keeps.classTick)
    | (with_reducible first | apply Keeps.bumpIf) | intro _ | split | (with_reducible refine Keeps.ofFst ?_ (by assumption))
    | (with_reducible first | refine Keeps.litGrf ?_ (hl _ (by decide)))

theorem Keeps.tbTick {s : State}  (keep : Keeps allowed s0 s) (hl : ∀ p ∈ ([.time, .grf, .fabric, .regLed, .regGrf, .regTier, .regHst, .regSrc,
    .regFtl, .regTil] : List Component), p ∈ allowed) :
    Keeps allowed s0 (tbTick s) := by
  simp only [Machine.tbTick]
  repeat' first
    | with_reducible assumption | ((with_reducible apply Component.sub hl); decide) | with_reducible apply Keeps.countTick
    | (with_reducible refine Keeps.lit ?_ (htb := .inl (hl _ (by decide))) (hfabric := .inl (hl _ (by decide))))

theorem Keeps.psTick {s : State}  (keep : Keeps allowed s0 s) (hl : ∀ p ∈ ([.host, .regHst] : List Component), p ∈ allowed) :
    Keeps allowed s0 (psTick s) := by
  simp only [Machine.psTick]
  repeat' first | (with_reducible first | assumption | apply Keeps.ite | apply Keeps.beginEntry) | intro _ | split

theorem Keeps.onTb {s : State} (keep : Keeps allowed s0 s) (hl : ∀ p ∈ ([.time, .grf, .fabric, .sec, .faults, .regLed, .regGrf, .regTier, .regHst,
    .regSrc, .regFtl, .regTil] : List Component), p ∈ allowed) :
    Keeps allowed s0 (onTb s) := by
  simp only [Machine.onTb]
  repeat' first
    | with_reducible assumption | ((with_reducible apply Component.sub hl); decide)
    | ((with_reducible apply Component.sub hl); simp (disch := decide); done) | (with_reducible first | apply Keeps.ite | apply Keeps.tbTick)
    | intro _ | split | (with_reducible refine Keeps.ofFst ?_ (by assumption))
    | (with_reducible first | refine Keeps.litSec ?_ (hl _ (by decide)) | refine Keeps.litFaults ?_ (hl _ (by decide)) | refine Keeps.lit ?_ (hsec := .inl (hl _ (by decide))) (hfaults := .inl (hl _ (by decide))))

theorem Keeps.onStandby {s : State} (keep : Keeps allowed s0 s) (hl : ∀ p ∈ ([.sec, .faults] : List Component), p ∈ allowed) :
    Keeps allowed s0 (onStandby s) := by
  simp only [Machine.onStandby]
  repeat' first
    | with_reducible assumption | ((with_reducible apply Component.sub hl); decide)
    | ((with_reducible apply Component.sub hl); simp (disch := decide); done) | (with_reducible first | apply Keeps.ite) | intro _ | split
    | (with_reducible refine Keeps.ofFst ?_ (by assumption))
    | (with_reducible first | refine Keeps.litSec ?_ (hl _ (by decide)) | refine Keeps.litFaults ?_ (hl _ (by decide)) | refine Keeps.lit ?_ (hsec := .inl (hl _ (by decide))) (hfaults := .inl (hl _ (by decide))))

theorem Keeps.fire {s : State} (x0 : Expiry) (keep : Keeps allowed s0 s) (hl : ∀ p ∈ ([.retire, .log, .packages, .corpus, .loader, .tiles, .store,
    .dram, .grf, .mover, .scan, .search, .fabric, .host, .faults, .out, .regGlb, .regArm, .regGrf, .regTier, .regFab, .regUpd, .regScn, .regSrc,
    .regFtl, .regTil] : List Component), p ∈ allowed) :
    Keeps allowed s0 (fire s x0) := by
  simp only [Machine.fire]
  repeat' first
    | with_reducible assumption | ((with_reducible apply Component.sub hl); decide)
    | ((with_reducible apply Component.sub hl); simp (disch := decide); done)
    | (with_reducible first | apply Keeps.ite | apply Keeps.qlimitEff | apply Keeps.watchdogEff | apply Keeps.kernelDeadlineEff | apply Keeps.runDeadlineEff)
    | (with_reducible first | apply Keeps.mvLimitEff | apply Keeps.queryDeadlineEff | apply Keeps.reductionExpiry | apply Keeps.lrWaitEff) | intro _
    | split | (with_reducible refine Keeps.ofFst ?_ (by assumption))

theorem Keeps.fireDue {s : State} (keep : Keeps allowed s0 s) (hl : ∀ p ∈ ([.retire, .log, .packages, .corpus, .loader, .tiles, .store, .dram,
    .grf, .mover, .scan, .search, .fabric, .host, .faults, .out, .regGlb, .regArm, .regGrf, .regTier, .regFab, .regUpd, .regScn, .regSrc, .regFtl,
    .regTil] : List Component), p ∈ allowed) :
    Keeps allowed s0 (fireDue s) := by
  simp only [Machine.fireDue]
  repeat' first
    | with_reducible assumption | ((with_reducible apply Component.sub hl); decide)
    | ((with_reducible apply Component.sub hl); simp (disch := decide); done)
    | (with_reducible first | apply Keeps.ite | apply Keeps.foldState | apply Keeps.fire) | intro _ | split
    | (with_reducible refine Keeps.ofFst ?_ (by assumption))

theorem Keeps.stampSyncs {s : State} (keep : Keeps allowed s0 s) (hl : ∀ p ∈ ([.tiles] : List Component), p ∈ allowed) :
    Keeps allowed s0 (stampSyncs s) := by
  simp only [Machine.stampSyncs]
  repeat' first
    | with_reducible assumption | ((with_reducible apply Component.sub hl); decide)
    | ((with_reducible apply Component.sub hl); simp (disch := decide); done)
    | (with_reducible first | apply Keeps.ite | apply Keeps.foldState | apply Keeps.setTile) | intro _ | split
    | (with_reducible refine Keeps.ofFst ?_ (by assumption))

theorem Keeps.showWaits {s : State} (keep : Keeps allowed s0 s) (hl : ∀ p ∈ ([.regFtl] : List Component), p ∈ allowed) :
    Keeps allowed s0 (showWaits s) := by
  simp only [Machine.showWaits]
  repeat' first
    | with_reducible assumption | ((with_reducible apply Component.sub hl); decide)
    | ((with_reducible apply Component.sub hl); simp (disch := decide); done)
    | (with_reducible first | apply Keeps.ite | apply Keeps.foldState | apply Keeps.setBit) | intro _ | split
    | (with_reducible refine Keeps.ofFst ?_ (by assumption))

theorem Keeps.ownTick {s : State} (keep : Keeps allowed s0 s) (hl : ∀ p ∈ ([.retire, .log, .packages, .corpus, .loader, .tiles, .store, .dram,
    .grf, .mover, .scan, .search, .fabric, .host, .faults, .out, .regGlb, .regArm, .regGrf, .regTier, .regFab, .regUpd, .regScn, .regSrc, .regFtl,
    .regTil] : List Component), p ∈ allowed) :
    Keeps allowed s0 (ownTick s) := by
  simp only [Machine.ownTick]
  repeat' first
    | with_reducible assumption | ((with_reducible apply Component.sub hl); decide)
    | ((with_reducible apply Component.sub hl); simp (disch := decide); done)
    | (with_reducible first | apply Keeps.ite | apply Keeps.linkTick | apply Keeps.stampSyncs | apply Keeps.fireDue | apply Keeps.showWaits)
    | intro _ | split | (with_reducible refine Keeps.ofFst ?_ (by assumption)) | (with_reducible first | refine Keeps.litScan ?_ (hl _ (by decide)))

theorem Keeps.tick {s : State} (keep : Keeps allowed s0 s) (hl : ∀ p ∈ ([.retire, .log, .packages, .corpus, .time, .loader, .tiles, .store, .dram,
    .grf, .mover, .scan, .search, .fabric, .host, .sec, .faults, .out, .regGlb, .regLed, .regArm, .regGrf, .regTier, .regFab, .regUpd, .regHst,
    .regScn, .regSrc, .regFtl, .regTil] : List Component), p ∈ allowed) :
    Keeps allowed s0 (tick s) := by
  simp only [Machine.tick]
  repeat' first
    | with_reducible assumption | ((with_reducible apply Component.sub hl); decide)
    | ((with_reducible apply Component.sub hl); simp (disch := decide); done)
    | (with_reducible first | apply Keeps.ite | apply Keeps.psTick | apply Keeps.onTb | apply Keeps.ownTick | apply Keeps.onStandby) | intro _
    | split | (with_reducible refine Keeps.ofFst ?_ (by assumption))

end Sys2Proof.Machine
end

