-- ==== Sys2Proof/Laws/Window.lean ====
section
/-! SUPPORT. What an access of the control window does: whether it is served, and, for each register that a command writes, the operation that
the write is. -/
set_option Elab.async false
set_option linter.all false
set_option linter.unusedSimpArgs false

namespace Sys2Proof.Machine

/-- A write that is served goes to its register; one that is not leaves the state or counts in GLB_ACC_ERR (R3, R12, R38, R459). -/
theorem busWrite_cases (s : State) (off v : Nat) :
    busWrite s off v = s ∨ busWrite s off v = accErr s ∨ busWrite s off v = writeServed off v s := by
  unfold busWrite busWriteSized serve
  repeat' split
  all_goals first | exact .inl rfl | exact .inr (.inl rfl) | exact .inr (.inr rfl)

/-- The control window answers for a register that the build fits: it is open, and the module is not in recovery (R37, R459). -/
def answers (s : State) (off : Nat) : Prop := windowOpen s = true ∧ s.power.recovery = false ∧ unfittedOffset s.build off = false

theorem busWriteSized_served (s : State) (off v : Nat) (h : answers s off) (ha : off % 4 = 0) (hr : (regRow off).isSome) :
    busWriteSized s off 4 v = writeServed off v s := by
  obtain ⟨h1, h2, h3⟩ := h
  simp [busWriteSized, serve, h1, h2, h3, ha, hr]

theorem busWrite_served (s : State) (off v : Nat) (h : answers s off) (ha : off % 4 = 0) (hr : (regRow off).isSome) :
    busWrite s off v = writeServed off v s := busWriteSized_served s off v h ha hr

/-- What a served write keeps, and what counting a refused access keeps, the write keeps. -/
theorem Keeps.busWriteVia {allowed : List Component} {s0 s : State} {off v : Nat} (keep : Keeps allowed s0 s)
    (hw : Keeps allowed s0 (Machine.writeServed off v s)) (hl : Component.regGlb ∈ allowed) : Keeps allowed s0 (Machine.busWrite s off v) := by
  rcases busWrite_cases s off v with h | h | h <;> rw [h]
  · exact keep
  · exact Keeps.accErr keep (by simpa using hl)
  · exact hw

/-! ## The operation that a write of each region is -/

/-- Where the read-only registers marked "arm" are not. -/
theorem armReadOnly_eq_false {off : Nat}
    (h : off ≠ 0x20018 ∧ off ≠ 0x2001C ∧ off ≠ 0x2002C ∧ off ≠ 0x10000 ∧ off ≠ 0x70010 ∧ off ≠ 0x60000)
    (hp : ¬(0x100000 ≤ off ∧ off < 0x200000 ∧ (off - 0x100000) % 0x40000 = 0x20018))
    (ht : ¬(0x1000000 ≤ off ∧ (off - 0x1000000) % 0x1000 = 0)) : armReadOnly off = false := by
  simp [armReadOnly, ARM_ACTIVE, ARM_LOCK, LED_STAT, HST_PS_CAP, UPD_STAT]
  omega

/-- A write of a register that is not both read-only and marked "arm" goes to its region in every state of the loader (R80). -/
theorem writeServed_region (s : State) (v : Nat) {off : Nat} (h : armReadOnly off = false) : writeServed off v s = writeRegister off v s := by
  simp [writeServed, h]

theorem writeServed_ARM_CTRL (s : State) (v : Nat) : writeServed ARM_CTRL v s = armCommand s (v % 16) (bitOf v 8) := by
  rw [writeServed_region s v (by decide)]; simp [writeRegister, writeArm, ARM_CTRL]

theorem writeServed_GRF_SEQ_SEL (s : State) (v : Nat) : writeServed GRF_SEQ_SEL v s = writeSeqSel s v := by
  rw [writeServed_region s v (by decide)]; simp [writeRegister, writeGrf, GRF_SEQ_SEL]

theorem writeServed_TIER_MQ_TAIL (s : State) (v : Nat) : writeServed TIER_MQ_TAIL v s = writeMqTail s v := by
  rw [writeServed_region s v (by decide)]; simp [writeRegister, writeTier, TIER_MQ_TAIL, TIER_MQ_BASE, TIER_MQ_SIZE]

theorem writeServed_TIER_MQ_SIZE (s : State) (v : Nat) : writeServed TIER_MQ_SIZE v s = writeMqSize s v := by
  rw [writeServed_region s v (by decide)]; simp [writeRegister, writeTier, TIER_MQ_SIZE, TIER_MQ_BASE, TIER_MQ_TAIL]

theorem writeServed_TIER_CHK_CTRL (s : State) (v : Nat) : writeServed TIER_CHK_CTRL v s = writeChkCtrl s v := by
  rw [writeServed_region s v (by decide)]; simp [writeRegister, writeTier, TIER_CHK_CTRL, TIER_MQ_BASE, TIER_MQ_SIZE, TIER_MQ_TAIL]

theorem writeServed_FAB_PEER_CTRL (s : State) (v : Nat) : writeServed FAB_PEER_CTRL v s = writePeerCtrl s v := by
  rw [writeServed_region s v (by decide)]; simp [writeRegister, writeFab, FAB_PEER_CTRL, FAB_TIME_SET, FAB_PEER_SRC, FAB_PEER_DST, FAB_PEER_LEN]

theorem writeServed_FAB_TIME_SET (s : State) (v : Nat) : writeServed FAB_TIME_SET v s = writeTimeSet s FAB_TIME_SET v := by
  rw [writeServed_region s v (by decide)]; simp [writeRegister, writeFab, FAB_TIME_SET, FAB_PEER_SRC, FAB_PEER_DST, FAB_PEER_LEN]

theorem writeServed_UPD_PROG_CTRL (s : State) (v : Nat) : writeServed UPD_PROG_CTRL v s = writeProgCtrl s v := by
  rw [writeServed_region s v (by decide)]; simp [writeRegister, writeUpd, UPD_PROG_CTRL]

theorem writeServed_UPD_LOG_SEL (s : State) (v : Nat) : writeServed UPD_LOG_SEL v s = writeUpdLogSel s v := by
  rw [writeServed_region s v (by decide)]; simp [writeRegister, writeUpd, UPD_LOG_SEL, UPD_PROG_CTRL]

theorem writeServed_GLB_OWN_CTRL (s : State) (v : Nat) : writeServed GLB_OWN_CTRL v s = writeOwnCtrl s v := by
  rw [writeServed_region s v (by decide)]; simp [writeRegister, writeGlb, GLB_OWN_CTRL, GLB_PANEL, GLB_IDSEL, GLB_OWN_SRC, GLB_FREC_SEL]

theorem writeServed_GLB_IDSEL (s : State) (v : Nat) : writeServed GLB_IDSEL v s = writeIdSel s v := by
  rw [writeServed_region s v (by decide)]; simp [writeRegister, writeGlb, GLB_IDSEL, GLB_PANEL, GLB_OWN_SRC, GLB_OWN_CTRL, GLB_FREC_SEL]

theorem writeServed_GLB_FREC_SEL (s : State) (v : Nat) : writeServed GLB_FREC_SEL v s = writeFrecSel s v := by
  rw [writeServed_region s v (by decide)]; simp [writeRegister, writeGlb, GLB_FREC_SEL, GLB_PANEL, GLB_IDSEL, GLB_OWN_SRC, GLB_OWN_CTRL]

theorem writeServed_GLB_PANEL (s : State) (v : Nat) : writeServed GLB_PANEL v s = writePanel s v := by
  rw [writeServed_region s v (by decide)]; simp [writeRegister, writeGlb, GLB_PANEL, GLB_IDSEL, GLB_OWN_SRC, GLB_OWN_CTRL, GLB_FREC_SEL]

theorem writeServed_FAB_TIME_SET_HI (s : State) (v : Nat) : writeServed (FAB_TIME_SET + 4) v s = writeTimeSet s (FAB_TIME_SET + 4) v := by
  rw [writeServed_region s v (by decide)]; simp [writeRegister, writeFab, FAB_TIME_SET]

theorem writeServed_LED_CTRL (s : State) (v : Nat) : writeServed LED_CTRL v s =
    if bitOf v 8 then beginMeasure (setBit s LED_CTRL 0 (bitOf v 0)) else setBit s LED_CTRL 0 (bitOf v 0) := by
  rw [writeServed_region s v (by decide)]; simp [writeRegister, writeLed, LED_CTRL]

theorem writeServed_GLB_FW_WINDOW (s : State) (c v : Nat) (h : c < 4) : writeServed (GLB_FW_WINDOW c) v s =
    if armState s = 6 then accErr s else writeWindowLo s c (BitVec.ofNat 32 v) := by
  have e : GLB_FW_WINDOW c = 0x80 + 8 * c := by unfold GLB_FW_WINDOW; omega
  have e1 : (128 + 8 * c - 128) / 8 = c := by omega
  rw [e]
  have := (by decide : ∀ c < 4, (armReadOnly (128 + 8 * c) = false ∧ 128 + 8 * c < 65536 ∧ 128 + 8 * c ≠ GLB_PANEL ∧ 128 + 8 * c ≠ GLB_IDSEL ∧ 128 + 8 * c ≠ GLB_OWN_SRC ∧
    128 + 8 * c ≠ GLB_OWN_CTRL ∧ 128 + 8 * c < 160 ∧ (128 + 8 * c) % 8 = 0)) c h
  rw [writeServed_region s v this.1]; simp [writeRegister, writeGlb, this.2, e1]

theorem writeServed_GLB_FW_WINDOW_HI (s : State) (c v : Nat) (h : c < 4) : writeServed (GLB_FW_WINDOW c + 4) v s =
    if armState s = 6 then accErr s else writeWindowHi s c (BitVec.ofNat 32 v) := by
  have e : GLB_FW_WINDOW c + 4 = 0x84 + 8 * c := by unfold GLB_FW_WINDOW; omega
  have e1 : (132 + 8 * c - 128) / 8 = c := by omega
  rw [e]
  have := (by decide : ∀ c < 4, (armReadOnly (132 + 8 * c) = false ∧ 132 + 8 * c < 65536 ∧ 132 + 8 * c ≠ GLB_PANEL ∧ 132 + 8 * c ≠ GLB_IDSEL ∧ 132 + 8 * c ≠ GLB_OWN_SRC ∧
    132 + 8 * c ≠ GLB_OWN_CTRL ∧ 128 ≤ 132 + 8 * c ∧ 132 + 8 * c < 160 ∧ ¬(132 + 8 * c) % 8 = 0)) c h
  rw [writeServed_region s v this.1]; simp [writeRegister, writeGlb, this.2, e1]

theorem writeServed_treeReg (s : State) (t k v : Nat) : writeServed (treeReg t k) v s = writeTree s (t % 16) (k % 64) v := by
  have e : treeReg t k = 0x50400 + 64 * (t % 16) + k % 64 := rfl
  generalize hx : treeReg t k = off at *
  have e1 : (off - 0x50400) / 64 = t % 16 := by omega
  have e2 : (off - 0x50400) % 64 = k % 64 := by omega
  rw [writeServed_region s v (armReadOnly_eq_false (by omega) (by omega) (by omega))]
  unfold writeRegister
  rw [if_neg (by omega), if_neg (by omega), if_neg (by omega), if_neg (by omega), if_neg (by omega), if_pos (by omega)]
  unfold writeFab FAB_TIME_SET
  rw [if_neg (by omega), if_pos (by omega), e1, e2]

theorem writeServed_updReg (s : State) (t k v : Nat) : writeServed (updReg t k) v s =
    if k % 64 = 0xC then writeLrTag s (t % 16) v
    else if k % 64 = 0x4 ∨ 0x20 ≤ k % 64 ∧ k % 64 < 0x38 then writeUpdWindow s (t % 16) (k % 64) v else store s (updReg t k) v := by
  have e : updReg t k = 0x60C00 + 64 * (t % 16) + k % 64 := rfl
  generalize hx : updReg t k = off at *
  have e1 : (off - 0x60C00) / 64 = t % 16 := by omega
  have e2 : (off - 0x60C00) % 64 = k % 64 := by omega
  rw [writeServed_region s v (armReadOnly_eq_false (by omega) (by omega) (by omega))]
  unfold writeRegister
  rw [if_neg (by omega), if_neg (by omega), if_neg (by omega), if_neg (by omega), if_neg (by omega), if_neg (by omega), if_pos (by omega)]
  unfold writeUpd UPD_PROG_CTRL UPD_LOG_SEL
  simp only [e1, e2]
  rw [if_neg (by omega), if_neg (by omega), if_neg (by omega)]

theorem writeServed_package (s : State) (p k v : Nat) (hp : p < 4) (hk : k < 0x40000) (hr : k ≠ 0x20018) :
    writeServed (packageBase p + k) v s = writePackage s p k v := by
  have e : packageBase p + k = 0x100000 + p * 0x40000 + k := rfl
  generalize packageBase p + k = off at *
  have e1 : (off - 0x100000) / 0x40000 = p := by omega
  have e2 : (off - 0x100000) % 0x40000 = k := by omega
  rw [writeServed_region s v (armReadOnly_eq_false (by omega) (by omega) (by omega))]
  unfold writeRegister
  rw [if_neg (by omega), if_neg (by omega), if_neg (by omega), if_neg (by omega), if_neg (by omega), if_neg (by omega), if_neg (by omega),
    if_neg (by omega), if_pos (by omega), e1, e2]

theorem writeServed_scnReg (s : State) (p k v : Nat) : writeServed (scnReg p k) v s = writePackage s (p % 4) (k % 0x10000) v :=
  writeServed_package s _ _ v (by omega) (by omega) (by omega)

theorem writeServed_srcReg (s : State) (p k v : Nat) : writeServed (srcReg p k) v s = writePackage s (p % 4) (0x10000 + k % 0x10000) v := by
  unfold srcReg; rw [Nat.add_assoc]; exact writeServed_package s _ _ v (by omega) (by omega) (by omega)

theorem writeServed_ftlReg (s : State) (p k v : Nat) (hr : k % 0x10000 ≠ 0x18) : writeServed (ftlReg p k) v s = writePackage s (p % 4) (0x20000 + k % 0x10000) v := by
  unfold ftlReg; rw [Nat.add_assoc]; exact writeServed_package s _ _ v (by omega) (by omega) (by omega)

theorem writeServed_medReg (s : State) (p k v : Nat) : writeServed (medReg p k) v s = writePackage s (p % 4) (0x30000 + k % 0x10000) v := by
  unfold medReg; rw [Nat.add_assoc]; exact writeServed_package s _ _ v (by omega) (by omega) (by omega)

theorem writeServed_tilReg (s : State) (t k v : Nat) (hr : k % 0x1000 ≠ 0) : writeServed (tilReg t k) v s = writeTile s (t % 1024) (k % 0x1000) v := by
  have e : tilReg t k = 0x01000000 + (t % 1024) * 0x1000 + k % 0x1000 := rfl
  generalize tilReg t k = off at *
  have e1 : (off - 0x1000000) / 0x1000 = t % 1024 := by omega
  have e2 : (off - 0x1000000) % 0x1000 = k % 0x1000 := by omega
  rw [writeServed_region s v (armReadOnly_eq_false (by omega) (by omega) (by omega))]
  unfold writeRegister
  rw [if_neg (by omega), if_neg (by omega), if_neg (by omega), if_neg (by omega), if_neg (by omega), if_neg (by omega), if_neg (by omega),
    if_neg (by omega), if_neg (by omega), e1, e2]

end Sys2Proof.Machine
end

