-- ==== Sys2Proof/Laws/KeepsCommands.lean ====
section
/-! SUPPORT. What each command keeps where it answers a next state: the queue, what lasts, the canonical forms, and every part that the
command does not touch. The first half of the commands. -/
set_option linter.all false
namespace Sys2Proof.Machine

set_option Elab.async false

theorem Keeps.execRegisterWrite {off} {size} {val} {s t : State} (h : Machine.execRegisterWrite off size val s = .next t) : Keeps (touches
    (.registerWrite off size val)) s t := by
  have hl : ∀ p ∈ ([.owner, .retire, .log, .packages, .power, .loader, .tiles, .store, .dram, .grf, .mover, .scan, .search, .fabric, .host, .ledger,
      .sec, .faults, .out, .regGlb, .regLed, .regArm, .regGrf, .regTier, .regFab, .regUpd, .regHst, .regScn, .regSrc, .regFtl, .regMed, .regTil] :
      List Component), p ∈ touches (.registerWrite off size val) := by
    simp only [touches]; decide
  simp only [Machine.execRegisterWrite, Machine.ok] at h
  split at h <;> first | (injection h with h; subst h) | cases h
  repeat' (with_reducible first | exact Keeps.refl _ _ | assumption | apply Keeps.busWriteSized)

theorem Keeps.execRcCounterRead {off} {s t : State} (h : Machine.execRcCounterRead off s = .next t) : Keeps (touches (.rcCounterRead off)) s t := by
  have hl : ∀ p ∈ ([.bus, .regGlb, .regLed, .regArm, .regGrf, .regTier, .regFab, .regUpd, .regHst, .regScn, .regSrc, .regFtl, .regMed, .regTil] :
      List Component), p ∈ touches (.rcCounterRead off) := by
    simp only [touches]; decide
  simp only [Machine.execRcCounterRead, Machine.ok] at h
  split at h <;> first | (injection h with h; subst h) | cases h
  repeat' first
    | with_reducible exact Keeps.refl _ _
    | ((with_reducible apply Component.sub hl); (repeat' first | exact List.forall_mem_nil _ | refine Component.sub_cons ?_ ?_ | exact Component.off_mem _ (by decide) | decide); done)
    | with_reducible apply Keeps.busRead

theorem Keeps.execLowWordRead {off} {s t : State} (h : Machine.execLowWordRead off s = .next t) : Keeps (touches (.lowWordRead off)) s t := by
  have hl : ∀ p ∈ ([.bus, .regGlb, .regLed, .regArm, .regGrf, .regTier, .regFab, .regUpd, .regHst, .regScn, .regSrc, .regFtl, .regMed, .regTil] :
      List Component), p ∈ touches (.lowWordRead off) := by
    simp only [touches]; decide
  simp only [Machine.execLowWordRead, Machine.ok] at h
  split at h <;> first | (injection h with h; subst h) | cases h
  repeat' first
    | with_reducible exact Keeps.refl _ _
    | ((with_reducible apply Component.sub hl); (repeat' first | exact List.forall_mem_nil _ | refine Component.sub_cons ?_ ?_ | exact Component.off_mem _ (by decide) | decide); done)
    | with_reducible apply Keeps.busRead

theorem Keeps.execRefclkStop  {s t : State} (h : Machine.execRefclkStop s = .next t) : Keeps (touches (.refclkStop)) s t := by
  have hl : ∀ p ∈ ([.power] : List Component), p ∈ touches (.refclkStop) := by
    simp only [touches]; decide
  simp only [Machine.execRefclkStop, Machine.ok] at h
  split at h <;> first | (injection h with h; subst h) | cases h
  repeat' (with_reducible first | exact Keeps.refl _ _ | refine Keeps.litPower ?_  (hl _ (by decide)))

theorem Keeps.execRefclkStart  {s t : State} (h : Machine.execRefclkStart s = .next t) : Keeps (touches (.refclkStart)) s t := by
  have hl : ∀ p ∈ ([.power] : List Component), p ∈ touches (.refclkStart) := by
    simp only [touches]; decide
  simp only [Machine.execRefclkStart, Machine.ok] at h
  split at h <;> first | (injection h with h; subst h) | cases h
  repeat' (with_reducible first | exact Keeps.refl _ _ | refine Keeps.litPower ?_  (hl _ (by decide)))

theorem Keeps.execValidate {drain} {s t : State} (h : Machine.execValidate drain s = .next t) : Keeps (touches (.validate drain)) s t := by
  have hl : ∀ p ∈ ([.retire, .log, .loader, .dram, .mover, .host, .faults, .out, .regGlb, .regArm, .regTier] : List Component), p ∈ touches
      (.validate drain) := by
    simp only [touches]; decide
  simp only [Machine.execValidate, Machine.ok] at h
  split at h <;> first | (injection h with h; subst h) | cases h
  refine Keeps.busWriteVia (Keeps.refl _ _) ?_ (hl _ (by decide))
  rw [writeServed_ARM_CTRL]
  repeat' first
    | (with_reducible first | exact Keeps.refl _ _ | apply Keeps.ite | apply Keeps.accErr | apply Keeps.armCommand | apply Keeps.store)
    | with_reducible apply Keeps.setBit
    | ((with_reducible apply Component.sub hl); first | decide | (simp (disch := decide); done) | (simp [regBlock, scnReg, srcReg, packageBase, LED_CTRL]; done))

theorem Keeps.execStage {drain} {s t : State} (h : Machine.execStage drain s = .next t) : Keeps (touches (.stage drain)) s t := by
  have hl : ∀ p ∈ ([.retire, .log, .loader, .dram, .mover, .host, .faults, .out, .regGlb, .regArm, .regTier] : List Component), p ∈ touches (.stage
      drain) := by
    simp only [touches]; decide
  simp only [Machine.execStage, Machine.ok] at h
  split at h <;> first | (injection h with h; subst h) | cases h
  refine Keeps.busWriteVia (Keeps.refl _ _) ?_ (hl _ (by decide))
  rw [writeServed_ARM_CTRL]
  repeat' first
    | (with_reducible first | exact Keeps.refl _ _ | apply Keeps.ite | apply Keeps.accErr | apply Keeps.armCommand | apply Keeps.store)
    | with_reducible apply Keeps.setBit
    | ((with_reducible apply Component.sub hl); first | decide | (simp (disch := decide); done) | (simp [regBlock, scnReg, srcReg, packageBase, LED_CTRL]; done))

theorem Keeps.execReform {drain} {s t : State} (h : Machine.execReform drain s = .next t) : Keeps (touches (.reform drain)) s t := by
  have hl : ∀ p ∈ ([.retire, .log, .loader, .dram, .mover, .host, .faults, .out, .regGlb, .regArm, .regTier] : List Component), p ∈ touches (.reform
      drain) := by
    simp only [touches]; decide
  simp only [Machine.execReform, Machine.ok] at h
  split at h <;> first | (injection h with h; subst h) | cases h
  refine Keeps.busWriteVia (Keeps.refl _ _) ?_ (hl _ (by decide))
  rw [writeServed_ARM_CTRL]
  repeat' first
    | (with_reducible first | exact Keeps.refl _ _ | apply Keeps.ite | apply Keeps.accErr | apply Keeps.armCommand | apply Keeps.store)
    | with_reducible apply Keeps.setBit
    | ((with_reducible apply Component.sub hl); first | decide | (simp (disch := decide); done) | (simp [regBlock, scnReg, srcReg, packageBase, LED_CTRL]; done))

theorem Keeps.execStageAndReform {drain} {s t : State} (h : Machine.execStageAndReform drain s = .next t) : Keeps (touches (.stageAndReform drain))
    s t := by
  have hl : ∀ p ∈ ([.retire, .log, .loader, .dram, .mover, .host, .faults, .out, .regGlb, .regArm, .regTier] : List Component), p ∈ touches
      (.stageAndReform drain) := by
    simp only [touches]; decide
  simp only [Machine.execStageAndReform, Machine.ok] at h
  split at h <;> first | (injection h with h; subst h) | cases h
  refine Keeps.busWriteVia (Keeps.refl _ _) ?_ (hl _ (by decide))
  rw [writeServed_ARM_CTRL]
  repeat' first
    | (with_reducible first | exact Keeps.refl _ _ | apply Keeps.ite | apply Keeps.accErr | apply Keeps.armCommand | apply Keeps.store)
    | with_reducible apply Keeps.setBit
    | ((with_reducible apply Component.sub hl); first | decide | (simp (disch := decide); done) | (simp [regBlock, scnReg, srcReg, packageBase, LED_CTRL]; done))

theorem Keeps.execReformToMaquette {drain} {s t : State} (h : Machine.execReformToMaquette drain s = .next t) : Keeps (touches (.reformToMaquette
    drain)) s t := by
  have hl : ∀ p ∈ ([.retire, .log, .loader, .dram, .mover, .host, .faults, .out, .regGlb, .regArm, .regTier] : List Component), p ∈ touches
      (.reformToMaquette drain) := by
    simp only [touches]; decide
  simp only [Machine.execReformToMaquette, Machine.ok] at h
  split at h <;> first | (injection h with h; subst h) | cases h
  refine Keeps.busWriteVia (Keeps.refl _ _) ?_ (hl _ (by decide))
  rw [writeServed_ARM_CTRL]
  repeat' first
    | (with_reducible first | exact Keeps.refl _ _ | apply Keeps.ite | apply Keeps.accErr | apply Keeps.armCommand | apply Keeps.store)
    | with_reducible apply Keeps.setBit
    | ((with_reducible apply Component.sub hl); first | decide | (simp (disch := decide); done) | (simp [regBlock, scnReg, srcReg, packageBase, LED_CTRL]; done))

theorem Keeps.execReformToOtherSlot {drain} {s t : State} (h : Machine.execReformToOtherSlot drain s = .next t) : Keeps (touches (.reformToOtherSlot
    drain)) s t := by
  have hl : ∀ p ∈ ([.retire, .log, .loader, .dram, .mover, .host, .faults, .out, .regGlb, .regArm, .regTier] : List Component), p ∈ touches
      (.reformToOtherSlot drain) := by
    simp only [touches]; decide
  simp only [Machine.execReformToOtherSlot, Machine.ok] at h
  split at h <;> first | (injection h with h; subst h) | cases h
  refine Keeps.busWriteVia (Keeps.refl _ _) ?_ (hl _ (by decide))
  rw [writeServed_ARM_CTRL]
  repeat' first
    | (with_reducible first | exact Keeps.refl _ _ | apply Keeps.ite | apply Keeps.accErr | apply Keeps.armCommand | apply Keeps.store)
    | with_reducible apply Keeps.setBit
    | ((with_reducible apply Component.sub hl); first | decide | (simp (disch := decide); done) | (simp [regBlock, scnReg, srcReg, packageBase, LED_CTRL]; done))

theorem Keeps.execValidationDone  {s t : State} (h : Machine.execValidationDone s = .next t) : Keeps (touches (.validationDone)) s t := by
  have hl : ∀ p ∈ ([.retire, .log, .packages, .corpus, .loader, .tiles, .dram, .grf, .mover, .scan, .search, .fabric, .host, .faults, .out, .regGlb, .regArm, .regGrf, .regTier, .regFab, .regScn, .regSrc, .regFtl, .regTil] : List Component), p ∈ touches (.validationDone) := by
    simp only [touches]; decide
  simp only [Machine.execValidationDone, Machine.ok] at h
  split at h <;> first | (injection h with h; subst h) | cases h
  repeat' (with_reducible first | exact Keeps.refl _ _ | assumption | apply Keeps.validationEff)

theorem Keeps.execStoringDone  {s t : State} (h : Machine.execStoringDone s = .next t) : Keeps (touches (.storingDone)) s t := by
  have hl : ∀ p ∈ ([.slots, .retire, .log, .packages, .corpus, .loader, .tiles, .dram, .grf, .mover, .scan, .search, .fabric, .host, .faults, .out, .regGlb, .regArm, .regGrf, .regTier, .regFab, .regScn, .regSrc, .regFtl, .regTil] : List Component), p ∈ touches (.storingDone) := by
    simp only [touches]; decide
  simp only [Machine.execStoringDone, Machine.ok] at h
  split at h <;> first | (injection h with h; subst h) | cases h
  repeat' (with_reducible first | exact Keeps.refl _ _ | assumption | apply Keeps.storingEff)

theorem Keeps.execQuiesceDone  {s t : State} (h : Machine.execQuiesceDone s = .next t) : Keeps (touches (.quiesceDone)) s t := by
  have hl : ∀ p ∈ ([.retire, .log, .packages, .corpus, .tiles, .dram, .grf, .mover, .scan, .search, .fabric, .host, .faults, .out, .regGlb, .regArm, .regGrf, .regTier, .regFab, .regScn, .regSrc, .regFtl, .regTil] : List Component), p ∈ touches (.quiesceDone) := by
    simp only [touches]; decide
  simp only [Machine.execQuiesceDone, Machine.ok] at h
  split at h <;> first | (injection h with h; subst h) | cases h
  repeat' (with_reducible first | exact Keeps.refl _ _ | assumption | apply Keeps.quiesceEff)

theorem Keeps.execArmQlimitExpiry  {s t : State} (h : Machine.execArmQlimitExpiry s = .next t) : Keeps (touches (.armQlimitExpiry)) s t := by
  have hl : ∀ p ∈ ([.retire, .log, .packages, .corpus, .loader, .tiles, .dram, .grf, .mover, .scan, .search, .fabric, .host, .faults, .out, .regGlb, .regArm, .regGrf, .regTier, .regFab, .regScn, .regSrc, .regFtl, .regTil] : List Component), p ∈ touches (.armQlimitExpiry) := by
    simp only [touches]; decide
  simp only [Machine.execArmQlimitExpiry, Machine.ok] at h
  split at h <;> first | (injection h with h; subst h) | cases h
  repeat' (with_reducible first | exact Keeps.refl _ _ | assumption | apply Keeps.qlimitEff)

theorem Keeps.execDrainDone  {s t : State} (h : Machine.execDrainDone s = .next t) : Keeps (touches (.drainDone)) s t := by
  have hl : ∀ p ∈ ([.log, .life, .faults, .regGlb, .regArm] : List Component), p ∈ touches (.drainDone) := by
    simp only [touches]; decide
  simp only [Machine.execDrainDone, Machine.ok] at h
  split at h <;> first | (injection h with h; subst h) | cases h
  repeat' (with_reducible first | exact Keeps.refl _ _ | assumption | apply Keeps.drainEff)

theorem Keeps.execCommitDone  {s t : State} (h : Machine.execCommitDone s = .next t) : Keeps (touches (.commitDone)) s t := by
  have hl : ∀ p ∈ ([.slots, .layout, .packages, .corpus, .regArm, .regFtl] : List Component), p ∈ touches (.commitDone) := by
    simp only [touches]; decide
  simp only [Machine.execCommitDone, Machine.ok] at h
  split at h <;> first | (injection h with h; subst h) | cases h
  repeat' (with_reducible first | exact Keeps.refl _ _ | assumption | apply Keeps.commitEff)

theorem Keeps.execRebindDone {hwFault} {againFault} {s t : State} (h : Machine.execRebindDone hwFault againFault s = .next t) : Keeps (touches
    (.rebindDone hwFault againFault)) s t := by
  have hl : ∀ p ∈ ([.retire, .log, .packages, .loader, .tiles, .store, .dram, .grf, .mover, .search, .fabric, .host, .ledger, .sec, .faults, .out, .regGlb, .regLed, .regArm, .regTier, .regFab, .regUpd, .regHst, .regSrc, .regFtl, .regMed, .regTil] : List Component), p ∈ touches (.rebindDone hwFault
      againFault) := by
    simp only [touches]; decide
  simp only [Machine.execRebindDone, Machine.ok] at h
  split at h <;> first | (injection h with h; subst h) | cases h
  repeat' (with_reducible first | exact Keeps.refl _ _ | assumption | apply Keeps.rebindEff)

theorem Keeps.execStream {tile} {s t : State} (h : Machine.execStream tile s = .next t) : Keeps (touches (.stream tile)) s t := by
  have hl : ∀ p ∈ ([.retire, .log, .packages, .tiles, .store, .dram, .grf, .mover, .scan, .fabric, .host, .faults, .out, .regGlb, .regArm, .regGrf, .regTier, .regFab, .regSrc, .regFtl, .regTil] : List Component), p ∈ touches (.stream tile) := by
    simp only [touches]; decide
  simp only [Machine.execStream, Machine.ok] at h
  split at h <;> first | (injection h with h; subst h) | cases h
  repeat' first
    | with_reducible exact Keeps.refl _ _ | with_reducible assumption | ((with_reducible apply Component.sub hl); decide)
    | (with_reducible first | apply Keeps.ite | apply Keeps.atPc | apply Keeps.issueStream) | intro _ | split

theorem Keeps.execLoadw {tile} {s t : State} (h : Machine.execLoadw tile s = .next t) : Keeps (touches (.loadw tile)) s t := by
  have hl : ∀ p ∈ ([.retire, .log, .packages, .tiles, .store, .dram, .grf, .mover, .scan, .fabric, .host, .faults, .out, .regGlb, .regArm, .regGrf, .regTier, .regFab, .regSrc, .regFtl, .regTil] : List Component), p ∈ touches (.loadw tile) := by
    simp only [touches]; decide
  simp only [Machine.execLoadw, Machine.ok] at h
  split at h <;> first | (injection h with h; subst h) | cases h
  repeat' first
    | with_reducible exact Keeps.refl _ _ | with_reducible assumption | ((with_reducible apply Component.sub hl); decide)
    | (with_reducible first | apply Keeps.ite | apply Keeps.atPc | apply Keeps.issueLoadw) | intro _ | split

theorem Keeps.execSwap {tile} {s t : State} (h : Machine.execSwap tile s = .next t) : Keeps (touches (.swap tile)) s t := by
  have hl : ∀ p ∈ ([.retire, .log, .packages, .tiles, .store, .dram, .grf, .mover, .scan, .fabric, .host, .faults, .out, .regGlb, .regArm, .regGrf, .regTier, .regFab, .regSrc, .regFtl, .regTil] : List Component), p ∈ touches (.swap tile) := by
    simp only [touches]; decide
  simp only [Machine.execSwap, Machine.ok] at h
  split at h <;> first | (injection h with h; subst h) | cases h
  repeat' first
    | with_reducible exact Keeps.refl _ _ | with_reducible assumption | ((with_reducible apply Component.sub hl); decide)
    | (with_reducible first | apply Keeps.ite | apply Keeps.atPc | apply Keeps.issueSwap) | intro _ | split

theorem Keeps.execVec {tile} {s t : State} (h : Machine.execVec tile s = .next t) : Keeps (touches (.vec tile)) s t := by
  have hl : ∀ p ∈ ([.retire, .log, .packages, .tiles, .store, .dram, .grf, .mover, .scan, .fabric, .host, .faults, .out, .regGlb, .regArm, .regGrf, .regTier, .regFab, .regSrc, .regFtl, .regTil] : List Component), p ∈ touches (.vec tile) := by
    simp only [touches]; decide
  simp only [Machine.execVec, Machine.ok] at h
  split at h <;> first | (injection h with h; subst h) | cases h
  repeat' first
    | with_reducible exact Keeps.refl _ _ | with_reducible assumption | ((with_reducible apply Component.sub hl); decide)
    | (with_reducible first | apply Keeps.ite | apply Keeps.atPc | apply Keeps.issueVec) | intro _ | split

theorem Keeps.execSend {tile} {s t : State} (h : Machine.execSend tile s = .next t) : Keeps (touches (.send tile)) s t := by
  have hl : ∀ p ∈ ([.retire, .log, .packages, .tiles, .store, .dram, .grf, .mover, .scan, .fabric, .host, .faults, .out, .regGlb, .regArm, .regGrf, .regTier, .regFab, .regSrc, .regFtl, .regTil] : List Component), p ∈ touches (.send tile) := by
    simp only [touches]; decide
  simp only [Machine.execSend, Machine.ok] at h
  split at h <;> first | (injection h with h; subst h) | cases h
  repeat' first
    | with_reducible exact Keeps.refl _ _ | with_reducible assumption | ((with_reducible apply Component.sub hl); decide)
    | (with_reducible first | apply Keeps.ite | apply Keeps.atPc | apply Keeps.issueSend) | intro _ | split

theorem Keeps.execSync {tile} {s t : State} (h : Machine.execSync tile s = .next t) : Keeps (touches (.sync tile)) s t := by
  have hl : ∀ p ∈ ([.retire, .log, .packages, .tiles, .store, .dram, .grf, .mover, .scan, .fabric, .host, .faults, .out, .regGlb, .regArm, .regGrf, .regTier, .regFab, .regSrc, .regFtl, .regTil] : List Component), p ∈ touches (.sync tile) := by
    simp only [touches]; decide
  simp only [Machine.execSync, Machine.ok] at h
  split at h <;> first | (injection h with h; subst h) | cases h
  repeat' first
    | with_reducible exact Keeps.refl _ _ | with_reducible assumption | ((with_reducible apply Component.sub hl); decide)
    | (with_reducible first | apply Keeps.ite | apply Keeps.atPc | apply Keeps.issueSync) | intro _ | split

theorem Keeps.execTileEnd {tile} {s t : State} (h : Machine.execTileEnd tile s = .next t) : Keeps (touches (.tileEnd tile)) s t := by
  have hl : ∀ p ∈ ([.retire, .log, .packages, .tiles, .store, .dram, .grf, .mover, .scan, .fabric, .host, .faults, .out, .regGlb, .regArm, .regGrf, .regTier, .regFab, .regSrc, .regFtl, .regTil] : List Component), p ∈ touches (.tileEnd tile) := by
    simp only [touches]; decide
  simp only [Machine.execTileEnd, Machine.ok] at h
  split at h <;> first | (injection h with h; subst h) | cases h
  repeat' first
    | with_reducible exact Keeps.refl _ _ | with_reducible assumption | ((with_reducible apply Component.sub hl); decide)
    | (with_reducible first | apply Keeps.ite | apply Keeps.atPc | apply Keeps.issueEnd) | intro _ | split

theorem Keeps.execRowStep {tile} {parityBad} {upset} {s t : State} (h : Machine.execRowStep tile parityBad upset s = .next t) : Keeps (touches
    (.rowStep tile parityBad upset)) s t := by
  have hl : ∀ p ∈ ([.retire, .log, .packages, .tiles, .store, .dram, .grf, .mover, .scan, .fabric, .host, .ledger, .faults, .out, .regGlb, .regArm, .regGrf, .regTier, .regFab, .regSrc, .regFtl, .regTil] : List Component), p ∈ touches (.rowStep tile parityBad upset) := by
    simp only [touches]; decide
  simp only [Machine.execRowStep, Machine.ok] at h
  split at h <;> first | (injection h with h; subst h) | cases h
  repeat' (with_reducible first | exact Keeps.refl _ _ | assumption | apply Keeps.rowStepEff)

theorem Keeps.execVectorStep {tile} {upset} {s t : State} (h : Machine.execVectorStep tile upset s = .next t) : Keeps (touches (.vectorStep tile
    upset)) s t := by
  have hl : ∀ p ∈ ([.retire, .log, .packages, .tiles, .store, .dram, .grf, .mover, .scan, .fabric, .host, .ledger, .faults, .out, .regGlb, .regArm, .regGrf, .regTier, .regFab, .regSrc, .regFtl, .regTil] : List Component), p ∈ touches (.vectorStep tile upset) := by
    simp only [touches]; decide
  simp only [Machine.execVectorStep, Machine.ok] at h
  split at h <;> first | (injection h with h; subst h) | cases h
  repeat' (with_reducible first | exact Keeps.refl _ _ | assumption | apply Keeps.vectorStepEff)

theorem Keeps.execShadowFillDone {tile} {upset} {s t : State} (h : Machine.execShadowFillDone tile upset s = .next t) : Keeps (touches
    (.shadowFillDone tile upset)) s t := by
  have hl : ∀ p ∈ ([.retire, .log, .packages, .tiles, .store, .dram, .grf, .mover, .scan, .fabric, .host, .ledger, .faults, .out, .regGlb, .regArm, .regGrf, .regTier, .regFab, .regSrc, .regFtl, .regTil] : List Component), p ∈ touches (.shadowFillDone tile upset) := by
    simp only [touches]; decide
  simp only [Machine.execShadowFillDone, Machine.ok] at h
  split at h <;> first | (injection h with h; subst h) | cases h
  repeat' (with_reducible first | exact Keeps.refl _ _ | assumption | apply Keeps.shadowFillEff)

theorem Keeps.execSendComplete {tile} {upset} {s t : State} (h : Machine.execSendComplete tile upset s = .next t) : Keeps (touches (.sendComplete
    tile upset)) s t := by
  have hl : ∀ p ∈ ([.retire, .log, .packages, .tiles, .store, .dram, .grf, .mover, .scan, .fabric, .host, .faults, .out, .regGlb, .regArm, .regGrf, .regTier, .regFab, .regSrc, .regFtl, .regTil] : List Component), p ∈ touches (.sendComplete tile upset) := by
    simp only [touches]; decide
  simp only [Machine.execSendComplete, Machine.ok] at h
  split at h <;> first | (injection h with h; subst h) | cases h
  repeat' (with_reducible first | exact Keeps.refl _ _ | assumption | apply Keeps.sendCompleteEff)

theorem Keeps.execSyncRelease {tile} {s t : State} (h : Machine.execSyncRelease tile s = .next t) : Keeps (touches (.syncRelease tile)) s t := by
  have hl : ∀ p ∈ ([.tiles, .regTil] : List Component), p ∈ touches (.syncRelease tile) := by
    simp only [touches]; decide
  simp only [Machine.execSyncRelease, Machine.ok] at h
  split at h <;> first | (injection h with h; subst h) | cases h
  repeat' (with_reducible first | exact Keeps.refl _ _ | assumption | apply Keeps.syncReleaseEff)

theorem Keeps.execRampStageEnd {tile} {s t : State} (h : Machine.execRampStageEnd tile s = .next t) : Keeps (touches (.rampStageEnd tile)) s t := by
  have hl : ∀ p ∈ ([.tiles, .regTil] : List Component), p ∈ touches (.rampStageEnd tile) := by
    simp only [touches]; decide
  simp only [Machine.execRampStageEnd, Machine.ok] at h
  split at h <;> first | (injection h with h; subst h) | cases h
  repeat' (with_reducible first | exact Keeps.refl _ _ | assumption | apply Keeps.rampStageEff)

theorem Keeps.execIdleGapEnd {tile} {s t : State} (h : Machine.execIdleGapEnd tile s = .next t) : Keeps (touches (.idleGapEnd tile)) s t := by
  have hl : ∀ p ∈ ([.tiles, .regTil] : List Component), p ∈ touches (.idleGapEnd tile) := by
    simp only [touches]; decide
  simp only [Machine.execIdleGapEnd, Machine.ok] at h
  split at h <;> first | (injection h with h; subst h) | cases h
  repeat' (with_reducible first | exact Keeps.refl _ _ | assumption | apply Keeps.idleGapEff)

theorem Keeps.execArrayRefillDone {tile} {s t : State} (h : Machine.execArrayRefillDone tile s = .next t) : Keeps (touches (.arrayRefillDone tile))
    s t := by
  have hl : ∀ p ∈ ([.retire, .log, .packages, .tiles, .store, .dram, .grf, .mover, .scan, .fabric, .host, .faults, .out, .regGlb, .regArm, .regGrf, .regTier, .regFab, .regSrc, .regFtl, .regTil] : List Component), p ∈ touches (.arrayRefillDone tile) := by
    simp only [touches]; decide
  simp only [Machine.execArrayRefillDone, Machine.ok] at h
  split at h <;> first | (injection h with h; subst h) | cases h
  repeat' first
    | with_reducible exact Keeps.refl _ _ | with_reducible assumption | ((with_reducible apply Component.sub hl); decide)
    | (with_reducible first | apply Keeps.ite | apply Keeps.arrayRefillEff) | intro _ | split

theorem Keeps.execTileStoreScrub {tile} {upset} {s t : State} (h : Machine.execTileStoreScrub tile upset s = .next t) : Keeps (touches
    (.tileStoreScrub tile upset)) s t := by
  have hl : ∀ p ∈ ([.tiles, .regTil] : List Component), p ∈ touches (.tileStoreScrub tile upset) := by
    simp only [touches]; decide
  simp only [Machine.execTileStoreScrub, Machine.ok] at h
  split at h <;> first | (injection h with h; subst h) | cases h
  repeat' (with_reducible first | exact Keeps.refl _ _ | assumption | apply Keeps.storeScrubEff)

theorem Keeps.execWatchdogExpiry {tile} {s t : State} (h : Machine.execWatchdogExpiry tile s = .next t) : Keeps (touches (.watchdogExpiry tile)) s t
    := by
  have hl : ∀ p ∈ ([.retire, .log, .packages, .tiles, .store, .dram, .grf, .mover, .scan, .fabric, .host, .faults, .out, .regGlb, .regArm, .regGrf, .regTier, .regFab, .regSrc, .regFtl, .regTil] : List Component), p ∈ touches (.watchdogExpiry tile) := by
    simp only [touches]; decide
  simp only [Machine.execWatchdogExpiry, Machine.ok] at h
  split at h <;> first | (injection h with h; subst h) | cases h
  repeat' (with_reducible first | exact Keeps.refl _ _ | assumption | apply Keeps.watchdogEff)

theorem Keeps.execLateAck {tile} {s t : State} (h : Machine.execLateAck tile s = .next t) : Keeps (touches (.lateAck tile)) s t := by
  have hl : ∀ p ∈ ([.tiles, .regTil] : List Component), p ∈ touches (.lateAck tile) := by
    simp only [touches]; decide
  simp only [Machine.execLateAck, Machine.ok] at h
  split at h <;> first | (injection h with h; subst h) | cases h
  repeat' (with_reducible first | exact Keeps.refl _ _ | assumption | apply Keeps.lateAckEff)

theorem Keeps.execRetire {tile} {key} {s t : State} (h : Machine.execRetire tile key s = .next t) : Keeps (touches (.retire tile key)) s t := by
  have hl : ∀ p ∈ ([.retire, .log, .packages, .tiles, .store, .dram, .grf, .mover, .scan, .fabric, .host, .faults, .out, .regGlb, .regArm, .regGrf,
      .regTier, .regFab, .regSrc, .regFtl, .regTil] : List Component), p ∈ touches (.retire tile key) := by
    simp only [touches]; decide
  simp only [Machine.execRetire, Machine.ok] at h
  split at h <;> first | (injection h with h; subst h) | cases h
  refine Keeps.busWriteVia (Keeps.refl _ _) ?_ (hl _ (by decide))
  rw [writeServed_tilReg (hr := by decide)]
  simp [Machine.writeTile]
  repeat' first
    | (with_reducible first | exact Keeps.refl _ _ | apply Keeps.ite | apply Keeps.accErr | apply Keeps.writeTilCtrl | apply Keeps.store)
    | with_reducible apply Keeps.setBit
    | ((with_reducible apply Component.sub hl); first | decide | (simp (disch := decide); done) | (simp [regBlock, scnReg, srcReg, packageBase, LED_CTRL]; done))
    | intro _

theorem Keeps.execHistogramClear {tile} {freeze} {mode} {s t : State} (h : Machine.execHistogramClear tile freeze mode s = .next t) : Keeps (touches
    (.histogramClear tile freeze mode)) s t := by
  have hl : ∀ p ∈ ([.tiles, .regGlb, .regTil] : List Component), p ∈ touches (.histogramClear tile freeze mode) := by
    simp only [touches]; decide
  simp only [Machine.execHistogramClear, Machine.ok] at h
  split at h <;> first | (injection h with h; subst h) | cases h
  refine Keeps.busWriteVia (Keeps.refl _ _) ?_ (hl _ (by decide))
  rw [writeServed_tilReg (hr := by decide)]
  simp [Machine.writeTile]
  repeat' first
    | (with_reducible first | exact Keeps.refl _ _ | apply Keeps.ite | apply Keeps.accErr | apply Keeps.writeHistCtrl | apply Keeps.store)
    | with_reducible apply Keeps.setBit
    | ((with_reducible apply Component.sub hl); first | decide | (simp (disch := decide); done) | (simp [regBlock, scnReg, srcReg, packageBase, LED_CTRL]; done))
    | intro _

theorem Keeps.execFreeze {tile} {on} {s t : State} (h : Machine.execFreeze tile on s = .next t) : Keeps (touches (.freeze tile on)) s t := by
  have hl : ∀ p ∈ ([.tiles, .regGlb, .regTil] : List Component), p ∈ touches (.freeze tile on) := by
    simp only [touches]; decide
  simp only [Machine.execFreeze, Machine.ok] at h
  split at h <;> first | (injection h with h; subst h) | cases h
  refine Keeps.busWriteVia (Keeps.refl _ _) ?_ (hl _ (by decide))
  rw [writeServed_tilReg (hr := by decide)]
  simp [Machine.writeTile]
  repeat' first
    | (with_reducible first | exact Keeps.refl _ _ | apply Keeps.ite | apply Keeps.accErr | apply Keeps.writeHistCtrl | apply Keeps.store)
    | with_reducible apply Keeps.setBit
    | ((with_reducible apply Component.sub hl); first | decide | (simp (disch := decide); done) | (simp [regBlock, scnReg, srcReg, packageBase, LED_CTRL]; done))
    | intro _

theorem Keeps.execHistogramMode {tile} {mode} {s t : State} (h : Machine.execHistogramMode tile mode s = .next t) : Keeps (touches (.histogramMode
    tile mode)) s t := by
  have hl : ∀ p ∈ ([.tiles, .regGlb, .regTil] : List Component), p ∈ touches (.histogramMode tile mode) := by
    simp only [touches]; decide
  simp only [Machine.execHistogramMode, Machine.ok] at h
  split at h <;> first | (injection h with h; subst h) | cases h
  refine Keeps.busWriteVia (Keeps.refl _ _) ?_ (hl _ (by decide))
  rw [writeServed_tilReg (hr := by decide)]
  simp [Machine.writeTile]
  repeat' first
    | (with_reducible first | exact Keeps.refl _ _ | apply Keeps.ite | apply Keeps.accErr | apply Keeps.writeHistCtrl | apply Keeps.store)
    | with_reducible apply Keeps.setBit
    | ((with_reducible apply Component.sub hl); first | decide | (simp (disch := decide); done) | (simp [regBlock, scnReg, srcReg, packageBase, LED_CTRL]; done))
    | intro _

theorem Keeps.execLoadProgram {tag} {slot} {image} {s t : State} (h : Machine.execLoadProgram tag slot image s = .next t) : Keeps (touches
    (.loadProgram tag slot image)) s t := by
  have hl : ∀ p ∈ ([.grf, .host, .out, .regGrf] : List Component), p ∈ touches (.loadProgram tag slot image) := by
    simp only [touches]; decide
  simp only [Machine.execLoadProgram, Machine.ok] at h
  split at h <;> first | (injection h with h; subst h) | cases h
  repeat' (with_reducible first | exact Keeps.refl _ _ | assumption | apply Keeps.loadProgramEff)

theorem Keeps.execProgramActivationManagement {tag} {slot} {activate} {s t : State} (h : Machine.execProgramActivationManagement tag slot activate s
    = .next t) : Keeps (touches (.programActivationManagement tag slot activate)) s t := by
  have hl : ∀ p ∈ ([.retire, .log, .packages, .dram, .grf, .mover, .scan, .host, .faults, .out, .regGlb, .regGrf, .regTier, .regFtl] : List Component), p ∈ touches (.programActivationManagement tag slot activate) := by
    simp only [touches]; decide
  simp only [Machine.execProgramActivationManagement, Machine.ok] at h
  split at h <;> first | (injection h with h; subst h) | cases h
  repeat' (with_reducible first | exact Keeps.refl _ _ | assumption | apply Keeps.activationEff)

theorem Keeps.execMemoryRangeSetManagement {tag} {id} {ranges} {s t : State} (h : Machine.execMemoryRangeSetManagement tag id ranges s = .next t) :
    Keeps (touches (.memoryRangeSetManagement tag id ranges)) s t := by
  have hl : ∀ p ∈ ([.grf, .host, .out] : List Component), p ∈ touches (.memoryRangeSetManagement tag id ranges) := by
    simp only [touches]; decide
  simp only [Machine.execMemoryRangeSetManagement, Machine.ok] at h
  split at h <;> first | (injection h with h; subst h) | cases h
  repeat' (with_reducible first | exact Keeps.refl _ _ | assumption | apply Keeps.rangeSetEff)

theorem Keeps.execExecuteProgram {tag} {slot} {mrs} {block} {s t : State} (h : Machine.execExecuteProgram tag slot mrs block s = .next t) : Keeps
    (touches (.executeProgram tag slot mrs block)) s t := by
  have hl : ∀ p ∈ ([.retire, .log, .packages, .dram, .grf, .mover, .scan, .host, .faults, .out, .regGlb, .regGrf, .regTier, .regFtl] : List
      Component), p ∈ touches (.executeProgram tag slot mrs block) := by
    simp only [touches]; decide
  simp only [Machine.execExecuteProgram, Machine.ok] at h
  split at h <;> first | (injection h with h; subst h) | cases h
  repeat' (with_reducible first | exact Keeps.refl _ _ | assumption | apply Keeps.executeProgramEff)

theorem Keeps.execKernelDispatch  {s t : State} (h : Machine.execKernelDispatch s = .next t) : Keeps (touches (.kernelDispatch)) s t := by
  have hl : ∀ p ∈ ([.retire, .log, .packages, .tiles, .dram, .grf, .mover, .scan, .fabric, .host, .faults, .out, .regGlb, .regLed, .regArm, .regGrf,
      .regTier, .regFab, .regFtl, .regTil] : List Component), p ∈ touches (.kernelDispatch) := by
    simp only [touches]; decide
  simp only [Machine.execKernelDispatch, Machine.ok] at h
  split at h <;> first | (injection h with h; subst h) | cases h
  repeat' (with_reducible first | exact Keeps.refl _ _ | assumption | apply Keeps.kernelDispatchEff)

theorem Keeps.execPartAdmission  {s t : State} (h : Machine.execPartAdmission s = .next t) : Keeps (touches (.partAdmission)) s t := by
  have hl : ∀ p ∈ ([.retire, .log, .packages, .tiles, .store, .dram, .grf, .mover, .scan, .fabric, .host, .faults, .out, .regGlb, .regArm, .regGrf, .regTier, .regFab, .regFtl, .regTil] : List Component), p ∈ touches (.partAdmission) := by
    simp only [touches]; decide
  simp only [Machine.execPartAdmission, Machine.ok] at h
  split at h <;> first | (injection h with h; subst h) | cases h
  repeat' (with_reducible first | exact Keeps.refl _ _ | assumption | apply Keeps.partAdmissionEff)

theorem Keeps.execKernelDeadlineExpiry {run} {kernel} {s t : State} (h : Machine.execKernelDeadlineExpiry run kernel s = .next t) : Keeps (touches
    (.kernelDeadlineExpiry run kernel)) s t := by
  have hl : ∀ p ∈ ([.retire, .log, .packages, .tiles, .dram, .grf, .mover, .scan, .fabric, .host, .faults, .out, .regGlb, .regArm, .regGrf,
      .regTier, .regFab, .regFtl, .regTil] : List Component), p ∈ touches (.kernelDeadlineExpiry run kernel) := by
    simp only [touches]; decide
  simp only [Machine.execKernelDeadlineExpiry, Machine.ok] at h
  split at h <;> first | (injection h with h; subst h) | cases h
  repeat' (with_reducible first | exact Keeps.refl _ _ | assumption | apply Keeps.kernelDeadlineEff)

theorem Keeps.execRunDeadlineExpiry {run} {s t : State} (h : Machine.execRunDeadlineExpiry run s = .next t) : Keeps (touches (.runDeadlineExpiry
    run)) s t := by
  have hl : ∀ p ∈ ([.retire, .log, .packages, .tiles, .dram, .grf, .mover, .scan, .fabric, .host, .faults, .out, .regGlb, .regArm, .regGrf,
      .regTier, .regFab, .regFtl, .regTil] : List Component), p ∈ touches (.runDeadlineExpiry run) := by
    simp only [touches]; decide
  simp only [Machine.execRunDeadlineExpiry, Machine.ok] at h
  split at h <;> first | (injection h with h; subst h) | cases h
  repeat' (with_reducible first | exact Keeps.refl _ _ | assumption | apply Keeps.runDeadlineEff)

theorem Keeps.execPreemption {cls} {s t : State} (h : Machine.execPreemption cls s = .next t) : Keeps (touches (.preemption cls)) s t := by
  have hl : ∀ p ∈ ([.retire, .log, .packages, .tiles, .dram, .grf, .mover, .scan, .fabric, .host, .faults, .out, .regGlb, .regLed, .regArm, .regGrf,
      .regTier, .regFab, .regFtl, .regTil] : List Component), p ∈ touches (.preemption cls) := by
    simp only [touches]; decide
  simp only [Machine.execPreemption, Machine.ok] at h
  split at h <;> first | (injection h with h; subst h) | cases h
  repeat' (with_reducible first | exact Keeps.refl _ _ | assumption | apply Keeps.preemptionEff)

theorem Keeps.execStepBoundary {slot} {s t : State} (h : Machine.execStepBoundary slot s = .next t) : Keeps (touches (.stepBoundary slot)) s t := by
  have hl : ∀ p ∈ ([.retire, .log, .packages, .dram, .grf, .mover, .host, .faults, .out, .regGlb, .regGrf, .regTier, .regFtl] : List Component), p ∈
      touches (.stepBoundary slot) := by
    simp only [touches]; decide
  simp only [Machine.execStepBoundary, Machine.ok] at h
  split at h <;> first | (injection h with h; subst h) | cases h
  repeat' (with_reducible first | exact Keeps.refl _ _ | assumption | apply Keeps.stepBoundaryEff)

theorem Keeps.execGrfSeqSel {index} {s t : State} (h : Machine.execGrfSeqSel index s = .next t) : Keeps (touches (.grfSeqSel index)) s t := by
  have hl : ∀ p ∈ ([.regGlb, .regGrf] : List Component), p ∈ touches (.grfSeqSel index) := by
    simp only [touches]; decide
  simp only [Machine.execGrfSeqSel, Machine.ok] at h
  split at h <;> first | (injection h with h; subst h) | cases h
  refine Keeps.busWriteVia (Keeps.refl _ _) ?_ (hl _ (by decide))
  rw [writeServed_GRF_SEQ_SEL]
  repeat' first
    | (with_reducible first | exact Keeps.refl _ _ | apply Keeps.ite | apply Keeps.accErr | apply Keeps.writeSeqSel | apply Keeps.store)
    | with_reducible apply Keeps.setBit
    | ((with_reducible apply Component.sub hl); first | decide | (simp (disch := decide); done) | (simp [regBlock, scnReg, srcReg, packageBase, LED_CTRL]; done))

theorem Keeps.execTierMqTail {index} {s t : State} (h : Machine.execTierMqTail index s = .next t) : Keeps (touches (.tierMqTail index)) s t := by
  have hl : ∀ p ∈ ([.regGlb, .regTier] : List Component), p ∈ touches (.tierMqTail index) := by
    simp only [touches]; decide
  simp only [Machine.execTierMqTail, Machine.ok] at h
  split at h <;> first | (injection h with h; subst h) | cases h
  refine Keeps.busWriteVia (Keeps.refl _ _) ?_ (hl _ (by decide))
  rw [writeServed_TIER_MQ_TAIL]
  repeat' first
    | (with_reducible first | exact Keeps.refl _ _ | apply Keeps.ite | apply Keeps.accErr | apply Keeps.writeMqTail | apply Keeps.store)
    | with_reducible apply Keeps.setBit
    | ((with_reducible apply Component.sub hl); first | decide | (simp (disch := decide); done) | (simp [regBlock, scnReg, srcReg, packageBase, LED_CTRL]; done))

theorem Keeps.execTierMqSize {entries} {s t : State} (h : Machine.execTierMqSize entries s = .next t) : Keeps (touches (.tierMqSize entries)) s t :=
    by
  have hl : ∀ p ∈ ([.regGlb, .regTier] : List Component), p ∈ touches (.tierMqSize entries) := by
    simp only [touches]; decide
  simp only [Machine.execTierMqSize, Machine.ok] at h
  split at h <;> first | (injection h with h; subst h) | cases h
  refine Keeps.busWriteVia (Keeps.refl _ _) ?_ (hl _ (by decide))
  rw [writeServed_TIER_MQ_SIZE]
  repeat' first
    | (with_reducible first | exact Keeps.refl _ _ | apply Keeps.ite | apply Keeps.accErr | apply Keeps.writeMqSize | apply Keeps.store)
    | with_reducible apply Keeps.setBit
    | ((with_reducible apply Component.sub hl); first | decide | (simp (disch := decide); done) | (simp [regBlock, scnReg, srcReg, packageBase, LED_CTRL]; done))

theorem Keeps.execCopy  {s t : State} (h : Machine.execCopy s = .next t) : Keeps (touches (.copy)) s t := by
  have hl : ∀ p ∈ ([.retire, .log, .dram, .mover, .host, .faults, .out, .regGlb, .regTier] : List Component), p ∈ touches (.copy) := by
    simp only [touches]; decide
  simp only [Machine.execCopy, Machine.ok] at h
  split at h <;> first | (injection h with h; subst h) | cases h
  repeat' (with_reducible first | exact Keeps.refl _ _ | assumption | apply Keeps.startMove)

theorem Keeps.execPlace  {s t : State} (h : Machine.execPlace s = .next t) : Keeps (touches (.place)) s t := by
  have hl : ∀ p ∈ ([.retire, .log, .dram, .mover, .host, .faults, .out, .regGlb, .regTier] : List Component), p ∈ touches (.place) := by
    simp only [touches]; decide
  simp only [Machine.execPlace, Machine.ok] at h
  split at h <;> first | (injection h with h; subst h) | cases h
  repeat' (with_reducible first | exact Keeps.refl _ _ | assumption | apply Keeps.startMove)

theorem Keeps.execEvict  {s t : State} (h : Machine.execEvict s = .next t) : Keeps (touches (.evict)) s t := by
  have hl : ∀ p ∈ ([.retire, .log, .dram, .mover, .host, .faults, .out, .regGlb, .regTier] : List Component), p ∈ touches (.evict) := by
    simp only [touches]; decide
  simp only [Machine.execEvict, Machine.ok] at h
  split at h <;> first | (injection h with h; subst h) | cases h
  repeat' (with_reducible first | exact Keeps.refl _ _ | assumption | apply Keeps.startMove)

theorem Keeps.execClear  {s t : State} (h : Machine.execClear s = .next t) : Keeps (touches (.clear)) s t := by
  have hl : ∀ p ∈ ([.retire, .log, .dram, .mover, .host, .faults, .out, .regGlb, .regTier] : List Component), p ∈ touches (.clear) := by
    simp only [touches]; decide
  simp only [Machine.execClear, Machine.ok] at h
  split at h <;> first | (injection h with h; subst h) | cases h
  repeat' (with_reducible first | exact Keeps.refl _ _ | assumption | apply Keeps.startMove)

theorem Keeps.execMoveComplete {index} {s t : State} (h : Machine.execMoveComplete index s = .next t) : Keeps (touches (.moveComplete index)) s t :=
    by
  have hl : ∀ p ∈ ([.retire, .log, .packages, .dram, .mover, .host, .faults, .out, .regGlb, .regTier, .regFtl] : List Component), p ∈ touches
      (.moveComplete index) := by
    simp only [touches]; decide
  simp only [Machine.execMoveComplete, Machine.ok] at h
  split at h <;> first | (injection h with h; subst h) | cases h
  repeat' (with_reducible first | exact Keeps.refl _ _ | assumption | apply Keeps.moveCompleteEff)

theorem Keeps.execDirectoryLookupDone {piece} {s t : State} (h : Machine.execDirectoryLookupDone piece s = .next t) : Keeps (touches
    (.directoryLookupDone piece)) s t := by
  have hl : ∀ p ∈ ([.mover, .fabric, .out, .regTier, .regFab] : List Component), p ∈ touches (.directoryLookupDone piece) := by
    simp only [touches]; decide
  simp only [Machine.execDirectoryLookupDone, Machine.ok] at h
  split at h <;> first | (injection h with h; subst h) | cases h
  repeat' (with_reducible first | exact Keeps.refl _ _ | assumption | apply Keeps.lookupEff)

theorem Keeps.execPieceArrival {piece} {dst} {result} {s t : State} (h : Machine.execPieceArrival piece dst result s = .next t) : Keeps (touches
    (.pieceArrival piece dst result)) s t := by
  have hl : ∀ p ∈ ([.retire, .log, .packages, .tiles, .store, .dram, .grf, .mover, .scan, .fabric, .host, .faults, .out, .regGlb, .regArm, .regGrf,
      .regTier, .regFab, .regFtl, .regTil] : List Component), p ∈ touches (.pieceArrival piece dst result) := by
    simp only [touches]; decide
  simp only [Machine.execPieceArrival, Machine.ok] at h
  split at h <;> first | (injection h with h; subst h) | cases h
  repeat' (with_reducible first | exact Keeps.refl _ _ | assumption | apply Keeps.pieceArrivalEff)

theorem Keeps.execMvLimitExpiry {piece} {s t : State} (h : Machine.execMvLimitExpiry piece s = .next t) : Keeps (touches (.mvLimitExpiry piece)) s t
    := by
  have hl : ∀ p ∈ ([.mover, .fabric, .out, .regFab] : List Component), p ∈ touches (.mvLimitExpiry piece) := by
    simp only [touches]; decide
  simp only [Machine.execMvLimitExpiry, Machine.ok] at h
  split at h <;> first | (injection h with h; subst h) | cases h
  repeat' (with_reducible first | exact Keeps.refl _ _ | assumption | apply Keeps.mvLimitEff)

theorem Keeps.execMemoryPatrolScrub {board} {unit} {pc} {line} {found} {s t : State} (h : Machine.execMemoryPatrolScrub board unit pc line found s =
    .next t) : Keeps (touches (.memoryPatrolScrub board unit pc line found)) s t := by
  have hl : ∀ p ∈ ([.retire, .log, .packages, .tiles, .dram, .grf, .mover, .scan, .search, .fabric, .host, .faults, .out, .regGlb, .regArm, .regGrf, .regTier, .regFab, .regHst, .regScn, .regFtl, .regTil] : List Component),
      p ∈ touches (.memoryPatrolScrub board unit pc line found) := by
    simp only [touches]; decide
  simp only [Machine.execMemoryPatrolScrub, Machine.ok] at h
  split at h <;> first | (injection h with h; subst h) | cases h
  repeat' (with_reducible first | exact Keeps.refl _ _ | assumption | apply Keeps.patrolScrubEff)

theorem Keeps.execPseudoChannelFault {stack} {pc} {cause} {exhausted} {s t : State} (h : Machine.execPseudoChannelFault stack pc cause exhausted s =
    .next t) : Keeps (touches (.pseudoChannelFault stack pc cause exhausted)) s t := by
  have hl : ∀ p ∈ ([.retire, .log, .mover, .host, .faults, .out, .regGlb, .regTier] : List Component), p ∈ touches (.pseudoChannelFault stack pc
      cause exhausted) := by
    simp only [touches]; decide
  simp only [Machine.execPseudoChannelFault, Machine.ok] at h
  split at h <;> first | (injection h with h; subst h) | cases h
  repeat' (with_reducible first | exact Keeps.refl _ _ | assumption | apply Keeps.pcFaultEff)

theorem Keeps.execMigrationDone {stack} {pc} {s t : State} (h : Machine.execMigrationDone stack pc s = .next t) : Keeps (touches (.migrationDone
    stack pc)) s t := by
  have hl : ∀ p ∈ ([.retire, .log, .dram, .mover, .host, .faults, .out, .regGlb, .regTier] : List Component), p ∈ touches (.migrationDone stack pc)
      := by
    simp only [touches]; decide
  simp only [Machine.execMigrationDone, Machine.ok] at h
  split at h <;> first | (injection h with h; subst h) | cases h
  repeat' (with_reducible first | exact Keeps.refl _ _ | assumption | apply Keeps.migrationEff)

theorem Keeps.execCheckerEnable {key} {en} {s t : State} (h : Machine.execCheckerEnable key en s = .next t) : Keeps (touches (.checkerEnable key
    en)) s t := by
  have hl : ∀ p ∈ ([.retire, .log, .dram, .mover, .host, .faults, .out, .regGlb, .regTier] : List Component), p ∈ touches (.checkerEnable key en) :=
      by
    simp only [touches]; decide
  simp only [Machine.execCheckerEnable, Machine.ok] at h
  split at h <;> first | (injection h with h; subst h) | cases h
  refine Keeps.busWriteVia (Keeps.refl _ _) ?_ (hl _ (by decide))
  rw [writeServed_TIER_CHK_CTRL]
  repeat' first
    | (with_reducible first | exact Keeps.refl _ _ | apply Keeps.ite | apply Keeps.accErr | apply Keeps.writeChkCtrl | apply Keeps.store)
    | with_reducible apply Keeps.setBit
    | ((with_reducible apply Component.sub hl); first | decide | (simp (disch := decide); done) | (simp [regBlock, scnReg, srcReg, packageBase, LED_CTRL]; done))

theorem Keeps.execWriteRaw {key} {en} {s t : State} (h : Machine.execWriteRaw key en s = .next t) : Keeps (touches (.writeRaw key en)) s t := by
  have hl : ∀ p ∈ ([.retire, .log, .dram, .mover, .host, .faults, .out, .regGlb, .regTier] : List Component), p ∈ touches (.writeRaw key en) := by
    simp only [touches]; decide
  simp only [Machine.execWriteRaw, Machine.ok] at h
  split at h <;> first | (injection h with h; subst h) | cases h
  refine Keeps.busWriteVia (Keeps.refl _ _) ?_ (hl _ (by decide))
  rw [writeServed_TIER_CHK_CTRL]
  repeat' first
    | (with_reducible first | exact Keeps.refl _ _ | apply Keeps.ite | apply Keeps.accErr | apply Keeps.writeChkCtrl | apply Keeps.store)
    | with_reducible apply Keeps.setBit
    | ((with_reducible apply Component.sub hl); first | decide | (simp (disch := decide); done) | (simp [regBlock, scnReg, srcReg, packageBase, LED_CTRL]; done))

theorem Keeps.execReadRaw {key} {en} {s t : State} (h : Machine.execReadRaw key en s = .next t) : Keeps (touches (.readRaw key en)) s t := by
  have hl : ∀ p ∈ ([.retire, .log, .dram, .mover, .host, .faults, .out, .regGlb, .regTier] : List Component), p ∈ touches (.readRaw key en) := by
    simp only [touches]; decide
  simp only [Machine.execReadRaw, Machine.ok] at h
  split at h <;> first | (injection h with h; subst h) | cases h
  refine Keeps.busWriteVia (Keeps.refl _ _) ?_ (hl _ (by decide))
  rw [writeServed_TIER_CHK_CTRL]
  repeat' first
    | (with_reducible first | exact Keeps.refl _ _ | apply Keeps.ite | apply Keeps.accErr | apply Keeps.writeChkCtrl | apply Keeps.store)
    | with_reducible apply Keeps.setBit
    | ((with_reducible apply Component.sub hl); first | decide | (simp (disch := decide); done) | (simp [regBlock, scnReg, srcReg, packageBase, LED_CTRL]; done))

theorem Keeps.execCheckerRead {key} {en} {s t : State} (h : Machine.execCheckerRead key en s = .next t) : Keeps (touches (.checkerRead key en)) s t
    := by
  have hl : ∀ p ∈ ([.retire, .log, .dram, .mover, .host, .faults, .out, .regGlb, .regTier] : List Component), p ∈ touches (.checkerRead key en) :=
      by
    simp only [touches]; decide
  simp only [Machine.execCheckerRead, Machine.ok] at h
  split at h <;> first | (injection h with h; subst h) | cases h
  refine Keeps.busWriteVia (Keeps.refl _ _) ?_ (hl _ (by decide))
  rw [writeServed_TIER_CHK_CTRL]
  repeat' first
    | (with_reducible first | exact Keeps.refl _ _ | apply Keeps.ite | apply Keeps.accErr | apply Keeps.writeChkCtrl | apply Keeps.store)
    | with_reducible apply Keeps.setBit
    | ((with_reducible apply Component.sub hl); first | decide | (simp (disch := decide); done) | (simp [regBlock, scnReg, srcReg, packageBase, LED_CTRL]; done))

theorem Keeps.execScnJqTail {index} {s t : State} (h : Machine.execScnJqTail index s = .next t) : Keeps (touches (.scnJqTail index)) s t := by
  have hl : ∀ p ∈ ([.regGlb, .regScn] : List Component), p ∈ touches (.scnJqTail index) := by
    simp only [touches]; decide
  simp only [Machine.execScnJqTail, Machine.ok] at h
  split at h <;> first | (injection h with h; subst h) | cases h
  refine Keeps.busWriteVia (Keeps.refl _ _) ?_ (hl _ (by decide))
  rw [writeServed_scnReg]
  simp [Machine.writePackage]
  repeat' first
    | (with_reducible first | exact Keeps.refl _ _ | apply Keeps.ite | apply Keeps.accErr | apply Keeps.store | apply Keeps.setBit)
    | ((with_reducible apply Component.sub hl); first | decide | (simp (disch := decide); done) | (simp [regBlock, scnReg, srcReg, packageBase, LED_CTRL]; done))

theorem Keeps.execScnJqSize {entries} {s t : State} (h : Machine.execScnJqSize entries s = .next t) : Keeps (touches (.scnJqSize entries)) s t := by
  have hl : ∀ p ∈ ([.regGlb, .regScn] : List Component), p ∈ touches (.scnJqSize entries) := by
    simp only [touches]; decide
  simp only [Machine.execScnJqSize, Machine.ok] at h
  split at h <;> first | (injection h with h; subst h) | cases h
  refine Keeps.busWriteVia (Keeps.refl _ _) ?_ (hl _ (by decide))
  rw [writeServed_scnReg]
  simp [Machine.writePackage]
  repeat' first
    | (with_reducible first | exact Keeps.refl _ _ | apply Keeps.ite | apply Keeps.accErr | apply Keeps.writeJqSize | apply Keeps.store)
    | with_reducible apply Keeps.setBit
    | ((with_reducible apply Component.sub hl); first | decide | (simp (disch := decide); done) | (simp [regBlock, scnReg, srcReg, packageBase, LED_CTRL]; done))

theorem Keeps.execAppend  {s t : State} (h : Machine.execAppend s = .next t) : Keeps (touches (.append)) s t := by
  have hl : ∀ p ∈ ([.retire, .log, .corpus, .dram, .mover, .scan, .host, .faults, .out, .regGlb, .regTier, .regScn] : List Component), p ∈ touches
      (.append) := by
    simp only [touches]; decide
  simp only [Machine.execAppend, Machine.ok] at h
  split at h <;> first | (injection h with h; subst h) | cases h
  repeat' (with_reducible first | exact Keeps.refl _ _ | assumption | apply Keeps.startJob)

theorem Keeps.execDelete  {s t : State} (h : Machine.execDelete s = .next t) : Keeps (touches (.delete)) s t := by
  have hl : ∀ p ∈ ([.retire, .log, .corpus, .dram, .mover, .scan, .host, .faults, .out, .regGlb, .regTier, .regScn] : List Component), p ∈ touches
      (.delete) := by
    simp only [touches]; decide
  simp only [Machine.execDelete, Machine.ok] at h
  split at h <;> first | (injection h with h; subst h) | cases h
  repeat' (with_reducible first | exact Keeps.refl _ _ | assumption | apply Keeps.startJob)

theorem Keeps.execFilter  {s t : State} (h : Machine.execFilter s = .next t) : Keeps (touches (.filter)) s t := by
  have hl : ∀ p ∈ ([.retire, .log, .corpus, .dram, .mover, .scan, .host, .faults, .out, .regGlb, .regTier, .regScn] : List Component), p ∈ touches
      (.filter) := by
    simp only [touches]; decide
  simp only [Machine.execFilter, Machine.ok] at h
  split at h <;> first | (injection h with h; subst h) | cases h
  repeat' (with_reducible first | exact Keeps.refl _ _ | assumption | apply Keeps.startJob)

theorem Keeps.execEmbed  {s t : State} (h : Machine.execEmbed s = .next t) : Keeps (touches (.embed)) s t := by
  have hl : ∀ p ∈ ([.retire, .log, .corpus, .dram, .mover, .scan, .host, .faults, .out, .regGlb, .regTier, .regScn] : List Component), p ∈ touches
      (.embed) := by
    simp only [touches]; decide
  simp only [Machine.execEmbed, Machine.ok] at h
  split at h <;> first | (injection h with h; subst h) | cases h
  repeat' (with_reducible first | exact Keeps.refl _ _ | assumption | apply Keeps.startJob)

theorem Keeps.execJobCommit {index} {s t : State} (h : Machine.execJobCommit index s = .next t) : Keeps (touches (.jobCommit index)) s t := by
  have hl : ∀ p ∈ ([.retire, .log, .packages, .corpus, .dram, .grf, .mover, .scan, .search, .host, .faults, .out, .regGlb, .regGrf, .regTier,
      .regScn, .regSrc, .regFtl] : List Component), p ∈ touches (.jobCommit index) := by
    simp only [touches]; decide
  simp only [Machine.execJobCommit, Machine.ok] at h
  split at h <;> first | (injection h with h; subst h) | cases h
  repeat' (with_reducible first | exact Keeps.refl _ _ | assumption | apply Keeps.jobCommitEff)

theorem Keeps.execSlabScan {index} {slab} {lost} {crcBad} {s t : State} (h : Machine.execSlabScan index slab lost crcBad s = .next t) : Keeps
    (touches (.slabScan index slab lost crcBad)) s t := by
  have hl : ∀ p ∈ ([.retire, .log, .packages, .corpus, .dram, .grf, .mover, .scan, .host, .faults, .out, .regGlb, .regGrf, .regTier, .regScn,
      .regFtl] : List Component), p ∈ touches (.slabScan index slab lost crcBad) := by
    simp only [touches]; decide
  simp only [Machine.execSlabScan, Machine.ok] at h
  split at h <;> first | (injection h with h; subst h) | cases h
  repeat' (with_reducible first | exact Keeps.refl _ _ | assumption | apply Keeps.slabScanEff)

theorem Keeps.execJobComplete {index} {energyUj} {s t : State} (h : Machine.execJobComplete index energyUj s = .next t) : Keeps (touches
    (.jobComplete index energyUj)) s t := by
  have hl : ∀ p ∈ ([.retire, .log, .corpus, .dram, .mover, .scan, .host, .faults, .out, .regGlb, .regTier, .regScn] : List Component), p ∈ touches
      (.jobComplete index energyUj) := by
    simp only [touches]; decide
  simp only [Machine.execJobComplete, Machine.ok] at h
  split at h <;> first | (injection h with h; subst h) | cases h
  repeat' (with_reducible first | exact Keeps.refl _ _ | assumption | apply Keeps.jobCompleteEff)

theorem Keeps.execCompaction {region} {slab} {s t : State} (h : Machine.execCompaction region slab s = .next t) : Keeps (touches (.compaction region
    slab)) s t := by
  have hl : ∀ p ∈ ([.packages, .corpus, .search, .regScn, .regFtl] : List Component), p ∈ touches (.compaction region slab) := by
    simp only [touches]; decide
  simp only [Machine.execCompaction, Machine.ok] at h
  split at h <;> first | (injection h with h; subst h) | cases h
  repeat' (with_reducible first | exact Keeps.refl _ _ | assumption | apply Keeps.compactionEff)

theorem Keeps.execScnJqCancel {index} {s t : State} (h : Machine.execScnJqCancel index s = .next t) : Keeps (touches (.scnJqCancel index)) s t := by
  have hl : ∀ p ∈ ([.scan, .regGlb] : List Component), p ∈ touches (.scnJqCancel index) := by
    simp only [touches]; decide
  simp only [Machine.execScnJqCancel, Machine.ok] at h
  split at h <;> first | (injection h with h; subst h) | cases h
  refine Keeps.busWriteVia (Keeps.refl _ _) ?_ (hl _ (by decide))
  rw [writeServed_scnReg]
  simp [Machine.writePackage]
  repeat' first
    | (with_reducible first | exact Keeps.refl _ _ | apply Keeps.ite | apply Keeps.accErr | apply Keeps.writeJqCancel | apply Keeps.store)
    | with_reducible apply Keeps.setBit
    | ((with_reducible apply Component.sub hl); first | decide | (simp (disch := decide); done) | (simp [regBlock, scnReg, srcReg, packageBase, LED_CTRL]; done))

theorem Keeps.execSrcQqTail {index} {s t : State} (h : Machine.execSrcQqTail index s = .next t) : Keeps (touches (.srcQqTail index)) s t := by
  have hl : ∀ p ∈ ([.regGlb, .regSrc] : List Component), p ∈ touches (.srcQqTail index) := by
    simp only [touches]; decide
  simp only [Machine.execSrcQqTail, Machine.ok] at h
  split at h <;> first | (injection h with h; subst h) | cases h
  refine Keeps.busWriteVia (Keeps.refl _ _) ?_ (hl _ (by decide))
  rw [writeServed_srcReg]
  simp [Machine.writePackage]
  repeat' first
    | (with_reducible first | exact Keeps.refl _ _ | apply Keeps.ite | apply Keeps.accErr | apply Keeps.store | apply Keeps.setBit)
    | ((with_reducible apply Component.sub hl); first | decide | (simp (disch := decide); done) | (simp [regBlock, scnReg, srcReg, packageBase, LED_CTRL]; done))

theorem Keeps.execSrcQqSize {entries} {s t : State} (h : Machine.execSrcQqSize entries s = .next t) : Keeps (touches (.srcQqSize entries)) s t := by
  have hl : ∀ p ∈ ([.regGlb, .regSrc] : List Component), p ∈ touches (.srcQqSize entries) := by
    simp only [touches]; decide
  simp only [Machine.execSrcQqSize, Machine.ok] at h
  split at h <;> first | (injection h with h; subst h) | cases h
  refine Keeps.busWriteVia (Keeps.refl _ _) ?_ (hl _ (by decide))
  rw [writeServed_srcReg]
  simp [Machine.writePackage]
  repeat' first
    | (with_reducible first | exact Keeps.refl _ _ | apply Keeps.ite | apply Keeps.accErr | apply Keeps.writeQqSize | apply Keeps.store)
    | with_reducible apply Keeps.setBit
    | ((with_reducible apply Component.sub hl); first | decide | (simp (disch := decide); done) | (simp [regBlock, scnReg, srcReg, packageBase, LED_CTRL]; done))

theorem Keeps.execQuery  {s t : State} (h : Machine.execQuery s = .next t) : Keeps (touches (.query)) s t := by
  have hl : ∀ p ∈ ([.retire, .log, .corpus, .dram, .mover, .search, .host, .faults, .out, .regGlb, .regTier, .regScn, .regSrc] : List Component), p
      ∈ touches (.query) := by
    simp only [touches]; decide
  simp only [Machine.execQuery, Machine.ok] at h
  split at h <;> first | (injection h with h; subst h) | cases h
  repeat' (with_reducible first | exact Keeps.refl _ _ | assumption | apply Keeps.startDescriptor)

theorem Keeps.execInsert  {s t : State} (h : Machine.execInsert s = .next t) : Keeps (touches (.insert)) s t := by
  have hl : ∀ p ∈ ([.retire, .log, .corpus, .dram, .mover, .search, .host, .faults, .out, .regGlb, .regTier, .regScn, .regSrc] : List Component), p
      ∈ touches (.insert) := by
    simp only [touches]; decide
  simp only [Machine.execInsert, Machine.ok] at h
  split at h <;> first | (injection h with h; subst h) | cases h
  repeat' (with_reducible first | exact Keeps.refl _ _ | assumption | apply Keeps.startDescriptor)

theorem Keeps.execIndexDelete  {s t : State} (h : Machine.execIndexDelete s = .next t) : Keeps (touches (.indexDelete)) s t := by
  have hl : ∀ p ∈ ([.retire, .log, .corpus, .dram, .mover, .search, .host, .faults, .out, .regGlb, .regTier, .regScn, .regSrc] : List Component), p
      ∈ touches (.indexDelete) := by
    simp only [touches]; decide
  simp only [Machine.execIndexDelete, Machine.ok] at h
  split at h <;> first | (injection h with h; subst h) | cases h
  repeat' (with_reducible first | exact Keeps.refl _ _ | assumption | apply Keeps.startDescriptor)

theorem Keeps.execCreate  {s t : State} (h : Machine.execCreate s = .next t) : Keeps (touches (.create)) s t := by
  have hl : ∀ p ∈ ([.retire, .log, .corpus, .dram, .mover, .search, .host, .faults, .out, .regGlb, .regTier, .regScn, .regSrc] : List Component), p
      ∈ touches (.create) := by
    simp only [touches]; decide
  simp only [Machine.execCreate, Machine.ok] at h
  split at h <;> first | (injection h with h; subst h) | cases h
  repeat' (with_reducible first | exact Keeps.refl _ _ | assumption | apply Keeps.startDescriptor)

theorem Keeps.execCentroidScores {index} {s t : State} (h : Machine.execCentroidScores index s = .next t) : Keeps (touches (.centroidScores index))
    s t := by
  have hl : ∀ p ∈ ([.search] : List Component), p ∈ touches (.centroidScores index) := by
    simp only [touches]; decide
  simp only [Machine.execCentroidScores, Machine.ok] at h
  split at h <;> first | (injection h with h; subst h) | cases h
  repeat' (with_reducible first | exact Keeps.refl _ _ | assumption | apply Keeps.centroidScoresEff)

theorem Keeps.execRaspBatch {package} {region} {cluster} {lost} {s t : State} (h : Machine.execRaspBatch package region cluster lost s = .next t) :
    Keeps (touches (.raspBatch package region cluster lost)) s t := by
  have hl : ∀ p ∈ ([.log, .corpus, .search, .regGlb, .regScn, .regSrc] : List Component), p ∈ touches (.raspBatch package region cluster lost) := by
    simp only [touches]; decide
  simp only [Machine.execRaspBatch, Machine.ok] at h
  split at h <;> first | (injection h with h; subst h) | cases h
  repeat' first
    | with_reducible exact Keeps.refl _ _ | with_reducible assumption | ((with_reducible apply Component.sub hl); decide)
    | (with_reducible first | apply Keeps.ite | apply Keeps.raspBatchEff) | intro _ | split

theorem Keeps.execVectorFetch {index} {package} {cached} {lost} {s t : State} (h : Machine.execVectorFetch index package cached lost s = .next t) :
    Keeps (touches (.vectorFetch index package cached lost)) s t := by
  have hl : ∀ p ∈ ([.log, .corpus, .search, .regGlb, .regSrc] : List Component), p ∈ touches (.vectorFetch index package cached lost) := by
    simp only [touches]; decide
  simp only [Machine.execVectorFetch, Machine.ok] at h
  split at h <;> first | (injection h with h; subst h) | cases h
  repeat' first
    | with_reducible exact Keeps.refl _ _ | with_reducible assumption | ((with_reducible apply Component.sub hl); decide)
    | (with_reducible first | apply Keeps.ite | apply Keeps.vectorFetchEff) | intro _ | split

theorem Keeps.execThresholdExchange {index} {src} {dst} {s t : State} (h : Machine.execThresholdExchange index src dst s = .next t) : Keeps (touches
    (.thresholdExchange index src dst)) s t := by
  have hl : ∀ p ∈ ([.search] : List Component), p ∈ touches (.thresholdExchange index src dst) := by
    simp only [touches]; decide
  simp only [Machine.execThresholdExchange, Machine.ok] at h
  split at h <;> first | (injection h with h; subst h) | cases h
  repeat' (with_reducible first | exact Keeps.refl _ _ | assumption | apply Keeps.thresholdExchangeEff)

theorem Keeps.execQueryContextComplete {index} {package} {s t : State} (h : Machine.execQueryContextComplete index package s = .next t) : Keeps
    (touches (.queryContextComplete index package)) s t := by
  have hl : ∀ p ∈ ([.retire, .log, .dram, .mover, .search, .host, .faults, .out, .regGlb, .regTier, .regSrc] : List Component), p ∈ touches
      (.queryContextComplete index package) := by
    simp only [touches]; decide
  simp only [Machine.execQueryContextComplete, Machine.ok] at h
  split at h <;> first | (injection h with h; subst h) | cases h
  repeat' (with_reducible first | exact Keeps.refl _ _ | assumption | apply Keeps.contextCompleteEff)

theorem Keeps.execQueryDeadlineExpiry {index} {s t : State} (h : Machine.execQueryDeadlineExpiry index s = .next t) : Keeps (touches
    (.queryDeadlineExpiry index)) s t := by
  have hl : ∀ p ∈ ([.retire, .log, .packages, .dram, .mover, .search, .host, .faults, .out, .regGlb, .regTier, .regSrc, .regFtl] : List Component),
      p ∈ touches (.queryDeadlineExpiry index) := by
    simp only [touches]; decide
  simp only [Machine.execQueryDeadlineExpiry, Machine.ok] at h
  split at h <;> first | (injection h with h; subst h) | cases h
  repeat' (with_reducible first | exact Keeps.refl _ _ | assumption | apply Keeps.queryDeadlineEff)

theorem Keeps.execSrcQqCancel {index} {s t : State} (h : Machine.execSrcQqCancel index s = .next t) : Keeps (touches (.srcQqCancel index)) s t := by
  have hl : ∀ p ∈ ([.retire, .log, .packages, .dram, .mover, .search, .host, .faults, .out, .regGlb, .regTier, .regSrc, .regFtl] : List Component),
      p ∈ touches (.srcQqCancel index) := by
    simp only [touches]; decide
  simp only [Machine.execSrcQqCancel, Machine.ok] at h
  split at h <;> first | (injection h with h; subst h) | cases h
  refine Keeps.busWriteVia (Keeps.refl _ _) ?_ (hl _ (by decide))
  rw [writeServed_srcReg]
  simp [Machine.writePackage]
  repeat' first
    | (with_reducible first | exact Keeps.refl _ _ | apply Keeps.ite | apply Keeps.accErr | apply Keeps.writeQqCancel | apply Keeps.store)
    | with_reducible apply Keeps.setBit
    | ((with_reducible apply Component.sub hl); first | decide | (simp (disch := decide); done) | (simp [regBlock, scnReg, srcReg, packageBase, LED_CTRL]; done))

theorem Keeps.execTrainingDone {port} {s t : State} (h : Machine.execTrainingDone port s = .next t) : Keeps (touches (.trainingDone port)) s t := by
  have hl : ∀ p ∈ ([.fabric, .out, .regFab] : List Component), p ∈ touches (.trainingDone port) := by
    simp only [touches]; decide
  simp only [Machine.execTrainingDone, Machine.ok] at h
  split at h <;> first | (injection h with h; subst h) | cases h
  repeat' (with_reducible first | exact Keeps.refl _ _ | assumption | apply Keeps.trainingEff)

theorem Keeps.execHello {port} {msg} {s t : State} (h : Machine.execHello port msg s = .next t) : Keeps (touches (.hello port msg)) s t := by
  have hl : ∀ p ∈ ([.packages, .fabric, .out, .regFab, .regUpd] : List Component), p ∈ touches (.hello port msg) := by
    simp only [touches]; decide
  simp only [Machine.execHello, Machine.ok] at h
  split at h <;> first | (injection h with h; subst h) | cases h
  repeat' first
    | with_reducible exact Keeps.refl _ _ | with_reducible assumption | ((with_reducible apply Component.sub hl); decide)
    | (with_reducible first | apply Keeps.ite | apply Keeps.helloEff) | intro _ | split

theorem Keeps.execHelloResend {port} {s t : State} (h : Machine.execHelloResend port s = .next t) : Keeps (touches (.helloResend port)) s t := by
  have hl : ∀ p ∈ ([.fabric, .out, .regFab] : List Component), p ∈ touches (.helloResend port) := by
    simp only [touches]; decide
  simp only [Machine.execHelloResend, Machine.ok] at h
  split at h <;> first | (injection h with h; subst h) | cases h
  repeat' (with_reducible first | exact Keeps.refl _ _ | assumption | apply Keeps.helloResendEff)

theorem Keeps.execFlitDiscard {port} {s t : State} (h : Machine.execFlitDiscard port s = .next t) : Keeps (touches (.flitDiscard port)) s t := by
  have hl : ∀ p ∈ ([.fabric, .out, .regFab] : List Component), p ∈ touches (.flitDiscard port) := by
    simp only [touches]; decide
  simp only [Machine.execFlitDiscard, Machine.ok] at h
  split at h <;> first | (injection h with h; subst h) | cases h
  repeat' (with_reducible first | exact Keeps.refl _ _ | assumption | apply Keeps.flitDiscardEff)

theorem Keeps.execIdle {port} {ack} {cvc} {credits} {payloadDiffers} {s t : State} (h : Machine.execIdle port ack cvc credits payloadDiffers s =
    .next t) : Keeps (touches (.idle port ack cvc credits payloadDiffers)) s t := by
  have hl : ∀ p ∈ ([.fabric, .out, .regFab] : List Component), p ∈ touches (.idle port ack cvc credits payloadDiffers) := by
    simp only [touches]; decide
  simp only [Machine.execIdle, Machine.ok] at h
  split at h <;> first | (injection h with h; subst h) | cases h
  repeat' first
    | with_reducible exact Keeps.refl _ _ | with_reducible assumption | ((with_reducible apply Component.sub hl); decide)
    | (with_reducible first | apply Keeps.ite | apply Keeps.idleEff) | intro _ | split

theorem Keeps.execNak {port} {expected} {s t : State} (h : Machine.execNak port expected s = .next t) : Keeps (touches (.nak port expected)) s t :=
    by
  have hl : ∀ p ∈ ([.fabric, .out, .regFab] : List Component), p ∈ touches (.nak port expected) := by
    simp only [touches]; decide
  simp only [Machine.execNak, Machine.ok] at h
  split at h <;> first | (injection h with h; subst h) | cases h
  repeat' first
    | with_reducible exact Keeps.refl _ _ | with_reducible assumption | ((with_reducible apply Component.sub hl); decide)
    | (with_reducible first | apply Keeps.ite | apply Keeps.nakEff) | intro _ | split

theorem Keeps.execReplayLimit {port} {s t : State} (h : Machine.execReplayLimit port s = .next t) : Keeps (touches (.replayLimit port)) s t := by
  have hl : ∀ p ∈ ([.retire, .log, .mover, .fabric, .host, .faults, .out, .regGlb, .regFab] : List Component), p ∈ touches (.replayLimit port) := by
    simp only [touches]; decide
  simp only [Machine.execReplayLimit, Machine.ok] at h
  split at h <;> first | (injection h with h; subst h) | cases h
  repeat' (with_reducible first | exact Keeps.refl _ _ | assumption | apply Keeps.replayLimitEff)

theorem Keeps.execLaneMap {port} {mask} {firstSeq} {s t : State} (h : Machine.execLaneMap port mask firstSeq s = .next t) : Keeps (touches (.laneMap
    port mask firstSeq)) s t := by
  have hl : ∀ p ∈ ([.mover, .fabric, .out, .regFab] : List Component), p ∈ touches (.laneMap port mask firstSeq) := by
    simp only [touches]; decide
  simp only [Machine.execLaneMap, Machine.ok] at h
  split at h <;> first | (injection h with h; subst h) | cases h
  repeat' first
    | with_reducible exact Keeps.refl _ _ | with_reducible assumption | ((with_reducible apply Component.sub hl); decide)
    | (with_reducible first | apply Keeps.ite | apply Keeps.laneMapEff) | intro _ | split

theorem Keeps.execTsReq {port} {t1} {t2} {s t : State} (h : Machine.execTsReq port t1 t2 s = .next t) : Keeps (touches (.tsReq port t1 t2)) s t :=
    by
  have hl : ∀ p ∈ ([.fabric, .out, .regFab] : List Component), p ∈ touches (.tsReq port t1 t2) := by
    simp only [touches]; decide
  simp only [Machine.execTsReq, Machine.ok] at h
  split at h <;> first | (injection h with h; subst h) | cases h
  repeat' first
    | with_reducible exact Keeps.refl _ _ | with_reducible assumption | ((with_reducible apply Component.sub hl); decide)
    | (with_reducible first | apply Keeps.ite | apply Keeps.tsReqEff) | intro _ | split

theorem Keeps.execTsRsp {port} {t1} {t2} {t3} {t4} {s t : State} (h : Machine.execTsRsp port t1 t2 t3 t4 s = .next t) : Keeps (touches (.tsRsp port
    t1 t2 t3 t4)) s t := by
  have hl : ∀ p ∈ ([.fabric, .out, .regFab] : List Component), p ∈ touches (.tsRsp port t1 t2 t3 t4) := by
    simp only [touches]; decide
  simp only [Machine.execTsRsp, Machine.ok] at h
  split at h <;> first | (injection h with h; subst h) | cases h
  repeat' first
    | with_reducible exact Keeps.refl _ _ | with_reducible assumption | ((with_reducible apply Component.sub hl); decide)
    | (with_reducible first | apply Keeps.ite | apply Keeps.tsRspEff) | intro _ | split

theorem Keeps.execTimeSync  {s t : State} (h : Machine.execTimeSync s = .next t) : Keeps (touches (.timeSync)) s t := by
  have hl : ∀ p ∈ ([.fabric, .out, .regFab] : List Component), p ∈ touches (.timeSync) := by
    simp only [touches]; decide
  simp only [Machine.execTimeSync, Machine.ok] at h
  split at h <;> first | (injection h with h; subst h) | cases h
  repeat' (with_reducible first | exact Keeps.refl _ _ | assumption | apply Keeps.timeSyncEff)

theorem Keeps.execWindow {port} {tree} {mode} {step} {base} {s t : State} (h : Machine.execWindow port tree mode step base s = .next t) : Keeps
    (touches (.window port tree mode step base)) s t := by
  have hl : ∀ p ∈ ([.fabric, .out, .regFab] : List Component), p ∈ touches (.window port tree mode step base) := by
    simp only [touches]; decide
  simp only [Machine.execWindow, Machine.ok] at h
  split at h <;> first | (injection h with h; subst h) | cases h
  repeat' first
    | with_reducible exact Keeps.refl _ _ | with_reducible assumption | ((with_reducible apply Component.sub hl); decide)
    | (with_reducible first | apply Keeps.ite | apply Keeps.windowEff) | intro _ | split

theorem Keeps.execAbortFlit {port} {tree} {origin} {step} {seg} {s t : State} (h : Machine.execAbortFlit port tree origin step seg s = .next t) :
    Keeps (touches (.abortFlit port tree origin step seg)) s t := by
  have hl : ∀ p ∈ ([.fabric, .host, .out, .regFab, .regUpd] : List Component), p ∈ touches (.abortFlit port tree origin step seg) := by
    simp only [touches]; decide
  simp only [Machine.execAbortFlit, Machine.ok] at h
  split at h <;> first | (injection h with h; subst h) | cases h
  repeat' first
    | with_reducible exact Keeps.refl _ _ | with_reducible assumption | ((with_reducible apply Component.sub hl); decide)
    | (with_reducible first | apply Keeps.ite | apply Keeps.abortFlitEff) | intro _ | split

theorem Keeps.execDepart {port} {moduleId} {s t : State} (h : Machine.execDepart port moduleId s = .next t) : Keeps (touches (.depart port
    moduleId)) s t := by
  have hl : ∀ p ∈ ([.fabric, .out, .regFab] : List Component), p ∈ touches (.depart port moduleId) := by
    simp only [touches]; decide
  simp only [Machine.execDepart, Machine.ok] at h
  split at h <;> first | (injection h with h; subst h) | cases h
  repeat' first
    | with_reducible exact Keeps.refl _ _ | with_reducible assumption | ((with_reducible apply Component.sub hl); decide)
    | (with_reducible first | apply Keeps.ite | apply Keeps.departEff) | intro _ | split

theorem Keeps.execCensus {port} {tree} {count} {s t : State} (h : Machine.execCensus port tree count s = .next t) : Keeps (touches (.census port
    tree count)) s t := by
  have hl : ∀ p ∈ ([.fabric, .out, .regFab] : List Component), p ∈ touches (.census port tree count) := by
    simp only [touches]; decide
  simp only [Machine.execCensus, Machine.ok] at h
  split at h <;> first | (injection h with h; subst h) | cases h
  repeat' first
    | with_reducible exact Keeps.refl _ _ | with_reducible assumption | ((with_reducible apply Component.sub hl); decide)
    | (with_reducible first | apply Keeps.ite | apply Keeps.censusEff) | intro _ | split

theorem Keeps.execMode {port} {tree} {flag} {step} {s t : State} (h : Machine.execMode port tree flag step s = .next t) : Keeps (touches (.mode port
    tree flag step)) s t := by
  have hl : ∀ p ∈ ([.fabric, .out, .regFab] : List Component), p ∈ touches (.mode port tree flag step) := by
    simp only [touches]; decide
  simp only [Machine.execMode, Machine.ok] at h
  split at h <;> first | (injection h with h; subst h) | cases h
  repeat' first
    | with_reducible exact Keeps.refl _ _ | with_reducible assumption | ((with_reducible apply Component.sub hl); decide)
    | (with_reducible first | apply Keeps.ite | apply Keeps.modeEff) | intro _ | split

theorem Keeps.execCreditInit {port} {pool} {escape} {s t : State} (h : Machine.execCreditInit port pool escape s = .next t) : Keeps (touches
    (.creditInit port pool escape)) s t := by
  have hl : ∀ p ∈ ([.fabric, .out, .regFab] : List Component), p ∈ touches (.creditInit port pool escape) := by
    simp only [touches]; decide
  simp only [Machine.execCreditInit, Machine.ok] at h
  split at h <;> first | (injection h with h; subst h) | cases h
  repeat' first
    | with_reducible exact Keeps.refl _ _ | with_reducible assumption | ((with_reducible apply Component.sub hl); decide)
    | (with_reducible first | apply Keeps.ite | apply Keeps.creditInitEff) | intro _ | split

theorem Keeps.execPeerAck {port} {result} {bytes} {s t : State} (h : Machine.execPeerAck port result bytes s = .next t) : Keeps (touches (.peerAck
    port result bytes)) s t := by
  have hl : ∀ p ∈ ([.fabric, .out, .regFab] : List Component), p ∈ touches (.peerAck port result bytes) := by
    simp only [touches]; decide
  simp only [Machine.execPeerAck, Machine.ok] at h
  split at h <;> first | (injection h with h; subst h) | cases h
  repeat' first
    | with_reducible exact Keeps.refl _ _ | with_reducible assumption | ((with_reducible apply Component.sub hl); decide)
    | (with_reducible first | apply Keeps.ite | apply Keeps.peerAckEff) | intro _ | split

theorem Keeps.execGrad {port} {pkt} {s t : State} (h : Machine.execGrad port pkt s = .next t) : Keeps (touches (.grad port pkt)) s t := by
  have hl : ∀ p ∈ ([.fabric, .out, .regFab] : List Component), p ∈ touches (.grad port pkt) := by
    simp only [touches]; decide
  simp only [Machine.execGrad, Machine.ok] at h
  split at h <;> first | (injection h with h; subst h) | cases h
  repeat' first
    | with_reducible exact Keeps.refl _ _ | with_reducible assumption | ((with_reducible apply Component.sub hl); decide)
    | (with_reducible first | apply Keeps.ite | apply Keeps.gradEff) | intro _ | split

theorem Keeps.execRacc {port} {pkt} {s t : State} (h : Machine.execRacc port pkt s = .next t) : Keeps (touches (.racc port pkt)) s t := by
  have hl : ∀ p ∈ ([.fabric, .out, .regFab] : List Component), p ∈ touches (.racc port pkt) := by
    simp only [touches]; decide
  simp only [Machine.execRacc, Machine.ok] at h
  split at h <;> first | (injection h with h; subst h) | cases h
  repeat' first
    | with_reducible exact Keeps.refl _ _ | with_reducible assumption | ((with_reducible apply Component.sub hl); decide)
    | (with_reducible first | apply Keeps.ite | apply Keeps.raccEff) | intro _ | split

theorem Keeps.execParam {port} {pkt} {s t : State} (h : Machine.execParam port pkt s = .next t) : Keeps (touches (.param port pkt)) s t := by
  have hl : ∀ p ∈ ([.retire, .log, .dram, .mover, .fabric, .host, .faults, .out, .regGlb, .regTier, .regFab, .regUpd] : List Component), p ∈ touches
      (.param port pkt) := by
    simp only [touches]; decide
  simp only [Machine.execParam, Machine.ok] at h
  split at h <;> first | (injection h with h; subst h) | cases h
  repeat' first
    | with_reducible exact Keeps.refl _ _ | with_reducible assumption | ((with_reducible apply Component.sub hl); decide)
    | (with_reducible first | apply Keeps.ite | apply Keeps.paramEff) | intro _ | split

theorem Keeps.execPeerWr {port} {pkt} {s t : State} (h : Machine.execPeerWr port pkt s = .next t) : Keeps (touches (.peerWr port pkt)) s t := by
  have hl : ∀ p ∈ ([.retire, .log, .dram, .mover, .fabric, .host, .faults, .out, .regGlb, .regTier, .regFab] : List Component), p ∈ touches (.peerWr
      port pkt) := by
    simp only [touches]; decide
  simp only [Machine.execPeerWr, Machine.ok] at h
  split at h <;> first | (injection h with h; subst h) | cases h
  repeat' first
    | with_reducible exact Keeps.refl _ _ | with_reducible assumption | ((with_reducible apply Component.sub hl); decide)
    | (with_reducible first | apply Keeps.ite | apply Keeps.peerWrEff) | intro _ | split

theorem Keeps.execLossOfLock {lane} {s t : State} (h : Machine.execLossOfLock lane s = .next t) : Keeps (touches (.lossOfLock lane)) s t := by
  have hl : ∀ p ∈ ([.retire, .log, .mover, .fabric, .host, .faults, .out, .regGlb, .regFab] : List Component), p ∈ touches (.lossOfLock lane) := by
    simp only [touches]; decide
  simp only [Machine.execLossOfLock, Machine.ok] at h
  split at h <;> first | (injection h with h; subst h) | cases h
  repeat' (with_reducible first | exact Keeps.refl _ _ | assumption | apply Keeps.laneFault)

theorem Keeps.execFecErrorLimit {lane} {codewords} {s t : State} (h : Machine.execFecErrorLimit lane codewords s = .next t) : Keeps (touches
    (.fecErrorLimit lane codewords)) s t := by
  have hl : ∀ p ∈ ([.retire, .log, .mover, .fabric, .host, .faults, .out, .regGlb, .regFab] : List Component), p ∈ touches (.fecErrorLimit lane codewords)
      := by
    simp only [touches]; decide
  simp only [Machine.execFecErrorLimit, Machine.ok] at h
  split at h <;> first | (injection h with h; subst h) | cases h
  repeat' (with_reducible first | exact Keeps.refl _ _ | assumption | apply Keeps.fecErrorEff)

theorem Keeps.execLaneRetrainDone {lane} {ok} {s t : State} (h : Machine.execLaneRetrainDone lane ok s = .next t) : Keeps (touches (.laneRetrainDone
    lane ok)) s t := by
  have hl : ∀ p ∈ ([.retire, .log, .mover, .fabric, .host, .faults, .out, .regGlb, .regFab] : List Component), p ∈ touches (.laneRetrainDone lane
      ok) := by
    simp only [touches]; decide
  simp only [Machine.execLaneRetrainDone, Machine.ok] at h
  split at h <;> first | (injection h with h; subst h) | cases h
  repeat' (with_reducible first | exact Keeps.refl _ _ | assumption | apply Keeps.retrainDoneEff)

theorem Keeps.execReductionDeadlineExpiry {tree} {seg} {s t : State} (h : Machine.execReductionDeadlineExpiry tree seg s = .next t) : Keeps (touches
    (.reductionDeadlineExpiry tree seg)) s t := by
  have hl : ∀ p ∈ ([.log, .fabric, .host, .out, .regGlb, .regFab, .regUpd] : List Component), p ∈ touches (.reductionDeadlineExpiry tree seg) := by
    simp only [touches]; decide
  simp only [Machine.execReductionDeadlineExpiry, Machine.ok] at h
  split at h <;> first | (injection h with h; subst h) | cases h
  repeat' (with_reducible first | exact Keeps.refl _ _ | assumption | apply Keeps.reductionExpiry)

theorem Keeps.execSegmentSum {tree} {seg} {residueBad} {s t : State} (h : Machine.execSegmentSum tree seg residueBad s = .next t) : Keeps (touches
    (.segmentSum tree seg residueBad)) s t := by
  have hl : ∀ p ∈ ([.retire, .log, .fabric, .host, .faults, .out, .regGlb, .regFab, .regUpd] : List Component), p ∈ touches (.segmentSum tree seg
      residueBad) := by
    simp only [touches]; decide
  simp only [Machine.execSegmentSum, Machine.ok] at h
  split at h <;> first | (injection h with h; subst h) | cases h
  repeat' (with_reducible first | exact Keeps.refl _ _ | assumption | apply Keeps.segmentSumEff)

theorem Keeps.execPost {tree} {count} {s t : State} (h : Machine.execPost tree count s = .next t) : Keeps (touches (.post tree count)) s t := by
  have hl : ∀ p ∈ ([.fabric, .regGlb, .regFab] : List Component), p ∈ touches (.post tree count) := by
    simp only [touches]; decide
  simp only [Machine.execPost, Machine.ok] at h
  split at h <;> first | (injection h with h; subst h) | cases h
  refine Keeps.busWriteVia (Keeps.refl _ _) ?_ (hl _ (by decide))
  rw [writeServed_treeReg]
  simp [Machine.writeTree]
  repeat' first
    | (with_reducible first | exact Keeps.refl _ _ | apply Keeps.ite | apply Keeps.accErr | apply Keeps.writePostCount | apply Keeps.store)
    | with_reducible apply Keeps.setBit
    | ((with_reducible apply Component.sub hl); first | decide | (simp (disch := decide); done) | (simp [regBlock, scnReg, srcReg, packageBase, LED_CTRL]; done))
    | intro _

theorem Keeps.execHostAbort {tree} {s t : State} (h : Machine.execHostAbort tree s = .next t) : Keeps (touches (.hostAbort tree)) s t := by
  have hl : ∀ p ∈ ([.fabric, .host, .out, .regGlb, .regFab, .regUpd] : List Component), p ∈ touches (.hostAbort tree) := by
    simp only [touches]; decide
  simp only [Machine.execHostAbort, Machine.ok] at h
  split at h <;> first | (injection h with h; subst h) | cases h
  unfold Machine.treeCmd
  refine Keeps.busWriteVia (Keeps.refl _ _) ?_ (hl _ (by decide))
  rw [writeServed_treeReg]
  simp [Machine.writeTree]
  repeat' first
    | (with_reducible first | exact Keeps.refl _ _ | apply Keeps.ite | apply Keeps.accErr | apply Keeps.writeTreeCtrl | apply Keeps.store)
    | with_reducible apply Keeps.setBit
    | ((with_reducible apply Component.sub hl); first | decide | (simp (disch := decide); done) | (simp [regBlock, scnReg, srcReg, packageBase, LED_CTRL]; done))
    | intro _

theorem Keeps.execResume {tree} {s t : State} (h : Machine.execResume tree s = .next t) : Keeps (touches (.resume tree)) s t := by
  have hl : ∀ p ∈ ([.fabric, .host, .out, .regGlb, .regFab, .regUpd] : List Component), p ∈ touches (.resume tree) := by
    simp only [touches]; decide
  simp only [Machine.execResume, Machine.ok] at h
  split at h <;> first | (injection h with h; subst h) | cases h
  unfold Machine.treeCmd
  refine Keeps.busWriteVia (Keeps.refl _ _) ?_ (hl _ (by decide))
  rw [writeServed_treeReg]
  simp [Machine.writeTree]
  repeat' first
    | (with_reducible first | exact Keeps.refl _ _ | apply Keeps.ite | apply Keeps.accErr | apply Keeps.writeTreeCtrl | apply Keeps.store)
    | with_reducible apply Keeps.setBit
    | ((with_reducible apply Component.sub hl); first | decide | (simp (disch := decide); done) | (simp [regBlock, scnReg, srcReg, packageBase, LED_CTRL]; done))
    | intro _

theorem Keeps.execHold {tree} {s t : State} (h : Machine.execHold tree s = .next t) : Keeps (touches (.hold tree)) s t := by
  have hl : ∀ p ∈ ([.fabric, .host, .out, .regGlb, .regFab, .regUpd] : List Component), p ∈ touches (.hold tree) := by
    simp only [touches]; decide
  simp only [Machine.execHold, Machine.ok] at h
  split at h <;> first | (injection h with h; subst h) | cases h
  unfold Machine.treeCmd
  refine Keeps.busWriteVia (Keeps.refl _ _) ?_ (hl _ (by decide))
  rw [writeServed_treeReg]
  simp [Machine.writeTree]
  repeat' first
    | (with_reducible first | exact Keeps.refl _ _ | apply Keeps.ite | apply Keeps.accErr | apply Keeps.writeTreeCtrl | apply Keeps.store)
    | with_reducible apply Keeps.setBit
    | ((with_reducible apply Component.sub hl); first | decide | (simp (disch := decide); done) | (simp [regBlock, scnReg, srcReg, packageBase, LED_CTRL]; done))
    | intro _

theorem Keeps.execRelease {tree} {s t : State} (h : Machine.execRelease tree s = .next t) : Keeps (touches (.release tree)) s t := by
  have hl : ∀ p ∈ ([.fabric, .host, .out, .regGlb, .regFab, .regUpd] : List Component), p ∈ touches (.release tree) := by
    simp only [touches]; decide
  simp only [Machine.execRelease, Machine.ok] at h
  split at h <;> first | (injection h with h; subst h) | cases h
  unfold Machine.treeCmd
  refine Keeps.busWriteVia (Keeps.refl _ _) ?_ (hl _ (by decide))
  rw [writeServed_treeReg]
  simp [Machine.writeTree]
  repeat' first
    | (with_reducible first | exact Keeps.refl _ _ | apply Keeps.ite | apply Keeps.accErr | apply Keeps.writeTreeCtrl | apply Keeps.store)
    | with_reducible apply Keeps.setBit
    | ((with_reducible apply Component.sub hl); first | decide | (simp (disch := decide); done) | (simp [regBlock, scnReg, srcReg, packageBase, LED_CTRL]; done))
    | intro _

theorem Keeps.execFabTimeSet {hi} {lo} {s t : State} (h : Machine.execFabTimeSet hi lo s = .next t) : Keeps (touches (.fabTimeSet hi lo)) s t := by
  have hl : ∀ p ∈ ([.fabric, .regGlb, .regFab] : List Component), p ∈ touches (.fabTimeSet hi lo) := by
    simp only [touches]; decide
  simp only [Machine.execFabTimeSet, Machine.ok] at h
  split at h <;> first | (injection h with h; subst h) | cases h
  have k : Keeps (touches (.fabTimeSet hi lo)) s (Machine.busWrite s (FAB_TIME_SET + 4) hi.toNat) := by
    refine Keeps.busWriteVia (Keeps.refl _ _) ?_ (hl _ (by decide))
    rw [writeServed_FAB_TIME_SET_HI]
    exact Keeps.writeTimeSet _ _ (Keeps.refl _ _) (Component.sub hl (by decide))
  refine Keeps.busWriteVia k ?_ (hl _ (by decide))
  rw [writeServed_FAB_TIME_SET]
  exact Keeps.writeTimeSet _ _ k (Component.sub hl (by decide))

theorem Keeps.execGo {port} {s t : State} (h : Machine.execGo port s = .next t) : Keeps (touches (.go port)) s t := by
  have hl : ∀ p ∈ ([.retire, .log, .dram, .mover, .fabric, .host, .faults, .out, .regGlb, .regTier, .regFab] : List Component), p ∈ touches (.go
      port) := by
    simp only [touches]; decide
  simp only [Machine.execGo, Machine.ok] at h
  split at h <;> first | (injection h with h; subst h) | cases h
  refine Keeps.busWriteVia (Keeps.refl _ _) ?_ (hl _ (by decide))
  rw [writeServed_FAB_PEER_CTRL]
  repeat' first
    | (with_reducible first | exact Keeps.refl _ _ | apply Keeps.ite | apply Keeps.accErr | apply Keeps.writePeerCtrl | apply Keeps.store)
    | with_reducible apply Keeps.setBit
    | ((with_reducible apply Component.sub hl); first | decide | (simp (disch := decide); done) | (simp [regBlock, scnReg, srcReg, packageBase, LED_CTRL]; done))

theorem Keeps.execLoad {slot} {s t : State} (h : Machine.execLoad slot s = .next t) : Keeps (touches (.load slot)) s t := by
  have hl : ∀ p ∈ ([.regGlb, .regUpd] : List Component), p ∈ touches (.load slot) := by
    simp only [touches]; decide
  simp only [Machine.execLoad, Machine.ok] at h
  split at h <;> first | (injection h with h; subst h) | cases h
  refine Keeps.busWriteVia (Keeps.refl _ _) ?_ (hl _ (by decide))
  rw [writeServed_UPD_PROG_CTRL]
  repeat' first
    | (with_reducible first | exact Keeps.refl _ _ | apply Keeps.ite | apply Keeps.accErr | apply Keeps.writeProgCtrl | apply Keeps.store)
    | with_reducible apply Keeps.setBit
    | ((with_reducible apply Component.sub hl); first | decide | (simp (disch := decide); done) | (simp [regBlock, scnReg, srcReg, packageBase, LED_CTRL]; done))

theorem Keeps.execUpdateSegment {tree} {seg} {s t : State} (h : Machine.execUpdateSegment tree seg s = .next t) : Keeps (touches (.updateSegment
    tree seg)) s t := by
  have hl : ∀ p ∈ ([.retire, .log, .dram, .mover, .fabric, .host, .faults, .out, .regGlb, .regTier, .regFab, .regUpd] : List Component), p ∈ touches
      (.updateSegment tree seg) := by
    simp only [touches]; decide
  simp only [Machine.execUpdateSegment, Machine.ok] at h
  split at h <;> first | (injection h with h; subst h) | cases h
  repeat' (with_reducible first | exact Keeps.refl _ _ | assumption | apply Keeps.updateSegmentEff)

theorem Keeps.execLrTagCommit {tree} {step} {s t : State} (h : Machine.execLrTagCommit tree step s = .next t) : Keeps (touches (.lrTagCommit tree
    step)) s t := by
  have hl : ∀ p ∈ ([.regGlb, .regUpd] : List Component), p ∈ touches (.lrTagCommit tree step) := by
    simp only [touches]; decide
  simp only [Machine.execLrTagCommit, Machine.ok] at h
  split at h <;> first | (injection h with h; subst h) | cases h
  refine Keeps.busWriteVia (Keeps.refl _ _) ?_ (hl _ (by decide))
  rw [writeServed_updReg]
  simp
  repeat' first
    | (with_reducible first | exact Keeps.refl _ _ | apply Keeps.ite | apply Keeps.accErr | apply Keeps.writeLrTag | apply Keeps.store)
    | with_reducible apply Keeps.setBit
    | ((with_reducible apply Component.sub hl); first | decide | (simp (disch := decide); done) | (simp [regBlock, scnReg, srcReg, packageBase, LED_CTRL]; done))

theorem Keeps.execLrWaitExpiry {tree} {s t : State} (h : Machine.execLrWaitExpiry tree s = .next t) : Keeps (touches (.lrWaitExpiry tree)) s t := by
  have hl : ∀ p ∈ ([.fabric, .host, .out, .regFab, .regUpd] : List Component), p ∈ touches (.lrWaitExpiry tree) := by
    simp only [touches]; decide
  simp only [Machine.execLrWaitExpiry, Machine.ok] at h
  split at h <;> first | (injection h with h; subst h) | cases h
  repeat' (with_reducible first | exact Keeps.refl _ _ | assumption | apply Keeps.lrWaitEff)

theorem Keeps.execUpdLogSel {index} {s t : State} (h : Machine.execUpdLogSel index s = .next t) : Keeps (touches (.updLogSel index)) s t := by
  have hl : ∀ p ∈ ([.regGlb, .regUpd] : List Component), p ∈ touches (.updLogSel index) := by
    simp only [touches]; decide
  simp only [Machine.execUpdLogSel, Machine.ok] at h
  split at h <;> first | (injection h with h; subst h) | cases h
  refine Keeps.busWriteVia (Keeps.refl _ _) ?_ (hl _ (by decide))
  rw [writeServed_UPD_LOG_SEL]
  repeat' first
    | (with_reducible first | exact Keeps.refl _ _ | apply Keeps.ite | apply Keeps.accErr | apply Keeps.writeUpdLogSel | apply Keeps.store)
    | with_reducible apply Keeps.setBit
    | ((with_reducible apply Component.sub hl); first | decide | (simp (disch := decide); done) | (simp [regBlock, scnReg, srcReg, packageBase, LED_CTRL]; done))

end Sys2Proof.Machine
end

