-- ==== Sys2Proof/Laws/KeepsCommandsRest.lean ====
section
/-! SUPPORT. What each command keeps where it answers a next state: the queue, what lasts, the canonical forms, and every part that the
command does not touch. The second half. -/
set_option linter.all false
namespace Sys2Proof.Machine

set_option Elab.async false

theorem Keeps.execWriteAdmission {package} {s t : State} (h : Machine.execWriteAdmission package s = .next t) : Keeps (touches (.writeAdmission
    package)) s t := by
  have hl : ∀ p ∈ ([.retire, .log, .packages, .dram, .mover, .host, .faults, .out, .regGlb, .regTier, .regFtl] : List Component), p ∈ touches
      (.writeAdmission package) := by
    simp only [touches]; decide
  simp only [Machine.execWriteAdmission, Machine.ok] at h
  split at h <;> first | (injection h with h; subst h) | cases h
  repeat' first | (with_reducible first | exact Keeps.refl _ _ | assumption | apply Keeps.ite | apply Keeps.resumeHeld) | intro _

theorem Keeps.execNandProgramDone {package} {lunit} {place} {ok} {s t : State} (h : Machine.execNandProgramDone package lunit place ok s = .next t)
    : Keeps (touches (.nandProgramDone package lunit place ok)) s t := by
  have hl : ∀ p ∈ ([.packages, .host, .out, .regHst, .regMed] : List Component), p ∈ touches (.nandProgramDone package lunit place ok) := by
    simp only [touches]; decide
  simp only [Machine.execNandProgramDone, Machine.ok] at h
  split at h <;> first | (injection h with h; subst h) | cases h
  repeat' (with_reducible first | exact Keeps.refl _ _ | assumption | apply Keeps.nandProgramEff)

theorem Keeps.execJournalCommit {package} {verified} {s t : State} (h : Machine.execJournalCommit package verified s = .next t) : Keeps (touches
    (.journalCommit package verified)) s t := by
  have hl : ∀ p ∈ ([.retire, .log, .life, .packages, .power, .dram, .mover, .host, .faults, .out, .regGlb, .regTier, .regFtl] : List Component), p ∈
      touches (.journalCommit package verified) := by
    simp only [touches]; decide
  simp only [Machine.execJournalCommit, Machine.ok] at h
  split at h <;> first | (injection h with h; subst h) | cases h
  repeat' (with_reducible first | exact Keeps.refl _ _ | assumption | apply Keeps.journalCommitEff)

theorem Keeps.execCastWrite {package} {s t : State} (h : Machine.execCastWrite package s = .next t) : Keeps (touches (.castWrite package)) s t := by
  have hl : ∀ p ∈ ([.packages, .regFtl] : List Component), p ∈ touches (.castWrite package) := by
    simp only [touches]; decide
  simp only [Machine.execCastWrite, Machine.ok] at h
  split at h <;> first | (injection h with h; subst h) | cases h
  repeat' (with_reducible first | exact Keeps.refl _ _ | assumption | apply Keeps.castWriteEff)

theorem Keeps.execGcBatch {package} {src} {places} {s t : State} (h : Machine.execGcBatch package src places s = .next t) : Keeps (touches (.gcBatch
    package src places)) s t := by
  have hl : ∀ p ∈ ([.packages, .regFtl, .regMed] : List Component), p ∈ touches (.gcBatch package src places) := by
    simp only [touches]; decide
  simp only [Machine.execGcBatch, Machine.ok] at h
  split at h <;> first | (injection h with h; subst h) | cases h
  repeat' first | (with_reducible first | exact Keeps.refl _ _ | assumption | apply Keeps.ite | apply Keeps.gcBatchEff) | intro _

theorem Keeps.execBlockErase {package} {group} {s t : State} (h : Machine.execBlockErase package group s = .next t) : Keeps (touches (.blockErase
    package group)) s t := by
  have hl : ∀ p ∈ ([.packages] : List Component), p ∈ touches (.blockErase package group) := by
    simp only [touches]; decide
  simp only [Machine.execBlockErase, Machine.ok] at h
  split at h <;> first | (injection h with h; subst h) | cases h
  repeat' (with_reducible first | exact Keeps.refl _ _ | assumption | apply Keeps.blockEraseEff)

theorem Keeps.execEraseDone {package} {blk} {ok} {s t : State} (h : Machine.execEraseDone package blk ok s = .next t) : Keeps (touches (.eraseDone
    package blk ok)) s t := by
  have hl : ∀ p ∈ ([.packages, .host, .out, .regHst, .regMed] : List Component), p ∈ touches (.eraseDone package blk ok) := by
    simp only [touches]; decide
  simp only [Machine.execEraseDone, Machine.ok] at h
  split at h <;> first | (injection h with h; subst h) | cases h
  repeat' first | (with_reducible first | exact Keeps.refl _ _ | assumption | apply Keeps.ite | apply Keeps.eraseDoneEff) | intro _

theorem Keeps.execEraseSuspend {package} {blk} {s t : State} (h : Machine.execEraseSuspend package blk s = .next t) : Keeps (touches (.eraseSuspend
    package blk)) s t := by
  have hl : ∀ p ∈ ([.packages, .regMed] : List Component), p ∈ touches (.eraseSuspend package blk) := by
    simp only [touches]; decide
  simp only [Machine.execEraseSuspend, Machine.ok] at h
  split at h <;> first | (injection h with h; subst h) | cases h
  repeat' first | (with_reducible first | exact Keeps.refl _ _ | assumption | apply Keeps.ite | apply Keeps.eraseSuspendEff) | intro _

theorem Keeps.execPowerFailure  {s t : State} (h : Machine.execPowerFailure s = .next t) : Keeps (touches (.powerFailure)) s t := by
  have hl : ∀ p ∈ ([.slots, .packages, .power, .time, .bus, .loader, .tiles, .store, .dram, .grf, .mover, .scan, .search, .fabric, .host, .ledger, .sec, .faults, .regGlb, .regLed, .regArm, .regGrf, .regTier, .regFab, .regUpd, .regHst, .regScn, .regSrc, .regFtl, .regMed, .regTil] : List
      Component), p ∈ touches (.powerFailure) := by
    simp only [touches]; decide
  simp only [Machine.execPowerFailure, Machine.ok] at h
  split at h <;> first | (injection h with h; subst h) | cases h
  repeat' (with_reducible first | exact Keeps.refl _ _ | assumption | apply Keeps.powerFailureEff)

theorem Keeps.execDirtyListWritten {package} {s t : State} (h : Machine.execDirtyListWritten package s = .next t) : Keeps (touches
    (.dirtyListWritten package)) s t := by
  have hl : ∀ p ∈ ([.packages] : List Component), p ∈ touches (.dirtyListWritten package) := by
    simp only [touches]; decide
  simp only [Machine.execDirtyListWritten, Machine.ok] at h
  split at h <;> first | (injection h with h; subst h) | cases h
  repeat' (with_reducible first | exact Keeps.refl _ _ | assumption | apply Keeps.dirtyListEff)

theorem Keeps.execHoldupFlushDone {package} {s t : State} (h : Machine.execHoldupFlushDone package s = .next t) : Keeps (touches (.holdupFlushDone
    package)) s t := by
  have hl : ∀ p ∈ ([.packages, .regFtl] : List Component), p ∈ touches (.holdupFlushDone package) := by
    simp only [touches]; decide
  simp only [Machine.execHoldupFlushDone, Machine.ok] at h
  split at h <;> first | (injection h with h; subst h) | cases h
  repeat' first
    | with_reducible exact Keeps.refl _ _ | with_reducible assumption | ((with_reducible apply Component.sub hl); decide)
    | (with_reducible first | apply Keeps.ite | apply Keeps.holdupDoneEff) | intro _ | split

theorem Keeps.execSealWritten {package} {s t : State} (h : Machine.execSealWritten package s = .next t) : Keeps (touches (.sealWritten package)) s t
    := by
  have hl : ∀ p ∈ ([.packages, .power, .time, .bus, .loader, .tiles, .store, .dram, .grf, .mover, .scan, .search, .fabric, .host, .ledger, .sec,
      .faults, .regGlb, .regLed, .regArm, .regGrf, .regTier, .regFab, .regUpd, .regHst, .regScn, .regSrc, .regFtl, .regMed, .regTil] : List
      Component), p ∈ touches (.sealWritten package) := by
    simp only [touches]; decide
  simp only [Machine.execSealWritten, Machine.ok] at h
  split at h <;> first | (injection h with h; subst h) | cases h
  repeat' (with_reducible first | exact Keeps.refl _ _ | assumption | apply Keeps.sealEff)

theorem Keeps.execJournalHeadsLocated {package} {s t : State} (h : Machine.execJournalHeadsLocated package s = .next t) : Keeps (touches
    (.journalHeadsLocated package)) s t := by
  have hl : ∀ p ∈ ([.packages, .dram, .search, .regTier, .regFtl] : List Component), p ∈ touches (.journalHeadsLocated package) := by
    simp only [touches]; decide
  simp only [Machine.execJournalHeadsLocated, Machine.ok] at h
  split at h <;> first | (injection h with h; subst h) | cases h
  repeat' (with_reducible first | exact Keeps.refl _ _ | assumption | apply Keeps.headsEff)

theorem Keeps.execCastsLoaded {package} {s t : State} (h : Machine.execCastsLoaded package s = .next t) : Keeps (touches (.castsLoaded package)) s t
    := by
  have hl : ∀ p ∈ ([.packages, .regMed] : List Component), p ∈ touches (.castsLoaded package) := by
    simp only [touches]; decide
  simp only [Machine.execCastsLoaded, Machine.ok] at h
  split at h <;> first | (injection h with h; subst h) | cases h
  repeat' (with_reducible first | exact Keeps.refl _ _ | assumption | apply Keeps.castsEff)

theorem Keeps.execJournalReplayed {package} {s t : State} (h : Machine.execJournalReplayed package s = .next t) : Keeps (touches (.journalReplayed
    package)) s t := by
  have hl : ∀ p ∈ ([.packages, .corpus, .regFtl] : List Component), p ∈ touches (.journalReplayed package) := by
    simp only [touches]; decide
  simp only [Machine.execJournalReplayed, Machine.ok] at h
  split at h <;> first | (injection h with h; subst h) | cases h
  repeat' (with_reducible first | exact Keeps.refl _ _ | assumption | apply Keeps.replayEff)

theorem Keeps.execDirtyListsReconciled {package} {s t : State} (h : Machine.execDirtyListsReconciled package s = .next t) : Keeps (touches
    (.dirtyListsReconciled package)) s t := by
  have hl : ∀ p ∈ ([.packages, .regFtl] : List Component), p ∈ touches (.dirtyListsReconciled package) := by
    simp only [touches]; decide
  simp only [Machine.execDirtyListsReconciled, Machine.ok] at h
  split at h <;> first | (injection h with h; subst h) | cases h
  repeat' (with_reducible first | exact Keeps.refl _ _ | assumption | apply Keeps.reconcileEff)

theorem Keeps.execValidCountsRebuilt {package} {s t : State} (h : Machine.execValidCountsRebuilt package s = .next t) : Keeps (touches
    (.validCountsRebuilt package)) s t := by
  have hl : ∀ p ∈ ([.packages, .regFtl] : List Component), p ∈ touches (.validCountsRebuilt package) := by
    simp only [touches]; decide
  simp only [Machine.execValidCountsRebuilt, Machine.ok] at h
  split at h <;> first | (injection h with h; subst h) | cases h
  repeat' (with_reducible first | exact Keeps.refl _ _ | assumption | apply Keeps.countsEff)

theorem Keeps.execPackageReady {package} {ms} {s t : State} (h : Machine.execPackageReady package ms s = .next t) : Keeps (touches (.packageReady
    package ms)) s t := by
  have hl : ∀ p ∈ ([.retire, .log, .packages, .dram, .mover, .host, .faults, .out, .regGlb, .regTier, .regScn, .regFtl] : List Component), p ∈
      touches (.packageReady package ms) := by
    simp only [touches]; decide
  simp only [Machine.execPackageReady, Machine.ok] at h
  split at h <;> first | (injection h with h; subst h) | cases h
  repeat' (with_reducible first | exact Keeps.refl _ _ | assumption | apply Keeps.readyEff)

theorem Keeps.execMapLineRebuild {package} {line} {castReadable} {s t : State} (h : Machine.execMapLineRebuild package line castReadable s = .next
    t) : Keeps (touches (.mapLineRebuild package line castReadable)) s t := by
  have hl : ∀ p ∈ ([.log, .packages, .host, .out, .regGlb, .regFtl] : List Component), p ∈ touches (.mapLineRebuild package line castReadable) := by
    simp only [touches]; decide
  simp only [Machine.execMapLineRebuild, Machine.ok] at h
  split at h <;> first | (injection h with h; subst h) | cases h
  repeat' (with_reducible first | exact Keeps.refl _ _ | assumption | apply Keeps.mapLineEff)

theorem Keeps.execWriteBufferFlush {package} {s t : State} (h : Machine.execWriteBufferFlush package s = .next t) : Keeps (touches
    (.writeBufferFlush package)) s t := by
  have hl : ∀ p ∈ ([.packages, .regGlb, .regFtl] : List Component), p ∈ touches (.writeBufferFlush package) := by
    simp only [touches]; decide
  simp only [Machine.execWriteBufferFlush, Machine.ok] at h
  split at h <;> first | (injection h with h; subst h) | cases h
  refine Keeps.busWriteVia (Keeps.refl _ _) ?_ (hl _ (by decide))
  rw [writeServed_ftlReg (hr := by decide)]
  simp [Machine.writePackage]
  repeat' first
    | (with_reducible first | exact Keeps.refl _ _ | apply Keeps.ite | apply Keeps.accErr | apply Keeps.writeFtlCtrl | apply Keeps.store)
    | with_reducible apply Keeps.setBit
    | ((with_reducible apply Component.sub hl); first | decide | (simp (disch := decide); done) | (simp [regBlock, scnReg, srcReg, packageBase, LED_CTRL]; done))

theorem Keeps.execCastNow {package} {s t : State} (h : Machine.execCastNow package s = .next t) : Keeps (touches (.castNow package)) s t := by
  have hl : ∀ p ∈ ([.packages, .regGlb, .regFtl] : List Component), p ∈ touches (.castNow package) := by
    simp only [touches]; decide
  simp only [Machine.execCastNow, Machine.ok] at h
  split at h <;> first | (injection h with h; subst h) | cases h
  refine Keeps.busWriteVia (Keeps.refl _ _) ?_ (hl _ (by decide))
  rw [writeServed_ftlReg (hr := by decide)]
  simp [Machine.writePackage]
  repeat' first
    | (with_reducible first | exact Keeps.refl _ _ | apply Keeps.ite | apply Keeps.accErr | apply Keeps.writeFtlCtrl | apply Keeps.store)
    | with_reducible apply Keeps.setBit
    | ((with_reducible apply Component.sub hl); first | decide | (simp (disch := decide); done) | (simp [regBlock, scnReg, srcReg, packageBase, LED_CTRL]; done))

theorem Keeps.execShutdownNotification {package} {s t : State} (h : Machine.execShutdownNotification package s = .next t) : Keeps (touches
    (.shutdownNotification package)) s t := by
  have hl : ∀ p ∈ ([.log, .life, .packages, .host, .faults, .regGlb, .regFtl] : List Component), p ∈ touches (.shutdownNotification package) := by
    simp only [touches]; decide
  simp only [Machine.execShutdownNotification, Machine.ok] at h
  split at h <;> first | (injection h with h; subst h) | cases h
  repeat' first | (with_reducible first | exact Keeps.refl _ _ | assumption | apply Keeps.ite | apply Keeps.shutdownEff) | intro _

theorem Keeps.execNandReadDone {package} {lunit} {stage} {s t : State} (h : Machine.execNandReadDone package lunit stage s = .next t) : Keeps
    (touches (.nandReadDone package lunit stage)) s t := by
  have hl : ∀ p ∈ ([.log, .packages, .mover, .host, .out, .regGlb, .regMed] : List Component), p ∈ touches (.nandReadDone package lunit stage) := by
    simp only [touches]; decide
  simp only [Machine.execNandReadDone, Machine.ok] at h
  split at h <;> first | (injection h with h; subst h) | cases h
  repeat' (with_reducible first | exact Keeps.refl _ _ | assumption | apply Keeps.nandReadEff)

theorem Keeps.execRetentionPatrol {package} {blk} {refresh} {s t : State} (h : Machine.execRetentionPatrol package blk refresh s = .next t) : Keeps
    (touches (.retentionPatrol package blk refresh)) s t := by
  have hl : ∀ p ∈ ([.packages, .regHst, .regMed] : List Component), p ∈ touches (.retentionPatrol package blk refresh) := by
    simp only [touches]; decide
  simp only [Machine.execRetentionPatrol, Machine.ok] at h
  split at h <;> first | (injection h with h; subst h) | cases h
  repeat' first | (with_reducible first | exact Keeps.refl _ _ | assumption | apply Keeps.ite | apply Keeps.patrolEff) | intro _

theorem Keeps.execRawRead {package} {key} {stage} {s t : State} (h : Machine.execRawRead package key stage s = .next t) : Keeps (touches (.rawRead
    package key stage)) s t := by
  have hl : ∀ p ∈ ([.retire, .log, .packages, .dram, .mover, .host, .faults, .out, .regGlb, .regTier, .regMed] : List Component), p ∈ touches
      (.rawRead package key stage) := by
    simp only [touches]; decide
  simp only [Machine.execRawRead, Machine.ok] at h
  split at h <;> first | (injection h with h; subst h) | cases h
  repeat' (with_reducible first | exact Keeps.refl _ _ | assumption | apply Keeps.rawWriteBus)

theorem Keeps.execReadNoecc {package} {key} {sensed} {s t : State} (h : Machine.execReadNoecc package key sensed s = .next t) : Keeps (touches
    (.readNoecc package key sensed)) s t := by
  have hl : ∀ p ∈ ([.retire, .log, .packages, .dram, .mover, .host, .faults, .out, .regGlb, .regTier, .regMed] : List Component), p ∈ touches
      (.readNoecc package key sensed) := by
    simp only [touches]; decide
  simp only [Machine.execReadNoecc, Machine.ok] at h
  split at h <;> first | (injection h with h; subst h) | cases h
  repeat' (with_reducible first | exact Keeps.refl _ _ | assumption | apply Keeps.rawWriteBus)

theorem Keeps.execMedBlkSel {package} {val} {s t : State} (h : Machine.execMedBlkSel package val s = .next t) : Keeps (touches (.medBlkSel package
    val)) s t := by
  have hl : ∀ p ∈ ([.regGlb, .regMed] : List Component), p ∈ touches (.medBlkSel package val) := by
    simp only [touches]; decide
  simp only [Machine.execMedBlkSel, Machine.ok] at h
  split at h <;> first | (injection h with h; subst h) | cases h
  refine Keeps.busWriteVia (Keeps.refl _ _) ?_ (hl _ (by decide))
  rw [writeServed_medReg]
  simp [Machine.writePackage, Machine.writeMed]
  repeat' first
    | (with_reducible first | exact Keeps.refl _ _ | apply Keeps.ite | apply Keeps.accErr | apply Keeps.writeBlkSel | apply Keeps.store)
    | with_reducible apply Keeps.setBit
    | ((with_reducible apply Component.sub hl); first | decide | (simp (disch := decide); done) | (simp [regBlock, scnReg, srcReg, packageBase, LED_CTRL]; done))

theorem Keeps.execDieBusyTimeout {package} {chan} {exhausted} {s t : State} (h : Machine.execDieBusyTimeout package chan exhausted s = .next t) :
    Keeps (touches (.dieBusyTimeout package chan exhausted)) s t := by
  have hl : ∀ p ∈ ([.retire, .log, .opt, .packages, .host, .faults, .out, .regGlb, .regHst, .regScn, .regFtl, .regMed] : List Component), p ∈
      touches (.dieBusyTimeout package chan exhausted) := by
    simp only [touches]; decide
  simp only [Machine.execDieBusyTimeout, Machine.ok] at h
  split at h <;> first | (injection h with h; subst h) | cases h
  repeat' (with_reducible first | exact Keeps.refl _ _ | assumption | apply Keeps.chanFault)

theorem Keeps.execChannelTransientFault {package} {chan} {cause} {exhausted} {s t : State} (h : Machine.execChannelTransientFault package chan cause
    exhausted s = .next t) : Keeps (touches (.channelTransientFault package chan cause exhausted)) s t := by
  have hl : ∀ p ∈ ([.retire, .log, .opt, .packages, .host, .faults, .out, .regGlb, .regHst, .regScn, .regFtl, .regMed] : List Component), p ∈
      touches (.channelTransientFault package chan cause exhausted) := by
    simp only [touches]; decide
  simp only [Machine.execChannelTransientFault, Machine.ok] at h
  split at h <;> first | (injection h with h; subst h) | cases h
  repeat' first | (with_reducible first | exact Keeps.refl _ _ | assumption | apply Keeps.ite | apply Keeps.chanFault) | intro _

theorem Keeps.execRebuildGroupDone {package} {s t : State} (h : Machine.execRebuildGroupDone package s = .next t) : Keeps (touches
    (.rebuildGroupDone package)) s t := by
  have hl : ∀ p ∈ ([.packages, .regScn, .regMed] : List Component), p ∈ touches (.rebuildGroupDone package) := by
    simp only [touches]; decide
  simp only [Machine.execRebuildGroupDone, Machine.ok] at h
  split at h <;> first | (injection h with h; subst h) | cases h
  repeat' (with_reducible first | exact Keeps.refl _ _ | assumption | apply Keeps.rebuildDoneEff)

theorem Keeps.execPerstAssert  {s t : State} (h : Machine.execPerstAssert s = .next t) : Keeps (touches (.perstAssert)) s t := by
  have hl : ∀ p ∈ ([.packages, .power, .bus, .loader, .tiles, .store, .dram, .grf, .mover, .scan, .search, .fabric, .host, .ledger, .sec, .regGlb,
      .regLed, .regArm, .regGrf, .regTier, .regFab, .regUpd, .regHst, .regScn, .regSrc, .regFtl, .regMed, .regTil] : List Component), p ∈ touches
      (.perstAssert) := by
    simp only [touches]; decide
  simp only [Machine.execPerstAssert, Machine.ok] at h
  split at h <;> first | (injection h with h; subst h) | cases h
  repeat' (with_reducible first | exact Keeps.refl _ _ | assumption | apply Keeps.perstAssertEff)

theorem Keeps.execPerstDeassert {strapLow} {s t : State} (h : Machine.execPerstDeassert strapLow s = .next t) : Keeps (touches (.perstDeassert
    strapLow)) s t := by
  have hl : ∀ p ∈ ([.power, .bus, .ledger, .sec, .regGlb, .regLed, .regArm, .regGrf, .regTier, .regFab, .regUpd, .regHst, .regScn, .regSrc, .regFtl,
      .regMed, .regTil] : List Component), p ∈ touches (.perstDeassert strapLow) := by
    simp only [touches]; decide
  simp only [Machine.execPerstDeassert, Machine.ok] at h
  split at h <;> first | (injection h with h; subst h) | cases h
  repeat' (with_reducible first | exact Keeps.refl _ _ | assumption | apply Keeps.perstDeassertEff)

theorem Keeps.execNvmSubsystemReset  {s t : State} (h : Machine.execNvmSubsystemReset s = .next t) : Keeps (touches (.nvmSubsystemReset)) s t := by
  have hl : ∀ p ∈ ([.packages, .power, .bus, .loader, .tiles, .store, .dram, .grf, .mover, .scan, .search, .fabric, .host, .ledger, .sec, .regGlb,
      .regLed, .regArm, .regGrf, .regTier, .regFab, .regUpd, .regHst, .regScn, .regSrc, .regFtl, .regMed, .regTil] : List Component), p ∈ touches
      (.nvmSubsystemReset) := by
    simp only [touches]; decide
  simp only [Machine.execNvmSubsystemReset, Machine.ok] at h
  split at h <;> first | (injection h with h; subst h) | cases h
  repeat' (with_reducible first | exact Keeps.refl _ _ | assumption | apply Keeps.subsystemReset)

theorem Keeps.execFlr  {s t : State} (h : Machine.execFlr s = .next t) : Keeps (touches (.flr)) s t := by
  have hl : ∀ p ∈ ([.retire, .log, .packages, .corpus, .dram, .grf, .mover, .scan, .search, .fabric, .host, .faults, .out, .regGlb, .regArm, .regGrf, .regTier, .regScn, .regSrc, .regFtl] : List Component), p ∈ touches (.flr) := by
    simp only [touches]; decide
  simp only [Machine.execFlr, Machine.ok] at h
  simp only [if_true] at h; injection h with h; subst h
  repeat' (with_reducible first | exact Keeps.refl _ _ | assumption | apply Keeps.controllerReset)

theorem Keeps.execHotReset  {s t : State} (h : Machine.execHotReset s = .next t) : Keeps (touches (.hotReset)) s t := by
  have hl : ∀ p ∈ ([.retire, .log, .packages, .corpus, .dram, .grf, .mover, .scan, .search, .fabric, .host, .faults, .out, .regGlb, .regArm, .regGrf, .regTier, .regScn, .regSrc, .regFtl] : List Component), p ∈ touches (.hotReset) := by
    simp only [touches]; decide
  simp only [Machine.execHotReset, Machine.ok] at h
  simp only [if_true] at h; injection h with h; subst h
  repeat' (with_reducible first | exact Keeps.refl _ _ | assumption | apply Keeps.controllerReset)

theorem Keeps.execDlDown  {s t : State} (h : Machine.execDlDown s = .next t) : Keeps (touches (.dlDown)) s t := by
  have hl : ∀ p ∈ ([.retire, .log, .packages, .corpus, .dram, .grf, .mover, .scan, .search, .fabric, .host, .faults, .out, .regGlb, .regArm, .regGrf, .regTier, .regHst, .regScn, .regSrc, .regFtl] : List Component), p ∈ touches (.dlDown) := by
    simp only [touches]; decide
  simp only [Machine.execDlDown, Machine.ok] at h
  simp only [if_true] at h; injection h with h; subst h
  repeat' first
    | with_reducible exact Keeps.refl _ _ | ((with_reducible apply Component.sub hl); decide)
    | (with_reducible first | apply Keeps.setFld | apply Keeps.bump | apply Keeps.controllerReset)
    | (with_reducible refine Keeps.lit ?_ (hgrf := .inl (hl _ (by decide))) (hmover := .inl (hl _ (by decide))) (hscan := .inl (hl _ (by decide))) (hsearch := .inl (hl _ (by decide))) (hfabric := .inl (hl _ (by decide))) (hhost := .inl (hl _ (by decide))) (hfaults := .inl (hl _ (by decide))) (hout := .inl (hl _ (by decide))))

theorem Keeps.execLinkRetrain  {s t : State} (h : Machine.execLinkRetrain s = .next t) : Keeps (touches (.linkRetrain)) s t := by
  have hl : ∀ p ∈ ([.host, .regHst] : List Component), p ∈ touches (.linkRetrain) := by
    simp only [touches]; decide
  simp only [Machine.execLinkRetrain, Machine.ok] at h
  simp only [if_true] at h; injection h with h; subst h
  repeat' first
    | with_reducible exact Keeps.refl _ _ | ((with_reducible apply Component.sub hl); decide)
    | (with_reducible first | apply Keeps.bump | refine Keeps.litHost ?_  (hl _ (by decide)))

theorem Keeps.execControllerDisable  {s t : State} (h : Machine.execControllerDisable s = .next t) : Keeps (touches (.controllerDisable)) s t := by
  have hl : ∀ p ∈ ([.retire, .log, .packages, .corpus, .dram, .grf, .mover, .scan, .search, .fabric, .host, .faults, .out, .regGlb, .regArm, .regGrf, .regTier, .regScn, .regSrc, .regFtl] : List Component), p ∈ touches (.controllerDisable) := by
    simp only [touches]; decide
  simp only [Machine.execControllerDisable, Machine.ok] at h
  simp only [if_true] at h; injection h with h; subst h
  repeat' (with_reducible first | exact Keeps.refl _ _ | assumption | apply Keeps.disableEff)

theorem Keeps.execControllerEnable {crime} {s t : State} (h : Machine.execControllerEnable crime s = .next t) : Keeps (touches (.controllerEnable
    crime)) s t := by
  have hl : ∀ p ∈ ([.host] : List Component), p ∈ touches (.controllerEnable crime) := by
    simp only [touches]; decide
  simp only [Machine.execControllerEnable, Machine.ok] at h
  simp only [if_true] at h; injection h with h; subst h
  repeat' (with_reducible first | exact Keeps.refl _ _ | assumption | apply Keeps.enableEff)

theorem Keeps.execPoisonedTlp {tag} {s t : State} (h : Machine.execPoisonedTlp tag s = .next t) : Keeps (touches (.poisonedTlp tag)) s t := by
  have hl : ∀ p ∈ ([.host, .out, .regHst] : List Component), p ∈ touches (.poisonedTlp tag) := by
    simp only [touches]; decide
  simp only [Machine.execPoisonedTlp, Machine.ok] at h
  split at h <;> first | (injection h with h; subst h) | cases h
  repeat' (with_reducible first | exact Keeps.refl _ _ | assumption | apply Keeps.transferFails)

theorem Keeps.execCompletionTimeout {tag} {s t : State} (h : Machine.execCompletionTimeout tag s = .next t) : Keeps (touches (.completionTimeout
    tag)) s t := by
  have hl : ∀ p ∈ ([.host, .out, .regHst] : List Component), p ∈ touches (.completionTimeout tag) := by
    simp only [touches]; decide
  simp only [Machine.execCompletionTimeout, Machine.ok] at h
  split at h <;> first | (injection h with h; subst h) | cases h
  repeat' (with_reducible first | exact Keeps.refl _ _ | assumption | apply Keeps.transferFails)

theorem Keeps.execSqTailDoorbell {sq} {tail} {s t : State} (h : Machine.execSqTailDoorbell sq tail s = .next t) : Keeps (touches (.sqTailDoorbell sq
    tail)) s t := by
  have hl : ∀ p ∈ ([.host, .out] : List Component), p ∈ touches (.sqTailDoorbell sq tail) := by
    simp only [touches]; decide
  simp only [Machine.execSqTailDoorbell, Machine.ok] at h
  split at h <;> first | (injection h with h; subst h) | cases h
  repeat' (with_reducible first | exact Keeps.refl _ _ | assumption | apply Keeps.sqTailEff)

theorem Keeps.execCqHeadDoorbell {cq} {head} {s t : State} (h : Machine.execCqHeadDoorbell cq head s = .next t) : Keeps (touches (.cqHeadDoorbell cq
    head)) s t := by
  have hl : ∀ p ∈ ([.grf, .host, .out, .regGrf] : List Component), p ∈ touches (.cqHeadDoorbell cq head) := by
    simp only [touches]; decide
  simp only [Machine.execCqHeadDoorbell, Machine.ok] at h
  split at h <;> first | (injection h with h; subst h) | cases h
  repeat' (with_reducible first | exact Keeps.refl _ _ | assumption | apply Keeps.cqHeadEff)

theorem Keeps.execCommandFetch {tag} {opcode} {nsid} {first} {count} {s t : State} (h : Machine.execCommandFetch tag opcode nsid first count s =
    .next t) : Keeps (touches (.commandFetch tag opcode nsid first count)) s t := by
  have hl : ∀ p ∈ ([.host, .out] : List Component), p ∈ touches (.commandFetch tag opcode nsid first count) := by
    simp only [touches]; decide
  simp only [Machine.execCommandFetch, Machine.ok] at h
  split at h <;> first | (injection h with h; subst h) | cases h
  repeat' (with_reducible first | exact Keeps.refl _ _ | assumption | apply Keeps.fetchEff)

theorem Keeps.execIdentify {tag} {cns} {nsid} {s t : State} (h : Machine.execIdentify tag cns nsid s = .next t) : Keeps (touches (.identify tag cns
    nsid)) s t := by
  have hl : ∀ p ∈ ([.host, .out] : List Component), p ∈ touches (.identify tag cns nsid) := by
    simp only [touches]; decide
  simp only [Machine.execIdentify, Machine.ok] at h
  split at h <;> first | (injection h with h; subst h) | cases h
  repeat' (with_reducible first | exact Keeps.refl _ _ | assumption | apply Keeps.identifyCmd)

theorem Keeps.execGetFeatures {tag} {fid} {s t : State} (h : Machine.execGetFeatures tag fid s = .next t) : Keeps (touches (.getFeatures tag fid)) s
    t := by
  have hl : ∀ p ∈ ([.host, .out] : List Component), p ∈ touches (.getFeatures tag fid) := by
    simp only [touches]; decide
  simp only [Machine.execGetFeatures, Machine.ok] at h
  split at h <;> first | (injection h with h; subst h) | cases h
  repeat' (with_reducible first | exact Keeps.refl _ _ | assumption | apply Keeps.adminCmd | apply Keeps.getFeatureCmd)

theorem Keeps.execSetFeatures {tag} {fid} {dw11} {apst} {s t : State} (h : Machine.execSetFeatures tag fid dw11 apst s = .next t) : Keeps (touches
    (.setFeatures tag fid dw11 apst)) s t := by
  have hl : ∀ p ∈ ([.host, .out, .regHst] : List Component), p ∈ touches (.setFeatures tag fid dw11 apst) := by
    simp only [touches]; decide
  simp only [Machine.execSetFeatures, Machine.ok] at h
  split at h <;> first | (injection h with h; subst h) | cases h
  repeat' first
    | (with_reducible first | exact Keeps.refl _ _ | assumption) | ((with_reducible apply Component.sub hl); decide)
    | (with_reducible first | apply Keeps.adminCmd | apply Keeps.setFeatureCmd)

theorem Keeps.execGetLogPage {tag} {lid} {lsp} {nsid} {s t : State} (h : Machine.execGetLogPage tag lid lsp nsid s = .next t) : Keeps (touches
    (.getLogPage tag lid lsp nsid)) s t := by
  have hl : ∀ p ∈ ([.log, .host, .out, .regFtl] : List Component), p ∈ touches (.getLogPage tag lid lsp nsid) := by
    simp only [touches]; decide
  simp only [Machine.execGetLogPage, Machine.ok] at h
  split at h <;> first | (injection h with h; subst h) | cases h
  repeat' (with_reducible first | exact Keeps.refl _ _ | assumption | apply Keeps.logPageCmd)

theorem Keeps.execCreateIoSubmissionQueue {tag} {qid} {size} {cqid} {s t : State} (h : Machine.execCreateIoSubmissionQueue tag qid size cqid s =
    .next t) : Keeps (touches (.createIoSubmissionQueue tag qid size cqid)) s t := by
  have hl : ∀ p ∈ ([.host, .out] : List Component), p ∈ touches (.createIoSubmissionQueue tag qid size cqid) := by
    simp only [touches]; decide
  simp only [Machine.execCreateIoSubmissionQueue, Machine.ok] at h
  split at h <;> first | (injection h with h; subst h) | cases h
  repeat' (with_reducible first | exact Keeps.refl _ _ | assumption | apply Keeps.adminCmd | apply Keeps.createSq)

theorem Keeps.execCreateIoCompletionQueue {tag} {qid} {size} {vector} {s t : State} (h : Machine.execCreateIoCompletionQueue tag qid size vector s =
    .next t) : Keeps (touches (.createIoCompletionQueue tag qid size vector)) s t := by
  have hl : ∀ p ∈ ([.host, .out] : List Component), p ∈ touches (.createIoCompletionQueue tag qid size vector) := by
    simp only [touches]; decide
  simp only [Machine.execCreateIoCompletionQueue, Machine.ok] at h
  split at h <;> first | (injection h with h; subst h) | cases h
  repeat' (with_reducible first | exact Keeps.refl _ _ | assumption | apply Keeps.adminCmd | apply Keeps.createCq)

theorem Keeps.execDeleteIoSubmissionQueue {tag} {qid} {s t : State} (h : Machine.execDeleteIoSubmissionQueue tag qid s = .next t) : Keeps (touches
    (.deleteIoSubmissionQueue tag qid)) s t := by
  have hl : ∀ p ∈ ([.host, .out] : List Component), p ∈ touches (.deleteIoSubmissionQueue tag qid) := by
    simp only [touches]; decide
  simp only [Machine.execDeleteIoSubmissionQueue, Machine.ok] at h
  split at h <;> first | (injection h with h; subst h) | cases h
  repeat' (with_reducible first | exact Keeps.refl _ _ | assumption | apply Keeps.adminCmd | apply Keeps.deleteSq)

theorem Keeps.execDeleteIoCompletionQueue {tag} {qid} {s t : State} (h : Machine.execDeleteIoCompletionQueue tag qid s = .next t) : Keeps (touches
    (.deleteIoCompletionQueue tag qid)) s t := by
  have hl : ∀ p ∈ ([.host, .out] : List Component), p ∈ touches (.deleteIoCompletionQueue tag qid) := by
    simp only [touches]; decide
  simp only [Machine.execDeleteIoCompletionQueue, Machine.ok] at h
  split at h <;> first | (injection h with h; subst h) | cases h
  repeat' (with_reducible first | exact Keeps.refl _ _ | assumption | apply Keeps.adminCmd | apply Keeps.deleteCq)

theorem Keeps.execAbort {tag} {target} {s t : State} (h : Machine.execAbort tag target s = .next t) : Keeps (touches (.abort tag target)) s t := by
  have hl : ∀ p ∈ ([.retire, .log, .packages, .tiles, .dram, .grf, .mover, .scan, .fabric, .host, .faults, .out, .regGlb, .regArm, .regGrf,
      .regTier, .regFab, .regFtl, .regTil] : List Component), p ∈ touches (.abort tag target) := by
    simp only [touches]; decide
  simp only [Machine.execAbort, Machine.ok] at h
  split at h <;> first | (injection h with h; subst h) | cases h
  repeat' first
    | (with_reducible first | exact Keeps.refl _ _ | assumption) | ((with_reducible apply Component.sub hl); decide)
    | (with_reducible first | apply Keeps.adminCmd | apply Keeps.abortCmd)

theorem Keeps.execAsynchronousEventRequest {tag} {s t : State} (h : Machine.execAsynchronousEventRequest tag s = .next t) : Keeps (touches
    (.asynchronousEventRequest tag)) s t := by
  have hl : ∀ p ∈ ([.host, .out] : List Component), p ∈ touches (.asynchronousEventRequest tag) := by
    simp only [touches]; decide
  simp only [Machine.execAsynchronousEventRequest, Machine.ok] at h
  split at h <;> first | (injection h with h; subst h) | cases h
  repeat' (with_reducible first | exact Keeps.refl _ _ | assumption | apply Keeps.adminCmd | apply Keeps.aerCmd)

theorem Keeps.execFirmwareImageDownload {tag} {offset} {data} {s t : State} (h : Machine.execFirmwareImageDownload tag offset data s = .next t) :
    Keeps (touches (.firmwareImageDownload tag offset data)) s t := by
  have hl : ∀ p ∈ ([.host, .out] : List Component), p ∈ touches (.firmwareImageDownload tag offset data) := by
    simp only [touches]; decide
  simp only [Machine.execFirmwareImageDownload, Machine.ok] at h
  split at h <;> first | (injection h with h; subst h) | cases h
  repeat' (with_reducible first | exact Keeps.refl _ _ | assumption | apply Keeps.fwDownload)

theorem Keeps.execFirmwareCommit {tag} {slot} {action} {s t : State} (h : Machine.execFirmwareCommit tag slot action s = .next t) : Keeps (touches
    (.firmwareCommit tag slot action)) s t := by
  have hl : ∀ p ∈ ([.firmware, .power, .host, .out, .regGlb] : List Component), p ∈ touches (.firmwareCommit tag slot action) := by
    simp only [touches]; decide
  simp only [Machine.execFirmwareCommit, Machine.ok] at h
  split at h <;> first | (injection h with h; subst h) | cases h
  repeat' (with_reducible first | exact Keeps.refl _ _ | assumption | apply Keeps.fwCommit)

theorem Keeps.execFormatNvm {tag} {nsid} {ses} {s t : State} (h : Machine.execFormatNvm tag nsid ses s = .next t) : Keeps (touches (.formatNvm tag
    nsid ses)) s t := by
  have hl : ∀ p ∈ ([.packages, .host, .out, .regFtl] : List Component), p ∈ touches (.formatNvm tag nsid ses) := by
    simp only [touches]; decide
  simp only [Machine.execFormatNvm, Machine.ok] at h
  split at h <;> first | (injection h with h; subst h) | cases h
  repeat' first
    | (with_reducible first | exact Keeps.refl _ _ | assumption) | ((with_reducible apply Component.sub hl); decide)
    | (with_reducible first | apply Keeps.formatCommand | apply Keeps.adminCmd)

theorem Keeps.execDeviceSelfTest {tag} {stc} {s t : State} (h : Machine.execDeviceSelfTest tag stc s = .next t) : Keeps (touches (.deviceSelfTest
    tag stc)) s t := by
  have hl : ∀ p ∈ ([.host, .out] : List Component), p ∈ touches (.deviceSelfTest tag stc) := by
    simp only [touches]; decide
  simp only [Machine.execDeviceSelfTest, Machine.ok] at h
  split at h <;> first | (injection h with h; subst h) | cases h
  repeat' (with_reducible first | exact Keeps.refl _ _ | assumption | apply Keeps.adminCmd | apply Keeps.selfTestCmd)

theorem Keeps.execRead {tag} {nsid} {slba} {nlb} {s t : State} (h : Machine.execRead tag nsid slba nlb s = .next t) : Keeps (touches (.read tag nsid
    slba nlb)) s t := by
  have hl : ∀ p ∈ ([.retire, .log, .packages, .dram, .mover, .host, .faults, .out, .regGlb, .regTier, .regFtl] : List Component), p ∈ touches (.read
      tag nsid slba nlb) := by
    simp only [touches]; decide
  simp only [Machine.execRead, Machine.ok] at h
  split at h <;> first | (injection h with h; subst h) | cases h
  repeat' (with_reducible first | exact Keeps.refl _ _ | assumption | apply Keeps.readCmd)

theorem Keeps.execWrite {tag} {nsid} {slba} {data} {s t : State} (h : Machine.execWrite tag nsid slba data s = .next t) : Keeps (touches (.write tag
    nsid slba data)) s t := by
  have hl : ∀ p ∈ ([.retire, .log, .packages, .dram, .mover, .host, .faults, .out, .regGlb, .regTier, .regFtl] : List Component), p ∈ touches
      (.write tag nsid slba data) := by
    simp only [touches]; decide
  simp only [Machine.execWrite, Machine.ok] at h
  split at h <;> first | (injection h with h; subst h) | cases h
  repeat' (with_reducible first | exact Keeps.refl _ _ | assumption | apply Keeps.writeCmd)

theorem Keeps.execFlush {tag} {nsid} {s t : State} (h : Machine.execFlush tag nsid s = .next t) : Keeps (touches (.flush tag nsid)) s t := by
  have hl : ∀ p ∈ ([.host, .out] : List Component), p ∈ touches (.flush tag nsid) := by
    simp only [touches]; decide
  simp only [Machine.execFlush, Machine.ok] at h
  split at h <;> first | (injection h with h; subst h) | cases h
  repeat' (with_reducible first | exact Keeps.refl _ _ | assumption | apply Keeps.flushCommand)

theorem Keeps.execWriteZeroes {tag} {nsid} {slba} {nlb} {deallocate} {s t : State} (h : Machine.execWriteZeroes tag nsid slba nlb deallocate s =
    .next t) : Keeps (touches (.writeZeroes tag nsid slba nlb deallocate)) s t := by
  have hl : ∀ p ∈ ([.retire, .log, .packages, .dram, .mover, .host, .faults, .out, .regGlb, .regTier, .regFtl] : List Component), p ∈ touches
      (.writeZeroes tag nsid slba nlb deallocate) := by
    simp only [touches]; decide
  simp only [Machine.execWriteZeroes, Machine.ok] at h
  split at h <;> first | (injection h with h; subst h) | cases h
  repeat' (with_reducible first | exact Keeps.refl _ _ | assumption | apply Keeps.zeroesCmd)

theorem Keeps.execDatasetManagement {tag} {nsid} {ranges} {s t : State} (h : Machine.execDatasetManagement tag nsid ranges s = .next t) : Keeps
    (touches (.datasetManagement tag nsid ranges)) s t := by
  have hl : ∀ p ∈ ([.retire, .log, .packages, .dram, .mover, .host, .faults, .out, .regGlb, .regTier, .regFtl] : List Component), p ∈ touches
      (.datasetManagement tag nsid ranges) := by
    simp only [touches]; decide
  simp only [Machine.execDatasetManagement, Machine.ok] at h
  split at h <;> first | (injection h with h; subst h) | cases h
  repeat' (with_reducible first | exact Keeps.refl _ _ | assumption | apply Keeps.dsmCmd)

theorem Keeps.execMemoryRead {tag} {addr} {len} {s t : State} (h : Machine.execMemoryRead tag addr len s = .next t) : Keeps (touches (.memoryRead
    tag addr len)) s t := by
  have hl : ∀ p ∈ ([.retire, .log, .dram, .mover, .host, .faults, .out, .regGlb, .regTier] : List Component), p ∈ touches (.memoryRead tag addr len)
      := by
    simp only [touches]; decide
  simp only [Machine.execMemoryRead, Machine.ok] at h
  split at h <;> first | (injection h with h; subst h) | cases h
  repeat' (with_reducible first | exact Keeps.refl _ _ | assumption | apply Keeps.memReadCmd)

theorem Keeps.execMemoryWrite {tag} {addr} {data} {s t : State} (h : Machine.execMemoryWrite tag addr data s = .next t) : Keeps (touches
    (.memoryWrite tag addr data)) s t := by
  have hl : ∀ p ∈ ([.retire, .log, .dram, .mover, .host, .faults, .out, .regGlb, .regTier] : List Component), p ∈ touches (.memoryWrite tag addr
      data) := by
    simp only [touches]; decide
  simp only [Machine.execMemoryWrite, Machine.ok] at h
  split at h <;> first | (injection h with h; subst h) | cases h
  repeat' (with_reducible first | exact Keeps.refl _ _ | assumption | apply Keeps.memWriteCmd)

theorem Keeps.execMemoryCopy {tag} {nsid} {ranges} {dst} {s t : State} (h : Machine.execMemoryCopy tag nsid ranges dst s = .next t) : Keeps (touches
    (.memoryCopy tag nsid ranges dst)) s t := by
  have hl : ∀ p ∈ ([.retire, .log, .packages, .dram, .mover, .host, .faults, .out, .regGlb, .regTier, .regFtl] : List Component), p ∈ touches
      (.memoryCopy tag nsid ranges dst) := by
    simp only [touches]; decide
  simp only [Machine.execMemoryCopy, Machine.ok] at h
  split at h <;> first | (injection h with h; subst h) | cases h
  repeat' (with_reducible first | exact Keeps.refl _ _ | assumption | apply Keeps.memCopyCmd)

theorem Keeps.execApstIdleTimerExpiry {target} {s t : State} (h : Machine.execApstIdleTimerExpiry target s = .next t) : Keeps (touches
    (.apstIdleTimerExpiry target)) s t := by
  have hl : ∀ p ∈ ([.host, .regHst] : List Component), p ∈ touches (.apstIdleTimerExpiry target) := by
    simp only [touches]; decide
  simp only [Machine.execApstIdleTimerExpiry, Machine.ok] at h
  split at h <;> first | (injection h with h; subst h) | cases h
  repeat' (with_reducible first | exact Keeps.refl _ _ | assumption | apply Keeps.apstEff)

theorem Keeps.execPowerStateEntryDone  {s t : State} (h : Machine.execPowerStateEntryDone s = .next t) : Keeps (touches (.powerStateEntryDone)) s t
    := by
  have hl : ∀ p ∈ ([.host, .regHst] : List Component), p ∈ touches (.powerStateEntryDone) := by
    simp only [touches]; decide
  simp only [Machine.execPowerStateEntryDone, Machine.ok] at h
  simp only [if_true] at h; injection h with h; subst h
  repeat' (with_reducible first | exact Keeps.refl _ _ | assumption | apply Keeps.psEntered)

theorem Keeps.execPowerStateExitDone  {s t : State} (h : Machine.execPowerStateExitDone s = .next t) : Keeps (touches (.powerStateExitDone)) s t :=
    by
  have hl : ∀ p ∈ ([.retire, .log, .packages, .dram, .mover, .host, .faults, .out, .regGlb, .regTier, .regHst, .regFtl] : List Component), p ∈
      touches (.powerStateExitDone) := by
    simp only [touches]; decide
  simp only [Machine.execPowerStateExitDone, Machine.ok] at h
  simp only [if_true] at h; injection h with h; subst h
  repeat' (with_reducible first | exact Keeps.refl _ _ | assumption | apply Keeps.psExited)

theorem Keeps.execReadNvmeMiDataStructure {dtyp} {s t : State} (h : Machine.execReadNvmeMiDataStructure dtyp s = .next t) : Keeps (touches
    (.readNvmeMiDataStructure dtyp)) s t := by
  have hl : ∀ p ∈ ([.out] : List Component), p ∈ touches (.readNvmeMiDataStructure dtyp) := by
    simp only [touches]; decide
  simp only [Machine.execReadNvmeMiDataStructure, Machine.ok] at h
  split at h <;> first | (injection h with h; subst h) | cases h
  repeat' (with_reducible first | exact Keeps.refl _ _ | assumption | apply Keeps.miCommand | apply Keeps.miStructure)

theorem Keeps.execNvmSubsystemHealthStatusPoll {clear} {s t : State} (h : Machine.execNvmSubsystemHealthStatusPoll clear s = .next t) : Keeps
    (touches (.nvmSubsystemHealthStatusPoll clear)) s t := by
  have hl : ∀ p ∈ ([.host, .out, .regHst] : List Component), p ∈ touches (.nvmSubsystemHealthStatusPoll clear) := by
    simp only [touches]; decide
  simp only [Machine.execNvmSubsystemHealthStatusPoll, Machine.ok] at h
  split at h <;> first | (injection h with h; subst h) | cases h
  repeat' (with_reducible first | exact Keeps.refl _ _ | assumption | apply Keeps.subsystemPoll)

theorem Keeps.execControllerHealthStatusPoll {clear} {s t : State} (h : Machine.execControllerHealthStatusPoll clear s = .next t) : Keeps (touches
    (.controllerHealthStatusPoll clear)) s t := by
  have hl : ∀ p ∈ ([.host, .out, .regHst] : List Component), p ∈ touches (.controllerHealthStatusPoll clear) := by
    simp only [touches]; decide
  simp only [Machine.execControllerHealthStatusPoll, Machine.ok] at h
  split at h <;> first | (injection h with h; subst h) | cases h
  repeat' (with_reducible first | exact Keeps.refl _ _ | assumption | apply Keeps.controllerPoll)

theorem Keeps.execConfigurationGet {item} {s t : State} (h : Machine.execConfigurationGet item s = .next t) : Keeps (touches (.configurationGet
    item)) s t := by
  have hl : ∀ p ∈ ([.out] : List Component), p ∈ touches (.configurationGet item) := by
    simp only [touches]; decide
  simp only [Machine.execConfigurationGet, Machine.ok] at h
  split at h <;> first | (injection h with h; subst h) | cases h
  repeat' (with_reducible first | exact Keeps.refl _ _ | assumption | apply Keeps.miCommand | apply Keeps.configGet)

theorem Keeps.execConfigurationSet {item} {value} {s t : State} (h : Machine.execConfigurationSet item value s = .next t) : Keeps (touches
    (.configurationSet item value)) s t := by
  have hl : ∀ p ∈ ([.host, .out, .regHst] : List Component), p ∈ touches (.configurationSet item value) := by
    simp only [touches]; decide
  simp only [Machine.execConfigurationSet, Machine.ok] at h
  split at h <;> first | (injection h with h; subst h) | cases h
  repeat' (with_reducible first | exact Keeps.refl _ _ | assumption | apply Keeps.miCommand | apply Keeps.configSet)

theorem Keeps.execVpdRead {offset} {len} {s t : State} (h : Machine.execVpdRead offset len s = .next t) : Keeps (touches (.vpdRead offset len)) s t
    := by
  have hl : ∀ p ∈ ([.out] : List Component), p ∈ touches (.vpdRead offset len) := by
    simp only [touches]; decide
  simp only [Machine.execVpdRead, Machine.ok] at h
  split at h <;> first | (injection h with h; subst h) | cases h
  repeat' (with_reducible first | exact Keeps.refl _ _ | assumption | apply Keeps.miAnswer | apply Keeps.miCommand)

theorem Keeps.execReset  {s t : State} (h : Machine.execReset s = .next t) : Keeps (touches (.reset)) s t := by
  have hl : ∀ p ∈ ([.packages, .power, .bus, .loader, .tiles, .store, .dram, .grf, .mover, .scan, .search, .fabric, .host, .ledger, .sec, .out,
      .regGlb, .regLed, .regArm, .regGrf, .regTier, .regFab, .regUpd, .regHst, .regScn, .regSrc, .regFtl, .regMed, .regTil] : List Component), p ∈
      touches (.reset) := by
    simp only [touches]; decide
  simp only [Machine.execReset, Machine.ok] at h
  split at h <;> first | (injection h with h; subst h) | cases h
  repeat' first
    | with_reducible exact Keeps.refl _ _ | ((with_reducible apply Component.sub hl); decide)
    | (with_reducible first | apply Keeps.subsystemReset | apply Keeps.miAnswer | apply Keeps.miCommand)

theorem Keeps.execGetVersion {via} {s t : State} (h : Machine.execGetVersion via s = .next t) : Keeps (touches (.getVersion via)) s t := by
  have hl : ∀ p ∈ ([.sec, .out] : List Component), p ∈ touches (.getVersion via) := by
    simp only [touches]; decide
  simp only [Machine.execGetVersion, Machine.ok] at h
  split at h <;> first | (injection h with h; subst h) | cases h
  repeat' first
    | with_reducible exact Keeps.refl _ _ | ((with_reducible apply Component.sub hl); decide)
    | (with_reducible first | apply Keeps.setSpdm | apply Keeps.spdmAnswer | apply Keeps.spdmRequest)

theorem Keeps.execGetCapabilities {via} {s t : State} (h : Machine.execGetCapabilities via s = .next t) : Keeps (touches (.getCapabilities via)) s t
    := by
  have hl : ∀ p ∈ ([.sec, .out] : List Component), p ∈ touches (.getCapabilities via) := by
    simp only [touches]; decide
  simp only [Machine.execGetCapabilities, Machine.ok] at h
  split at h <;> first | (injection h with h; subst h) | cases h
  repeat' first
    | with_reducible exact Keeps.refl _ _ | ((with_reducible apply Component.sub hl); decide)
    | (with_reducible first | apply Keeps.setSpdm | apply Keeps.spdmAnswer | apply Keeps.spdmStage)

theorem Keeps.execNegotiateAlgorithms {via} {asym} {hash} {s t : State} (h : Machine.execNegotiateAlgorithms via asym hash s = .next t) : Keeps
    (touches (.negotiateAlgorithms via asym hash)) s t := by
  have hl : ∀ p ∈ ([.sec, .out] : List Component), p ∈ touches (.negotiateAlgorithms via asym hash) := by
    simp only [touches]; decide
  simp only [Machine.execNegotiateAlgorithms, Machine.ok] at h
  split at h <;> first | (injection h with h; subst h) | cases h
  repeat' first
    | with_reducible exact Keeps.refl _ _ | ((with_reducible apply Component.sub hl); decide)
    | (with_reducible first | apply Keeps.setSpdm | apply Keeps.spdmAnswer | apply Keeps.spdmStage)

theorem Keeps.execGetDigests {via} {s t : State} (h : Machine.execGetDigests via s = .next t) : Keeps (touches (.getDigests via)) s t := by
  have hl : ∀ p ∈ ([.out] : List Component), p ∈ touches (.getDigests via) := by
    simp only [touches]; decide
  simp only [Machine.execGetDigests, Machine.ok] at h
  split at h <;> first | (injection h with h; subst h) | cases h
  repeat' (with_reducible first | exact Keeps.refl _ _ | assumption | apply Keeps.spdmAnswer | apply Keeps.spdmStage)

theorem Keeps.execGetCertificate {via} {slot} {offset} {len} {s t : State} (h : Machine.execGetCertificate via slot offset len s = .next t) : Keeps
    (touches (.getCertificate via slot offset len)) s t := by
  have hl : ∀ p ∈ ([.out] : List Component), p ∈ touches (.getCertificate via slot offset len) := by
    simp only [touches]; decide
  simp only [Machine.execGetCertificate, Machine.ok] at h
  split at h <;> first | (injection h with h; subst h) | cases h
  repeat' (with_reducible first | exact Keeps.refl _ _ | assumption | apply Keeps.spdmStage | apply Keeps.certificate)

theorem Keeps.execChallenge {via} {nonce} {s t : State} (h : Machine.execChallenge via nonce s = .next t) : Keeps (touches (.challenge via nonce)) s
    t := by
  have hl : ∀ p ∈ ([.out] : List Component), p ∈ touches (.challenge via nonce) := by
    simp only [touches]; decide
  simp only [Machine.execChallenge, Machine.ok] at h
  split at h <;> first | (injection h with h; subst h) | cases h
  repeat' (with_reducible first | exact Keeps.refl _ _ | assumption | apply Keeps.spdmStage | apply Keeps.signedAnswer)

theorem Keeps.execGetMeasurements {via} {index} {nonce} {s t : State} (h : Machine.execGetMeasurements via index nonce s = .next t) : Keeps (touches
    (.getMeasurements via index nonce)) s t := by
  have hl : ∀ p ∈ ([.out] : List Component), p ∈ touches (.getMeasurements via index nonce) := by
    simp only [touches]; decide
  simp only [Machine.execGetMeasurements, Machine.ok] at h
  split at h <;> first | (injection h with h; subst h) | cases h
  repeat' (with_reducible first | exact Keeps.refl _ _ | assumption | apply Keeps.spdmStage | apply Keeps.measurements)

theorem Keeps.execUnsupportedRequest {via} {code} {s t : State} (h : Machine.execUnsupportedRequest via code s = .next t) : Keeps (touches
    (.unsupportedRequest via code)) s t := by
  have hl : ∀ p ∈ ([.out] : List Component), p ∈ touches (.unsupportedRequest via code) := by
    simp only [touches]; decide
  simp only [Machine.execUnsupportedRequest, Machine.ok] at h
  split at h <;> first | (injection h with h; subst h) | cases h
  repeat' (with_reducible first | exact Keeps.refl _ _ | assumption | apply Keeps.spdmError | apply Keeps.spdmRequest)

theorem Keeps.execLedgerSample {r} {s t : State} (h : Machine.execLedgerSample r s = .next t) : Keeps (touches (.ledgerSample r)) s t := by
  have hl : ∀ p ∈ ([.slots, .log, .packages, .power, .time, .bus, .loader, .tiles, .store, .dram, .grf, .mover, .scan, .search, .fabric, .host, .ledger, .sec, .faults, .regGlb, .regLed, .regArm, .regGrf, .regTier, .regFab, .regUpd, .regHst, .regScn, .regSrc, .regFtl, .regMed, .regTil] : List
      Component), p ∈ touches (.ledgerSample r) := by
    simp only [touches]; decide
  simp only [Machine.execLedgerSample, Machine.ok] at h
  split at h <;> first | (injection h with h; subst h) | cases h
  repeat' (with_reducible first | exact Keeps.refl _ _ | assumption | apply Keeps.sampleEff)

theorem Keeps.execInputComparatorTrip  {s t : State} (h : Machine.execInputComparatorTrip s = .next t) : Keeps (touches (.inputComparatorTrip)) s t
    := by
  have hl : ∀ p ∈ ([.ledger, .regLed] : List Component), p ∈ touches (.inputComparatorTrip) := by
    simp only [touches]; decide
  simp only [Machine.execInputComparatorTrip, Machine.ok] at h
  split at h <;> first | (injection h with h; subst h) | cases h
  repeat' (with_reducible first | exact Keeps.refl _ _ | assumption | apply Keeps.comparatorEff)

theorem Keeps.execComparatorHoldEnd  {s t : State} (h : Machine.execComparatorHoldEnd s = .next t) : Keeps (touches (.comparatorHoldEnd)) s t := by
  have hl : ∀ p ∈ ([.ledger] : List Component), p ∈ touches (.comparatorHoldEnd) := by
    simp only [touches]; decide
  simp only [Machine.execComparatorHoldEnd, Machine.ok] at h
  split at h <;> first | (injection h with h; subst h) | cases h
  repeat' (with_reducible first | exact Keeps.refl _ _ | refine Keeps.litLedger ?_  (hl _ (by decide)))

theorem Keeps.execHuNow  {s t : State} (h : Machine.execHuNow s = .next t) : Keeps (touches (.huNow)) s t := by
  have hl : ∀ p ∈ ([.ledger, .regGlb, .regLed, .regFtl] : List Component), p ∈ touches (.huNow) := by
    simp only [touches]; decide
  simp only [Machine.execHuNow, Machine.ok] at h
  split at h <;> first | (injection h with h; subst h) | cases h
  refine Keeps.busWriteVia (Keeps.refl _ _) ?_ (hl _ (by decide))
  rw [writeServed_LED_CTRL]
  repeat' first
    | (with_reducible first | exact Keeps.refl _ _ | apply Keeps.ite | apply Keeps.accErr | apply Keeps.beginMeasure | apply Keeps.store)
    | with_reducible apply Keeps.setBit
    | ((with_reducible apply Component.sub hl); first | decide | (simp (disch := decide); done) | (simp [regBlock, scnReg, srcReg, packageBase, LED_CTRL]; done))
    | intro _

theorem Keeps.execHuPeriodExpiry  {s t : State} (h : Machine.execHuPeriodExpiry s = .next t) : Keeps (touches (.huPeriodExpiry)) s t := by
  have hl : ∀ p ∈ ([.ledger, .regLed, .regFtl] : List Component), p ∈ touches (.huPeriodExpiry) := by
    simp only [touches]; decide
  simp only [Machine.execHuPeriodExpiry, Machine.ok] at h
  split at h <;> first | (injection h with h; subst h) | cases h
  repeat' (with_reducible first | exact Keeps.refl _ _ | assumption | apply Keeps.beginMeasure)

theorem Keeps.execHuLoadApplied {esrMohm} {s t : State} (h : Machine.execHuLoadApplied esrMohm s = .next t) : Keeps (touches (.huLoadApplied
    esrMohm)) s t := by
  have hl : ∀ p ∈ ([.ledger, .regLed] : List Component), p ∈ touches (.huLoadApplied esrMohm) := by
    simp only [touches]; decide
  simp only [Machine.execHuLoadApplied, Machine.ok] at h
  split at h <;> first | (injection h with h; subst h) | cases h
  repeat' (with_reducible first | exact Keeps.refl _ _ | assumption | apply Keeps.loadEff)

theorem Keeps.execHuFallTimed {fallUs} {s t : State} (h : Machine.execHuFallTimed fallUs s = .next t) : Keeps (touches (.huFallTimed fallUs)) s t :=
    by
  have hl : ∀ p ∈ ([.ledger, .regLed] : List Component), p ∈ touches (.huFallTimed fallUs) := by
    simp only [touches]; decide
  simp only [Machine.execHuFallTimed, Machine.ok] at h
  split at h <;> first | (injection h with h; subst h) | cases h
  repeat' (with_reducible first | exact Keeps.refl _ _ | assumption | apply Keeps.fallEff)

theorem Keeps.execHuRecharged {ok} {s t : State} (h : Machine.execHuRecharged ok s = .next t) : Keeps (touches (.huRecharged ok)) s t := by
  have hl : ∀ p ∈ ([.retire, .log, .packages, .dram, .mover, .host, .ledger, .faults, .out, .regGlb, .regLed, .regTier, .regHst, .regFtl] : List
      Component), p ∈ touches (.huRecharged ok) := by
    simp only [touches]; decide
  simp only [Machine.execHuRecharged, Machine.ok] at h
  split at h <;> first | (injection h with h; subst h) | cases h
  repeat' (with_reducible first | exact Keeps.refl _ _ | assumption | apply Keeps.measureEnds)

theorem Keeps.execHuRetryTimer  {s t : State} (h : Machine.execHuRetryTimer s = .next t) : Keeps (touches (.huRetryTimer)) s t := by
  have hl : ∀ p ∈ ([.ledger, .regLed, .regFtl] : List Component), p ∈ touches (.huRetryTimer) := by
    simp only [touches]; decide
  simp only [Machine.execHuRetryTimer, Machine.ok] at h
  split at h <;> first | (injection h with h; subst h) | cases h
  repeat' first | (with_reducible first | exact Keeps.refl _ _ | assumption | apply Keeps.ite | apply Keeps.beginMeasure) | intro _

theorem Keeps.execInputRise  {s t : State} (h : Machine.execInputRise s = .next t) : Keeps (touches (.inputRise)) s t := by
  have hl : ∀ p ∈ ([.power, .time, .bus, .loader, .tiles, .store, .dram, .grf, .mover, .scan, .search, .fabric, .host, .ledger, .sec, .faults,
      .regGlb, .regLed, .regArm, .regGrf, .regTier, .regFab, .regUpd, .regHst, .regScn, .regSrc, .regFtl, .regMed, .regTil] : List Component), p ∈
      touches (.inputRise) := by
    simp only [touches]; decide
  simp only [Machine.execInputRise, Machine.ok] at h
  split at h <;> first | (injection h with h; subst h) | cases h
  repeat' (with_reducible first | exact Keeps.refl _ _ | assumption | apply Keeps.inputRiseEff)

theorem Keeps.execStandbyRegulated  {s t : State} (h : Machine.execStandbyRegulated s = .next t) : Keeps (touches (.standbyRegulated)) s t := by
  have hl : ∀ p ∈ ([.power, .time, .faults, .regArm] : List Component), p ∈ touches (.standbyRegulated) := by
    simp only [touches]; decide
  simp only [Machine.execStandbyRegulated, Machine.ok] at h
  split at h <;> first | (injection h with h; subst h) | cases h
  repeat' (with_reducible first | exact Keeps.refl _ _ | assumption | apply Keeps.regulatedEff)

theorem Keeps.execOtpRead {strapLow} {s t : State} (h : Machine.execOtpRead strapLow s = .next t) : Keeps (touches (.otpRead strapLow)) s t := by
  have hl : ∀ p ∈ ([.power, .regGlb, .regArm] : List Component), p ∈ touches (.otpRead strapLow) := by
    simp only [touches]; decide
  simp only [Machine.execOtpRead, Machine.ok] at h
  split at h <;> first | (injection h with h; subst h) | cases h
  repeat' (with_reducible first | exact Keeps.refl _ _ | assumption | apply Keeps.otpEff)

theorem Keeps.execOptionAreaLoaded {selectorOk} {s t : State} (h : Machine.execOptionAreaLoaded selectorOk s = .next t) : Keeps (touches
    (.optionAreaLoaded selectorOk)) s t := by
  have hl : ∀ p ∈ ([.slots, .power, .ledger, .sec, .faults, .regGlb, .regLed, .regArm, .regTier, .regFab, .regUpd, .regHst, .regScn, .regFtl,
      .regMed] : List Component), p ∈ touches (.optionAreaLoaded selectorOk) := by
    simp only [touches]; decide
  simp only [Machine.execOptionAreaLoaded, Machine.ok] at h
  split at h <;> first | (injection h with h; subst h) | cases h
  repeat' first
    | with_reducible exact Keeps.refl _ _ | with_reducible assumption | ((with_reducible apply Component.sub hl); decide)
    | (with_reducible first | apply Keeps.ite | apply Keeps.optionEff) | intro _ | split

theorem Keeps.execIdentityChecked {copyMatches} {s t : State} (h : Machine.execIdentityChecked copyMatches s = .next t) : Keeps (touches
    (.identityChecked copyMatches)) s t := by
  have hl : ∀ p ∈ ([.power, .regGlb] : List Component), p ∈ touches (.identityChecked copyMatches) := by
    simp only [touches]; decide
  simp only [Machine.execIdentityChecked, Machine.ok] at h
  split at h <;> first | (injection h with h; subst h) | cases h
  repeat' (with_reducible first | exact Keeps.refl _ _ | assumption | apply Keeps.identityEff)

theorem Keeps.execFirmwareVerified  {s t : State} (h : Machine.execFirmwareVerified s = .next t) : Keeps (touches (.firmwareVerified)) s t := by
  have hl : ∀ p ∈ ([.firmware, .log, .power, .regGlb] : List Component), p ∈ touches (.firmwareVerified) := by
    simp only [touches]; decide
  simp only [Machine.execFirmwareVerified, Machine.ok] at h
  split at h <;> first | (injection h with h; subst h) | cases h
  repeat' (with_reducible first | exact Keeps.refl _ _ | assumption | apply Keeps.verifiedEff)

theorem Keeps.execFirmwareRunning  {s t : State} (h : Machine.execFirmwareRunning s = .next t) : Keeps (touches (.firmwareRunning)) s t := by
  have hl : ∀ p ∈ ([.life, .power, .regGlb] : List Component), p ∈ touches (.firmwareRunning) := by
    simp only [touches]; decide
  simp only [Machine.execFirmwareRunning, Machine.ok] at h
  split at h <;> first | (injection h with h; subst h) | cases h
  repeat' (with_reducible first | exact Keeps.refl _ _ | assumption | apply Keeps.fwRunningEff)

theorem Keeps.execLinkDetect  {s t : State} (h : Machine.execLinkDetect s = .next t) : Keeps (touches (.linkDetect)) s t := by
  have hl : ∀ p ∈ ([.power] : List Component), p ∈ touches (.linkDetect) := by
    simp only [touches]; decide
  simp only [Machine.execLinkDetect, Machine.ok] at h
  split at h <;> first | (injection h with h; subst h) | cases h
  repeat' first
    | (with_reducible first | exact Keeps.refl _ _ | apply Keeps.ite) | intro _ | with_reducible refine Keeps.litPower ?_  (hl _ (by decide))

theorem Keeps.execConfigurationReady  {s t : State} (h : Machine.execConfigurationReady s = .next t) : Keeps (touches (.configurationReady)) s t :=
    by
  have hl : ∀ p ∈ ([.power] : List Component), p ∈ touches (.configurationReady) := by
    simp only [touches]; decide
  simp only [Machine.execConfigurationReady, Machine.ok] at h
  split at h <;> first | (injection h with h; subst h) | cases h
  repeat' first
    | (with_reducible first | exact Keeps.refl _ _ | apply Keeps.ite) | intro _ | with_reducible refine Keeps.litPower ?_  (hl _ (by decide))

theorem Keeps.execCoreRailsUp  {s t : State} (h : Machine.execCoreRailsUp s = .next t) : Keeps (touches (.coreRailsUp)) s t := by
  have hl : ∀ p ∈ ([.power, .fabric, .out, .regLed, .regFab] : List Component), p ∈ touches (.coreRailsUp) := by
    simp only [touches]; decide
  simp only [Machine.execCoreRailsUp, Machine.ok] at h
  split at h <;> first | (injection h with h; subst h) | cases h
  repeat' (with_reducible first | exact Keeps.refl _ _ | assumption | apply Keeps.railsEff)

theorem Keeps.execStacksTrained  {s t : State} (h : Machine.execStacksTrained s = .next t) : Keeps (touches (.stacksTrained)) s t := by
  have hl : ∀ p ∈ ([.power, .dram, .regTier] : List Component), p ∈ touches (.stacksTrained) := by
    simp only [touches]; decide
  simp only [Machine.execStacksTrained, Machine.ok] at h
  split at h <;> first | (injection h with h; subst h) | cases h
  repeat' (with_reducible first | exact Keeps.refl _ _ | assumption | apply Keeps.stacksEff)

theorem Keeps.execTileSelfTestDone {failed} {s t : State} (h : Machine.execTileSelfTestDone failed s = .next t) : Keeps (touches (.tileSelfTestDone
    failed)) s t := by
  have hl : ∀ p ∈ ([.retire, .log, .packages, .power, .tiles, .store, .dram, .grf, .mover, .scan, .fabric, .host, .faults, .out, .regGlb, .regArm, .regGrf, .regTier, .regFab, .regSrc, .regFtl, .regTil] : List Component), p ∈ touches (.tileSelfTestDone failed) := by
    simp only [touches]; decide
  simp only [Machine.execTileSelfTestDone, Machine.ok] at h
  split at h <;> first | (injection h with h; subst h) | cases h
  repeat' (with_reducible first | exact Keeps.refl _ _ | assumption | apply Keeps.selfTestEff)

theorem Keeps.execArmatureSelected {maquetteOk} {s t : State} (h : Machine.execArmatureSelected maquetteOk s = .next t) : Keeps (touches
    (.armatureSelected maquetteOk)) s t := by
  have hl : ∀ p ∈ ([.slots, .power, .loader, .regArm] : List Component), p ∈ touches (.armatureSelected maquetteOk) := by
    simp only [touches]; decide
  simp only [Machine.execArmatureSelected, Machine.ok] at h
  split at h <;> first | (injection h with h; subst h) | cases h
  repeat' (with_reducible first | exact Keeps.refl _ _ | assumption | apply Keeps.selectEff)

theorem Keeps.execCoreRebindDone {hwFault} {againFault} {s t : State} (h : Machine.execCoreRebindDone hwFault againFault s = .next t) : Keeps
    (touches (.coreRebindDone hwFault againFault)) s t := by
  have hl : ∀ p ∈ ([.firmware, .retire, .log, .packages, .power, .loader, .tiles, .store, .dram, .grf, .mover, .search, .fabric, .host, .ledger, .sec, .faults, .out, .regGlb, .regLed, .regArm, .regTier, .regFab, .regUpd, .regHst, .regSrc, .regFtl, .regMed, .regTil] : List Component), p ∈ touches
      (.coreRebindDone hwFault againFault) := by
    simp only [touches]; decide
  simp only [Machine.execCoreRebindDone, Machine.ok] at h
  split at h <;> first | (injection h with h; subst h) | cases h
  repeat' (with_reducible first | exact Keeps.refl _ _ | assumption | apply Keeps.coreRebindEff)

theorem Keeps.execBootWatchdogExpiry  {s t : State} (h : Machine.execBootWatchdogExpiry s = .next t) : Keeps (touches (.bootWatchdogExpiry)) s t :=
    by
  have hl : ∀ p ∈ ([.firmware, .log, .packages, .power, .bus, .loader, .tiles, .store, .dram, .grf, .mover, .scan, .search, .fabric, .host, .ledger,
      .sec, .regGlb, .regLed, .regArm, .regGrf, .regTier, .regFab, .regUpd, .regHst, .regScn, .regSrc, .regFtl, .regMed, .regTil] : List Component),
      p ∈ touches (.bootWatchdogExpiry) := by
    simp only [touches]; decide
  simp only [Machine.execBootWatchdogExpiry, Machine.ok] at h
  split at h <;> first | (injection h with h; subst h) | cases h
  repeat' (with_reducible first | exact Keeps.refl _ _ | assumption | apply Keeps.watchdogBootEff)

theorem Keeps.execRecoveryRestart  {s t : State} (h : Machine.execRecoveryRestart s = .next t) : Keeps (touches (.recoveryRestart)) s t := by
  have hl : ∀ p ∈ ([.packages, .power, .bus, .loader, .tiles, .store, .dram, .grf, .mover, .scan, .search, .fabric, .host, .ledger, .sec, .regGlb,
      .regLed, .regArm, .regGrf, .regTier, .regFab, .regUpd, .regHst, .regScn, .regSrc, .regFtl, .regMed, .regTil] : List Component), p ∈ touches
      (.recoveryRestart) := by
    simp only [touches]; decide
  simp only [Machine.execRecoveryRestart, Machine.ok] at h
  split at h <;> first | (injection h with h; subst h) | cases h
  repeat' first
    | (with_reducible first | exact Keeps.refl _ _ | assumption) | ((with_reducible apply Component.sub hl); decide)
    | (with_reducible first | apply Keeps.ite | apply Keeps.startCore | apply Keeps.stopCore | apply Keeps.leaveRecovery) | intro _

theorem Keeps.execInstall  {s t : State} (h : Machine.execInstall s = .next t) : Keeps (touches (.install)) s t := by
  have hl : ∀ p ∈ ([.owner, .retire, .log, .dram, .mover, .host, .faults, .out, .regGlb, .regTier] : List Component), p ∈ touches (.install) := by
    simp only [touches]; decide
  simp only [Machine.execInstall, Machine.ok] at h
  split at h <;> first | (injection h with h; subst h) | cases h
  refine Keeps.busWriteVia (Keeps.refl _ _) ?_ (hl _ (by decide))
  rw [writeServed_GLB_OWN_CTRL]
  repeat' first
    | (with_reducible first | exact Keeps.refl _ _ | apply Keeps.ite | apply Keeps.accErr | apply Keeps.writeOwnCtrl | apply Keeps.store)
    | with_reducible apply Keeps.setBit
    | ((with_reducible apply Component.sub hl); first | decide | (simp (disch := decide); done) | (simp [regBlock, scnReg, srcReg, packageBase, LED_CTRL]; done))

theorem Keeps.execGlbIdsel {index} {s t : State} (h : Machine.execGlbIdsel index s = .next t) : Keeps (touches (.glbIdsel index)) s t := by
  have hl : ∀ p ∈ ([.regGlb] : List Component), p ∈ touches (.glbIdsel index) := by
    simp only [touches]; decide
  simp only [Machine.execGlbIdsel, Machine.ok] at h
  split at h <;> first | (injection h with h; subst h) | cases h
  refine Keeps.busWriteVia (Keeps.refl _ _) ?_ (hl _ (by decide))
  rw [writeServed_GLB_IDSEL]
  repeat' first
    | (with_reducible first | exact Keeps.refl _ _ | apply Keeps.ite | apply Keeps.accErr | apply Keeps.writeIdSel | apply Keeps.store)
    | with_reducible apply Keeps.setBit
    | ((with_reducible apply Component.sub hl); first | decide | (simp (disch := decide); done) | (simp [regBlock, scnReg, srcReg, packageBase, LED_CTRL]; done))

theorem Keeps.execFaultWindowLapse {cls} {unit} {s t : State} (h : Machine.execFaultWindowLapse cls unit s = .next t) : Keeps (touches
    (.faultWindowLapse cls unit)) s t := by
  have hl : ∀ p ∈ ([.faults] : List Component), p ∈ touches (.faultWindowLapse cls unit) := by
    simp only [touches]; decide
  simp only [Machine.execFaultWindowLapse, Machine.ok] at h
  split at h <;> first | (injection h with h; subst h) | cases h
  repeat' (with_reducible first | exact Keeps.refl _ _ | assumption | apply Keeps.windowLapse)

theorem Keeps.execFaultTimeSave  {s t : State} (h : Machine.execFaultTimeSave s = .next t) : Keeps (touches (.faultTimeSave)) s t := by
  have hl : ∀ p ∈ ([.log, .life, .faults, .regGlb] : List Component), p ∈ touches (.faultTimeSave) := by
    simp only [touches]; decide
  simp only [Machine.execFaultTimeSave, Machine.ok] at h
  split at h <;> first | (injection h with h; subst h) | cases h
  repeat' first
    | (with_reducible first | exact Keeps.refl _ _ | assumption) | ((with_reducible apply Component.sub hl); decide)
    | (with_reducible first | apply Keeps.ite | apply Keeps.saveFaultTimes | apply Keeps.showHours) | intro _

theorem Keeps.execFwWindowHi {cls} {val} {s t : State} (h : Machine.execFwWindowHi cls val s = .next t) : Keeps (touches (.fwWindowHi cls val)) s t
    := by
  have hl : ∀ p ∈ ([.sec, .regGlb] : List Component), p ∈ touches (.fwWindowHi cls val) := by
    simp only [touches]; decide
  simp only [Machine.execFwWindowHi, Machine.ok] at h
  split at h <;> first | (injection h with h; subst h) | cases h
  refine Keeps.busWriteVia (Keeps.refl _ _) ?_ (hl _ (by decide))
  rw [writeServed_GLB_FW_WINDOW_HI _ _ _ (by simp_all)]
  repeat' first
    | (with_reducible first | exact Keeps.refl _ _ | apply Keeps.ite | apply Keeps.accErr | apply Keeps.writeWindowHi | apply Keeps.store)
    | with_reducible apply Keeps.setBit
    | ((with_reducible apply Component.sub hl); first | decide | (simp (disch := decide); done) | (simp [regBlock, scnReg, srcReg, packageBase, LED_CTRL]; done))
    | intro _

theorem Keeps.execFwWindowLo {cls} {val} {s t : State} (h : Machine.execFwWindowLo cls val s = .next t) : Keeps (touches (.fwWindowLo cls val)) s t
    := by
  have hl : ∀ p ∈ ([.sec, .regGlb] : List Component), p ∈ touches (.fwWindowLo cls val) := by
    simp only [touches]; decide
  simp only [Machine.execFwWindowLo, Machine.ok] at h
  split at h <;> first | (injection h with h; subst h) | cases h
  refine Keeps.busWriteVia (Keeps.refl _ _) ?_ (hl _ (by decide))
  rw [writeServed_GLB_FW_WINDOW _ _ _ (by simp_all)]
  repeat' first
    | (with_reducible first | exact Keeps.refl _ _ | apply Keeps.ite | apply Keeps.accErr | apply Keeps.writeWindowLo | apply Keeps.store)
    | with_reducible apply Keeps.setBit
    | ((with_reducible apply Component.sub hl); first | decide | (simp (disch := decide); done) | (simp [regBlock, scnReg, srcReg, packageBase, LED_CTRL]; done))
    | intro _

theorem Keeps.execGlbFrecSel {index} {s t : State} (h : Machine.execGlbFrecSel index s = .next t) : Keeps (touches (.glbFrecSel index)) s t := by
  have hl : ∀ p ∈ ([.regGlb] : List Component), p ∈ touches (.glbFrecSel index) := by
    simp only [touches]; decide
  simp only [Machine.execGlbFrecSel, Machine.ok] at h
  split at h <;> first | (injection h with h; subst h) | cases h
  refine Keeps.busWriteVia (Keeps.refl _ _) ?_ (hl _ (by decide))
  rw [writeServed_GLB_FREC_SEL]
  repeat' first
    | (with_reducible first | exact Keeps.refl _ _ | apply Keeps.ite | apply Keeps.accErr | apply Keeps.writeFrecSel | apply Keeps.store)
    | with_reducible apply Keeps.setBit
    | ((with_reducible apply Component.sub hl); first | decide | (simp (disch := decide); done) | (simp [regBlock, scnReg, srcReg, packageBase, LED_CTRL]; done))

theorem Keeps.execPwrdisAssert  {s t : State} (h : Machine.execPwrdisAssert s = .next t) : Keeps (touches (.pwrdisAssert)) s t := by
  have hl : ∀ p ∈ ([.slots, .packages, .power, .time, .bus, .loader, .tiles, .store, .dram, .grf, .mover, .scan, .search, .fabric, .host, .ledger, .sec, .faults, .regGlb, .regLed, .regArm, .regGrf, .regTier, .regFab, .regUpd, .regHst, .regScn, .regSrc, .regFtl, .regMed, .regTil] : List
      Component), p ∈ touches (.pwrdisAssert) := by
    simp only [touches]; decide
  simp only [Machine.execPwrdisAssert, Machine.ok] at h
  split at h <;> first | (injection h with h; subst h) | cases h
  repeat' (with_reducible first | exact Keeps.refl _ _ | assumption | apply Keeps.pwrdisEff)

theorem Keeps.execPwrdisDeassert  {s t : State} (h : Machine.execPwrdisDeassert s = .next t) : Keeps (touches (.pwrdisDeassert)) s t := by
  have hl : ∀ p ∈ ([.power, .time, .bus, .loader, .tiles, .store, .dram, .grf, .mover, .scan, .search, .fabric, .host, .ledger, .sec, .faults,
      .regGlb, .regLed, .regArm, .regGrf, .regTier, .regFab, .regUpd, .regHst, .regScn, .regSrc, .regFtl, .regMed, .regTil] : List Component), p ∈
      touches (.pwrdisDeassert) := by
    simp only [touches]; decide
  simp only [Machine.execPwrdisDeassert, Machine.ok] at h
  split at h <;> first | (injection h with h; subst h) | cases h
  repeat' (with_reducible first | exact Keeps.refl _ _ | assumption | apply Keeps.pwrdisDownEff)

theorem Keeps.execOvercurrentShutdown  {s t : State} (h : Machine.execOvercurrentShutdown s = .next t) : Keeps (touches (.overcurrentShutdown)) s t
    := by
  have hl : ∀ p ∈ ([.slots, .packages, .power, .time, .bus, .loader, .tiles, .store, .dram, .grf, .mover, .scan, .search, .fabric, .host, .ledger, .sec, .faults, .regGlb, .regLed, .regArm, .regGrf, .regTier, .regFab, .regUpd, .regHst, .regScn, .regSrc, .regFtl, .regMed, .regTil] : List
      Component), p ∈ touches (.overcurrentShutdown) := by
    simp only [touches]; decide
  simp only [Machine.execOvercurrentShutdown, Machine.ok] at h
  split at h <;> first | (injection h with h; subst h) | cases h
  repeat' (with_reducible first | exact Keeps.refl _ _ | assumption | apply Keeps.overcurrentEff)

theorem Keeps.execCoolantFault  {s t : State} (h : Machine.execCoolantFault s = .next t) : Keeps (touches (.coolantFault)) s t := by
  have hl : ∀ p ∈ ([.ledger] : List Component), p ∈ touches (.coolantFault) := by
    simp only [touches]; decide
  simp only [Machine.execCoolantFault, Machine.ok] at h
  split at h <;> first | (injection h with h; subst h) | cases h
  repeat' first
    | (with_reducible first | exact Keeps.refl _ _ | apply Keeps.ite) | intro _ | with_reducible refine Keeps.litLedger ?_  (hl _ (by decide))

theorem Keeps.execCoolantRecovered  {s t : State} (h : Machine.execCoolantRecovered s = .next t) : Keeps (touches (.coolantRecovered)) s t := by
  have hl : ∀ p ∈ ([.ledger] : List Component), p ∈ touches (.coolantRecovered) := by
    simp only [touches]; decide
  simp only [Machine.execCoolantRecovered, Machine.ok] at h
  split at h <;> first | (injection h with h; subst h) | cases h
  repeat' (with_reducible first | exact Keeps.refl _ _ | refine Keeps.litLedger ?_  (hl _ (by decide)))

theorem Keeps.execLowFlowTrip  {s t : State} (h : Machine.execLowFlowTrip s = .next t) : Keeps (touches (.lowFlowTrip)) s t := by
  have hl : ∀ p ∈ ([.slots, .log, .packages, .power, .time, .bus, .loader, .tiles, .store, .dram, .grf, .mover, .scan, .search, .fabric, .host, .ledger, .sec, .faults, .regGlb, .regLed, .regArm, .regGrf, .regTier, .regFab, .regUpd, .regHst, .regScn, .regSrc, .regFtl, .regMed, .regTil] : List
      Component), p ∈ touches (.lowFlowTrip) := by
    simp only [touches]; decide
  simp only [Machine.execLowFlowTrip, Machine.ok] at h
  split at h <;> first | (injection h with h; subst h) | cases h
  repeat' (with_reducible first | exact Keeps.refl _ _ | assumption | apply Keeps.tripNow)

theorem Keeps.execIdentBlink  {s t : State} (h : Machine.execIdentBlink s = .next t) : Keeps (touches (.identBlink)) s t := by
  have hl : ∀ p ∈ ([.power] : List Component), p ∈ touches (.identBlink) := by
    simp only [touches]; decide
  simp only [Machine.execIdentBlink, Machine.ok] at h
  split at h <;> first | (injection h with h; subst h) | cases h
  repeat' first
    | (with_reducible first | exact Keeps.refl _ _ | apply Keeps.ite) | intro _ | with_reducible refine Keeps.litPower ?_  (hl _ (by decide))

theorem Keeps.execFillerStep {tile} {s t : State} (h : Machine.execFillerStep tile s = .next t) : Keeps (touches (.fillerStep tile)) s t := by
  have hl : ∀ p ∈ ([.tiles, .ledger, .regTil] : List Component), p ∈ touches (.fillerStep tile) := by
    simp only [touches]; decide
  simp only [Machine.execFillerStep, Machine.ok] at h
  split at h <;> first | (injection h with h; subst h) | cases h
  repeat' (with_reducible first | exact Keeps.refl _ _ | assumption | apply Keeps.fillerStepEff)

theorem Keeps.execHoldupExhausted {package} {s t : State} (h : Machine.execHoldupExhausted package s = .next t) : Keeps (touches (.holdupExhausted
    package)) s t := by
  have hl : ∀ p ∈ ([.packages, .power, .time, .bus, .loader, .tiles, .store, .dram, .grf, .mover, .scan, .search, .fabric, .host, .ledger, .sec,
      .faults, .regGlb, .regLed, .regArm, .regGrf, .regTier, .regFab, .regUpd, .regHst, .regScn, .regSrc, .regFtl, .regMed, .regTil] : List
      Component), p ∈ touches (.holdupExhausted package) := by
    simp only [touches]; decide
  simp only [Machine.execHoldupExhausted, Machine.ok] at h
  split at h <;> first | (injection h with h; subst h) | cases h
  repeat' (with_reducible first | exact Keeps.refl _ _ | assumption | apply Keeps.exhaustedEff)

theorem Keeps.execBankCharged  {s t : State} (h : Machine.execBankCharged s = .next t) : Keeps (touches (.bankCharged)) s t := by
  have hl : ∀ p ∈ ([.power, .ledger, .regLed, .regFtl] : List Component), p ∈ touches (.bankCharged) := by
    simp only [touches]; decide
  simp only [Machine.execBankCharged, Machine.ok] at h
  simp only [if_true] at h; injection h with h; subst h
  repeat' (with_reducible first | exact Keeps.refl _ _ | assumption | apply Keeps.bankChargedEff)

theorem Keeps.execGen8NChange {low} {s t : State} (h : Machine.execGen8NChange low s = .next t) : Keeps (touches (.gen8NChange low)) s t := by
  have hl : ∀ p ∈ ([.power] : List Component), p ∈ touches (.gen8NChange low) := by
    simp only [touches]; decide
  simp only [Machine.execGen8NChange, Machine.ok] at h
  simp only [if_true] at h; injection h with h; subst h
  repeat' (with_reducible first | exact Keeps.refl _ _ | refine Keeps.litPower ?_  (hl _ (by decide)))

theorem Keeps.execLinkUp {gen} {width} {flit} {s t : State} (h : Machine.execLinkUp gen width flit s = .next t) : Keeps (touches (.linkUp gen width
    flit)) s t := by
  have hl : ∀ p ∈ ([.retire, .log, .packages, .dram, .mover, .host, .faults, .out, .regGlb, .regTier, .regHst, .regFtl] : List Component), p ∈
      touches (.linkUp gen width flit) := by
    simp only [touches]; decide
  simp only [Machine.execLinkUp, Machine.ok] at h
  split at h <;> first | (injection h with h; subst h) | cases h
  repeat' first | (with_reducible first | exact Keeps.refl _ _ | assumption | apply Keeps.ite | apply Keeps.linkUpEff) | intro _

theorem Keeps.execHostReadCompletionError {tag} {s t : State} (h : Machine.execHostReadCompletionError tag s = .next t) : Keeps (touches
    (.hostReadCompletionError tag)) s t := by
  have hl : ∀ p ∈ ([.host, .out, .regHst] : List Component), p ∈ touches (.hostReadCompletionError tag) := by
    simp only [touches]; decide
  simp only [Machine.execHostReadCompletionError, Machine.ok] at h
  split at h <;> first | (injection h with h; subst h) | cases h
  repeat' (with_reducible first | exact Keeps.refl _ _ | assumption | apply Keeps.transferFails)

theorem Keeps.execMctpControlMessage {eid} {s t : State} (h : Machine.execMctpControlMessage eid s = .next t) : Keeps (touches (.mctpControlMessage
    eid)) s t := by
  have hl : ∀ p ∈ ([.out, .regHst] : List Component), p ∈ touches (.mctpControlMessage eid) := by
    simp only [touches]; decide
  simp only [Machine.execMctpControlMessage, Machine.ok] at h
  split at h <;> first | (injection h with h; subst h) | cases h
  repeat' (with_reducible first | exact Keeps.refl _ _ | assumption | apply Keeps.mctpEff)

theorem Keeps.execOptionAreaMoveDone {half} {s t : State} (h : Machine.execOptionAreaMoveDone half s = .next t) : Keeps (touches
    (.optionAreaMoveDone half)) s t := by
  have hl : ∀ p ∈ ([.opt, .regMed] : List Component), p ∈ touches (.optionAreaMoveDone half) := by
    simp only [touches]; decide
  simp only [Machine.execOptionAreaMoveDone, Machine.ok] at h
  split at h <;> first | (injection h with h; subst h) | cases h
  repeat' (with_reducible first | exact Keeps.refl _ _ | assumption | apply Keeps.optMoveEff)

theorem Keeps.execSelfTestSegmentDone {ok} {tile} {s t : State} (h : Machine.execSelfTestSegmentDone ok tile s = .next t) : Keeps (touches
    (.selfTestSegmentDone ok tile)) s t := by
  have hl : ∀ p ∈ ([.retire, .log, .packages, .tiles, .store, .dram, .grf, .mover, .scan, .fabric, .host, .ledger, .faults, .out, .regGlb, .regLed, .regArm, .regGrf, .regTier, .regFab, .regSrc, .regFtl, .regTil] : List Component), p ∈ touches (.selfTestSegmentDone ok tile) := by
    simp only [touches]; decide
  simp only [Machine.execSelfTestSegmentDone, Machine.ok] at h
  split at h <;> first | (injection h with h; subst h) | cases h
  repeat' (with_reducible first | exact Keeps.refl _ _ | assumption | apply Keeps.segmentEff)

end Sys2Proof.Machine
end

