-- ==== Sys2Proof/Laws/State.lean ====
section
/-! SUPPORT. What each shared update leaves of the state: one lemma for every update and every field that it does not touch, true by
unfolding. The states are taken apart first, so that the kernel never compares two whole states. -/
namespace Sys2Proof.Machine

variable (s : State)

/-! `setReg` -/

@[simp] theorem setReg_build (off : Nat) (v : Word) : (setReg s off v).build = s.build := by cases s; rfl
@[simp] theorem setReg_nv (off : Nat) (v : Word) : (setReg s off v).nv = s.nv := by cases s; rfl
@[simp] theorem setReg_packages (off : Nat) (v : Word) : (setReg s off v).packages = s.packages := by cases s; rfl
@[simp] theorem setReg_corpus (off : Nat) (v : Word) : (setReg s off v).corpus = s.corpus := by cases s; rfl
@[simp] theorem setReg_power (off : Nat) (v : Word) : (setReg s off v).power = s.power := by cases s; rfl
@[simp] theorem setReg_tb (off : Nat) (v : Word) : (setReg s off v).tb = s.tb := by cases s; rfl
@[simp] theorem setReg_latch (off : Nat) (v : Word) : (setReg s off v).latch = s.latch := by cases s; rfl
@[simp] theorem setReg_readData (off : Nat) (v : Word) : (setReg s off v).readData = s.readData := by cases s; rfl
@[simp] theorem setReg_loader (off : Nat) (v : Word) : (setReg s off v).loader = s.loader := by cases s; rfl
@[simp] theorem setReg_tiles (off : Nat) (v : Word) : (setReg s off v).tiles = s.tiles := by cases s; rfl
@[simp] theorem setReg_store (off : Nat) (v : Word) : (setReg s off v).store = s.store := by cases s; rfl
@[simp] theorem setReg_dram (off : Nat) (v : Word) : (setReg s off v).dram = s.dram := by cases s; rfl
@[simp] theorem setReg_grf (off : Nat) (v : Word) : (setReg s off v).grf = s.grf := by cases s; rfl
@[simp] theorem setReg_mover (off : Nat) (v : Word) : (setReg s off v).mover = s.mover := by cases s; rfl
@[simp] theorem setReg_scan (off : Nat) (v : Word) : (setReg s off v).scan = s.scan := by cases s; rfl
@[simp] theorem setReg_search (off : Nat) (v : Word) : (setReg s off v).search = s.search := by cases s; rfl
@[simp] theorem setReg_fabric (off : Nat) (v : Word) : (setReg s off v).fabric = s.fabric := by cases s; rfl
@[simp] theorem setReg_host (off : Nat) (v : Word) : (setReg s off v).host = s.host := by cases s; rfl
@[simp] theorem setReg_ledger (off : Nat) (v : Word) : (setReg s off v).ledger = s.ledger := by cases s; rfl
@[simp] theorem setReg_sec (off : Nat) (v : Word) : (setReg s off v).sec = s.sec := by cases s; rfl
@[simp] theorem setReg_faults (off : Nat) (v : Word) : (setReg s off v).faults = s.faults := by cases s; rfl
@[simp] theorem setReg_fresh (off : Nat) (v : Word) : (setReg s off v).fresh = s.fresh := by cases s; rfl
@[simp] theorem setReg_out (off : Nat) (v : Word) : (setReg s off v).out = s.out := by cases s; rfl
@[simp] theorem setReg_pending (off : Nat) (v : Word) : (setReg s off v).pending = s.pending := by cases s; rfl

/-! `setNat` -/

@[simp] theorem setNat_build (off v : Nat) : (setNat s off v).build = s.build := by cases s; rfl
@[simp] theorem setNat_nv (off v : Nat) : (setNat s off v).nv = s.nv := by cases s; rfl
@[simp] theorem setNat_packages (off v : Nat) : (setNat s off v).packages = s.packages := by cases s; rfl
@[simp] theorem setNat_corpus (off v : Nat) : (setNat s off v).corpus = s.corpus := by cases s; rfl
@[simp] theorem setNat_power (off v : Nat) : (setNat s off v).power = s.power := by cases s; rfl
@[simp] theorem setNat_tb (off v : Nat) : (setNat s off v).tb = s.tb := by cases s; rfl
@[simp] theorem setNat_latch (off v : Nat) : (setNat s off v).latch = s.latch := by cases s; rfl
@[simp] theorem setNat_readData (off v : Nat) : (setNat s off v).readData = s.readData := by cases s; rfl
@[simp] theorem setNat_loader (off v : Nat) : (setNat s off v).loader = s.loader := by cases s; rfl
@[simp] theorem setNat_tiles (off v : Nat) : (setNat s off v).tiles = s.tiles := by cases s; rfl
@[simp] theorem setNat_store (off v : Nat) : (setNat s off v).store = s.store := by cases s; rfl
@[simp] theorem setNat_dram (off v : Nat) : (setNat s off v).dram = s.dram := by cases s; rfl
@[simp] theorem setNat_grf (off v : Nat) : (setNat s off v).grf = s.grf := by cases s; rfl
@[simp] theorem setNat_mover (off v : Nat) : (setNat s off v).mover = s.mover := by cases s; rfl
@[simp] theorem setNat_scan (off v : Nat) : (setNat s off v).scan = s.scan := by cases s; rfl
@[simp] theorem setNat_search (off v : Nat) : (setNat s off v).search = s.search := by cases s; rfl
@[simp] theorem setNat_fabric (off v : Nat) : (setNat s off v).fabric = s.fabric := by cases s; rfl
@[simp] theorem setNat_host (off v : Nat) : (setNat s off v).host = s.host := by cases s; rfl
@[simp] theorem setNat_ledger (off v : Nat) : (setNat s off v).ledger = s.ledger := by cases s; rfl
@[simp] theorem setNat_sec (off v : Nat) : (setNat s off v).sec = s.sec := by cases s; rfl
@[simp] theorem setNat_faults (off v : Nat) : (setNat s off v).faults = s.faults := by cases s; rfl
@[simp] theorem setNat_fresh (off v : Nat) : (setNat s off v).fresh = s.fresh := by cases s; rfl
@[simp] theorem setNat_out (off v : Nat) : (setNat s off v).out = s.out := by cases s; rfl
@[simp] theorem setNat_pending (off v : Nat) : (setNat s off v).pending = s.pending := by cases s; rfl

/-! `setFld` -/

@[simp] theorem setFld_build (off hi lo v : Nat) : (setFld s off hi lo v).build = s.build := by cases s; rfl
@[simp] theorem setFld_nv (off hi lo v : Nat) : (setFld s off hi lo v).nv = s.nv := by cases s; rfl
@[simp] theorem setFld_packages (off hi lo v : Nat) : (setFld s off hi lo v).packages = s.packages := by cases s; rfl
@[simp] theorem setFld_corpus (off hi lo v : Nat) : (setFld s off hi lo v).corpus = s.corpus := by cases s; rfl
@[simp] theorem setFld_power (off hi lo v : Nat) : (setFld s off hi lo v).power = s.power := by cases s; rfl
@[simp] theorem setFld_tb (off hi lo v : Nat) : (setFld s off hi lo v).tb = s.tb := by cases s; rfl
@[simp] theorem setFld_latch (off hi lo v : Nat) : (setFld s off hi lo v).latch = s.latch := by cases s; rfl
@[simp] theorem setFld_readData (off hi lo v : Nat) : (setFld s off hi lo v).readData = s.readData := by cases s; rfl
@[simp] theorem setFld_loader (off hi lo v : Nat) : (setFld s off hi lo v).loader = s.loader := by cases s; rfl
@[simp] theorem setFld_tiles (off hi lo v : Nat) : (setFld s off hi lo v).tiles = s.tiles := by cases s; rfl
@[simp] theorem setFld_store (off hi lo v : Nat) : (setFld s off hi lo v).store = s.store := by cases s; rfl
@[simp] theorem setFld_dram (off hi lo v : Nat) : (setFld s off hi lo v).dram = s.dram := by cases s; rfl
@[simp] theorem setFld_grf (off hi lo v : Nat) : (setFld s off hi lo v).grf = s.grf := by cases s; rfl
@[simp] theorem setFld_mover (off hi lo v : Nat) : (setFld s off hi lo v).mover = s.mover := by cases s; rfl
@[simp] theorem setFld_scan (off hi lo v : Nat) : (setFld s off hi lo v).scan = s.scan := by cases s; rfl
@[simp] theorem setFld_search (off hi lo v : Nat) : (setFld s off hi lo v).search = s.search := by cases s; rfl
@[simp] theorem setFld_fabric (off hi lo v : Nat) : (setFld s off hi lo v).fabric = s.fabric := by cases s; rfl
@[simp] theorem setFld_host (off hi lo v : Nat) : (setFld s off hi lo v).host = s.host := by cases s; rfl
@[simp] theorem setFld_ledger (off hi lo v : Nat) : (setFld s off hi lo v).ledger = s.ledger := by cases s; rfl
@[simp] theorem setFld_sec (off hi lo v : Nat) : (setFld s off hi lo v).sec = s.sec := by cases s; rfl
@[simp] theorem setFld_faults (off hi lo v : Nat) : (setFld s off hi lo v).faults = s.faults := by cases s; rfl
@[simp] theorem setFld_fresh (off hi lo v : Nat) : (setFld s off hi lo v).fresh = s.fresh := by cases s; rfl
@[simp] theorem setFld_out (off hi lo v : Nat) : (setFld s off hi lo v).out = s.out := by cases s; rfl
@[simp] theorem setFld_pending (off hi lo v : Nat) : (setFld s off hi lo v).pending = s.pending := by cases s; rfl

/-! `setBit` -/

@[simp] theorem setBit_build (off i : Nat) (b : Bool) : (setBit s off i b).build = s.build := by cases s; rfl
@[simp] theorem setBit_nv (off i : Nat) (b : Bool) : (setBit s off i b).nv = s.nv := by cases s; rfl
@[simp] theorem setBit_packages (off i : Nat) (b : Bool) : (setBit s off i b).packages = s.packages := by cases s; rfl
@[simp] theorem setBit_corpus (off i : Nat) (b : Bool) : (setBit s off i b).corpus = s.corpus := by cases s; rfl
@[simp] theorem setBit_power (off i : Nat) (b : Bool) : (setBit s off i b).power = s.power := by cases s; rfl
@[simp] theorem setBit_tb (off i : Nat) (b : Bool) : (setBit s off i b).tb = s.tb := by cases s; rfl
@[simp] theorem setBit_latch (off i : Nat) (b : Bool) : (setBit s off i b).latch = s.latch := by cases s; rfl
@[simp] theorem setBit_readData (off i : Nat) (b : Bool) : (setBit s off i b).readData = s.readData := by cases s; rfl
@[simp] theorem setBit_loader (off i : Nat) (b : Bool) : (setBit s off i b).loader = s.loader := by cases s; rfl
@[simp] theorem setBit_tiles (off i : Nat) (b : Bool) : (setBit s off i b).tiles = s.tiles := by cases s; rfl
@[simp] theorem setBit_store (off i : Nat) (b : Bool) : (setBit s off i b).store = s.store := by cases s; rfl
@[simp] theorem setBit_dram (off i : Nat) (b : Bool) : (setBit s off i b).dram = s.dram := by cases s; rfl
@[simp] theorem setBit_grf (off i : Nat) (b : Bool) : (setBit s off i b).grf = s.grf := by cases s; rfl
@[simp] theorem setBit_mover (off i : Nat) (b : Bool) : (setBit s off i b).mover = s.mover := by cases s; rfl
@[simp] theorem setBit_scan (off i : Nat) (b : Bool) : (setBit s off i b).scan = s.scan := by cases s; rfl
@[simp] theorem setBit_search (off i : Nat) (b : Bool) : (setBit s off i b).search = s.search := by cases s; rfl
@[simp] theorem setBit_fabric (off i : Nat) (b : Bool) : (setBit s off i b).fabric = s.fabric := by cases s; rfl
@[simp] theorem setBit_host (off i : Nat) (b : Bool) : (setBit s off i b).host = s.host := by cases s; rfl
@[simp] theorem setBit_ledger (off i : Nat) (b : Bool) : (setBit s off i b).ledger = s.ledger := by cases s; rfl
@[simp] theorem setBit_sec (off i : Nat) (b : Bool) : (setBit s off i b).sec = s.sec := by cases s; rfl
@[simp] theorem setBit_faults (off i : Nat) (b : Bool) : (setBit s off i b).faults = s.faults := by cases s; rfl
@[simp] theorem setBit_fresh (off i : Nat) (b : Bool) : (setBit s off i b).fresh = s.fresh := by cases s; rfl
@[simp] theorem setBit_out (off i : Nat) (b : Bool) : (setBit s off i b).out = s.out := by cases s; rfl
@[simp] theorem setBit_pending (off i : Nat) (b : Bool) : (setBit s off i b).pending = s.pending := by cases s; rfl

/-! `bumpBy` -/

@[simp] theorem bumpBy_build (off n : Nat) : (bumpBy s off n).build = s.build := by cases s; rfl
@[simp] theorem bumpBy_nv (off n : Nat) : (bumpBy s off n).nv = s.nv := by cases s; rfl
@[simp] theorem bumpBy_packages (off n : Nat) : (bumpBy s off n).packages = s.packages := by cases s; rfl
@[simp] theorem bumpBy_corpus (off n : Nat) : (bumpBy s off n).corpus = s.corpus := by cases s; rfl
@[simp] theorem bumpBy_power (off n : Nat) : (bumpBy s off n).power = s.power := by cases s; rfl
@[simp] theorem bumpBy_tb (off n : Nat) : (bumpBy s off n).tb = s.tb := by cases s; rfl
@[simp] theorem bumpBy_latch (off n : Nat) : (bumpBy s off n).latch = s.latch := by cases s; rfl
@[simp] theorem bumpBy_readData (off n : Nat) : (bumpBy s off n).readData = s.readData := by cases s; rfl
@[simp] theorem bumpBy_loader (off n : Nat) : (bumpBy s off n).loader = s.loader := by cases s; rfl
@[simp] theorem bumpBy_tiles (off n : Nat) : (bumpBy s off n).tiles = s.tiles := by cases s; rfl
@[simp] theorem bumpBy_store (off n : Nat) : (bumpBy s off n).store = s.store := by cases s; rfl
@[simp] theorem bumpBy_dram (off n : Nat) : (bumpBy s off n).dram = s.dram := by cases s; rfl
@[simp] theorem bumpBy_grf (off n : Nat) : (bumpBy s off n).grf = s.grf := by cases s; rfl
@[simp] theorem bumpBy_mover (off n : Nat) : (bumpBy s off n).mover = s.mover := by cases s; rfl
@[simp] theorem bumpBy_scan (off n : Nat) : (bumpBy s off n).scan = s.scan := by cases s; rfl
@[simp] theorem bumpBy_search (off n : Nat) : (bumpBy s off n).search = s.search := by cases s; rfl
@[simp] theorem bumpBy_fabric (off n : Nat) : (bumpBy s off n).fabric = s.fabric := by cases s; rfl
@[simp] theorem bumpBy_host (off n : Nat) : (bumpBy s off n).host = s.host := by cases s; rfl
@[simp] theorem bumpBy_ledger (off n : Nat) : (bumpBy s off n).ledger = s.ledger := by cases s; rfl
@[simp] theorem bumpBy_sec (off n : Nat) : (bumpBy s off n).sec = s.sec := by cases s; rfl
@[simp] theorem bumpBy_faults (off n : Nat) : (bumpBy s off n).faults = s.faults := by cases s; rfl
@[simp] theorem bumpBy_fresh (off n : Nat) : (bumpBy s off n).fresh = s.fresh := by cases s; rfl
@[simp] theorem bumpBy_out (off n : Nat) : (bumpBy s off n).out = s.out := by cases s; rfl
@[simp] theorem bumpBy_pending (off n : Nat) : (bumpBy s off n).pending = s.pending := by cases s; rfl

/-! `bump` -/

@[simp] theorem bump_build (off : Nat) : (bump s off).build = s.build := by cases s; rfl
@[simp] theorem bump_nv (off : Nat) : (bump s off).nv = s.nv := by cases s; rfl
@[simp] theorem bump_packages (off : Nat) : (bump s off).packages = s.packages := by cases s; rfl
@[simp] theorem bump_corpus (off : Nat) : (bump s off).corpus = s.corpus := by cases s; rfl
@[simp] theorem bump_power (off : Nat) : (bump s off).power = s.power := by cases s; rfl
@[simp] theorem bump_tb (off : Nat) : (bump s off).tb = s.tb := by cases s; rfl
@[simp] theorem bump_latch (off : Nat) : (bump s off).latch = s.latch := by cases s; rfl
@[simp] theorem bump_readData (off : Nat) : (bump s off).readData = s.readData := by cases s; rfl
@[simp] theorem bump_loader (off : Nat) : (bump s off).loader = s.loader := by cases s; rfl
@[simp] theorem bump_tiles (off : Nat) : (bump s off).tiles = s.tiles := by cases s; rfl
@[simp] theorem bump_store (off : Nat) : (bump s off).store = s.store := by cases s; rfl
@[simp] theorem bump_dram (off : Nat) : (bump s off).dram = s.dram := by cases s; rfl
@[simp] theorem bump_grf (off : Nat) : (bump s off).grf = s.grf := by cases s; rfl
@[simp] theorem bump_mover (off : Nat) : (bump s off).mover = s.mover := by cases s; rfl
@[simp] theorem bump_scan (off : Nat) : (bump s off).scan = s.scan := by cases s; rfl
@[simp] theorem bump_search (off : Nat) : (bump s off).search = s.search := by cases s; rfl
@[simp] theorem bump_fabric (off : Nat) : (bump s off).fabric = s.fabric := by cases s; rfl
@[simp] theorem bump_host (off : Nat) : (bump s off).host = s.host := by cases s; rfl
@[simp] theorem bump_ledger (off : Nat) : (bump s off).ledger = s.ledger := by cases s; rfl
@[simp] theorem bump_sec (off : Nat) : (bump s off).sec = s.sec := by cases s; rfl
@[simp] theorem bump_faults (off : Nat) : (bump s off).faults = s.faults := by cases s; rfl
@[simp] theorem bump_fresh (off : Nat) : (bump s off).fresh = s.fresh := by cases s; rfl
@[simp] theorem bump_out (off : Nat) : (bump s off).out = s.out := by cases s; rfl
@[simp] theorem bump_pending (off : Nat) : (bump s off).pending = s.pending := by cases s; rfl

/-! `bumpFld` -/

@[simp] theorem bumpFld_build (off hi lo n : Nat) : (bumpFld s off hi lo n).build = s.build := by cases s; rfl
@[simp] theorem bumpFld_nv (off hi lo n : Nat) : (bumpFld s off hi lo n).nv = s.nv := by cases s; rfl
@[simp] theorem bumpFld_packages (off hi lo n : Nat) : (bumpFld s off hi lo n).packages = s.packages := by cases s; rfl
@[simp] theorem bumpFld_corpus (off hi lo n : Nat) : (bumpFld s off hi lo n).corpus = s.corpus := by cases s; rfl
@[simp] theorem bumpFld_power (off hi lo n : Nat) : (bumpFld s off hi lo n).power = s.power := by cases s; rfl
@[simp] theorem bumpFld_tb (off hi lo n : Nat) : (bumpFld s off hi lo n).tb = s.tb := by cases s; rfl
@[simp] theorem bumpFld_latch (off hi lo n : Nat) : (bumpFld s off hi lo n).latch = s.latch := by cases s; rfl
@[simp] theorem bumpFld_readData (off hi lo n : Nat) : (bumpFld s off hi lo n).readData = s.readData := by cases s; rfl
@[simp] theorem bumpFld_loader (off hi lo n : Nat) : (bumpFld s off hi lo n).loader = s.loader := by cases s; rfl
@[simp] theorem bumpFld_tiles (off hi lo n : Nat) : (bumpFld s off hi lo n).tiles = s.tiles := by cases s; rfl
@[simp] theorem bumpFld_store (off hi lo n : Nat) : (bumpFld s off hi lo n).store = s.store := by cases s; rfl
@[simp] theorem bumpFld_dram (off hi lo n : Nat) : (bumpFld s off hi lo n).dram = s.dram := by cases s; rfl
@[simp] theorem bumpFld_grf (off hi lo n : Nat) : (bumpFld s off hi lo n).grf = s.grf := by cases s; rfl
@[simp] theorem bumpFld_mover (off hi lo n : Nat) : (bumpFld s off hi lo n).mover = s.mover := by cases s; rfl
@[simp] theorem bumpFld_scan (off hi lo n : Nat) : (bumpFld s off hi lo n).scan = s.scan := by cases s; rfl
@[simp] theorem bumpFld_search (off hi lo n : Nat) : (bumpFld s off hi lo n).search = s.search := by cases s; rfl
@[simp] theorem bumpFld_fabric (off hi lo n : Nat) : (bumpFld s off hi lo n).fabric = s.fabric := by cases s; rfl
@[simp] theorem bumpFld_host (off hi lo n : Nat) : (bumpFld s off hi lo n).host = s.host := by cases s; rfl
@[simp] theorem bumpFld_ledger (off hi lo n : Nat) : (bumpFld s off hi lo n).ledger = s.ledger := by cases s; rfl
@[simp] theorem bumpFld_sec (off hi lo n : Nat) : (bumpFld s off hi lo n).sec = s.sec := by cases s; rfl
@[simp] theorem bumpFld_faults (off hi lo n : Nat) : (bumpFld s off hi lo n).faults = s.faults := by cases s; rfl
@[simp] theorem bumpFld_fresh (off hi lo n : Nat) : (bumpFld s off hi lo n).fresh = s.fresh := by cases s; rfl
@[simp] theorem bumpFld_out (off hi lo n : Nat) : (bumpFld s off hi lo n).out = s.out := by cases s; rfl
@[simp] theorem bumpFld_pending (off hi lo n : Nat) : (bumpFld s off hi lo n).pending = s.pending := by cases s; rfl

/-! `set64` -/

@[simp] theorem set64_build (off v : Nat) : (set64 s off v).build = s.build := by cases s; rfl
@[simp] theorem set64_nv (off v : Nat) : (set64 s off v).nv = s.nv := by cases s; rfl
@[simp] theorem set64_packages (off v : Nat) : (set64 s off v).packages = s.packages := by cases s; rfl
@[simp] theorem set64_corpus (off v : Nat) : (set64 s off v).corpus = s.corpus := by cases s; rfl
@[simp] theorem set64_power (off v : Nat) : (set64 s off v).power = s.power := by cases s; rfl
@[simp] theorem set64_tb (off v : Nat) : (set64 s off v).tb = s.tb := by cases s; rfl
@[simp] theorem set64_latch (off v : Nat) : (set64 s off v).latch = s.latch := by cases s; rfl
@[simp] theorem set64_readData (off v : Nat) : (set64 s off v).readData = s.readData := by cases s; rfl
@[simp] theorem set64_loader (off v : Nat) : (set64 s off v).loader = s.loader := by cases s; rfl
@[simp] theorem set64_tiles (off v : Nat) : (set64 s off v).tiles = s.tiles := by cases s; rfl
@[simp] theorem set64_store (off v : Nat) : (set64 s off v).store = s.store := by cases s; rfl
@[simp] theorem set64_dram (off v : Nat) : (set64 s off v).dram = s.dram := by cases s; rfl
@[simp] theorem set64_grf (off v : Nat) : (set64 s off v).grf = s.grf := by cases s; rfl
@[simp] theorem set64_mover (off v : Nat) : (set64 s off v).mover = s.mover := by cases s; rfl
@[simp] theorem set64_scan (off v : Nat) : (set64 s off v).scan = s.scan := by cases s; rfl
@[simp] theorem set64_search (off v : Nat) : (set64 s off v).search = s.search := by cases s; rfl
@[simp] theorem set64_fabric (off v : Nat) : (set64 s off v).fabric = s.fabric := by cases s; rfl
@[simp] theorem set64_host (off v : Nat) : (set64 s off v).host = s.host := by cases s; rfl
@[simp] theorem set64_ledger (off v : Nat) : (set64 s off v).ledger = s.ledger := by cases s; rfl
@[simp] theorem set64_sec (off v : Nat) : (set64 s off v).sec = s.sec := by cases s; rfl
@[simp] theorem set64_faults (off v : Nat) : (set64 s off v).faults = s.faults := by cases s; rfl
@[simp] theorem set64_fresh (off v : Nat) : (set64 s off v).fresh = s.fresh := by cases s; rfl
@[simp] theorem set64_out (off v : Nat) : (set64 s off v).out = s.out := by cases s; rfl
@[simp] theorem set64_pending (off v : Nat) : (set64 s off v).pending = s.pending := by cases s; rfl

/-! `add64` -/

@[simp] theorem add64_build (off n : Nat) : (add64 s off n).build = s.build := by cases s; rfl
@[simp] theorem add64_nv (off n : Nat) : (add64 s off n).nv = s.nv := by cases s; rfl
@[simp] theorem add64_packages (off n : Nat) : (add64 s off n).packages = s.packages := by cases s; rfl
@[simp] theorem add64_corpus (off n : Nat) : (add64 s off n).corpus = s.corpus := by cases s; rfl
@[simp] theorem add64_power (off n : Nat) : (add64 s off n).power = s.power := by cases s; rfl
@[simp] theorem add64_tb (off n : Nat) : (add64 s off n).tb = s.tb := by cases s; rfl
@[simp] theorem add64_latch (off n : Nat) : (add64 s off n).latch = s.latch := by cases s; rfl
@[simp] theorem add64_readData (off n : Nat) : (add64 s off n).readData = s.readData := by cases s; rfl
@[simp] theorem add64_loader (off n : Nat) : (add64 s off n).loader = s.loader := by cases s; rfl
@[simp] theorem add64_tiles (off n : Nat) : (add64 s off n).tiles = s.tiles := by cases s; rfl
@[simp] theorem add64_store (off n : Nat) : (add64 s off n).store = s.store := by cases s; rfl
@[simp] theorem add64_dram (off n : Nat) : (add64 s off n).dram = s.dram := by cases s; rfl
@[simp] theorem add64_grf (off n : Nat) : (add64 s off n).grf = s.grf := by cases s; rfl
@[simp] theorem add64_mover (off n : Nat) : (add64 s off n).mover = s.mover := by cases s; rfl
@[simp] theorem add64_scan (off n : Nat) : (add64 s off n).scan = s.scan := by cases s; rfl
@[simp] theorem add64_search (off n : Nat) : (add64 s off n).search = s.search := by cases s; rfl
@[simp] theorem add64_fabric (off n : Nat) : (add64 s off n).fabric = s.fabric := by cases s; rfl
@[simp] theorem add64_host (off n : Nat) : (add64 s off n).host = s.host := by cases s; rfl
@[simp] theorem add64_ledger (off n : Nat) : (add64 s off n).ledger = s.ledger := by cases s; rfl
@[simp] theorem add64_sec (off n : Nat) : (add64 s off n).sec = s.sec := by cases s; rfl
@[simp] theorem add64_faults (off n : Nat) : (add64 s off n).faults = s.faults := by cases s; rfl
@[simp] theorem add64_fresh (off n : Nat) : (add64 s off n).fresh = s.fresh := by cases s; rfl
@[simp] theorem add64_out (off n : Nat) : (add64 s off n).out = s.out := by cases s; rfl
@[simp] theorem add64_pending (off n : Nat) : (add64 s off n).pending = s.pending := by cases s; rfl

/-! `accErr` -/

@[simp] theorem accErr_build : (accErr s).build = s.build := by cases s; rfl
@[simp] theorem accErr_nv : (accErr s).nv = s.nv := by cases s; rfl
@[simp] theorem accErr_packages : (accErr s).packages = s.packages := by cases s; rfl
@[simp] theorem accErr_corpus : (accErr s).corpus = s.corpus := by cases s; rfl
@[simp] theorem accErr_power : (accErr s).power = s.power := by cases s; rfl
@[simp] theorem accErr_tb : (accErr s).tb = s.tb := by cases s; rfl
@[simp] theorem accErr_latch : (accErr s).latch = s.latch := by cases s; rfl
@[simp] theorem accErr_readData : (accErr s).readData = s.readData := by cases s; rfl
@[simp] theorem accErr_loader : (accErr s).loader = s.loader := by cases s; rfl
@[simp] theorem accErr_tiles : (accErr s).tiles = s.tiles := by cases s; rfl
@[simp] theorem accErr_store : (accErr s).store = s.store := by cases s; rfl
@[simp] theorem accErr_dram : (accErr s).dram = s.dram := by cases s; rfl
@[simp] theorem accErr_grf : (accErr s).grf = s.grf := by cases s; rfl
@[simp] theorem accErr_mover : (accErr s).mover = s.mover := by cases s; rfl
@[simp] theorem accErr_scan : (accErr s).scan = s.scan := by cases s; rfl
@[simp] theorem accErr_search : (accErr s).search = s.search := by cases s; rfl
@[simp] theorem accErr_fabric : (accErr s).fabric = s.fabric := by cases s; rfl
@[simp] theorem accErr_host : (accErr s).host = s.host := by cases s; rfl
@[simp] theorem accErr_ledger : (accErr s).ledger = s.ledger := by cases s; rfl
@[simp] theorem accErr_sec : (accErr s).sec = s.sec := by cases s; rfl
@[simp] theorem accErr_faults : (accErr s).faults = s.faults := by cases s; rfl
@[simp] theorem accErr_fresh : (accErr s).fresh = s.fresh := by cases s; rfl
@[simp] theorem accErr_out : (accErr s).out = s.out := by cases s; rfl
@[simp] theorem accErr_pending : (accErr s).pending = s.pending := by cases s; rfl

/-! `emit` -/

@[simp] theorem emit_build (o : Out) : (emit s o).build = s.build := by cases s; rfl
@[simp] theorem emit_nv (o : Out) : (emit s o).nv = s.nv := by cases s; rfl
@[simp] theorem emit_packages (o : Out) : (emit s o).packages = s.packages := by cases s; rfl
@[simp] theorem emit_corpus (o : Out) : (emit s o).corpus = s.corpus := by cases s; rfl
@[simp] theorem emit_power (o : Out) : (emit s o).power = s.power := by cases s; rfl
@[simp] theorem emit_tb (o : Out) : (emit s o).tb = s.tb := by cases s; rfl
@[simp] theorem emit_regs (o : Out) : (emit s o).regs = s.regs := by cases s; rfl
@[simp] theorem emit_latch (o : Out) : (emit s o).latch = s.latch := by cases s; rfl
@[simp] theorem emit_readData (o : Out) : (emit s o).readData = s.readData := by cases s; rfl
@[simp] theorem emit_loader (o : Out) : (emit s o).loader = s.loader := by cases s; rfl
@[simp] theorem emit_tiles (o : Out) : (emit s o).tiles = s.tiles := by cases s; rfl
@[simp] theorem emit_store (o : Out) : (emit s o).store = s.store := by cases s; rfl
@[simp] theorem emit_dram (o : Out) : (emit s o).dram = s.dram := by cases s; rfl
@[simp] theorem emit_grf (o : Out) : (emit s o).grf = s.grf := by cases s; rfl
@[simp] theorem emit_mover (o : Out) : (emit s o).mover = s.mover := by cases s; rfl
@[simp] theorem emit_scan (o : Out) : (emit s o).scan = s.scan := by cases s; rfl
@[simp] theorem emit_search (o : Out) : (emit s o).search = s.search := by cases s; rfl
@[simp] theorem emit_fabric (o : Out) : (emit s o).fabric = s.fabric := by cases s; rfl
@[simp] theorem emit_host (o : Out) : (emit s o).host = s.host := by cases s; rfl
@[simp] theorem emit_ledger (o : Out) : (emit s o).ledger = s.ledger := by cases s; rfl
@[simp] theorem emit_sec (o : Out) : (emit s o).sec = s.sec := by cases s; rfl
@[simp] theorem emit_faults (o : Out) : (emit s o).faults = s.faults := by cases s; rfl
@[simp] theorem emit_fresh (o : Out) : (emit s o).fresh = s.fresh := by cases s; rfl
@[simp] theorem emit_pending (o : Out) : (emit s o).pending = s.pending := by cases s; rfl

/-! `draw` -/

@[simp] theorem draw_build : (draw s).build = s.build := by cases s; rfl
@[simp] theorem draw_nv : (draw s).nv = s.nv := by cases s; rfl
@[simp] theorem draw_packages : (draw s).packages = s.packages := by cases s; rfl
@[simp] theorem draw_corpus : (draw s).corpus = s.corpus := by cases s; rfl
@[simp] theorem draw_power : (draw s).power = s.power := by cases s; rfl
@[simp] theorem draw_tb : (draw s).tb = s.tb := by cases s; rfl
@[simp] theorem draw_regs : (draw s).regs = s.regs := by cases s; rfl
@[simp] theorem draw_latch : (draw s).latch = s.latch := by cases s; rfl
@[simp] theorem draw_readData : (draw s).readData = s.readData := by cases s; rfl
@[simp] theorem draw_loader : (draw s).loader = s.loader := by cases s; rfl
@[simp] theorem draw_tiles : (draw s).tiles = s.tiles := by cases s; rfl
@[simp] theorem draw_store : (draw s).store = s.store := by cases s; rfl
@[simp] theorem draw_dram : (draw s).dram = s.dram := by cases s; rfl
@[simp] theorem draw_grf : (draw s).grf = s.grf := by cases s; rfl
@[simp] theorem draw_mover : (draw s).mover = s.mover := by cases s; rfl
@[simp] theorem draw_scan : (draw s).scan = s.scan := by cases s; rfl
@[simp] theorem draw_search : (draw s).search = s.search := by cases s; rfl
@[simp] theorem draw_fabric : (draw s).fabric = s.fabric := by cases s; rfl
@[simp] theorem draw_host : (draw s).host = s.host := by cases s; rfl
@[simp] theorem draw_ledger : (draw s).ledger = s.ledger := by cases s; rfl
@[simp] theorem draw_sec : (draw s).sec = s.sec := by cases s; rfl
@[simp] theorem draw_faults : (draw s).faults = s.faults := by cases s; rfl
@[simp] theorem draw_out : (draw s).out = s.out := by cases s; rfl
@[simp] theorem draw_pending : (draw s).pending = s.pending := by cases s; rfl

/-! `setPkg` -/

@[simp] theorem setPkg_build (p : Nat) (x : Package) : (setPkg s p x).build = s.build := by cases s; rfl
@[simp] theorem setPkg_nv (p : Nat) (x : Package) : (setPkg s p x).nv = s.nv := by cases s; rfl
@[simp] theorem setPkg_corpus (p : Nat) (x : Package) : (setPkg s p x).corpus = s.corpus := by cases s; rfl
@[simp] theorem setPkg_power (p : Nat) (x : Package) : (setPkg s p x).power = s.power := by cases s; rfl
@[simp] theorem setPkg_tb (p : Nat) (x : Package) : (setPkg s p x).tb = s.tb := by cases s; rfl
@[simp] theorem setPkg_regs (p : Nat) (x : Package) : (setPkg s p x).regs = s.regs := by cases s; rfl
@[simp] theorem setPkg_latch (p : Nat) (x : Package) : (setPkg s p x).latch = s.latch := by cases s; rfl
@[simp] theorem setPkg_readData (p : Nat) (x : Package) : (setPkg s p x).readData = s.readData := by cases s; rfl
@[simp] theorem setPkg_loader (p : Nat) (x : Package) : (setPkg s p x).loader = s.loader := by cases s; rfl
@[simp] theorem setPkg_tiles (p : Nat) (x : Package) : (setPkg s p x).tiles = s.tiles := by cases s; rfl
@[simp] theorem setPkg_store (p : Nat) (x : Package) : (setPkg s p x).store = s.store := by cases s; rfl
@[simp] theorem setPkg_dram (p : Nat) (x : Package) : (setPkg s p x).dram = s.dram := by cases s; rfl
@[simp] theorem setPkg_grf (p : Nat) (x : Package) : (setPkg s p x).grf = s.grf := by cases s; rfl
@[simp] theorem setPkg_mover (p : Nat) (x : Package) : (setPkg s p x).mover = s.mover := by cases s; rfl
@[simp] theorem setPkg_scan (p : Nat) (x : Package) : (setPkg s p x).scan = s.scan := by cases s; rfl
@[simp] theorem setPkg_search (p : Nat) (x : Package) : (setPkg s p x).search = s.search := by cases s; rfl
@[simp] theorem setPkg_fabric (p : Nat) (x : Package) : (setPkg s p x).fabric = s.fabric := by cases s; rfl
@[simp] theorem setPkg_host (p : Nat) (x : Package) : (setPkg s p x).host = s.host := by cases s; rfl
@[simp] theorem setPkg_ledger (p : Nat) (x : Package) : (setPkg s p x).ledger = s.ledger := by cases s; rfl
@[simp] theorem setPkg_sec (p : Nat) (x : Package) : (setPkg s p x).sec = s.sec := by cases s; rfl
@[simp] theorem setPkg_faults (p : Nat) (x : Package) : (setPkg s p x).faults = s.faults := by cases s; rfl
@[simp] theorem setPkg_fresh (p : Nat) (x : Package) : (setPkg s p x).fresh = s.fresh := by cases s; rfl
@[simp] theorem setPkg_out (p : Nat) (x : Package) : (setPkg s p x).out = s.out := by cases s; rfl
@[simp] theorem setPkg_pending (p : Nat) (x : Package) : (setPkg s p x).pending = s.pending := by cases s; rfl

/-! `logError` -/

@[simp] theorem logError_build (tag : CmdTag) (sct sc lba : Nat) : (logError s tag sct sc lba).build = s.build := by cases s; rfl
@[simp] theorem logError_nv (tag : CmdTag) (sct sc lba : Nat) : (logError s tag sct sc lba).nv = s.nv := by cases s; rfl
@[simp] theorem logError_packages (tag : CmdTag) (sct sc lba : Nat) : (logError s tag sct sc lba).packages = s.packages := by cases s; rfl
@[simp] theorem logError_corpus (tag : CmdTag) (sct sc lba : Nat) : (logError s tag sct sc lba).corpus = s.corpus := by cases s; rfl
@[simp] theorem logError_power (tag : CmdTag) (sct sc lba : Nat) : (logError s tag sct sc lba).power = s.power := by cases s; rfl
@[simp] theorem logError_tb (tag : CmdTag) (sct sc lba : Nat) : (logError s tag sct sc lba).tb = s.tb := by cases s; rfl
@[simp] theorem logError_regs (tag : CmdTag) (sct sc lba : Nat) : (logError s tag sct sc lba).regs = s.regs := by cases s; rfl
@[simp] theorem logError_latch (tag : CmdTag) (sct sc lba : Nat) : (logError s tag sct sc lba).latch = s.latch := by cases s; rfl
@[simp] theorem logError_readData (tag : CmdTag) (sct sc lba : Nat) : (logError s tag sct sc lba).readData = s.readData := by cases s; rfl
@[simp] theorem logError_loader (tag : CmdTag) (sct sc lba : Nat) : (logError s tag sct sc lba).loader = s.loader := by cases s; rfl
@[simp] theorem logError_tiles (tag : CmdTag) (sct sc lba : Nat) : (logError s tag sct sc lba).tiles = s.tiles := by cases s; rfl
@[simp] theorem logError_store (tag : CmdTag) (sct sc lba : Nat) : (logError s tag sct sc lba).store = s.store := by cases s; rfl
@[simp] theorem logError_dram (tag : CmdTag) (sct sc lba : Nat) : (logError s tag sct sc lba).dram = s.dram := by cases s; rfl
@[simp] theorem logError_grf (tag : CmdTag) (sct sc lba : Nat) : (logError s tag sct sc lba).grf = s.grf := by cases s; rfl
@[simp] theorem logError_mover (tag : CmdTag) (sct sc lba : Nat) : (logError s tag sct sc lba).mover = s.mover := by cases s; rfl
@[simp] theorem logError_scan (tag : CmdTag) (sct sc lba : Nat) : (logError s tag sct sc lba).scan = s.scan := by cases s; rfl
@[simp] theorem logError_search (tag : CmdTag) (sct sc lba : Nat) : (logError s tag sct sc lba).search = s.search := by cases s; rfl
@[simp] theorem logError_fabric (tag : CmdTag) (sct sc lba : Nat) : (logError s tag sct sc lba).fabric = s.fabric := by cases s; rfl
@[simp] theorem logError_ledger (tag : CmdTag) (sct sc lba : Nat) : (logError s tag sct sc lba).ledger = s.ledger := by cases s; rfl
@[simp] theorem logError_sec (tag : CmdTag) (sct sc lba : Nat) : (logError s tag sct sc lba).sec = s.sec := by cases s; rfl
@[simp] theorem logError_faults (tag : CmdTag) (sct sc lba : Nat) : (logError s tag sct sc lba).faults = s.faults := by cases s; rfl
@[simp] theorem logError_fresh (tag : CmdTag) (sct sc lba : Nat) : (logError s tag sct sc lba).fresh = s.fresh := by cases s; rfl
@[simp] theorem logError_out (tag : CmdTag) (sct sc lba : Nat) : (logError s tag sct sc lba).out = s.out := by cases s; rfl
@[simp] theorem logError_pending (tag : CmdTag) (sct sc lba : Nat) : (logError s tag sct sc lba).pending = s.pending := by cases s; rfl

/-! `healthChanged` -/

@[simp] theorem healthChanged_build : (healthChanged s).build = s.build := by cases s; rfl
@[simp] theorem healthChanged_nv : (healthChanged s).nv = s.nv := by cases s; rfl
@[simp] theorem healthChanged_packages : (healthChanged s).packages = s.packages := by cases s; rfl
@[simp] theorem healthChanged_corpus : (healthChanged s).corpus = s.corpus := by cases s; rfl
@[simp] theorem healthChanged_power : (healthChanged s).power = s.power := by cases s; rfl
@[simp] theorem healthChanged_tb : (healthChanged s).tb = s.tb := by cases s; rfl
@[simp] theorem healthChanged_latch : (healthChanged s).latch = s.latch := by cases s; rfl
@[simp] theorem healthChanged_readData : (healthChanged s).readData = s.readData := by cases s; rfl
@[simp] theorem healthChanged_loader : (healthChanged s).loader = s.loader := by cases s; rfl
@[simp] theorem healthChanged_tiles : (healthChanged s).tiles = s.tiles := by cases s; rfl
@[simp] theorem healthChanged_store : (healthChanged s).store = s.store := by cases s; rfl
@[simp] theorem healthChanged_dram : (healthChanged s).dram = s.dram := by cases s; rfl
@[simp] theorem healthChanged_grf : (healthChanged s).grf = s.grf := by cases s; rfl
@[simp] theorem healthChanged_mover : (healthChanged s).mover = s.mover := by cases s; rfl
@[simp] theorem healthChanged_scan : (healthChanged s).scan = s.scan := by cases s; rfl
@[simp] theorem healthChanged_search : (healthChanged s).search = s.search := by cases s; rfl
@[simp] theorem healthChanged_fabric : (healthChanged s).fabric = s.fabric := by cases s; rfl
@[simp] theorem healthChanged_ledger : (healthChanged s).ledger = s.ledger := by cases s; rfl
@[simp] theorem healthChanged_sec : (healthChanged s).sec = s.sec := by cases s; rfl
@[simp] theorem healthChanged_faults : (healthChanged s).faults = s.faults := by cases s; rfl
@[simp] theorem healthChanged_fresh : (healthChanged s).fresh = s.fresh := by cases s; rfl
@[simp] theorem healthChanged_out : (healthChanged s).out = s.out := by cases s; rfl
@[simp] theorem healthChanged_pending : (healthChanged s).pending = s.pending := by cases s; rfl

/-! `logFault` -/

@[simp] theorem logFault_build (r : FaultRec) : (logFault s r).build = s.build := by cases s; rfl
@[simp] theorem logFault_packages (r : FaultRec) : (logFault s r).packages = s.packages := by cases s; rfl
@[simp] theorem logFault_corpus (r : FaultRec) : (logFault s r).corpus = s.corpus := by cases s; rfl
@[simp] theorem logFault_power (r : FaultRec) : (logFault s r).power = s.power := by cases s; rfl
@[simp] theorem logFault_tb (r : FaultRec) : (logFault s r).tb = s.tb := by cases s; rfl
@[simp] theorem logFault_latch (r : FaultRec) : (logFault s r).latch = s.latch := by cases s; rfl
@[simp] theorem logFault_readData (r : FaultRec) : (logFault s r).readData = s.readData := by cases s; rfl
@[simp] theorem logFault_loader (r : FaultRec) : (logFault s r).loader = s.loader := by cases s; rfl
@[simp] theorem logFault_tiles (r : FaultRec) : (logFault s r).tiles = s.tiles := by cases s; rfl
@[simp] theorem logFault_store (r : FaultRec) : (logFault s r).store = s.store := by cases s; rfl
@[simp] theorem logFault_dram (r : FaultRec) : (logFault s r).dram = s.dram := by cases s; rfl
@[simp] theorem logFault_grf (r : FaultRec) : (logFault s r).grf = s.grf := by cases s; rfl
@[simp] theorem logFault_mover (r : FaultRec) : (logFault s r).mover = s.mover := by cases s; rfl
@[simp] theorem logFault_scan (r : FaultRec) : (logFault s r).scan = s.scan := by cases s; rfl
@[simp] theorem logFault_search (r : FaultRec) : (logFault s r).search = s.search := by cases s; rfl
@[simp] theorem logFault_fabric (r : FaultRec) : (logFault s r).fabric = s.fabric := by cases s; rfl
@[simp] theorem logFault_host (r : FaultRec) : (logFault s r).host = s.host := by cases s; rfl
@[simp] theorem logFault_ledger (r : FaultRec) : (logFault s r).ledger = s.ledger := by cases s; rfl
@[simp] theorem logFault_sec (r : FaultRec) : (logFault s r).sec = s.sec := by cases s; rfl
@[simp] theorem logFault_faults (r : FaultRec) : (logFault s r).faults = s.faults := by cases s; rfl
@[simp] theorem logFault_fresh (r : FaultRec) : (logFault s r).fresh = s.fresh := by cases s; rfl
@[simp] theorem logFault_out (r : FaultRec) : (logFault s r).out = s.out := by cases s; rfl
@[simp] theorem logFault_pending (r : FaultRec) : (logFault s r).pending = s.pending := by cases s; rfl

/-! `interrupting` -/

@[simp] theorem interrupting_build (cause unit : Nat) : (interrupting s cause unit).build = s.build := by cases s; rfl
@[simp] theorem interrupting_packages (cause unit : Nat) : (interrupting s cause unit).packages = s.packages := by cases s; rfl
@[simp] theorem interrupting_corpus (cause unit : Nat) : (interrupting s cause unit).corpus = s.corpus := by cases s; rfl
@[simp] theorem interrupting_power (cause unit : Nat) : (interrupting s cause unit).power = s.power := by cases s; rfl
@[simp] theorem interrupting_tb (cause unit : Nat) : (interrupting s cause unit).tb = s.tb := by cases s; rfl
@[simp] theorem interrupting_latch (cause unit : Nat) : (interrupting s cause unit).latch = s.latch := by cases s; rfl
@[simp] theorem interrupting_readData (cause unit : Nat) : (interrupting s cause unit).readData = s.readData := by cases s; rfl
@[simp] theorem interrupting_loader (cause unit : Nat) : (interrupting s cause unit).loader = s.loader := by cases s; rfl
@[simp] theorem interrupting_tiles (cause unit : Nat) : (interrupting s cause unit).tiles = s.tiles := by cases s; rfl
@[simp] theorem interrupting_store (cause unit : Nat) : (interrupting s cause unit).store = s.store := by cases s; rfl
@[simp] theorem interrupting_dram (cause unit : Nat) : (interrupting s cause unit).dram = s.dram := by cases s; rfl
@[simp] theorem interrupting_grf (cause unit : Nat) : (interrupting s cause unit).grf = s.grf := by cases s; rfl
@[simp] theorem interrupting_mover (cause unit : Nat) : (interrupting s cause unit).mover = s.mover := by cases s; rfl
@[simp] theorem interrupting_scan (cause unit : Nat) : (interrupting s cause unit).scan = s.scan := by cases s; rfl
@[simp] theorem interrupting_search (cause unit : Nat) : (interrupting s cause unit).search = s.search := by cases s; rfl
@[simp] theorem interrupting_fabric (cause unit : Nat) : (interrupting s cause unit).fabric = s.fabric := by cases s; rfl
@[simp] theorem interrupting_host (cause unit : Nat) : (interrupting s cause unit).host = s.host := by cases s; rfl
@[simp] theorem interrupting_ledger (cause unit : Nat) : (interrupting s cause unit).ledger = s.ledger := by cases s; rfl
@[simp] theorem interrupting_sec (cause unit : Nat) : (interrupting s cause unit).sec = s.sec := by cases s; rfl
@[simp] theorem interrupting_faults (cause unit : Nat) : (interrupting s cause unit).faults = s.faults := by cases s; rfl
@[simp] theorem interrupting_fresh (cause unit : Nat) : (interrupting s cause unit).fresh = s.fresh := by cases s; rfl
@[simp] theorem interrupting_out (cause unit : Nat) : (interrupting s cause unit).out = s.out := by cases s; rfl
@[simp] theorem interrupting_pending (cause unit : Nat) : (interrupting s cause unit).pending = s.pending := by cases s; rfl

/-! `transientFault` -/

@[simp] theorem transientFault_build (cls cause unit : Nat) : (transientFault s cls cause unit).build = s.build := by cases s; rfl
@[simp] theorem transientFault_nv (cls cause unit : Nat) : (transientFault s cls cause unit).nv = s.nv := by cases s; rfl
@[simp] theorem transientFault_packages (cls cause unit : Nat) : (transientFault s cls cause unit).packages = s.packages := by cases s; rfl
@[simp] theorem transientFault_corpus (cls cause unit : Nat) : (transientFault s cls cause unit).corpus = s.corpus := by cases s; rfl
@[simp] theorem transientFault_power (cls cause unit : Nat) : (transientFault s cls cause unit).power = s.power := by cases s; rfl
@[simp] theorem transientFault_tb (cls cause unit : Nat) : (transientFault s cls cause unit).tb = s.tb := by cases s; rfl
@[simp] theorem transientFault_latch (cls cause unit : Nat) : (transientFault s cls cause unit).latch = s.latch := by cases s; rfl
@[simp] theorem transientFault_readData (cls cause unit : Nat) : (transientFault s cls cause unit).readData = s.readData := by cases s; rfl
@[simp] theorem transientFault_loader (cls cause unit : Nat) : (transientFault s cls cause unit).loader = s.loader := by cases s; rfl
@[simp] theorem transientFault_tiles (cls cause unit : Nat) : (transientFault s cls cause unit).tiles = s.tiles := by cases s; rfl
@[simp] theorem transientFault_store (cls cause unit : Nat) : (transientFault s cls cause unit).store = s.store := by cases s; rfl
@[simp] theorem transientFault_dram (cls cause unit : Nat) : (transientFault s cls cause unit).dram = s.dram := by cases s; rfl
@[simp] theorem transientFault_grf (cls cause unit : Nat) : (transientFault s cls cause unit).grf = s.grf := by cases s; rfl
@[simp] theorem transientFault_mover (cls cause unit : Nat) : (transientFault s cls cause unit).mover = s.mover := by cases s; rfl
@[simp] theorem transientFault_scan (cls cause unit : Nat) : (transientFault s cls cause unit).scan = s.scan := by cases s; rfl
@[simp] theorem transientFault_search (cls cause unit : Nat) : (transientFault s cls cause unit).search = s.search := by cases s; rfl
@[simp] theorem transientFault_fabric (cls cause unit : Nat) : (transientFault s cls cause unit).fabric = s.fabric := by cases s; rfl
@[simp] theorem transientFault_host (cls cause unit : Nat) : (transientFault s cls cause unit).host = s.host := by cases s; rfl
@[simp] theorem transientFault_ledger (cls cause unit : Nat) : (transientFault s cls cause unit).ledger = s.ledger := by cases s; rfl
@[simp] theorem transientFault_sec (cls cause unit : Nat) : (transientFault s cls cause unit).sec = s.sec := by cases s; rfl
@[simp] theorem transientFault_fresh (cls cause unit : Nat) : (transientFault s cls cause unit).fresh = s.fresh := by cases s; rfl
@[simp] theorem transientFault_out (cls cause unit : Nat) : (transientFault s cls cause unit).out = s.out := by cases s; rfl
@[simp] theorem transientFault_pending (cls cause unit : Nat) : (transientFault s cls cause unit).pending = s.pending := by cases s; rfl

/-! `permanentFault` -/

@[simp] theorem permanentFault_build (cls : Nat) : (permanentFault s cls).build = s.build := by cases s; rfl
@[simp] theorem permanentFault_packages (cls : Nat) : (permanentFault s cls).packages = s.packages := by cases s; rfl
@[simp] theorem permanentFault_corpus (cls : Nat) : (permanentFault s cls).corpus = s.corpus := by cases s; rfl
@[simp] theorem permanentFault_power (cls : Nat) : (permanentFault s cls).power = s.power := by cases s; rfl
@[simp] theorem permanentFault_tb (cls : Nat) : (permanentFault s cls).tb = s.tb := by cases s; rfl
@[simp] theorem permanentFault_latch (cls : Nat) : (permanentFault s cls).latch = s.latch := by cases s; rfl
@[simp] theorem permanentFault_readData (cls : Nat) : (permanentFault s cls).readData = s.readData := by cases s; rfl
@[simp] theorem permanentFault_loader (cls : Nat) : (permanentFault s cls).loader = s.loader := by cases s; rfl
@[simp] theorem permanentFault_tiles (cls : Nat) : (permanentFault s cls).tiles = s.tiles := by cases s; rfl
@[simp] theorem permanentFault_store (cls : Nat) : (permanentFault s cls).store = s.store := by cases s; rfl
@[simp] theorem permanentFault_dram (cls : Nat) : (permanentFault s cls).dram = s.dram := by cases s; rfl
@[simp] theorem permanentFault_grf (cls : Nat) : (permanentFault s cls).grf = s.grf := by cases s; rfl
@[simp] theorem permanentFault_mover (cls : Nat) : (permanentFault s cls).mover = s.mover := by cases s; rfl
@[simp] theorem permanentFault_scan (cls : Nat) : (permanentFault s cls).scan = s.scan := by cases s; rfl
@[simp] theorem permanentFault_search (cls : Nat) : (permanentFault s cls).search = s.search := by cases s; rfl
@[simp] theorem permanentFault_fabric (cls : Nat) : (permanentFault s cls).fabric = s.fabric := by cases s; rfl
@[simp] theorem permanentFault_host (cls : Nat) : (permanentFault s cls).host = s.host := by cases s; rfl
@[simp] theorem permanentFault_ledger (cls : Nat) : (permanentFault s cls).ledger = s.ledger := by cases s; rfl
@[simp] theorem permanentFault_sec (cls : Nat) : (permanentFault s cls).sec = s.sec := by cases s; rfl
@[simp] theorem permanentFault_faults (cls : Nat) : (permanentFault s cls).faults = s.faults := by cases s; rfl
@[simp] theorem permanentFault_fresh (cls : Nat) : (permanentFault s cls).fresh = s.fresh := by cases s; rfl
@[simp] theorem permanentFault_out (cls : Nat) : (permanentFault s cls).out = s.out := by cases s; rfl
@[simp] theorem permanentFault_pending (cls : Nat) : (permanentFault s cls).pending = s.pending := by cases s; rfl

/-! `showHours` -/

@[simp] theorem showHours_build : (showHours s).build = s.build := by cases s; rfl
@[simp] theorem showHours_nv : (showHours s).nv = s.nv := by cases s; rfl
@[simp] theorem showHours_packages : (showHours s).packages = s.packages := by cases s; rfl
@[simp] theorem showHours_corpus : (showHours s).corpus = s.corpus := by cases s; rfl
@[simp] theorem showHours_power : (showHours s).power = s.power := by cases s; rfl
@[simp] theorem showHours_tb : (showHours s).tb = s.tb := by cases s; rfl
@[simp] theorem showHours_latch : (showHours s).latch = s.latch := by cases s; rfl
@[simp] theorem showHours_readData : (showHours s).readData = s.readData := by cases s; rfl
@[simp] theorem showHours_loader : (showHours s).loader = s.loader := by cases s; rfl
@[simp] theorem showHours_tiles : (showHours s).tiles = s.tiles := by cases s; rfl
@[simp] theorem showHours_store : (showHours s).store = s.store := by cases s; rfl
@[simp] theorem showHours_dram : (showHours s).dram = s.dram := by cases s; rfl
@[simp] theorem showHours_grf : (showHours s).grf = s.grf := by cases s; rfl
@[simp] theorem showHours_mover : (showHours s).mover = s.mover := by cases s; rfl
@[simp] theorem showHours_scan : (showHours s).scan = s.scan := by cases s; rfl
@[simp] theorem showHours_search : (showHours s).search = s.search := by cases s; rfl
@[simp] theorem showHours_fabric : (showHours s).fabric = s.fabric := by cases s; rfl
@[simp] theorem showHours_host : (showHours s).host = s.host := by cases s; rfl
@[simp] theorem showHours_ledger : (showHours s).ledger = s.ledger := by cases s; rfl
@[simp] theorem showHours_sec : (showHours s).sec = s.sec := by cases s; rfl
@[simp] theorem showHours_faults : (showHours s).faults = s.faults := by cases s; rfl
@[simp] theorem showHours_fresh : (showHours s).fresh = s.fresh := by cases s; rfl
@[simp] theorem showHours_out : (showHours s).out = s.out := by cases s; rfl
@[simp] theorem showHours_pending : (showHours s).pending = s.pending := by cases s; rfl

@[simp] theorem emit_out (o : Out) : (emit s o).out = s.out ++ [o] := rfl
@[simp] theorem draw_fresh : (draw s).fresh = s.fresh + 1 := rfl
@[simp] theorem setPkg_packages (p : Nat) (x : Package) : (setPkg s p x).packages = setAt s.packages p x := rfl

end Sys2Proof.Machine
end

