-- ==== Sys2Proof/Tests/Slice0.lean ====
section
/-! SUPPORT. Tests: small states for them, ill-formed commands that the check refuses, values computed outside the model, and a witness
for the hypotheses of every clause of a statement. -/
set_option Elab.async false
set_option linter.unusedVariables false
namespace Sys2Proof.Tests
open Sys2Proof.Machine
/-- The module in service: every stage of start-up has ended. -/
def inService : State :=
  { State.reset with packages := List.replicate 4 { recovery := 6 }, power := { State.reset.power with input := true, refclk := true, perst := false, standby := 7, core := 10, linkDetect := true, configReady := true, railsUp := true, fwSlot := 1 } }
/-- The module in service with an armature in force over 1024 tiles of role 1. -/
def withArmature : State :=
  { inService with loader := { inService.loader with inForce := true, settings := { maquetteOf inService with roles := List.replicate 1024 1 } } }
/-- A state whose registers hold some values. -/
def withRegs (s : State) (l : List (Nat × Nat)) : State := l.foldl (fun s e => setNat s e.1 e.2) s
/-- That module with bytes at window address 0 and registers as given. -/
def onRing (l : List Byte) (r : List (Nat × Nat)) : State := writeLine (withRegs withArmature r) 0 l
/-- That module with a slab region and a sketch index of one cluster in flash, package 0 ready, lines of the stack window and registers. -/
def withCorpus (lines : List (Nat × List Byte)) (r : List (Nat × Nat)) : State :=
  lines.foldl (fun s e => writeLine s e.1 e.2)
    { withRegs withArmature ((ftlReg 0 0, 2 ^ 31) :: r) with
      nv := { withArmature.nv with layout := [{ type := 2, id := 0, egrp := 1, spMask := 1, sizeGib := 1, flags := 0, param := 8 },
                                              { type := 3, id := 0, egrp := 1, spMask := 1, sizeGib := 1, flags := 0, param := 0 }] }
      corpus := { indexes := [{ rtype := 3, id := 0, created := true, centroids := [List.replicate 64 0], radius := [0], nmin := [0x7F7FFFFF#32] }] } }
/-- A line of bytes, given where they are not 0. -/
def line (l : List (Nat × Byte)) : List Byte := l.foldl (fun (b : List Byte) e => b.set e.1 e.2) (List.replicate 64 0)
/-- A job of the ring's first entry. -/
def someJob (op : Nat) : Job :=
  { index := 0, op := op, region := 0, form := 0, slot := 0, var := 0, mrs := 0, limit := 0, len2 := 0, prog := [], hasProg := false, bloom := [], dst := slmAddr 4096, ridLo := 0, ridHi := 9, epoch := 1, start := 0 }
/-- A record of the slab region. -/
def someRecord : Record := { region := 0, slab := 0, rid := 1, epoch := 1, len := 40, fixed := List.replicate 8 0, vars := [], raw := List.replicate 40 0 }
/-- A descriptor of the query ring's first entry. -/
def someQuery (op : Nat) : Query :=
  { index := 0, op := op, rtype := 3, region := 0, k := 1, candMax := 16384, deadline := 0, dst := slmAddr 4096, epoch := 1, start := 0, vector := List.replicate 64 0 }
/-- A candidate of package 0. -/
def someCand : Candidate := { rid := 9, epoch := 1, package := 0, cluster := 0, vslot := 0, vector := List.replicate 64 0, upper := 0, lower := 0, admitted := true }
/-- That module with port 0 toward the parent of tree 0, ports 1 and 2 toward its children, tree 1 rooted here over port 3, and a peer on port 4. -/
def withFabric (regs : List (Nat × Nat)) : State :=
  { withRegs inService regs with
    loader := { inService.loader with
      inForce := true
      settings := { maquetteOf inService with
        portRole := [1, 1, 1, 1, 2] ++ List.replicate 11 0, moduleId := 3, fabricId := 7
        trees := [{ tree := 0, root := false, parent := 0, nchild := 2, children := [1, 2], level := 2, deadline := 9, policy := 0, updProg := 0, segFirst := 0, segCount := 2, peerId := 0xFFFF },
                  { tree := 1, root := true, parent := 0, nchild := 1, children := [3], level := 1, deadline := 9, policy := 0, updProg := 0, segFirst := 0, segCount := 2, peerId := 0xFFFF }] } } }
/-- The registers of ports 0 to 4 up, and of both trees READY. -/
def upRegs : List (Nat × Nat) :=
  [(portReg 0 0, 3 * 2 ^ 28), (portReg 1 0, 3 * 2 ^ 28), (portReg 2 0, 3 * 2 ^ 28), (portReg 3 0, 3 * 2 ^ 28), (portReg 4 0, 3 * 2 ^ 28), (treeReg 0 0, 2 ^ 28), (treeReg 1 0, 2 ^ 28)]
/-- The records of those trees. -/
def tree0 : TreeRec := { tree := 0, root := false, parent := 0, nchild := 2, children := [1, 2], level := 2, deadline := 9, policy := 0, updProg := 0, segFirst := 0, segCount := 2, peerId := 0xFFFF }
def tree1 : TreeRec := { tree := 1, root := true, parent := 0, nchild := 1, children := [3], level := 1, deadline := 9, policy := 0, updProg := 0, segFirst := 0, segCount := 2, peerId := 0xFFFF }
/-- A packet of a tree. -/
def somePacket (t seg : Nat) : Packet :=
  { tree := t, flags := 0, fmt := 0, step := 0, seg := seg, srcModule := 9, position := 4, fabricId := 7, nflags := 0, dst := 0, payload := List.replicate 64 1, crcOk := true }
/-- That module as tree 1's first sum waits for a step size that is there. -/
def updReady : State :=
  { withFabric (upRegs ++ [(UPD_PROG_VALID, 1), (UPD_SLOT 0 0, 2), (updReg 1 0x20, 4096), (updReg 1 0, 2 ^ 26)]) with fabric := { trees := [(1, { sums := [(0, [], 0, 0)] })] } }
/-- A part at address 0 of its tile's store. -/
def somePart : Part := { ref := { run := 1, kernel := 0, part := 0 }, pc := 0, start := 0, outRound := 0, fp8Ovf := 0 }
/-- A weight block of one FP32 weight. -/
def someBlock : WBlock := { wfmt := 8, afmt := 4, k := 1, group := 32, scaled := false, wAddr := 64, sAddr := 0, columns := [{ weights := [0], scales := [] }] }
/-- A STREAM of one row. -/
def someStream : StreamSt := { rows := 1, inAddr := 64, inStride := 1, outAddr := 128, outStride := 1, accAddr := 0, outFmt := 0, accMode := 0, hist := false }
/-- A VEC of one element. -/
def someVec : VecSt := { func := 0, n := 1, aAddr := 64, bAddr := 65, cAddr := 0, dAddr := 66, inFmt := 0, outFmt := 0, hist := false }
/-- The module with tile 5 as given and bytes of its store, by their addresses. -/
def onTile (x : Tile) (l : List (Nat × Byte)) : State :=
  { inService with tiles := [(5, x)], store := l.foldl (fun m e => Memory.setByte m (storeKey 5 e.1) e.2) [] }
/-- A graph of one kernel on tile 5, with a run of it. -/
def someGraph : Graph :=
  { flags := 0, cls := 0, armId := 0, deadline := 0, len := 128, kernels := [{ role := 1, kflags := 0, wfmt := 8, afmt := 4, group := 0, outRound := 0, fp8Ovf := 0, prefetch := 0, places := [{ tile := 5, progUnit := 0, progAt := 0, progBytes := 16 }], preds := [], energyUj := 0, steps := 0, deadline := 0, opnds := [] }]
    programs := List.replicate 16 0, serving := none, factors := [256] }
/-- That graph with a program of one LOADW from address 0. -/
def loadGraph : Graph := { someGraph with programs := (List.replicate 16 (0 : Byte)).set 7 2 }
/-- The graph engine while part 0 of that kernel runs. -/
def someGrf : GraphEngine :=
  { slots := [(0, some someGraph)], active := [0], runs := [{ id := 1, slot := 0, mrs := 0, tag := none, kernels := [{ status := 255, partsLeft := 1 }] }], nextRun := 2 }
/-- A graph image of one kernel on tile 5 whose program is one END; its CRC-32C was computed outside the model. -/
def someImage : List Byte :=
  [(0, 83), (1, 80), (2, 76), (3, 71), (4, 3), (8, 48), (9, 1), (12, 1), (24, 128), (29, 1), (32, 16), (33, 1), (36, 32), (37, 1), (40, 16), (124, 65), (125, 141), (126, 96), (127, 188), (128, 1), (130, 255), (131, 255), (132, 255), (133, 255), (134, 255), (140, 1), (256, 5), (268, 16), (295, 15)].foldl
    (fun (l : List Byte) (e : Nat × Byte) => l.set e.1 e.2) (List.replicate 304 0)
/-- An NVM namespace of 1 GiB on package 0. -/
def someNs : Region := { type := 1, id := 1, egrp := 1, spMask := 1, sizeGib := 1, flags := 0, param := 0 }
/-- The module in service with that namespace and package 0 as given: every package ready and reachable, a covered watermark of 4,096 units,
both windows' limits at their resets, and registers as given. -/
def withFlash (x : Package) (r : List (Nat × Nat)) : State :=
  { withRegs withArmature ([(ftlReg 0 0, 2 ^ 31), (ftlReg 1 0, 2 ^ 31), (ftlReg 2 0, 2 ^ 31), (ftlReg 3 0, 2 ^ 31), (portReg 16 0, 3 * 2 ^ 28), (portReg 18 0, 3 * 2 ^ 28), (portReg 20 0, 3 * 2 ^ 28), (portReg 22 0, 3 * 2 ^ 28), (ftlReg 0 0x10, 4096)] ++ r) with
    packages := x :: List.replicate 3 { recovery := 6 }, nv := { withArmature.nv with layout := [someNs] } }
/-- A package at work with unit 0 programmed on channel 1, in an open block. -/
def somePkg : Package :=
  { recovery := 6, wseq := 5, map := [(0, 2 ^ 28)], nand := [(2 ^ 28, some { lunit := 0, kind := 1, lostMask := 0, wseq := 5, srcSeq := 0, data := [(0, 7)] })]
    blocks := [(62500, { state := 2 })], groups := [{ id := 0, half := 0, egrp := 0, slc := false, members := (List.range 16).map (fun c => c * 62500) }] }
/-- A command's tag. -/
def someTag : CmdTag := { sq := 1, cid := 9 }


/-! ## Every check of `wellFormed` refuses a command that fails it -/

theorem test_wellformed_refuses_1 : ([.registerWrite 0x4000000 0 0,
  .registerWrite 0 (64 + 1) 0,
  .rcCounterRead ⟨0x4000000, 0⟩,
  .rcCounterRead ⟨0, (64 + 1)⟩,
  .lowWordRead ⟨0x4000000, 0⟩,
  .lowWordRead ⟨0, (64 + 1)⟩,
  .stream ⟨1024, .clean⟩,
  .loadw ⟨1024, .clean⟩,
  .swap ⟨1024, .clean⟩,
  .vec ⟨1024, .clean⟩,
  .send ⟨1024, .clean⟩,
  .sync ⟨1024, .clean⟩,
  .tileEnd ⟨1024, .clean⟩,
  .rowStep 1024 false .clean,
  .vectorStep 1024 .clean,
  .shadowFillDone 1024 .clean,
  .sendComplete 1024 .clean,
  .syncRelease 1024,
  .rampStageEnd 1024,
  .idleGapEnd 1024,
  .arrayRefillDone ⟨1024, .clean⟩,
  .tileStoreScrub 1024 .clean,
  .watchdogExpiry 1024,
  .lateAck 1024] : List Instr).all (fun i => !wellFormed i) = true := by decide +kernel

theorem test_wellformed_refuses_2 : ([.retire 1024 0,
  .histogramClear 1024 false 0,
  .histogramClear 0 false 4,
  .freeze 1024 false,
  .histogramMode 1024 0,
  .histogramMode 0 4,
  .loadProgram ⟨(256 + 1), 0⟩ 0 [],
  .loadProgram ⟨0, 65536⟩ 0 [],
  .loadProgram ⟨0, 0⟩ 65536 [],
  .programActivationManagement ⟨(256 + 1), 0⟩ 0 false,
  .programActivationManagement ⟨0, 65536⟩ 0 false,
  .programActivationManagement ⟨0, 0⟩ 65536 false,
  .memoryRangeSetManagement ⟨(256 + 1), 0⟩ 0 [],
  .memoryRangeSetManagement ⟨0, 65536⟩ 0 [],
  .memoryRangeSetManagement ⟨0, 0⟩ 65536 [],
  .executeProgram ⟨(256 + 1), 0⟩ 0 0 [],
  .executeProgram ⟨0, 65536⟩ 0 0 [],
  .executeProgram ⟨0, 0⟩ 65536 0 [],
  .executeProgram ⟨0, 0⟩ 0 65536 [],
  .executeProgram ⟨0, 0⟩ 0 0 (List.replicate (4096 + 1) 0),
  .preemption 16,
  .stepBoundary 256,
  .grfSeqSel 4096,
  .tierMqTail 65536] : List Instr).all (fun i => !wellFormed i) = true := by decide +kernel

theorem test_wellformed_refuses_3 : ([.moveComplete 65536,
  .memoryPatrolScrub false 20 0 0 .clean,
  .memoryPatrolScrub false 0 64 0 .clean,
  .pseudoChannelFault 20 0 0 false,
  .pseudoChannelFault 0 64 0 false,
  .migrationDone 20 0,
  .migrationDone 0 64,
  .scnJqTail 65536,
  .jobCommit 65536,
  .slabScan 65536 0 false 0,
  .jobComplete 65536 0,
  .compaction 65536 0,
  .scnJqCancel 65536,
  .srcQqTail 65536,
  .centroidScores 65536,
  .raspBatch 4 0 0 [],
  .raspBatch 0 65536 0 [],
  .raspBatch 0 0 (2 ^ 32) [],
  .vectorFetch 65536 0 false false,
  .vectorFetch 0 4 false false,
  .thresholdExchange 65536 0 0,
  .thresholdExchange 0 4 0,
  .thresholdExchange 0 0 4,
  .queryContextComplete 65536 0] : List Instr).all (fun i => !wellFormed i) = true := by decide +kernel

theorem test_wellformed_refuses_4 : ([.queryContextComplete 0 4,
  .queryDeadlineExpiry 65536,
  .srcQqCancel 65536,
  .trainingDone 24,
  .hello ⟨24, []⟩ ⟨0, 0, 0, 0, []⟩,
  .helloResend 24,
  .flitDiscard 24,
  .idle 24 0 0 0 false,
  .nak ⟨24, []⟩ 0,
  .replayLimit 24,
  .laneMap ⟨24, []⟩ 0 0,
  .laneMap ⟨0, []⟩ 256 0,
  .tsReq ⟨24, []⟩ 0 0,
  .tsRsp ⟨24, []⟩ 0 0 0 0,
  .window ⟨24, []⟩ 0 0 0 0,
  .window ⟨0, []⟩ 16 0 0 0,
  .abortFlit ⟨24, []⟩ 0 0 0 0,
  .abortFlit ⟨0, []⟩ 16 0 0 0,
  .depart ⟨24, []⟩ 0,
  .depart ⟨0, []⟩ 8192,
  .census ⟨24, []⟩ 0 0,
  .census ⟨0, []⟩ 16 0,
  .mode ⟨24, []⟩ 0 0 0,
  .mode ⟨0, []⟩ 16 0 0] : List Instr).all (fun i => !wellFormed i) = true := by decide +kernel

theorem test_wellformed_refuses_5 : ([.creditInit ⟨24, []⟩ 0 [],
  .creditInit ⟨0, []⟩ 65536 [],
  .peerAck ⟨24, []⟩ 0 0,
  .grad ⟨24, []⟩ ⟨0, 0, 0, 0, 0, 0, 0, 0, 0, 0, [], true⟩,
  .racc ⟨24, []⟩ ⟨0, 0, 0, 0, 0, 0, 0, 0, 0, 0, [], true⟩,
  .param ⟨24, []⟩ ⟨0, 0, 0, 0, 0, 0, 0, 0, 0, 0, [], true⟩,
  .peerWr ⟨24, []⟩ ⟨0, 0, 0, 0, 0, 0, 0, 0, 0, 0, [], true⟩,
  .lossOfLock ⟨24, false, 0⟩,
  .lossOfLock ⟨0, false, 8⟩,
  .fecErrorLimit ⟨24, false, 0⟩ 0,
  .fecErrorLimit ⟨0, false, 8⟩ 0,
  .laneRetrainDone ⟨24, false, 0⟩ false,
  .laneRetrainDone ⟨0, false, 8⟩ false,
  .reductionDeadlineExpiry 16 0,
  .segmentSum 16 0 false,
  .post 16 0,
  .post 0 (2 ^ 32),
  .hostAbort 16,
  .resume 16,
  .hold 16,
  .release 16,
  .go 16,
  .load 16,
  .updateSegment 16 0] : List Instr).all (fun i => !wellFormed i) = true := by decide +kernel

theorem test_wellformed_refuses_6 : ([.lrTagCommit 16 0,
  .lrWaitExpiry 16,
  .updLogSel 64,
  .writeAdmission 4,
  .nandProgramDone 4 0 0 false,
  .nandProgramDone 0 (2 ^ 32) 0 false,
  .journalCommit 4 false,
  .castWrite 4,
  .gcBatch 4 ⟨0, 0, 0⟩ [],
  .gcBatch 0 ⟨32, 0, 0⟩ [],
  .gcBatch 0 ⟨0, 10, 0⟩ [],
  .blockErase 4 0,
  .eraseDone 4 ⟨0, 0, 0⟩ false,
  .eraseDone 0 ⟨32, 0, 0⟩ false,
  .eraseDone 0 ⟨0, 10, 0⟩ false,
  .eraseSuspend 4 ⟨0, 0, 0⟩,
  .eraseSuspend 0 ⟨32, 0, 0⟩,
  .eraseSuspend 0 ⟨0, 10, 0⟩,
  .dirtyListWritten 4,
  .holdupFlushDone ⟨4, []⟩,
  .sealWritten 4,
  .journalHeadsLocated 4,
  .castsLoaded 4,
  .journalReplayed 4] : List Instr).all (fun i => !wellFormed i) = true := by decide +kernel

theorem test_wellformed_refuses_7 : ([.dirtyListsReconciled 4,
  .validCountsRebuilt 4,
  .packageReady 4 0,
  .mapLineRebuild 4 0 false,
  .writeBufferFlush 4,
  .castNow 4,
  .shutdownNotification 4,
  .nandReadDone 4 0 .hard,
  .nandReadDone 0 (2 ^ 32) .hard,
  .retentionPatrol 4 ⟨0, 0, 0⟩ false,
  .retentionPatrol 0 ⟨32, 0, 0⟩ false,
  .retentionPatrol 0 ⟨0, 10, 0⟩ false,
  .rawRead 4 0 .hard,
  .readNoecc 4 0 (List.replicate 18592 0),
  .readNoecc 0 0 (List.replicate 18591 0),
  .medBlkSel 4 0,
  .dieBusyTimeout 4 0 false,
  .dieBusyTimeout 0 32 false,
  .channelTransientFault 4 0 0 false,
  .channelTransientFault 0 32 0 false,
  .rebuildGroupDone 4,
  .poisonedTlp ⟨(256 + 1), 0⟩,
  .poisonedTlp ⟨0, 65536⟩,
  .completionTimeout ⟨(256 + 1), 0⟩] : List Instr).all (fun i => !wellFormed i) = true := by decide +kernel

theorem test_wellformed_refuses_8 : ([.completionTimeout ⟨0, 65536⟩,
  .sqTailDoorbell 65536 0,
  .sqTailDoorbell 0 65536,
  .cqHeadDoorbell 65536 0,
  .cqHeadDoorbell 0 65536,
  .commandFetch ⟨(256 + 1), 0⟩ 0 0 0 0,
  .commandFetch ⟨0, 65536⟩ 0 0 0 0,
  .commandFetch ⟨0, 0⟩ 256 0 0 0,
  .commandFetch ⟨0, 0⟩ 0 (2 ^ 32) 0 0,
  .identify ⟨(256 + 1), 0⟩ 0 0,
  .identify ⟨0, 65536⟩ 0 0,
  .identify ⟨0, 0⟩ 256 0,
  .identify ⟨0, 0⟩ 0 (2 ^ 32),
  .getFeatures ⟨(256 + 1), 0⟩ 0,
  .getFeatures ⟨0, 65536⟩ 0,
  .getFeatures ⟨0, 0⟩ 256,
  .setFeatures ⟨(256 + 1), 0⟩ 0 0 [],
  .setFeatures ⟨0, 65536⟩ 0 0 [],
  .setFeatures ⟨0, 0⟩ 256 0 [],
  .setFeatures ⟨0, 0⟩ 0 (2 ^ 32) [],
  .getLogPage ⟨(256 + 1), 0⟩ 0 0 0,
  .getLogPage ⟨0, 65536⟩ 0 0 0,
  .getLogPage ⟨0, 0⟩ 256 0 0,
  .getLogPage ⟨0, 0⟩ 0 16 0] : List Instr).all (fun i => !wellFormed i) = true := by decide +kernel

theorem test_wellformed_refuses_9 : ([.getLogPage ⟨0, 0⟩ 0 0 (2 ^ 32),
  .createIoSubmissionQueue ⟨(256 + 1), 0⟩ 0 0 0,
  .createIoSubmissionQueue ⟨0, 65536⟩ 0 0 0,
  .createIoSubmissionQueue ⟨0, 0⟩ 65536 0 0,
  .createIoSubmissionQueue ⟨0, 0⟩ 0 0 65536,
  .createIoCompletionQueue ⟨(256 + 1), 0⟩ 0 0 0,
  .createIoCompletionQueue ⟨0, 65536⟩ 0 0 0,
  .createIoCompletionQueue ⟨0, 0⟩ 65536 0 0,
  .deleteIoSubmissionQueue ⟨(256 + 1), 0⟩ 0,
  .deleteIoSubmissionQueue ⟨0, 65536⟩ 0,
  .deleteIoSubmissionQueue ⟨0, 0⟩ 65536,
  .deleteIoCompletionQueue ⟨(256 + 1), 0⟩ 0,
  .deleteIoCompletionQueue ⟨0, 65536⟩ 0,
  .deleteIoCompletionQueue ⟨0, 0⟩ 65536,
  .abort ⟨(256 + 1), 0⟩ ⟨0, 0⟩,
  .abort ⟨0, 65536⟩ ⟨0, 0⟩,
  .abort ⟨0, 0⟩ ⟨(256 + 1), 0⟩,
  .abort ⟨0, 0⟩ ⟨0, 65536⟩,
  .asynchronousEventRequest ⟨(256 + 1), 0⟩,
  .asynchronousEventRequest ⟨0, 65536⟩,
  .firmwareImageDownload ⟨(256 + 1), 0⟩ 0 [],
  .firmwareImageDownload ⟨0, 65536⟩ 0 [],
  .firmwareCommit ⟨(256 + 1), 0⟩ 0 0,
  .firmwareCommit ⟨0, 65536⟩ 0 0] : List Instr).all (fun i => !wellFormed i) = true := by decide +kernel

theorem test_wellformed_refuses_10 : ([.firmwareCommit ⟨0, 0⟩ 8 0,
  .firmwareCommit ⟨0, 0⟩ 0 8,
  .formatNvm ⟨(256 + 1), 0⟩ 0 0,
  .formatNvm ⟨0, 65536⟩ 0 0,
  .formatNvm ⟨0, 0⟩ (2 ^ 32) 0,
  .deviceSelfTest ⟨(256 + 1), 0⟩ 0,
  .deviceSelfTest ⟨0, 65536⟩ 0,
  .read ⟨(256 + 1), 0⟩ 0 0 0,
  .read ⟨0, 65536⟩ 0 0 0,
  .read ⟨0, 0⟩ (2 ^ 32) 0 0,
  .read ⟨0, 0⟩ 0 (2 ^ 64) 0,
  .read ⟨0, 0⟩ 0 0 (65536 + 1),
  .write ⟨(256 + 1), 0⟩ 0 0 [],
  .write ⟨0, 65536⟩ 0 0 [],
  .write ⟨0, 0⟩ (2 ^ 32) 0 [],
  .write ⟨0, 0⟩ 0 (2 ^ 64) [],
  .flush ⟨(256 + 1), 0⟩ 0,
  .flush ⟨0, 65536⟩ 0,
  .flush ⟨0, 0⟩ (2 ^ 32),
  .writeZeroes ⟨(256 + 1), 0⟩ 0 0 0 false,
  .writeZeroes ⟨0, 65536⟩ 0 0 0 false,
  .writeZeroes ⟨0, 0⟩ (2 ^ 32) 0 0 false,
  .writeZeroes ⟨0, 0⟩ 0 (2 ^ 64) 0 false,
  .writeZeroes ⟨0, 0⟩ 0 0 (65536 + 1) false] : List Instr).all (fun i => !wellFormed i) = true := by decide +kernel

theorem test_wellformed_refuses_11 : ([.datasetManagement ⟨(256 + 1), 0⟩ 0 [],
  .datasetManagement ⟨0, 65536⟩ 0 [],
  .datasetManagement ⟨0, 0⟩ (2 ^ 32) [],
  .memoryRead ⟨(256 + 1), 0⟩ 0 0,
  .memoryRead ⟨0, 65536⟩ 0 0,
  .memoryRead ⟨0, 0⟩ (2 ^ 64) 0,
  .memoryRead ⟨0, 0⟩ 0 (2 ^ 32),
  .memoryWrite ⟨(256 + 1), 0⟩ 0 [],
  .memoryWrite ⟨0, 65536⟩ 0 [],
  .memoryWrite ⟨0, 0⟩ (2 ^ 64) [],
  .memoryCopy ⟨(256 + 1), 0⟩ 0 [] 0,
  .memoryCopy ⟨0, 65536⟩ 0 [] 0,
  .memoryCopy ⟨0, 0⟩ (2 ^ 32) [] 0,
  .apstIdleTimerExpiry 32,
  .vpdRead 0 65536,
  .getCertificate .mctp 0 0 (2 ^ 32),
  .getMeasurements .mctp 65536 [],
  .glbIdsel 2048,
  .faultWindowLapse 5 0,
  .fwWindowHi 4 0,
  .fwWindowLo 4 0,
  .glbFrecSel 4096,
  .fillerStep 1024,
  .holdupExhausted 4] : List Instr).all (fun i => !wellFormed i) = true := by decide +kernel

theorem test_wellformed_refuses_12 : ([.linkUp 8 0 false,
  .linkUp 0 (8 + 1) false,
  .hostReadCompletionError ⟨(256 + 1), 0⟩,
  .hostReadCompletionError ⟨0, 65536⟩,
  .mctpControlMessage 256,
  .optionAreaMoveDone 2,
  .selfTestSegmentDone false 1024] : List Instr).all (fun i => !wellFormed i) = true := by decide +kernel

/-! ## Values computed outside the model -/

/-- CRC-32C of the nine digits "123456789" (the published check value of the polynomial). -/
theorem test_crc32c : crc32c [0x31, 0x32, 0x33, 0x34, 0x35, 0x36, 0x37, 0x38, 0x39] = 0xE3069283 := by decide +kernel

/-- 64-bit FNV-1a of "a" (the published test vector). -/
theorem test_fnv1a : fnv1a [0x61] 0xCBF29CE484222325 = 0xAF63DC4C8601EC8C := by decide +kernel

/-- A reserved range discards its write and counts it (R37, R38). -/
theorem test_reserved_write : exec (.registerWrite 0x10 4 7) inService = .next (accErr inService) := by rfl

/-- With the queue empty, nothing pends after a step. -/
theorem test_idle : ∃ t, step State.reset = .next t ∧ t.pending = [] := ⟨_, rfl, rfl⟩

/-- Both cases of the statement about reserved ranges can be met: offset 0x10 is reserved, and a build of one package has no second one. -/
theorem met_ReservedRangesRefuse_1 : ∃ (off : Nat) (s : State), off < 0x4000000 ∧ windowOpen s = true ∧ s.power.recovery = false ∧
    unfittedOffset s.build off = false ∧ regRow off = none := ⟨0x10, inService, by decide⟩

theorem met_ReservedRangesRefuse_2 : ∃ (off : Nat) (s : State), off < 0x4000000 ∧ windowOpen s = true ∧ s.power.recovery = false ∧
    unfittedOffset s.build off = true := ⟨0x140000, { inService with build := { inService.build with sp := 1 } }, by decide⟩


theorem met_PlainDescentOnOneElement_1 : ∃ c : UpdIn, c.ofmt = 0 ∧ c.ornd = 0 :=
  ⟨{ sum := 0x3F400000, master := 0x3E800000, state := 0, lr := 0x3A800000, k := [0xBF800000], ofmt := 0, ornd := 0, rnd := 0 }, rfl, rfl⟩

/-! ## The hypotheses of the statements can be met -/

theorem met_StandbyStageSteps_1 : ∃ (s : State), s.power.standby = 0 ∧ s.power.down = none ∧ s.power.input = false ∧ s.power.pwrdis = false ∧ s.power.overcurrent = false := ⟨State.reset, by decide⟩

theorem met_StandbyStageSteps_2 : ∃ (s : State), s.power.standby = 1 := ⟨atStandby State.reset 1, by decide⟩

theorem met_StandbyStageSteps_3 : ∃ (strap : Bool) (s : State), s.power.standby = 2 := ⟨true, atStandby State.reset 2, by decide⟩

theorem met_StandbyStageSteps_4 : ∃ (copies : CopiesRead) (s : State), s.power.standby = 3 := ⟨⟨true, false⟩, atStandby State.reset 3, by decide⟩

theorem met_StandbyStageSteps_5 : ∃ (good : Bool) (s : State), s.power.standby = 4 := ⟨true, atStandby State.reset 4, by decide⟩

theorem met_FirmwareIsChosenAndRuns_1 : ∃ (s : State), s.power.standby = 5 ∧ fwGood s (if s.nv.fwPending ≠ 0 then s.nv.fwPending else s.nv.fwActive) = true := ⟨atStandby State.reset 5, by decide⟩

theorem met_FirmwareIsChosenAndRuns_2 : ∃ (s : State), s.power.standby = 5 ∧ fwGood s (if s.nv.fwPending ≠ 0 then s.nv.fwPending else s.nv.fwActive) = false ∧ fwGood s (otherFw (if s.nv.fwPending ≠ 0 then s.nv.fwPending else s.nv.fwActive)) = true := ⟨{ atStandby State.reset 5 with nv := { State.reset.nv with fwPending := 2 } }, by decide⟩

theorem met_FirmwareIsChosenAndRuns_3 : ∃ (s : State), s.power.standby = 5 ∧ fwGood s 1 = false ∧ fwGood s 2 = false ∧ ((s.nv.fwPending = 0 ∨ s.nv.fwPending = 1 ∨ s.nv.fwPending = 2)) ∧ ((s.nv.fwActive = 1 ∨ s.nv.fwActive = 2)) := ⟨{ atStandby State.reset 5 with nv := { State.reset.nv with fw1 := none } }, by decide⟩

theorem met_FirmwareIsChosenAndRuns_4 : ∃ (s : State), s.power.standby = 6 ∧ s.power.recovery = false := ⟨atStandby State.reset 6, by decide⟩

theorem met_FirmwareIsChosenAndRuns_5 : ∃ (s : State), running s = true ∧ s.power.recovery = false ∧ s.power.perst = false ∧ s.power.standby = 7 ∧ 1 ≤ s.power.core ∧ s.power.core < 10 ∧ fwGood s (otherFw s.power.fwSlot) = true := ⟨{ inService with power := { inService.power with core := 5 }, nv := { State.reset.nv with fw2 := some {} } }, by decide⟩

theorem met_FirmwareIsChosenAndRuns_6 : ∃ (s : State), running s = true ∧ s.power.restartPending = true := ⟨{ inService with power := { inService.power with restartPending := true, recovery := true } }, by decide⟩

theorem met_CoreStageSteps_1 : ∃ (strap : Bool) (s : State), s.power.perst = true ∧ 2 ≤ s.power.standby ∧ s.power.down = none ∧ s.power.restartPending = false := ⟨true, { inService with power := { inService.power with perst := true, core := 0 } }, by decide⟩

theorem met_CoreStageSteps_2 : ∃ (s : State), 1 ≤ s.power.core := ⟨inService, by decide⟩

theorem met_CoreStageSteps_3 : ∃ (s : State), s.power.linkDetect = true := ⟨inService, by decide⟩

theorem met_CoreStageSteps_4 : ∃ (s : State), s.power.core = 4 := ⟨{ inService with power := { inService.power with core := 4 } }, by decide⟩

theorem met_CoreStageSteps_5 : ∃ (s : State), s.power.core = 5 := ⟨{ inService with power := { inService.power with core := 5 } }, by decide⟩

theorem met_CoreStageSteps_6 : ∃ (failed : List Nat) (s : State), s.power.core = 6 := ⟨[3], { inService with power := { inService.power with core := 6 } }, by decide⟩

theorem met_CoreStageSteps_7 : ∃ (good : Bool) (s : State), s.power.core = 7 ∧ selectorOf s.nv = none := ⟨true, { inService with power := { inService.power with core := 7 }, nv := { State.reset.nv with selA := { crcOk := false }, selB := { crcOk := false } } }, by decide⟩

theorem met_CoreStageSteps_8 : ∃ (again : Bool) (s : State) (a : Armature), s.power.core = 8 ∧ s.loader.next = some a ∧ reqReachable s a = true := ⟨false, { inService with power := { inService.power with core := 8 }, loader := { inService.loader with next := some { maquetteOf inService with reqSp := 0 } } }, { maquetteOf inService with reqSp := 0 }, ⟨by decide, rfl, by decide⟩⟩

theorem met_ResetsStopTheCore_1 : ∃ (s : State), running s = true ∧ s.power.perst = false := ⟨inService, by decide⟩

theorem met_ResetsStopTheCore_2 : ∃ (s : State), running s = true ∧ s.power.perst = false ∧ s.power.restartPending = false := ⟨inService, by decide⟩

theorem met_PowerGoesDown_1 : ∃ (p : Nat) (s : State), s.power.standby ≠ 0 ∧ s.power.down = none ∧ p < s.build.sp ∧ p < s.packages.length ∧ alive s p = true := ⟨0, inService, by decide⟩

theorem met_PowerGoesDown_2 : ∃ (p : Nat) (s : State), s.power.standby ≠ 0 ∧ s.power.down = none ∧ p < s.build.sp ∧ p < s.packages.length ∧ alive s p = true := ⟨0, inService, by decide⟩

theorem met_PowerGoesDown_3 : ∃ (p : Nat) (s : State), s.power.standby ≠ 0 ∧ s.power.down = none ∧ p < s.build.sp ∧ p < s.packages.length ∧ alive s p = true := ⟨0, inService, by decide⟩

theorem met_PowerGoesDown_4 : ∃ (p : Nat) (s : State), 2 ≤ s.power.standby ∧ s.power.down = none ∧ s.power.trip = false ∧ p < s.build.sp ∧ p < s.packages.length ∧ alive s p = true := ⟨0, inService, by decide⟩

theorem met_FlushSequenceSteps_1 : ∃ (p q : Nat) (s : State), p < 4 ∧ p < s.packages.length ∧ fitted s p = true ∧ (pkg s p).flush = .listing ∧ q ≠ p := ⟨1, 0, { inService with packages := [{}, { flush := .listing }, {}, {}] }, by decide⟩

theorem met_FlushSequenceSteps_2 : ∃ (p : Nat) (l : List Nat) (s : State), p < 4 ∧ p < s.packages.length ∧ fitted s p = true ∧ (pkg s p).flush = .flushing := ⟨1, [4], { inService with packages := [{}, { flush := .flushing, wbuf := [{ lunit := 3, data := [] }, { lunit := 4, data := [] }] }, {}, {}] }, by decide⟩

theorem met_FlushSequenceSteps_3 : ∃ (p : Nat) (s : State), p < 4 ∧ p < s.packages.length ∧ fitted s p = true ∧ (pkg s p).flush = .sealing := ⟨1, { inService with packages := [{}, { flush := .sealing }, {}, {}], power := { inService.power with down := some .inputLost } }, by decide⟩

theorem met_FlushSequenceSteps_4 : ∃ (p : Nat) (s : State), p < 4 ∧ p < s.packages.length ∧ fitted s p = true ∧ (pkg s p).flush = .flushing ∧ s.power.down = some .inputLost := ⟨1, { inService with packages := [{}, { flush := .flushing }, {}, {}], power := { inService.power with down := some .inputLost } }, by decide⟩

theorem met_FlushSequenceSteps_5 : ∃ (s : State), s.power.pwrdis = true ∧ s.power.standby = 0 ∧ s.power.input = true ∧ s.power.overcurrent = false := ⟨{ State.reset with power := { State.reset.power with pwrdis := true, input := true } }, by decide⟩

theorem met_PinsLampsAndCoolant_2 : ∃ (s : State), 2 ≤ s.power.standby := ⟨inService, by decide⟩

theorem met_PinsLampsAndCoolant_4 : ∃ (s : State), fld s GLB_PANEL 1 0 = 2 := ⟨withRegs inService [(GLB_PANEL, 2)], by decide⟩

theorem met_PinsLampsAndCoolant_5 : ∃ (s : State), 2 ≤ s.power.standby := ⟨inService, by decide⟩

theorem met_HoldupMeasurement_1 : ∃ (s : State), 2 ≤ s.power.standby ∧ s.power.bankFull = false ∧ rbit s LED_STAT 29 = false ∧ s.power.down = none := ⟨inService, by decide⟩

theorem met_HoldupMeasurement_2 : ∃ (s : State), s.power.bankFull = true ∧ rbit s LED_STAT 29 = false ∧ s.power.down = none := ⟨{ inService with power := { inService.power with bankFull := true } }, by decide⟩

theorem met_HoldupMeasurement_3 : ∃ (s : State), windowOpen s = true ∧ s.power.recovery = false ∧ s.power.bankFull = true ∧ rbit s LED_STAT 29 = false ∧ s.power.down = none := ⟨{ inService with power := { inService.power with bankFull := true } }, by decide⟩

theorem met_HoldupMeasurement_4 : ∃ (s : State), s.ledger.huRetry = true ∧ s.power.bankFull = true ∧ rbit s LED_STAT 29 = false ∧ s.power.down = none := ⟨{ inService with power := { inService.power with bankFull := true }, ledger := { huRetry := true } }, by decide⟩

theorem met_HoldupMeasurement_5 : ∃ (esr : Nat) (s : State), s.ledger.huStep = 1 ∧ s.power.down = none ∧ (List.range s.build.sp).all (fun p => !exposed s p) = true := ⟨70000, { inService with ledger := { huStep := 1 } }, by decide⟩

theorem met_HoldupMeasurement_6 : ∃ (us : Nat) (s : State), s.ledger.huStep = 2 := ⟨300000, { inService with ledger := { huStep := 2 } }, by decide⟩

theorem met_HoldupMeasurement_7 : ∃ (full : Bool) (s : State), s.ledger.huStep = 3 := ⟨true, { inService with ledger := { huStep := 3, huFallUs := 300000 } }, by decide⟩

theorem met_LedgerSamplesAndComparator_1 : ∃ (r : Readings) (s : State), 2 ≤ s.power.standby ∧ tripLimit r = false := ⟨{ inputW := 905, domW := [400, 300, 100], computeOutMw := 0, idleOutMw := 0, etaMilli := 950, inputMv := 48000, bankMv := 54000, sensedMv := 750, dieC := [50], stackC := [50], packageC := [50], potential := [], inletC := 20, outletC := 30, flow := 300 }, { inService with power := { inService.power with core := 3 } }, by decide⟩

theorem met_LedgerSamplesAndComparator_2 : ∃ (r : Readings) (s : State), 10 ≤ s.power.core ∧ 2 ≤ s.power.standby ∧ tripLimit r = false := ⟨{ inputW := 905, domW := [400, 300, 100], computeOutMw := 0, idleOutMw := 0, etaMilli := 950, inputMv := 48000, bankMv := 54000, sensedMv := 750, dieC := [50], stackC := [50], packageC := [50], potential := [], inletC := 20, outletC := 30, flow := 300 }, inService, by decide⟩

theorem met_LedgerSamplesAndComparator_3 : ∃ (s : State), 5 ≤ s.power.core := ⟨inService, by decide⟩

theorem met_FaultTimesAndWindows_1 : ∃ (cls unit : Nat) (s : State) (a : FaultAge), cls < 5 ∧ ageOf s cls unit = some a ∧ windowOf s cls ≤ elapsedOf s a := ⟨2, 7, { inService with faults := { powered := 100, ages := [{ cls := 2, unit := 7, at_ := 10 }] } }, { cls := 2, unit := 7, at_ := 10 }, by decide⟩

theorem met_FaultTimesAndWindows_2 : ∃ (s : State), s.power.standby = 7 := ⟨{ inService with faults := { powered := 720000000000, unsaved := [{}] } }, by decide⟩

theorem met_FaultTimesAndWindows_3 : ∃ (cls : Nat) (val : Word) (s : State), cls < 4 ∧ windowOpen s = true ∧ s.power.recovery = false ∧ armState s ≠ 6 := ⟨3, 5, inService, by decide⟩

theorem met_FaultTimesAndWindows_4 : ∃ (cls w : Nat) (val : Word) (s : State), cls < 4 ∧ windowOpen s = true ∧ s.power.recovery = false ∧ armState s ≠ 6 ∧ bitOf (settings s).lockMask 7 = false ∧ w = val.toNat + 2 ^ 32 * (match Sparse.get none s.sec.fwHi cls with | some h => h.toNat | none => regNat s (GLB_FW_WINDOW cls + 4)) ∧ 100000000 ≤ w ∧ w ≤ 60480000000000 := ⟨3, 4294967301, 5, { inService with sec := { fwHi := [(3, some 1)] } }, by decide⟩

theorem met_FaultTimesAndWindows_5 : ∃ (cls w : Nat) (val : Word) (s : State), cls < 4 ∧ windowOpen s = true ∧ s.power.recovery = false ∧ armState s ≠ 6 ∧ w = val.toNat + 2 ^ 32 * (match Sparse.get none s.sec.fwHi cls with | some h => h.toNat | none => regNat s (GLB_FW_WINDOW cls + 4)) ∧ ((bitOf (settings s).lockMask 7 = true ∨ w < 100000000 ∨ 60480000000000 < w)) := ⟨3, 5, 5, inService, by decide⟩

theorem met_IdentityWordsAndFaultLog_1 : ∃ (index : Nat) (s : State), index ≤ 1975 ∧ windowOpen s = true ∧ s.power.recovery = false := ⟨1975, { inService with nv := { State.reset.nv with idWords := [(1975, 0x123456789)] } }, by decide⟩

theorem met_IdentityWordsAndFaultLog_2 : ∃ (index : Nat) (s : State), 1975 < index ∧ index < 2048 ∧ windowOpen s = true ∧ s.power.recovery = false := ⟨1976, inService, by decide⟩

theorem met_IdentityWordsAndFaultLog_3 : ∃ (index : Nat) (s : State), index < 4096 ∧ windowOpen s = true ∧ s.power.recovery = false := ⟨4095, { inService with nv := { State.reset.nv with faultLog := [(4095, { event := 7, time := 0x123456789 })] } }, by decide⟩

theorem met_OwnerRecordInstalled_1 : ∃ (s : State) (l : List Byte), windowOpen s = true ∧ s.power.recovery = false ∧ armState s = 0 ∧ 10 ≤ s.power.core ∧ mappedSlm (settings s) (nat64 s GLB_OWN_SRC) 1088 = true ∧ (readRange s (nat64 s GLB_OWN_SRC) 1088).2 = some l ∧ ownerResult s l = 0 := ⟨{ inService with dram := { bytes := [(0x204, 1)], tags := [(8, 128)] } }, List.replicate 0x204 0 ++ 1 :: List.replicate 571 0, ⟨by decide, by decide, by decide, by decide, by decide, by decide +kernel, by decide +kernel⟩⟩

theorem met_OwnerRecordInstalled_2 : ∃ (s : State) (l : List Byte), windowOpen s = true ∧ s.power.recovery = false ∧ armState s = 0 ∧ 10 ≤ s.power.core ∧ mappedSlm (settings s) (nat64 s GLB_OWN_SRC) 1088 = true ∧ (readRange s (nat64 s GLB_OWN_SRC) 1088).2 = some l ∧ ownerResult s l ≠ 0 := ⟨{ inService with dram := { bytes := [(0x204, 5)], tags := [(8, 128)] } }, List.replicate 0x204 0 ++ 5 :: List.replicate 571 0, ⟨by decide, by decide, by decide, by decide, by decide, by decide +kernel, by decide +kernel⟩⟩

theorem met_OwnerRecordInstalled_3 : ∃ (s : State), windowOpen s = true ∧ s.power.recovery = false ∧ armState s ≠ 0 := ⟨withRegs inService [(ARM_STAT, 0x10000000)], by decide⟩

theorem met_WindowAccess_1 : ∃ (off size : Nat) (val : Word) (s : State), off < 0x4000000 ∧ size ≤ 64 ∧ windowOpen s = true ∧ s.power.recovery = false ∧ unfittedOffset s.build off = false ∧ ((size ≠ 4 ∨ off % 4 ≠ 0)) := ⟨0x2, 4, 1, inService, by decide⟩

theorem met_WindowAccess_2 : ∃ (val : Word) (s : State), windowOpen s = true ∧ s.power.recovery = false ∧ armState s ≠ 6 ∧ bitOf (settings s).lockMask 0 = false ∧ 800 ≤ val.toNat % 4096 ∧ val.toNat % 4096 ≤ (settings s).totalW := ⟨1000, inService, by decide⟩

theorem met_WindowAccess_3 : ∃ (off : Nat) (r : RegRow) (s : State), off < 0x4000000 ∧ off % 4 = 0 ∧ windowOpen s = true ∧ s.power.recovery = false ∧ unfittedOffset s.build off = false ∧ regRow off = some r ∧ r.rc = true := ⟨GLB_ACC_ERR, { base := 0xC, rc := true }, withRegs inService [(GLB_ACC_ERR, 3)], by decide⟩

theorem met_WindowAccess_4 : ∃ (off : Nat) (r : RegRow) (s : State), off < 0x4000000 ∧ off % 4 = 0 ∧ windowOpen s = true ∧ s.power.recovery = false ∧ unfittedOffset s.build off = false ∧ regRow off = some r ∧ r.rc = false ∧ r.low64 = true := ⟨0x10040, { base := 0x10040, low64 := true }, withRegs inService [(0x10040, 3), (0x10044, 9)], by decide⟩

theorem met_WindowAccess_5 : ∃ (off size : Nat) (s : State), off < 0x4000000 ∧ size ≤ 64 ∧ windowOpen s = true ∧ s.power.recovery = false ∧ unfittedOffset s.build off = false ∧ ((size ≠ 4 ∨ off % 4 ≠ 0)) := ⟨0x10040, 8, inService, by decide⟩

theorem met_WindowAccess_6 : ∃ (off size : Nat) (s : State), off < 0x4000000 ∧ size ≤ 64 ∧ windowOpen s = true ∧ s.power.recovery = false ∧ unfittedOffset s.build off = false ∧ ((size ≠ 4 ∨ off % 4 ≠ 0)) := ⟨0x10042, 4, inService, by decide⟩

theorem met_WindowAccess_7 : ∃ (off size : Nat) (val : Word) (s : State), off < 0x4000000 ∧ size ≤ 64 ∧ windowOpen s = false := ⟨0, 4, 0, State.reset, by decide⟩

theorem met_SelfTestAndOptionMove_1 : ∃ (x u : Nat) (s : State), x < 1024 ∧ s.host.selfTest ≠ 0 ∧ s.host.selfTestSeg = 2 ∧ s.host.selfTestTile = some x ∧ nextTest s (x + 1) = some u := ⟨5, 6, { inService with host := { selfTest := 1, selfTestSeg := 2, selfTestTile := some 5 } }, by decide⟩

theorem met_SelfTestAndOptionMove_2 : ∃ (good : Bool) (x : Nat) (s : State), x < 1024 ∧ s.host.selfTest = 1 ∧ s.host.selfTestSeg = 3 ∧ s.host.selfTestFail = 0 := ⟨false, 0, { inService with host := { selfTest := 1, selfTestSeg := 3 } }, by decide⟩

theorem met_SelfTestAndOptionMove_3 : ∃ (good : Bool) (x : Nat) (s : State), x < 1024 ∧ s.host.selfTest = 2 ∧ s.host.selfTestSeg = 3 := ⟨true, 0, { inService with host := { selfTest := 2, selfTestSeg := 3 } }, by decide⟩

theorem met_SelfTestAndOptionMove_4 : ∃ (h c : Nat) (s : State), h < 2 ∧ s.nv.optMoving.getD h false = true ∧ optTarget s h = some c ∧ s.nv.optHome.length = 2 ∧ s.nv.optMoves.length = 2 := ⟨1, 17, { inService with nv := { inService.nv with optHome := [some 0, none], optMoves := [0, 0], optMoving := [false, true], retiredChans := [16] } }, by decide +kernel⟩

theorem met_LoaderCommandsBegin_1 : ∃ (drain : Bool) (l : List Byte) (s : State), windowOpen s = true ∧ s.power.recovery = false ∧ 10 ≤ s.power.core ∧ s.loader.cmd = 0 ∧ sourceOk s = true ∧ (readImage 1 s (nat64 s ARM_SRC / 64) 0).2 = .inl l ∧ fieldAt l 8 4 = regNat s ARM_SRC_LEN := ⟨true, List.replicate 8 0 ++ 64 :: List.replicate 55 0, withRegs { inService with dram := { bytes := [(8, 64)], tags := [(0, 128)] } } [(ARM_SRC_LEN, 64)], by decide +kernel⟩

theorem met_LoaderCommandsBegin_2 : ∃ (drain : Bool) (l : List Byte) (s : State), windowOpen s = true ∧ s.power.recovery = false ∧ 10 ≤ s.power.core ∧ s.loader.cmd = 0 ∧ sourceOk s = true ∧ (readImage 1 s (nat64 s ARM_SRC / 64) 0).2 = .inl l ∧ fieldAt l 8 4 = regNat s ARM_SRC_LEN := ⟨true, List.replicate 8 0 ++ 64 :: List.replicate 55 0, withRegs { inService with dram := { bytes := [(8, 64)], tags := [(0, 128)] } } [(ARM_SRC_LEN, 64)], by decide +kernel⟩

theorem met_LoaderCommandsBegin_3 : ∃ (drain : Bool) (l : List Byte) (s : State), windowOpen s = true ∧ s.power.recovery = false ∧ 10 ≤ s.power.core ∧ s.loader.cmd = 0 ∧ sourceOk s = true ∧ (readImage 1 s (nat64 s ARM_SRC / 64) 0).2 = .inl l ∧ fieldAt l 8 4 = regNat s ARM_SRC_LEN := ⟨true, List.replicate 8 0 ++ 64 :: List.replicate 55 0, withRegs { inService with dram := { bytes := [(8, 64)], tags := [(0, 128)] } } [(ARM_SRC_LEN, 64)], by decide +kernel⟩

theorem met_LoaderCommandsBegin_4 : ∃ (drain : Bool) (x : Selected) (s : State), windowOpen s = true ∧ s.power.recovery = false ∧ 10 ≤ s.power.core ∧ s.loader.cmd = 0 ∧ stagedSlot s.loader s.nv = some x := ⟨false, .slotB, { inService with loader := { inService.loader with stagedB := true } }, by decide⟩

theorem met_LoaderCommandsBegin_5 : ∃ (drain : Bool) (s : State), windowOpen s = true ∧ s.power.recovery = false ∧ 10 ≤ s.power.core ∧ s.loader.cmd = 0 := ⟨false, inService, by decide⟩

theorem met_LoaderCommandsBegin_6 : ∃ (drain : Bool) (s : State), windowOpen s = true ∧ s.power.recovery = false ∧ 10 ≤ s.power.core ∧ s.loader.cmd = 0 ∧ (slotOf s (otherSlot s)).valid = true := ⟨false, { inService with nv := { State.reset.nv with slotB := { valid := true } } }, by decide⟩

theorem met_LoaderCommandsBegin_7 : ∃ (drain : Bool) (s : State), windowOpen s = true ∧ s.power.recovery = false ∧ 10 ≤ s.power.core ∧ s.loader.cmd = 0 ∧ sourceOk s = false := ⟨false, inService, by decide⟩

theorem met_LoaderCommandsBegin_8 : ∃ (drain : Bool) (s : State), windowOpen s = true ∧ s.power.recovery = false ∧ 10 ≤ s.power.core ∧ s.loader.cmd = 0 ∧ sourceOk s = false := ⟨false, inService, by decide⟩

theorem met_LoaderCommandsBegin_9 : ∃ (drain : Bool) (s : State), windowOpen s = true ∧ s.power.recovery = false ∧ 10 ≤ s.power.core ∧ s.loader.cmd = 0 ∧ sourceOk s = false := ⟨false, inService, by decide⟩

theorem met_LoaderCommandsBegin_10 : ∃ (drain : Bool) (s : State), windowOpen s = true ∧ s.power.recovery = false ∧ 10 ≤ s.power.core ∧ s.loader.cmd = 0 ∧ stagedSlot s.loader s.nv = none := ⟨false, inService, by decide⟩

theorem met_LoaderCommandsBegin_11 : ∃ (drain : Bool) (s : State), windowOpen s = true ∧ s.power.recovery = false ∧ 10 ≤ s.power.core ∧ s.loader.cmd = 0 ∧ (slotOf s (otherSlot s)).valid = false := ⟨false, inService, by decide⟩

theorem met_LoaderCommandsBegin_12 : ∃ (drain : Bool) (s : State), windowOpen s = true ∧ s.power.recovery = false ∧ ((s.power.core < 10 ∨ s.loader.cmd ≠ 0)) := ⟨false, { inService with loader := { inService.loader with cmd := 1 } }, by decide⟩

theorem met_LoaderCommandsBegin_13 : ∃ (drain : Bool) (s : State), windowOpen s = true ∧ s.power.recovery = false ∧ ((s.power.core < 10 ∨ s.loader.cmd ≠ 0)) := ⟨false, { inService with loader := { inService.loader with cmd := 1 } }, by decide⟩

theorem met_LoaderCommandsBegin_14 : ∃ (drain : Bool) (s : State), windowOpen s = true ∧ s.power.recovery = false ∧ ((s.power.core < 10 ∨ s.loader.cmd ≠ 0)) := ⟨false, { inService with loader := { inService.loader with cmd := 1 } }, by decide⟩

theorem met_LoaderCommandsBegin_15 : ∃ (drain : Bool) (s : State), windowOpen s = true ∧ s.power.recovery = false ∧ ((s.power.core < 10 ∨ s.loader.cmd ≠ 0)) := ⟨false, { inService with loader := { inService.loader with cmd := 1 } }, by decide⟩

theorem met_LoaderCommandsBegin_16 : ∃ (drain : Bool) (s : State), windowOpen s = true ∧ s.power.recovery = false ∧ ((s.power.core < 10 ∨ s.loader.cmd ≠ 0)) := ⟨false, { inService with loader := { inService.loader with cmd := 1 } }, by decide⟩

theorem met_LoaderCommandsBegin_17 : ∃ (drain : Bool) (s : State), windowOpen s = true ∧ s.power.recovery = false ∧ ((s.power.core < 10 ∨ s.loader.cmd ≠ 0)) := ⟨false, { inService with loader := { inService.loader with cmd := 1 } }, by decide⟩

theorem met_ValidationAndStoring_1 : ∃ (c : Check) (s : State), armState s = 1 ∧ (validateCommand s).2.1 = .inr c := ⟨{ holds := false, cause := 1, sec := 0, off := 0 }, withRegs { inService with loader := { inService.loader with cmd := 3, target := some .slotA } } [(ARM_STAT, 0x10000000)], by decide +kernel⟩

theorem met_ValidationAndStoring_2 : ∃ (a : Armature) (s : State), armState s = 1 ∧ (validateCommand s).2.1 = .inl a := ⟨maquetteOf inService, withRegs { inService with loader := { inService.loader with cmd := 5, target := some .maquette } } [(ARM_STAT, 0x10000000)], ⟨by decide, rfl⟩⟩

theorem met_ValidationAndStoring_3 : ∃ (s : State), armState s = 2 ∧ s.loader.target = some .slotA := ⟨withRegs { inService with loader := { inService.loader with cmd := 2, target := some .slotA } } [(ARM_STAT, 0x20000000)], by decide⟩

theorem met_ValidationAndStoring_4 : ∃ (s : State), armState s = 2 ∧ s.loader.target = some .slotB := ⟨withRegs { inService with loader := { inService.loader with cmd := 4, target := some .slotB } } [(ARM_STAT, 0x20000000)], by decide⟩

theorem met_ReformSteps_1 : ∃ (s : State), armState s = 3 ∧ expired s s.loader.quiesceAt (regNat s ARM_QLIMIT) = true ∧ s.loader.drain = false := ⟨{ withRegs inService [(ARM_STAT, 0x30000000), (ARM_QLIMIT, 7)] with tb := 7 }, by decide⟩

theorem met_ReformSteps_2 : ∃ (p : Nat) (s : State), armState s = 3 ∧ quiesced s = true ∧ s.packages.length = 4 ∧ p < s.build.sp ∧ p < 4 ∧ alive s p = true := ⟨3, withRegs { inService with packages := List.replicate 4 { recovery := 6, wbuf := [{ lunit := 9, data := [] }] } } [(ARM_STAT, 0x30000000)], by decide⟩

theorem met_ReformSteps_3 : ∃ (s : State), armState s = 4 ∧ (List.range s.build.sp).all (fun p => (pkg s p).flushing.isEmpty) = true := ⟨withRegs inService [(ARM_STAT, 0x40000000)], by decide⟩

theorem met_ReformSteps_4 : ∃ (a : Armature) (s : State), armState s = 5 ∧ s.loader.next = some a := ⟨maquetteOf inService, withRegs { inService with loader := { inService.loader with cmd := 5, target := some .maquette, next := some (maquetteOf inService) } } [(ARM_STAT, 0x50000000)], ⟨by decide, rfl⟩⟩

theorem met_ReformSteps_5 : ∃ (a : Armature) (src : Selected) (again : Bool) (s : State), armState s = 6 ∧ s.loader.next = some a ∧ s.loader.target = some src ∧ reqReachable s a = true := ⟨{ maquetteOf inService with reqSp := 0 }, .maquette, false, withRegs { inService with loader := { inService.loader with cmd := 5, target := some .maquette, next := some { maquetteOf inService with reqSp := 0 } } } [(ARM_STAT, 0x60000000)], ⟨by decide, rfl, rfl, by decide⟩⟩

theorem met_ReformSteps_6 : ∃ (a : Armature) (src : Selected) (hw : Bool) (s : State), armState s = 6 ∧ s.loader.next = some a ∧ s.loader.target = some src ∧ ((hw = true ∨ reqReachable s a = false)) ∧ reqReachable s s.loader.settings = true := ⟨maquetteOf inService, .maquette, false, withRegs { inService with loader := { inService.loader with settings := { maquetteOf inService with reqSp := 0 }, cmd := 5, target := some .maquette, next := some (maquetteOf inService) } } [(ARM_STAT, 0x60000000)], ⟨by decide, rfl, rfl, by decide, by decide⟩⟩

theorem met_TileInstructionsIssue_1 : ∃ (x : Nat) (u : Upset) (p : Part) (v : StreamSt) (b : WBlock) (s : State), x < 1024 ∧ stepGoesOn u = true ∧ standsAt s x 1 p ∧ v = decodeStream (storeNat s x p.pc 8) (storeNat s x (p.pc + 8) 8) ∧ (tile s x).stream = none ∧ (tile s x).refill = false ∧ (tile s x).loaded = some b ∧ streamValid (some b) v = true ∧ v.rows ≠ 0 ∧ hazard (tile s x) (streamReads b v) (streamWrites b v) = false := ⟨5, .single 0, somePart, { rows := 1, inAddr := 0, inStride := 1, outAddr := 0, outStride := 1, accAddr := 0, outFmt := 0, accMode := 0, hist := false }, someBlock, onTile { part := some somePart, loaded := some someBlock } [(7, 1), (4, 1), (0, 1), (12, 1)], by decide⟩

theorem met_TileInstructionsIssue_2 : ∃ (x : Nat) (u : Upset) (p : Part) (b : WBlock) (n : Nat) (s : State), x < 1024 ∧ stepGoesOn u = true ∧ standsAt s x 2 p ∧ (b, n) = decodeLoad (storeNat s x p.pc 8) (storeNat s x (p.pc + 8) 8) ∧ loadValid b n = true ∧ (tile s x).filling = none ∧ weightsAwaited s x p.ref = false ∧ hazard (tile s x) (loadReads b n) [] = false := ⟨5, .clean, somePart, { someBlock with wAddr := 0, columns := [] }, 1, onTile { part := some somePart } [(7, 2), (6, 0x84)], by decide⟩

theorem met_TileInstructionsIssue_3 : ∃ (x : Nat) (u : Upset) (p : Part) (b : WBlock) (s : State), x < 1024 ∧ stepGoesOn u = true ∧ standsAt s x 3 p ∧ (tile s x).shadow = some b ∧ (tile s x).filling = none ∧ (tile s x).stream = none ∧ (tile s x).refill = false := ⟨5, .clean, somePart, someBlock, onTile { part := some somePart, shadow := some someBlock } [(7, 3)], by decide⟩

theorem met_TileInstructionsIssue_4 : ∃ (x : Nat) (u : Upset) (p : Part) (v : VecSt) (s : State), x < 1024 ∧ stepGoesOn u = true ∧ standsAt s x 4 p ∧ v = decodeVec (storeNat s x p.pc 8) (storeNat s x (p.pc + 8) 8) ∧ vecValid v = true ∧ (tile s x).vec = none ∧ hazard (tile s x) (vecReads v) (vecWrites v) = false := ⟨5, .clean, somePart, { func := 0, n := 1, aAddr := 0, bAddr := 0, cAddr := 0, dAddr := 0, inFmt := 0, outFmt := 0, hist := false }, onTile { part := some somePart } [(7, 4)], by decide⟩

theorem met_TileInstructionsIssue_5 : ∃ (x : Nat) (u : Upset) (p : Part) (v : SendSt) (s : State), x < 1024 ∧ stepGoesOn u = true ∧ standsAt s x 5 p ∧ v = decodeSend (storeNat s x p.pc 8) (storeNat s x (p.pc + 8) 8) ∧ tileLive s v.dest = true ∧ (placement s p.ref).contains v.dest = true ∧ inStore (sendReads v) = true ∧ inStore [{ lo := v.dstAddr * 64, len := v.len * 64 }] = true ∧ v.len ≠ 0 ∧ hazard (tile s x) (sendReads v) [] = false := ⟨5, .clean, somePart, { dest := 5, srcAddr := 0, dstAddr := 0, len := 1 }, { onTile { part := some somePart } [(7, 5), (5, 0x40), (6, 1), (11, 4)] with grf := someGrf }, by decide⟩

theorem met_TileInstructionsIssue_6 : ∃ (x e : Nat) (u : Upset) (p : Part) (s : State), x < 1024 ∧ stepGoesOn u = true ∧ standsAt s x 6 p ∧ e = bitsOf (storeNat s x p.pc 8) 15 0 ∧ e ≤ 3 := ⟨5, 1, .clean, somePart, onTile { part := some somePart } [(7, 6), (0, 1)], by decide⟩

theorem met_TileInstructionsIssue_7 : ∃ (x : Nat) (u : Upset) (p : Part) (s : State), x < 1024 ∧ stepGoesOn u = true ∧ standsAt s x 0xF p ∧ tileQuiet (tile s x) = true := ⟨5, .clean, somePart, { onTile { part := some somePart } [(7, 0xF)] with grf := someGrf }, by decide⟩

theorem met_TileStepsAdvance_1 : ∃ (x bn : Nat) (u : Upset) (v : StreamSt) (b : WBlock) (p : Part) (s : State), x < 1024 ∧ stepGoesOn u = true ∧ (tile s x).stream = some v ∧ (tile s x).loaded = some b ∧ (tile s x).part = some p ∧ tileLive s x = true ∧ (tile s x).refill = false ∧ rampAllows (tile s x) = true ∧ s.ledger.holdEmpty = false ∧ pairB b.wfmt b.afmt = some bn ∧ badIn (tile s x) (sliceReads b v bn) = none ∧ v.row < v.rows := ⟨5, 2, .single 0, someStream, someBlock, somePart, onTile { part := some somePart, loaded := some someBlock, stream := some someStream, ramp := .full } [], by decide⟩

theorem met_TileStepsAdvance_2 : ∃ (x : Nat) (u : Upset) (v : VecSt) (p : Part) (s : State), x < 1024 ∧ stepGoesOn u = true ∧ (tile s x).vec = some v ∧ (tile s x).part = some p ∧ tileLive s x = true ∧ badIn (tile s x) (vecStepReads v) = none := ⟨5, .clean, someVec, somePart, onTile { part := some somePart, vec := some someVec } [], by decide⟩

theorem met_TileStepsAdvance_3 : ∃ (x : Nat) (u : Upset) (b : WBlock) (s : State), x < 1024 ∧ stepGoesOn u = true ∧ (tile s x).filling = some b ∧ tileLive s x = true ∧ badIn (tile s x) (loadReads b b.columns.length) = none := ⟨5, .clean, someBlock, onTile { part := some somePart, filling := some someBlock, swapWait := true } [], by decide⟩

theorem met_TileStepsAdvance_4 : ∃ (x : Nat) (u : Upset) (v : SendSt) (rest : List SendSt) (s : State), x < 1024 ∧ stepGoesOn u = true ∧ (tile s x).sends = v :: rest ∧ tileLive s x = true ∧ badIn (tile s x) (sendReads v) = none := ⟨5, .clean, { dest := 6, srcAddr := 0, dstAddr := 3, len := 1 }, [], onTile { part := some somePart, sends := [{ dest := 6, srcAddr := 0, dstAddr := 3, len := 1 }] } [(0, 9)], by decide⟩

theorem met_TileStepsAdvance_5 : ∃ (x : Nat) (u : Upset) (v : StreamSt) (b : WBlock) (s : State), x < 1024 ∧ stepGoesOn u = true ∧ (tile s x).refill = true ∧ (tile s x).stream = some v ∧ (tile s x).loaded = some b ∧ badIn (tile s x) (loadReads b b.columns.length) = none := ⟨5, .clean, { someStream with row := 0 }, someBlock, onTile { part := some somePart, loaded := some someBlock, stream := some someStream, refill := true } [], by decide⟩

theorem met_TileStepsAdvance_6 : ∃ (x : Nat) (s : State), x < 1024 ∧ tileLive s x = true ∧ fillerAllows (tile s x) = true ∧ s.ledger.holdEmpty = false := ⟨5, onTile { ramp := .gap, gapLen := 4 } [], by decide⟩

theorem met_TileWaitsAndRamp_1 : ∃ (x e : Nat) (p : Part) (s : State), x < 1024 ∧ (tile s x).part = some p ∧ (tile s x).syncWait = some e ∧ eventCame s x p e = true := ⟨5, 3, somePart, onTile { part := some somePart, syncWait := some 3 } [], by decide⟩

theorem met_TileWaitsAndRamp_2 : ∃ (x q : Nat) (s : State), x < 1024 ∧ (tile s x).ramp = .up q := ⟨5, 3, onTile { ramp := .up 3 } [], by decide⟩

theorem met_TileWaitsAndRamp_3 : ∃ (x q : Nat) (s : State), x < 1024 ∧ (tile s x).ramp = .down q := ⟨5, 1, onTile { ramp := .down 1 } [], by decide⟩

theorem met_TileWaitsAndRamp_4 : ∃ (x : Nat) (s : State), x < 1024 ∧ (tile s x).ramp = .gap := ⟨5, onTile { ramp := .gap } [], by decide⟩

theorem met_TileWaitsAndRamp_5 : ∃ (x : Nat) (s : State), x < 1024 ∧ (tile s x).lateOps ≠ 0 := ⟨5, onTile { lateOps := 2 } [], by decide⟩

theorem met_TileFaultsAndRetirement_1 : ∃ (x : Nat) (s : State), x < 1024 ∧ tileLive s x = true ∧ (tile s x).badWords = [] := ⟨5, onTile { scrubAt := 491519 } [], by decide⟩

theorem met_TileFaultsAndRetirement_2 : ∃ (x a : Nat) (s : State), x < 1024 ∧ tileLive s x = true ∧ (tile s x).badWords = [] := ⟨5, 3, inService, by decide⟩

theorem met_TileFaultsAndRetirement_3 : ∃ (x a w : Nat) (s : State), x < 1024 ∧ tileLive s x = true ∧ (tile s x).badWords = [] ∧ w = (tile s x).scrubAt * 64 + a % 64 / 8 * 8 := ⟨5, 13, 136, onTile { scrubAt := 2 } [], by decide⟩

theorem met_TileFaultsAndRetirement_4 : ∃ (x bn a : Nat) (v : StreamSt) (b : WBlock) (p : Part) (s : State), x < 1024 ∧ (tile s x).stream = some v ∧ (tile s x).loaded = some b ∧ (tile s x).part = some p ∧ tileLive s x = true ∧ (tile s x).refill = false ∧ rampAllows (tile s x) = true ∧ s.ledger.holdEmpty = false ∧ pairB b.wfmt b.afmt = some bn ∧ withinWindow s 0 x = false ∧ p.fromSend = [] ∧ p.occurrence = none ∧ unbiased s p.ref = true := ⟨5, 2, 77, someStream, someBlock, somePart, { onTile { part := some somePart, loaded := some someBlock, stream := some someStream, ramp := .full } [] with grf := someGrf }, by decide⟩

theorem met_TileFaultsAndRetirement_5 : ∃ (x : Nat) (p : Part) (s : State), x < 1024 ∧ tileLive s x = true ∧ (tile s x).part = some p ∧ p.occurrence = none ∧ unbiased s p.ref = true ∧ opOverdue s x = true ∧ withinWindow s 0 x = false := ⟨5, somePart, { withRegs (onTile { part := some somePart, vec := some someVec } []) [(tilReg 5 0x18, 1000)] with grf := someGrf, tb := 1000 }, by decide⟩

theorem met_TileFaultsAndRetirement_6 : ∃ (x bn : Nat) (v : StreamSt) (b : WBlock) (p : Part) (u : Upset) (s : State), x < 1024 ∧ (tile s x).stream = some v ∧ (tile s x).loaded = some b ∧ (tile s x).part = some p ∧ tileLive s x = true ∧ (tile s x).refill = false ∧ rampAllows (tile s x) = true ∧ s.ledger.holdEmpty = false ∧ pairB b.wfmt b.afmt = some bn ∧ withinWindow s 0 x = false := ⟨5, 2, someStream, someBlock, somePart, .clean, onTile { part := some somePart, loaded := some someBlock, stream := some someStream, ramp := .full } [], by decide⟩

theorem met_TileFaultsAndRetirement_7 : ∃ (x key : Nat) (s : State), x < 1024 ∧ windowOpen s = true ∧ s.power.recovery = false ∧ tileLive s x = true ∧ key % 256 = 0x5A := ⟨5, 0x5A, inService, by decide⟩

theorem met_TileFaultsAndRetirement_8 : ∃ (x key : Nat) (s : State), x < 1024 ∧ windowOpen s = true ∧ s.power.recovery = false ∧ tileLive s x = true ∧ key % 256 ≠ 0x5A := ⟨5, 0x5B, inService, by decide⟩

theorem met_HistogramControl_1 : ∃ (x mode : Nat) (fz : Bool) (s : State), x < 1024 ∧ mode < 3 ∧ windowOpen s = true ∧ s.power.recovery = false ∧ tileLive s x = true := ⟨1023, 2, true, inService, by decide⟩

theorem met_HistogramControl_2 : ∃ (x : Nat) (on : Bool) (s : State), x < 1024 ∧ windowOpen s = true ∧ s.power.recovery = false ∧ tileLive s x = true ∧ fld s (tilReg x 0x80) 1 0 ≠ 3 := ⟨1023, true, inService, by decide⟩

theorem met_HistogramControl_3 : ∃ (x mode : Nat) (s : State), x < 1024 ∧ mode < 3 ∧ windowOpen s = true ∧ s.power.recovery = false ∧ tileLive s x = true := ⟨0, 1, inService, by decide⟩

theorem met_HistogramControl_4 : ∃ (x : Nat) (s : State), x < 1024 ∧ windowOpen s = true ∧ s.power.recovery = false ∧ tileLive s x = true := ⟨0, inService, by decide⟩

theorem met_GraphCommandsAnswer_1 : ∃ (tag : CmdTag) (slot : Nat) (img : List Byte) (s : State), tag.sq ≤ 256 ∧ tag.cid < 65536 ∧ slot < 256 ∧ cpOpen s = true ∧ noArmature s = false ∧ rbit s GLB_CORE 31 = false ∧ s.grf.active.contains slot = false ∧ slotBusy s slot = false ∧ img ≠ [] ∧ graphFailure s slot img = none := ⟨{ sq := 0, cid := 1 }, 255, someImage, withArmature, by set_option maxRecDepth 50000 in decide +kernel⟩

theorem met_GraphCommandsAnswer_2 : ∃ (tag : CmdTag) (slot : Nat) (img : List Byte) (c : Check) (s : State), tag.sq ≤ 256 ∧ tag.cid < 65536 ∧ slot < 256 ∧ cpOpen s = true ∧ noArmature s = false ∧ rbit s GLB_CORE 31 = false ∧ s.grf.active.contains slot = false ∧ slotBusy s slot = false ∧ img ≠ [] ∧ graphFailure s slot img = some c ∧ c.cause ≠ 0 := ⟨{ sq := 0, cid := 1 }, 0, [0], { holds := false, cause := 0x10, sec := 0, off := 0 }, withArmature, by decide⟩

theorem met_GraphCommandsAnswer_3 : ∃ (tag : CmdTag) (slot : Nat) (s : State), tag.sq ≤ 256 ∧ tag.cid < 65536 ∧ slot < 256 ∧ cpOpen s = true ∧ noArmature s = false ∧ rbit s GLB_CORE 31 = false ∧ s.grf.active.contains slot = false ∧ slotBusy s slot = false := ⟨{ sq := 0, cid := 1 }, 3, { withArmature with grf := { slots := [(3, some someGraph)] } }, by decide⟩

theorem met_GraphCommandsAnswer_4 : ∃ (tag : CmdTag) (slot : Nat) (on : Bool) (s : State), tag.sq ≤ 256 ∧ tag.cid < 65536 ∧ slot < 65536 ∧ cpOpen s = true ∧ noArmature s = false ∧ rbit s GLB_CORE 31 = false ∧ (graphOf s slot).isSome = true ∧ (on && s.grf.waiting.any (fun w => w.slot == slot)) = false := ⟨{ sq := 0, cid := 1 }, 0, false, { withArmature with grf := { someGrf with residents := [{ slot := 0, kernel := 0, part := 0, tile := 5 }] } }, by decide⟩

theorem met_GraphCommandsAnswer_5 : ∃ (tag : CmdTag) (id : Nat) (rs : List (Nat × Nat)) (s : State), tag.sq ≤ 256 ∧ tag.cid < 65536 ∧ id < 65536 ∧ cpOpen s = true ∧ noArmature s = false ∧ rbit s GLB_CORE 31 = false ∧ rs.length ≤ 255 ∧ ((s.grf.sets.length < 256 ∨ Sparse.get [] s.grf.sets id ≠ [] ∨ rs = [])) ∧ rs.all (fun r => selector r.1 == 0xFF && mappedSlm (settings s) (within r.1) r.2) = true := ⟨{ sq := 0, cid := 1 }, 7, [(slmAddr 0, 64)], withArmature, by decide +kernel⟩

theorem met_GraphCommandsAnswer_6 : ∃ (tag : CmdTag) (slot mrs : Nat) (b : List Byte) (g : Graph) (s : State), tag.sq ≤ 256 ∧ tag.cid < 65536 ∧ slot < 65536 ∧ mrs < 65536 ∧ cpOpen s = true ∧ noArmature s = false ∧ graphOf s slot = some g ∧ rbit s GLB_CORE 31 = false ∧ s.grf.active.contains slot = true ∧ g.armId = (settings s).armId ∧ bitOf g.flags 0 = false ∧ firstFailure (runBlockChecks b) = none ∧ s.grf.runs.any (fun r => r.slot == slot) = false ∧ s.grf.waiting.any (fun x => x.slot == slot) = false ∧ operandsOk s g mrs = true ∧ (resolve s mrs (fieldAt b 8 8) (recordsLen g)).isSome = true := ⟨{ sq := 0, cid := 1 }, 0, 0, List.replicate 64 0, someGraph, { withArmature with grf := { slots := [(0, some someGraph)], active := [0], sets := [(0, [(0, 4096)])] } }, by decide⟩

theorem met_GraphCommandsAnswer_7 : ∃ (tag : CmdTag) (slot mrs : Nat) (b : List Byte) (g : Graph) (s : State), tag.sq ≤ 256 ∧ tag.cid < 65536 ∧ slot < 65536 ∧ mrs < 65536 ∧ cpOpen s = true ∧ noArmature s = false ∧ graphOf s slot = some g ∧ rbit s GLB_CORE 31 = false ∧ s.grf.active.contains slot = true ∧ g.armId = (settings s).armId ∧ bitOf g.flags 0 = false ∧ firstFailure (runBlockChecks b) = none ∧ s.grf.runs.any (fun r => r.slot == slot) = true := ⟨{ sq := 0, cid := 1 }, 0, 0, List.replicate 64 0, someGraph, { withArmature with grf := someGrf }, by decide⟩

theorem met_GraphCommandsAnswer_8 : ∃ (i : Nat) (s : State), i < 4096 ∧ windowOpen s = true ∧ s.power.recovery = false := ⟨4095, { withArmature with grf := { seqs := [(4095, { state := 3, seqTag := 77 })] } }, by decide⟩

theorem met_GraphEngineSteps_1 : ∃ (r : Run) (k : Nat) (kd : Kernel) (g : Graph) (s : State), dispatchStopped s = false ∧ nextRun s = some (r, k) ∧ findRun s r.id = some r ∧ kernelOf s r k = some kd ∧ graphOf s r.slot = some g ∧ kd.places.all (fun p => tileLive s p.tile && everFits s kd (g.factors.getD k 256) p.tile) = true ∧ (liveOfRole s kd.role).isEmpty = false ∧ (r.serving && bitOf kd.kflags 1) = false := ⟨{ id := 1, slot := 0, mrs := 0, tag := none, kernels := [{}] }, 0, someGraph.kernels.headD { role := 0, kflags := 0, wfmt := 0, afmt := 0, group := 0, outRound := 0, fp8Ovf := 0, prefetch := 0, places := [], preds := [], energyUj := 0, steps := 0, deadline := 0, opnds := [] }, someGraph, { withArmature with grf := { someGrf with runs := [{ id := 1, slot := 0, mrs := 0, tag := none, kernels := [{}] }] } }, by decide +kernel⟩

theorem met_GraphEngineSteps_2 : ∃ (e : Nat × PartRef) (r : Run) (kd : Kernel) (g : Graph) (s : State), s.grf.admitQueue.find? (partWaits s) = some e ∧ partFits s e.2 e.1 = true ∧ s.ledger.stopAdmission = false ∧ s.ledger.dieHot.getD (e.1 / 128) false = false ∧ findRun s e.2.run = some r ∧ kernelOf s r e.2.kernel = some kd ∧ graphOf s r.slot = some g ∧ (bitOf kd.kflags 2 && kd.opnds.any (fun o => o.use == 4)) = false := ⟨(5, { run := 1, kernel := 0, part := 0 }), { id := 1, slot := 0, mrs := 0, tag := none, kernels := [{ status := 255, partsLeft := 1 }] }, someGraph.kernels.headD { role := 0, kflags := 0, wfmt := 0, afmt := 0, group := 0, outRound := 0, fp8Ovf := 0, prefetch := 0, places := [], preds := [], energyUj := 0, steps := 0, deadline := 0, opnds := [] }, someGraph, { onTile { queue := [{ run := 1, kernel := 0, part := 0 }] } [] with grf := { someGrf with admitQueue := [(5, { run := 1, kernel := 0, part := 0 })] }, ledger := { inService.ledger with dieHot := [] } }, by decide +kernel⟩

theorem met_GraphEngineSteps_3 : ∃ (e : Nat × PartRef) (s : State), s.grf.admitQueue.find? (partWaits s) = some e ∧ s.ledger.stopAdmission = true := ⟨(5, { run := 1, kernel := 0, part := 0 }), { onTile { queue := [{ run := 1, kernel := 0, part := 0 }] } [] with grf := { someGrf with admitQueue := [(5, { run := 1, kernel := 0, part := 0 })] }, ledger := { inService.ledger with stopAdmission := true } }, by decide +kernel⟩

theorem met_GraphEngineSteps_4 : ∃ (id k j : Nat) (r : Run) (kd : Kernel) (x y : KernelRun) (s : State), findRun s id = some r ∧ kernelOf s r k = some kd ∧ r.kernels[k]? = some x ∧ x.status = 255 ∧ expired s (r.start + x.first) kd.deadline = true ∧ j ≠ k ∧ r.kernels[j]? = some y ∧ y.status = 255 := ⟨1, 0, 1, { id := 1, slot := 0, mrs := 0, tag := none, kernels := [{ status := 255, partsLeft := 1 }, { status := 255, partsLeft := 1 }] }, { role := 1, kflags := 0, wfmt := 8, afmt := 4, group := 0, outRound := 0, fp8Ovf := 0, prefetch := 0, places := [], preds := [], energyUj := 0, steps := 0, deadline := 9, opnds := [] }, { status := 255, partsLeft := 1 }, { status := 255, partsLeft := 1 }, { onTile { part := some somePart } [] with tb := 9, grf := { someGrf with slots := [(0, some { someGraph with kernels := [{ role := 1, kflags := 0, wfmt := 8, afmt := 4, group := 0, outRound := 0, fp8Ovf := 0, prefetch := 0, places := [], preds := [], energyUj := 0, steps := 0, deadline := 9, opnds := [] }, { role := 1, kflags := 0, wfmt := 8, afmt := 4, group := 0, outRound := 0, fp8Ovf := 0, prefetch := 0, places := [], preds := [], energyUj := 0, steps := 0, deadline := 0, opnds := [] }] })], runs := [{ id := 1, slot := 0, mrs := 0, tag := none, kernels := [{ status := 255, partsLeft := 1 }, { status := 255, partsLeft := 1 }] }] } }, by decide⟩

theorem met_GraphEngineSteps_5 : ∃ (id : Nat) (r : Run) (g : Graph) (s : State), findRun s id = some r ∧ graphOf s r.slot = some g ∧ expired s r.start g.deadline = true := ⟨1, { id := 1, slot := 0, mrs := 0, tag := none, kernels := [{ status := 255, partsLeft := 1 }] }, { someGraph with deadline := 9 }, { onTile { part := some somePart } [] with tb := 9, grf := { someGrf with slots := [(0, some { someGraph with deadline := 9 })] } }, by decide⟩

theorem met_GraphEngineSteps_6 : ∃ (cls : Nat) (r : Run) (k : Nat) (b : List Resident) (kd : Kernel) (g : Graph) (s : State), cls < 16 ∧ blockedKernel s cls (holderRuns s) = some (r, k, b) ∧ dispatchStopped s = false ∧ findRun s r.id = some r ∧ kernelOf s r k = some kd ∧ graphOf s r.slot = some g ∧ (liveOfRole s kd.role).isEmpty = false ∧ kd.places.all (fun p => tileLive s p.tile && everFits s kd (g.factors.getD k 256) p.tile) = true ∧ (r.serving && bitOf kd.kflags 1) = false := ⟨0, { id := 1, slot := 0, mrs := 0, tag := none, kernels := [{}] }, 0, [{ slot := 9, kernel := 0, part := 0, tile := 5 }], loadGraph.kernels.headD { role := 0, kflags := 0, wfmt := 0, afmt := 0, group := 0, outRound := 0, fp8Ovf := 0, prefetch := 0, places := [], preds := [], energyUj := 0, steps := 0, deadline := 0, opnds := [] }, loadGraph, { withRegs withArmature [(GRF_CLASS_WAIT 0, 2)] with grf := { someGrf with slots := [(0, some loadGraph), (9, some loadGraph)], kernelWait := [(65536, 3)], residents := [{ slot := 9, kernel := 0, part := 0, tile := 5 }], runs := [{ id := 1, slot := 0, mrs := 0, tag := none, kernels := [{}] }] } }, by decide +kernel⟩

theorem met_GraphEngineSteps_7 : ∃ (slot : Nat) (g : Graph) (v : Serving) (e : Nat × Nat × Nat) (rest : List (Nat × Nat × Nat)) (b s : State), slot < 256 ∧ graphOf s slot = some g ∧ g.serving = some v ∧ s.grf.runs.any (fun r => r.slot == slot) = false ∧ b = admitWaiting 4096 (boundarySeqs s slot) ∧ dispatchStopped b = false ∧ b.grf.active.contains slot = true ∧ g.armId = (settings b).armId ∧ graphOf b slot = some g ∧ workList b slot v = e :: rest := ⟨0, { someGraph with flags := 1, serving := some { maxTokens := 8, prefillChunk := 4, pageTokens := 16, router := 0, expertCount := 0, expertTable := 0 } }, { maxTokens := 8, prefillChunk := 4, pageTokens := 16, router := 0, expertCount := 0, expertTable := 0 }, (2, 4, 0), [], { withArmature with grf := { slots := [(0, some { someGraph with flags := 1, serving := some { maxTokens := 8, prefillChunk := 4, pageTokens := 16, router := 0, expertCount := 0, expertTable := 0 } })], active := [0], seqs := [(2, { state := 1, promptLen := 5 })] } }, { withArmature with grf := { slots := [(0, some { someGraph with flags := 1, serving := some { maxTokens := 8, prefillChunk := 4, pageTokens := 16, router := 0, expertCount := 0, expertTable := 0 } })], active := [0], seqs := [(2, { state := 1, promptLen := 5 })] } }, by decide +kernel⟩

theorem met_MoveRing_1 : ∃ (i : Nat) (s : State), i < 65536 ∧ windowOpen s = true ∧ s.power.recovery = false := ⟨65535, inService, by decide⟩

theorem met_MoveRing_2 : ∃ (n : Nat) (s : State), ((n = 0 ∨ powerOfTwo n 16 65536 = true)) ∧ regNat s TIER_MQ_HEAD = regNat s TIER_MQ_TAIL ∧ windowOpen s = true ∧ s.power.recovery = false := ⟨65536, inService, by decide⟩

theorem met_MoveRing_3 : ∃ (n : Nat) (s : State), n < 131072 ∧ n ≠ 0 ∧ powerOfTwo n 16 65536 = false ∧ windowOpen s = true ∧ s.power.recovery = false := ⟨24, inService, by decide⟩

theorem met_MoveRing_4 : ∃ (d : List Byte) (u s : State), ringLeft s ≠ 0 ∧ fld s ARM_STAT 31 28 < 3 ∧ mappedSlm (settings s) (ringEntry s ((regNat s TIER_MQ_HEAD + s.mover.moves.length) % fld s TIER_MQ_SIZE 16 0)) 32 = true ∧ readRange s (ringEntry s ((regNat s TIER_MQ_HEAD + s.mover.moves.length) % fld s TIER_MQ_SIZE 16 0)) 32 = (u, some d) ∧ fieldAt d 0 1 = 1 ∧ moveCheck u d (parseMove ((regNat s TIER_MQ_HEAD + s.mover.moves.length) % fld s TIER_MQ_SIZE 16 0) d) = none ∧ moveWaits u (parseMove ((regNat s TIER_MQ_HEAD + s.mover.moves.length) % fld s TIER_MQ_SIZE 16 0) d) = false := ⟨((line [(0, 1), (4, 64), (15, 255), (17, 16), (23, 255)]).take 32), onRing (line [(0, 1), (4, 64), (15, 255), (17, 16), (23, 255)]) [(TIER_MQ_SIZE, 16), (TIER_MQ_TAIL, 1)], onRing (line [(0, 1), (4, 64), (15, 255), (17, 16), (23, 255)]) [(TIER_MQ_SIZE, 16), (TIER_MQ_TAIL, 1)], by decide +kernel⟩

theorem met_MoveRing_5 : ∃ (d : List Byte) (u s : State), ringLeft s ≠ 0 ∧ fld s ARM_STAT 31 28 < 3 ∧ mappedSlm (settings s) (ringEntry s ((regNat s TIER_MQ_HEAD + s.mover.moves.length) % fld s TIER_MQ_SIZE 16 0)) 32 = true ∧ readRange s (ringEntry s ((regNat s TIER_MQ_HEAD + s.mover.moves.length) % fld s TIER_MQ_SIZE 16 0)) 32 = (u, some d) ∧ fieldAt d 0 1 = 2 ∧ moveCheck u d (parseMove ((regNat s TIER_MQ_HEAD + s.mover.moves.length) % fld s TIER_MQ_SIZE 16 0) d) = none ∧ moveWaits u (parseMove ((regNat s TIER_MQ_HEAD + s.mover.moves.length) % fld s TIER_MQ_SIZE 16 0) d) = false := ⟨((line [(0, 2), (5, 16), (13, 4), (15, 255), (21, 2), (23, 255)]).take 32), onRing (line [(0, 2), (5, 16), (13, 4), (15, 255), (21, 2), (23, 255)]) [(TIER_MQ_SIZE, 16), (TIER_MQ_TAIL, 1)], onRing (line [(0, 2), (5, 16), (13, 4), (15, 255), (21, 2), (23, 255)]) [(TIER_MQ_SIZE, 16), (TIER_MQ_TAIL, 1)], by decide +kernel⟩

theorem met_MoveRing_6 : ∃ (d : List Byte) (u s : State), ringLeft s ≠ 0 ∧ fld s ARM_STAT 31 28 < 3 ∧ mappedSlm (settings s) (ringEntry s ((regNat s TIER_MQ_HEAD + s.mover.moves.length) % fld s TIER_MQ_SIZE 16 0)) 32 = true ∧ readRange s (ringEntry s ((regNat s TIER_MQ_HEAD + s.mover.moves.length) % fld s TIER_MQ_SIZE 16 0)) 32 = (u, some d) ∧ fieldAt d 0 1 = 3 ∧ moveCheck u d (parseMove ((regNat s TIER_MQ_HEAD + s.mover.moves.length) % fld s TIER_MQ_SIZE 16 0) d) = none ∧ moveWaits u (parseMove ((regNat s TIER_MQ_HEAD + s.mover.moves.length) % fld s TIER_MQ_SIZE 16 0) d) = false := ⟨((line [(0, 3), (5, 16), (15, 253)]).take 32), onRing (line [(0, 3), (5, 16), (15, 253)]) [(TIER_MQ_SIZE, 16), (TIER_MQ_TAIL, 1)], onRing (line [(0, 3), (5, 16), (15, 253)]) [(TIER_MQ_SIZE, 16), (TIER_MQ_TAIL, 1)], by decide +kernel⟩

theorem met_MoveRing_7 : ∃ (d : List Byte) (u s : State), ringLeft s ≠ 0 ∧ fld s ARM_STAT 31 28 < 3 ∧ mappedSlm (settings s) (ringEntry s ((regNat s TIER_MQ_HEAD + s.mover.moves.length) % fld s TIER_MQ_SIZE 16 0)) 32 = true ∧ readRange s (ringEntry s ((regNat s TIER_MQ_HEAD + s.mover.moves.length) % fld s TIER_MQ_SIZE 16 0)) 32 = (u, some d) ∧ fieldAt d 0 1 = 4 ∧ moveCheck u d (parseMove ((regNat s TIER_MQ_HEAD + s.mover.moves.length) % fld s TIER_MQ_SIZE 16 0) d) = none ∧ moveWaits u (parseMove ((regNat s TIER_MQ_HEAD + s.mover.moves.length) % fld s TIER_MQ_SIZE 16 0) d) = false := ⟨((line [(0, 4), (7, 4), (23, 255)]).take 32), onRing (line [(0, 4), (7, 4), (23, 255)]) [(TIER_MQ_SIZE, 16), (TIER_MQ_TAIL, 1)], onRing (line [(0, 4), (7, 4), (23, 255)]) [(TIER_MQ_SIZE, 16), (TIER_MQ_TAIL, 1)], by decide +kernel⟩

theorem met_MoveRing_8 : ∃ (i : Nat) (m : Move) (e : DirEntry) (s : State), i < 65536 ∧ s.mover.moves.find? (fun m => m.index == i && m.status.isNone) = some m ∧ m.op = 3 ∧ s.mover.dir.find? (fun e => e.home == m.src && e.len == m.len) = some e := ⟨0, { index := 0, op := 3, src := 18230571291595767808, dst := 0, len := 4096 }, { home := 18230571291595767808, copy := 18374688678694879232, len := 4096 }, { onRing [] [(TIER_MQ_SIZE, 16), (TIER_MQ_TAIL, 1)] with mover := { moves := [{ index := 0, op := 3, src := 18230571291595767808, dst := 0, len := 4096 }], dir := [{ home := 18230571291595767808, copy := 18374688678694879232, len := 4096 }] } }, by decide +kernel⟩

theorem met_MoveRing_9 : ∃ (i : Nat) (m : Move) (u s : State), i < 65536 ∧ s.mover.moves.find? (fun m => m.index == i && m.status.isNone) = some m ∧ m.op = 1 ∧ m.moved = 0 ∧ m.failed = false ∧ copyFits (invalidate s m.dst m.len) m.dst m.len = true ∧ copyChunks (m.len / 64) (invalidate s m.dst m.len) m.src m.dst = (u, true) := ⟨0, { index := 0, op := 1, src := slmAddr 0, dst := slmAddr 4096, len := 64 }, (copyChunks 1 { onRing (List.replicate 64 5) [(TIER_MQ_SIZE, 16), (TIER_MQ_TAIL, 1)] with mover := { moves := [{ index := 0, op := 1, src := slmAddr 0, dst := slmAddr 4096, len := 64 }] } } (slmAddr 0) (slmAddr 4096)).1, { onRing (List.replicate 64 5) [(TIER_MQ_SIZE, 16), (TIER_MQ_TAIL, 1)] with mover := { moves := [{ index := 0, op := 1, src := slmAddr 0, dst := slmAddr 4096, len := 64 }] } }, by decide +kernel⟩

theorem met_MoveRing_10 : ∃ (i : Nat) (m : Move) (u s : State), i < 65536 ∧ s.mover.moves.find? (fun m => m.index == i && m.status.isNone) = some m ∧ m.op = 2 ∧ s.mover.dir.any (fun e => overlaps m.src m.len e.home e.len || overlaps m.dst m.len e.copy e.len) = false ∧ s.mover.dir.length < 65536 ∧ copyChunks (m.len / 64) (invalidate s m.dst m.len) m.src m.dst = (u, true) := ⟨0, { index := 0, op := 2, src := slmAddr 0, dst := slmAddr 4096, len := 64 }, (copyChunks 1 { onRing (List.replicate 64 5) [(TIER_MQ_SIZE, 16), (TIER_MQ_TAIL, 1)] with mover := { moves := [{ index := 0, op := 2, src := slmAddr 0, dst := slmAddr 4096, len := 64 }] } } (slmAddr 0) (slmAddr 4096)).1, { onRing (List.replicate 64 5) [(TIER_MQ_SIZE, 16), (TIER_MQ_TAIL, 1)] with mover := { moves := [{ index := 0, op := 2, src := slmAddr 0, dst := slmAddr 4096, len := 64 }] } }, by decide +kernel⟩

theorem met_MoveRing_11 : ∃ (i : Nat) (m : Move) (s : State), i < 65536 ∧ s.mover.moves.find? (fun m => m.index == i && m.status.isNone) = some m ∧ m.op = 4 := ⟨0, { index := 0, op := 4, src := 0, dst := slmAddr 0, len := 67108864 }, { onRing (List.replicate 64 5) [(TIER_MQ_SIZE, 16), (TIER_MQ_TAIL, 1)] with mover := { moves := [{ index := 0, op := 4, src := 0, dst := slmAddr 0, len := 67108864 }] } }, by decide +kernel⟩

theorem met_OperandPieces_1 : ∃ (id : Nat) (p : Piece) (s : State), findPiece s id = some p ∧ p.looked = false := ⟨3, { id := 3, run := 1, kernel := 0, part := 0, tile := 5, addr := 0, len := 64, offset := 0, use := 2, hint := 3 }, { inService with mover := { pieces := [{ id := 3, run := 1, kernel := 0, part := 0, tile := 5, addr := 0, len := 64, offset := 0, use := 2, hint := 3 }] } }, by decide⟩

theorem met_OperandPieces_2 : ∃ (id dst : Nat) (p : Piece) (l : List Byte) (u s : State), findPiece s id = some p ∧ id < s.mover.nextPiece ∧ p.expiredAt = none ∧ p.looked = true ∧ dst + p.len ≤ storeLen ∧ readAddr s (sourceOf s p) p.len = (u, some l) ∧ l.length ≤ p.len := ⟨3, 128, { id := 3, run := 1, kernel := 0, part := 0, tile := 5, addr := slmAddr 7, len := 2, offset := 0, use := 2, hint := 3, looked := true }, [7, 9], { onRing (List.replicate 8 7 ++ List.replicate 56 9) [] with mover := { nextPiece := 4, pieces := [{ id := 3, run := 1, kernel := 0, part := 0, tile := 5, addr := slmAddr 7, len := 2, offset := 0, use := 2, hint := 3, looked := true }] } }, { onRing (List.replicate 8 7 ++ List.replicate 56 9) [] with mover := { nextPiece := 4, pieces := [{ id := 3, run := 1, kernel := 0, part := 0, tile := 5, addr := slmAddr 7, len := 2, offset := 0, use := 2, hint := 3, looked := true }] } }, by decide +kernel⟩

theorem met_OperandPieces_3 : ∃ (id dst : Nat) (p : Piece) (e : DirEntry) (s : State), findPiece s id = some p ∧ p.expiredAt = none ∧ p.looked = true ∧ p.viaCopy = true ∧ coverOf s p.addr p.len = some e ∧ dst + p.len ≤ storeLen := ⟨3, 0, { id := 3, run := 1, kernel := 0, part := 0, tile := 5, addr := slmAddr 0, len := 64, offset := 0, use := 2, hint := 3, looked := true, viaCopy := true }, { home := slmAddr 0, copy := slmAddr 4096, len := 4096 }, { inService with mover := { dir := [{ home := slmAddr 0, copy := slmAddr 4096, len := 4096 }], pieces := [{ id := 3, run := 1, kernel := 0, part := 0, tile := 5, addr := slmAddr 0, len := 64, offset := 0, use := 2, hint := 3, looked := true, viaCopy := true }] } }, by decide +kernel⟩

theorem met_OperandPieces_4 : ∃ (id dst j : Nat) (p : Piece) (r : Run) (y : KernelRun) (s : State), findPiece s id = some p ∧ p.expiredAt = none ∧ p.looked = true ∧ p.viaCopy = false ∧ dst + p.len ≤ storeLen ∧ findRun s p.run = some r ∧ p.kernel < r.kernels.length ∧ j ≠ p.kernel ∧ r.kernels[j]? = some y ∧ y.status = 255 := ⟨3, 0, 1, { id := 3, run := 1, kernel := 0, part := 0, tile := 5, addr := slmAddr 0, len := 64, offset := 0, use := 2, hint := 3, looked := true }, { id := 1, slot := 0, mrs := 0, tag := none, kernels := [{ status := 255, partsLeft := 1 }, { status := 255, partsLeft := 1 }] }, { status := 255, partsLeft := 1 }, { inService with grf := { someGrf with runs := [{ id := 1, slot := 0, mrs := 0, tag := none, kernels := [{ status := 255, partsLeft := 1 }, { status := 255, partsLeft := 1 }] }] }, mover := { pieces := [{ id := 3, run := 1, kernel := 0, part := 0, tile := 5, addr := slmAddr 0, len := 64, offset := 0, use := 2, hint := 3, looked := true }] } }, by decide +kernel⟩

theorem met_OperandPieces_5 : ∃ (id : Nat) (p : Piece) (s : State), findPiece s id = some p ∧ expired s p.at_ (regNat s TIER_MV_LIMIT) = true ∧ p.looked = true ∧ p.reissued = false ∧ (coverOf s p.addr p.len).isSome = true := ⟨3, { id := 3, run := 1, kernel := 0, part := 0, tile := 5, addr := 0, len := 64, offset := 0, use := 2, hint := 3, looked := true }, { withRegs inService [(TIER_MV_LIMIT, 9)] with tb := 9, mover := { dir := [{ home := 0, copy := 4096, len := 4096 }], pieces := [{ id := 3, run := 1, kernel := 0, part := 0, tile := 5, addr := 0, len := 64, offset := 0, use := 2, hint := 3, looked := true }] } }, by decide⟩

theorem met_MemoryScrubAndFaults_1 : ∃ (board : Bool) (unit pc idx line : Nat) (s : State), unit < 20 ∧ pc < 64 ∧ rbit s TIER_STAT 29 = true ∧ idx = Sparse.get 0 s.dram.sweeps (sweepKey board unit pc) ∧ lineAt s board unit pc idx = some line ∧ lineFenced s line = false ∧ Sparse.get none s.dram.raws line = none := ⟨false, 0, 0, 0, 0, withRegs inService [(TIER_STAT, 2 ^ 29)], by decide +kernel⟩

theorem met_MemoryScrubAndFaults_2 : ∃ (board : Bool) (unit pc idx line : Nat) (s : State), unit < 20 ∧ pc < 64 ∧ rbit s TIER_STAT 29 = true ∧ idx = Sparse.get 0 s.dram.sweeps (sweepKey board unit pc) ∧ lineAt s board unit pc idx = some line ∧ lineFenced s line = false ∧ Sparse.get none s.dram.raws line = none ∧ remembered s line = false := ⟨true, 0, 0, 0, (lineAt (withRegs inService [(TIER_STAT, 2 ^ 29)]) true 0 0 0).getD 0, withRegs inService [(TIER_STAT, 2 ^ 29)], by decide +kernel⟩

theorem met_MemoryScrubAndFaults_3 : ∃ (board : Bool) (unit pc idx line : Nat) (s : State), unit < 20 ∧ pc < 64 ∧ rbit s TIER_STAT 29 = true ∧ idx = Sparse.get 0 s.dram.sweeps (sweepKey board unit pc) ∧ lineAt s board unit pc idx = some line ∧ mapped (settings s) (line * 64) 64 = true ∧ poisoned s line = false ∧ lineFenced s line = false ∧ Sparse.get none s.dram.raws line = none ∧ remembered s line = false := ⟨false, 0, 0, 0, 0, withRegs inService [(TIER_STAT, 2 ^ 29)], by decide +kernel⟩

theorem met_MemoryScrubAndFaults_4 : ∃ (st pc cause : Nat) (ex : Bool) (s : State), st < 20 ∧ pc < 64 ∧ s.nv.retiredPcs.contains (st * 64 + pc) = false ∧ s.nv.fencedPcs.contains (st * 64 + pc) = false ∧ judgedPermanent s 1 (st * 64 + pc) ex = false := ⟨19, 63, 1, false, inService, by decide⟩

theorem met_MemoryScrubAndFaults_5 : ∃ (st pc cause : Nat) (ex : Bool) (s : State), st < 20 ∧ pc < 64 ∧ s.nv.retiredPcs.contains (st * 64 + pc) = false ∧ s.nv.fencedPcs.contains (st * 64 + pc) = false ∧ judgedPermanent s 1 (st * 64 + pc) ex = true := ⟨19, 63, 1, true, inService, by decide⟩

theorem met_MemoryScrubAndFaults_6 : ∃ (st pc : Nat) (s : State), st < 20 ∧ pc < 64 ∧ s.mover.migrating.contains (st * 64 + pc) = true := ⟨19, 63, { inService with mover := { migrating := [7, 1279] } }, by decide⟩

theorem met_TheChecker_1 : ∃ (key : Nat) (en : Bool) (s : State), key % 256 ≠ 0xC3 ∧ windowOpen s = true ∧ s.power.recovery = false := ⟨0xC2, true, inService, by decide⟩

theorem met_TheChecker_2 : ∃ (key : Nat) (en : Bool) (s : State), key % 256 ≠ 0xC3 ∧ windowOpen s = true ∧ s.power.recovery = false := ⟨0xC2, true, inService, by decide⟩

theorem met_TheChecker_3 : ∃ (key : Nat) (en : Bool) (s : State), key % 256 ≠ 0xC3 ∧ windowOpen s = true ∧ s.power.recovery = false := ⟨0xC2, true, inService, by decide⟩

theorem met_TheChecker_4 : ∃ (en : Bool) (s : State), windowOpen s = true ∧ s.power.recovery = false := ⟨true, inService, by decide⟩

theorem met_TheChecker_5 : ∃ (key : Nat) (en : Bool) (s : State), key % 256 ≠ 0xC3 ∧ windowOpen s = true ∧ s.power.recovery = false := ⟨0xC2, true, inService, by decide⟩

theorem met_TheChecker_6 : ∃ (line : Nat) (s : State), windowOpen s = true ∧ s.power.recovery = false ∧ chkLine s = some line := ⟨0, withRegs inService [(TIER_CHK_DATA, 7)], by decide +kernel⟩

theorem met_TheChecker_7 : ∃ (line : Nat) (s : State), windowOpen s = true ∧ s.power.recovery = false ∧ chkLine s = some line := ⟨0, { inService with dram := { raws := [(0, some (BitVec.ofNat 576 (2 ^ 575 + 2 ^ 100 + 3)))] } }, by decide +kernel⟩

theorem met_TheChecker_8 : ∃ (line : Nat) (s : State), windowOpen s = true ∧ s.power.recovery = false ∧ chkLine s = some line ∧ Sparse.get none s.dram.raws line = none := ⟨0, onRing (List.replicate 64 9) [], by decide +kernel⟩

theorem met_JobRing_1 : ∃ (i : Nat) (s : State), i < 65536 ∧ 0 < s.build.sp ∧ windowOpen s = true ∧ s.power.recovery = false := ⟨65535, inService, by decide⟩

theorem met_JobRing_2 : ∃ (n : Nat) (s : State), ((n = 0 ∨ powerOfTwo n 16 65536 = true)) ∧ 0 < s.build.sp ∧ regNat s (scnReg 0 0x20) = regNat s (scnReg 0 0x1C) ∧ windowOpen s = true ∧ s.power.recovery = false := ⟨65536, inService, by decide⟩

theorem met_JobRing_3 : ∃ (i : Nat) (d l : List Byte) (g : Region) (rs : List Record) (u w s : State), nextJob s u 1 i d g ∧ slmOk u (fieldAt d 0x18 8) (fieldAt d 0xC 4) = true ∧ readSlm (takeEpoch u).1 (fieldAt d 0x18 8) (fieldAt d 0xC 4) = (w, some l) ∧ parseRecords (fieldAt d 2 1) (fixedLen g) s.corpus.nextEpoch (fieldAt d 8 4) (Sparse.get 0 s.corpus.nextRid (fieldAt d 2 1) + 1) 0 l = .inl rs ∧ recordsFit w g (packRecords (allRecords s) (fieldAt d 2 1) (Sparse.get 0 s.corpus.openSlab (fieldAt d 2 1)) rs).1 = true := ⟨0, line [(0, 1), (8, 1), (12, 64), (24, 128), (31, 0xFF)] ++ line [], line [(16, 40)], { type := 2, id := 0, egrp := 1, spMask := 1, sizeGib := 1, flags := 0, param := 8 }, (match parseRecords 0 8 1 1 1 0 (line [(16, 40)]) with | .inl rs => rs | .inr _ => []), withCorpus [(0, line [(0, 1), (8, 1), (12, 64), (24, 128), (31, 0xFF)]), (2, line [(16, 40)])] [(scnReg 0 0x18, 16), (scnReg 0 0x1C, 1)], (takeEpoch (withCorpus [(0, line [(0, 1), (8, 1), (12, 64), (24, 128), (31, 0xFF)]), (2, line [(16, 40)])] [(scnReg 0 0x18, 16), (scnReg 0 0x1C, 1)])).1, withCorpus [(0, line [(0, 1), (8, 1), (12, 64), (24, 128), (31, 0xFF)]), (2, line [(16, 40)])] [(scnReg 0 0x18, 16), (scnReg 0 0x1C, 1)], by decide +kernel⟩

theorem met_JobRing_4 : ∃ (i : Nat) (d l : List Byte) (g : Region) (u w s : State), nextJob s u 2 i d g ∧ slmOk u (fieldAt d 0x18 8) (8 * fieldAt d 8 4) = true ∧ readSlm (takeEpoch u).1 (fieldAt d 0x18 8) (8 * fieldAt d 8 4) = (w, some l) := ⟨0, line [(0, 2), (8, 1), (24, 128), (31, 0xFF)] ++ line [], List.replicate 8 0, { type := 2, id := 0, egrp := 1, spMask := 1, sizeGib := 1, flags := 0, param := 8 }, withCorpus [(0, line [(0, 2), (8, 1), (24, 128), (31, 0xFF)])] [(scnReg 0 0x18, 16), (scnReg 0 0x1C, 1)], (takeEpoch (withCorpus [(0, line [(0, 2), (8, 1), (24, 128), (31, 0xFF)])] [(scnReg 0 0x18, 16), (scnReg 0 0x1C, 1)])).1, withCorpus [(0, line [(0, 2), (8, 1), (24, 128), (31, 0xFF)])] [(scnReg 0 0x18, 16), (scnReg 0 0x1C, 1)], by decide +kernel⟩

theorem met_JobRing_5 : ∃ (i : Nat) (d : List Byte) (g : Region) (j : Job) (u w s : State), nextJob s u 3 i d g ∧ readProgram u (parseJob u i d) (fieldAt d 0x10 8) (fixedLen g) = (w, .inl j) ∧ ((j.form == 1 || j.form == 2) && decide (j.len2 < j.limit * entrySize j.form j.prog (fixedLen g))) = false ∧ ((j.form = 0 ∨ (slmOk w j.dst j.len2 = true ∧ touchesCopy w j.dst j.len2 = false))) := ⟨0, line [(0, 3), (48, 9)] ++ line [], { type := 2, id := 0, egrp := 1, spMask := 1, sizeGib := 1, flags := 0, param := 8 }, parseJob State.reset 0 (line [(0, 3), (48, 9)]), withCorpus [(0, line [(0, 3), (48, 9)])] [(scnReg 0 0x18, 16), (scnReg 0 0x1C, 1)], withCorpus [(0, line [(0, 3), (48, 9)])] [(scnReg 0 0x18, 16), (scnReg 0 0x1C, 1)], withCorpus [(0, line [(0, 3), (48, 9)])] [(scnReg 0 0x18, 16), (scnReg 0 0x1C, 1)], by decide +kernel⟩

theorem met_JobRing_6 : ∃ (i : Nat) (d : List Byte) (g r : Region) (x : Index) (j : Job) (gr : Graph) (a b : Nat × Nat) (u w s : State), nextJob s u 4 i d g ∧ embedIndex u (parseJob u i d) = some (r, x) ∧ x.created = true ∧ readProgram u (parseJob u i d) (fieldAt d 0x10 8) (fixedLen g) = (w, .inl j) ∧ graphOf w j.slot = some gr ∧ w.grf.active.contains j.slot = true ∧ bitOf gr.flags 0 = false ∧ gr.armId = (settings w).armId ∧ (Sparse.get [] w.grf.sets j.mrs)[0]? = some a ∧ j.limit * j.len2 ≤ a.2 ∧ (Sparse.get [] w.grf.sets j.mrs)[1]? = some b ∧ j.limit * vectorLen r.param ≤ b.2 := ⟨0, line [(0, 4), (8, 1), (12, 8), (48, 9)] ++ line [], { type := 2, id := 0, egrp := 1, spMask := 1, sizeGib := 1, flags := 0, param := 8 }, { type := 3, id := 0, egrp := 1, spMask := 1, sizeGib := 1, flags := 0, param := 0 }, { rtype := 3, id := 0, created := true, centroids := [List.replicate 64 0], radius := [0], nmin := [0x7F7FFFFF#32] }, parseJob State.reset 0 (line [(0, 4), (8, 1), (12, 8), (48, 9)]), someGraph, (0, 4096), (4096, 4096), { withCorpus [(0, line [(0, 4), (8, 1), (12, 8), (48, 9)])] [(scnReg 0 0x18, 16), (scnReg 0 0x1C, 1)] with grf := { someGrf with runs := [], sets := [(0, [(0, 4096), (4096, 4096)])] } }, { withCorpus [(0, line [(0, 4), (8, 1), (12, 8), (48, 9)])] [(scnReg 0 0x18, 16), (scnReg 0 0x1C, 1)] with grf := { someGrf with runs := [], sets := [(0, [(0, 4096), (4096, 4096)])] } }, { withCorpus [(0, line [(0, 4), (8, 1), (12, 8), (48, 9)])] [(scnReg 0 0x18, 16), (scnReg 0 0x1C, 1)] with grf := { someGrf with runs := [], sets := [(0, [(0, 4096), (4096, 4096)])] } }, by decide +kernel⟩

theorem met_JobRing_7 : ∃ (i : Nat) (j : Job) (s : State), i < 65536 ∧ 0 < s.build.sp ∧ windowOpen s = true ∧ s.power.recovery = false ∧ s.scan.jobs.find? (fun j => j.index == i && !j.done) = some j ∧ 3 ≤ j.op := ⟨0, someJob 3, { inService with scan := { jobs := [someJob 3] } }, by decide⟩

theorem met_JobRing_8 : ∃ (i : Nat) (s : State), i < 65536 ∧ 0 < s.build.sp ∧ windowOpen s = true ∧ s.power.recovery = false ∧ s.scan.jobs.find? (fun j => j.index == i && !j.done) = none ∧ ringWaits (fld s (scnReg 0 0x18) 16 0) (regNat s (scnReg 0 0x1C)) (regNat s (scnReg 0 0x20)) s.scan.jobs.length i = true := ⟨3, withRegs inService [(scnReg 0 0x18, 16), (scnReg 0 0x1C, 5)], by decide⟩

theorem met_JobsRunAndCommit_1 : ∃ (i slab : Nat) (j : Job) (g : Region) (s : State), i < 65536 ∧ findJob s i = some j ∧ findRegion s 2 j.region = some g ∧ j.op = 3 ∧ j.done = false ∧ j.cancelled = false ∧ j.status = none ∧ j.slabsLeft.contains slab = true ∧ scansHeld s (homePkg g slab) = false ∧ s.scan.rebuilding.contains (2, j.region) = false ∧ slabUnread s g slab (slabUsed (slabRecords s j.region slab) j.region slab) = false := ⟨0, 0, { someJob 3 with slabsLeft := [0], pending := [someRecord] }, { type := 2, id := 0, egrp := 1, spMask := 1, sizeGib := 1, flags := 0, param := 8 }, { withCorpus [] [(portReg 16 0, 3 * 2 ^ 28)] with scan := { jobs := [{ someJob 3 with slabsLeft := [0], pending := [someRecord] }] } }, by decide +kernel⟩

theorem met_JobsRunAndCommit_2 : ∃ (i : Nat) (j : Job) (g : Region) (u s : State), i < 65536 ∧ s.scan.jobs.find? (fun j => j.index == i && jobCommits j) = some j ∧ findRegion s 2 j.region = some g ∧ regionReady s g = true ∧ j.op = 1 ∧ appendEnters s u j g := ⟨0, { someJob 1 with pending := [someRecord] }, { type := 2, id := 0, egrp := 1, spMask := 1, sizeGib := 1, flags := 0, param := 8 }, (enterAll { type := 2, id := 0, egrp := 1, spMask := 1, sizeGib := 1, flags := 0, param := 8 } { withCorpus [] [(ftlReg 0 0, 2 ^ 31), (ftlReg 0 0x10, 4096)] with scan := { jobs := [{ someJob 1 with pending := [someRecord] }] } } 0 [recordPieces someRecord]).1, { withCorpus [] [(ftlReg 0 0, 2 ^ 31), (ftlReg 0 0x10, 4096)] with scan := { jobs := [{ someJob 1 with pending := [someRecord] }] } }, by decide +kernel⟩

theorem met_JobsRunAndCommit_3 : ∃ (i : Nat) (j : Job) (g : Region) (s : State), i < 65536 ∧ s.scan.jobs.find? (fun j => j.index == i && jobCommits j) = some j ∧ findRegion s 2 j.region = some g ∧ regionReady s g = true ∧ j.op = 2 ∧ s.corpus.epoch + 1 = j.epoch ∧ tombsFit s g (deleteTombs s j g) = true ∧ tombsEnter s g (deleteTombs s j g) = true := ⟨0, { someJob 2 with batch := [1, 5] }, { type := 2, id := 0, egrp := 1, spMask := 1, sizeGib := 1, flags := 0, param := 8 }, { withCorpus [] [(ftlReg 0 0, 2 ^ 31), (ftlReg 0 0x10, 4096)] with scan := { jobs := [{ someJob 2 with batch := [1, 5] }] }, corpus := { epoch := 0, nextEpoch := 2, records := [{ someRecord with epoch := 0 }] } }, by decide +kernel⟩

theorem met_JobsRunAndCommit_4 : ∃ (i e : Nat) (j : Job) (s : State), i < 65536 ∧ findJob s i = some j ∧ j.done = false ∧ j.op = 4 ∧ j.status = none ∧ j.cancelled = false ∧ j.batchStatus = none ∧ j.batchEpoch = none ∧ j.slabsLeft = [] ∧ j.batch = [] ∧ j.nextBatch = [] ∧ j.matched = [] ∧ dispatchStopped s = false := ⟨0, 5, someJob 4, { withCorpus [] [] with scan := { jobs := [someJob 4] } }, by decide +kernel⟩

theorem met_JobsRunAndCommit_5 : ∃ (i e : Nat) (j : Job) (s : State), i < 65536 ∧ findJob s i = some j ∧ j.done = false ∧ j.batchEpoch = none ∧ ((j.op = 1 ∨ j.op = 2)) ∧ j.status.isSome = true := ⟨0, 5, { someJob 1 with status := some 0 }, { withCorpus [] [] with scan := { jobs := [{ someJob 1 with status := some 0 }] } }, by decide +kernel⟩

theorem met_JobsRunAndCommit_6 : ∃ (i e : Nat) (j : Job) (s : State), i < 65536 ∧ findJob s i = some j ∧ j.done = false ∧ j.op = 3 ∧ j.cancelled = false ∧ j.batchEpoch = none ∧ j.slabsLeft = [] ∧ dispatchStopped s = false := ⟨0, 5, someJob 3, { withCorpus [] [] with scan := { jobs := [someJob 3] } }, by decide +kernel⟩

theorem met_JobsRunAndCommit_7 : ∃ (region slab : Nat) (g : Region) (s : State), region < 64 ∧ findRegion s 2 region = some g ∧ regionReady s g = true ∧ s.scan.rebuilding.contains (2, region) = false ∧ (pendingRecords s).any (fun r => r.region == region && r.slab == slab) = false ∧ recordsFit s g (compactPlaced s region slab).1 = true ∧ unitsFit s (pieceUnits s g (compactWrites s region slab) ++ dropUnits s g (compactDrops s region slab)) = true ∧ sumNat ((s.corpus.records.filter (fun r => r.region == region && r.slab == slab)).map (·.len)) ≠ 0 ∧ fld s (scnReg (homePkg g slab) 4) 15 8 * sumNat ((s.corpus.records.filter (fun r => r.region == region && r.slab == slab)).map (·.len)) ≤
    sumNat (((s.corpus.records.filter (fun r => r.region == region && r.slab == slab)).filter (buried s region s.corpus.epoch)).map (·.len)) * 100 := ⟨0, 0, { type := 2, id := 0, egrp := 1, spMask := 1, sizeGib := 1, flags := 0, param := 8 }, { withCorpus [] [(scnReg 0 4, 0x3201), (ftlReg 0 0, 2 ^ 31), (ftlReg 0 0x10, 4096)] with corpus := { epoch := 3, records := [someRecord, { someRecord with rid := 2 }], openSlab := [(0, 1)], tombs := [{ package := 0, rtype := 2, region := 0, rid := 1, epoch := 2 }] } }, by decide +kernel⟩

theorem met_QueryRing_1 : ∃ (i : Nat) (s : State), i < 65536 ∧ 0 < s.build.sp ∧ windowOpen s = true ∧ s.power.recovery = false := ⟨65535, inService, by decide⟩

theorem met_QueryRing_2 : ∃ (n : Nat) (s : State), ((n = 0 ∨ powerOfTwo n 16 65536 = true)) ∧ 0 < s.build.sp ∧ regNat s (srcReg 0 0x20) = regNat s (srcReg 0 0x1C) ∧ windowOpen s = true ∧ s.power.recovery = false := ⟨16, inService, by decide⟩

theorem met_QueryRing_3 : ∃ (i : Nat) (d l : List Byte) (r : Region) (x : Index) (v : List Word) (u w s : State), nextQuery s u 1 i d r ∧ findIndex u (if bitOf (fieldAt d 3 1) 0 then 4 else 3) (fieldAt d 2 1) = some x ∧ x.created = true ∧ (packagesOf r.spMask).any (fun p => decide (16384 ≤ contextsOf u p)) = false ∧ slmOk u (fieldAt d 0x10 8) (4 * dimOf r.param) = true ∧ slmOk u (fieldAt d 0x20 8) (16 * fieldAt d 4 2) = true ∧ touchesCopy u (fieldAt d 0x20 8) (16 * fieldAt d 4 2) = false ∧ readSlm u (fieldAt d 0x10 8) (4 * dimOf r.param) = (w, some l) ∧ v = vectorOf .fp32 l 0 (dimOf r.param) ∧ allFinite v = true ∧ ((metricOf r.param = 1 → allZero v = false)) := ⟨0, line [(0, 1), (4, 1), (16, 128), (23, 0xFF), (33, 1), (39, 0xFF)] ++ line [], List.replicate 256 0, { type := 3, id := 0, egrp := 1, spMask := 1, sizeGib := 1, flags := 0, param := 0 }, { rtype := 3, id := 0, created := true, centroids := [List.replicate 64 0], radius := [0], nmin := [0x7F7FFFFF#32] }, List.replicate 64 0, withCorpus [(0, line [(0, 1), (4, 1), (16, 128), (23, 0xFF), (33, 1), (39, 0xFF)])] [(srcReg 0 0x18, 16), (srcReg 0 0x1C, 1)], withCorpus [(0, line [(0, 1), (4, 1), (16, 128), (23, 0xFF), (33, 1), (39, 0xFF)])] [(srcReg 0 0x18, 16), (srcReg 0 0x1C, 1)], withCorpus [(0, line [(0, 1), (4, 1), (16, 128), (23, 0xFF), (33, 1), (39, 0xFF)])] [(srcReg 0 0x18, 16), (srcReg 0 0x1C, 1)], by decide +kernel⟩

theorem met_QueryRing_4 : ∃ (i : Nat) (d l rl : List Byte) (r : Region) (x y : Index) (es : List Entry) (u v w s : State), nextQuery s u 2 i d r ∧ findIndex u (if bitOf (fieldAt d 3 1) 0 then 4 else 3) (fieldAt d 2 1) = some x ∧ x.created = true ∧ slmOk u (fieldAt d 0x10 8) (fieldAt d 8 4 * vectorLen r.param) = true ∧ slmOk u (fieldAt d 0x18 8) (8 * fieldAt d 8 4) = true ∧ readSlm (takeEpoch u).1 (fieldAt d 0x10 8) (fieldAt d 8 4 * vectorLen r.param) = (v, some l) ∧ readSlm v (fieldAt d 0x18 8) (8 * fieldAt d 8 4) = (w, some rl) ∧ (List.range (fieldAt d 8 4)).all (fun k => fieldAt rl (8 * k) 8 != 0 && fieldAt rl (8 * k) 8 != 2 ^ 64 - 1) = true ∧ badVector r.param ((List.range (fieldAt d 8 4)).map (fun k => vectorOf (vfmtOf r.param) l (k * vectorLen r.param) (dimOf r.param))) = none ∧ makeEntries w r s.corpus.nextEpoch (heldIndex w x) (((List.range (fieldAt d 8 4)).map (fun k => fieldAt rl (8 * k) 8)).zip ((List.range (fieldAt d 8 4)).map (fun k => vectorOf (vfmtOf r.param) l (k * vectorLen r.param) (dimOf r.param)))) = some (y, es) := ⟨0, line [(0, 2), (8, 1), (16, 128), (23, 0xFF), (25, 2), (31, 0xFF)] ++ line [], List.replicate 256 0, [7, 0, 0, 0, 0, 0, 0, 0], { type := 3, id := 0, egrp := 1, spMask := 1, sizeGib := 1, flags := 0, param := 0 }, { rtype := 3, id := 0, created := true, centroids := [List.replicate 64 0], radius := [0], nmin := [0x7F7FFFFF#32] }, ((makeEntries (withCorpus [] []) { type := 3, id := 0, egrp := 1, spMask := 1, sizeGib := 1, flags := 0, param := 0 } 1 { rtype := 3, id := 0, created := true, centroids := [List.replicate 64 0], radius := [0], nmin := [0x7F7FFFFF#32] } [(7, List.replicate 64 0)]).map (·.1)).getD { rtype := 3, id := 0 }, ((makeEntries (withCorpus [] []) { type := 3, id := 0, egrp := 1, spMask := 1, sizeGib := 1, flags := 0, param := 0 } 1 { rtype := 3, id := 0, created := true, centroids := [List.replicate 64 0], radius := [0], nmin := [0x7F7FFFFF#32] } [(7, List.replicate 64 0)]).map (·.2)).getD [], withCorpus [(0, line [(0, 2), (8, 1), (16, 128), (23, 0xFF), (25, 2), (31, 0xFF)]), (8, line [(0, 7)])] [(srcReg 0 0x18, 16), (srcReg 0 0x1C, 1)], (takeEpoch (withCorpus [(0, line [(0, 2), (8, 1), (16, 128), (23, 0xFF), (25, 2), (31, 0xFF)]), (8, line [(0, 7)])] [(srcReg 0 0x18, 16), (srcReg 0 0x1C, 1)])).1, (takeEpoch (withCorpus [(0, line [(0, 2), (8, 1), (16, 128), (23, 0xFF), (25, 2), (31, 0xFF)]), (8, line [(0, 7)])] [(srcReg 0 0x18, 16), (srcReg 0 0x1C, 1)])).1, withCorpus [(0, line [(0, 2), (8, 1), (16, 128), (23, 0xFF), (25, 2), (31, 0xFF)]), (8, line [(0, 7)])] [(srcReg 0 0x18, 16), (srcReg 0 0x1C, 1)], by decide +kernel⟩

theorem met_QueryRing_5 : ∃ (i : Nat) (d l : List Byte) (r : Region) (x : Index) (u w s : State), nextQuery s u 3 i d r ∧ findIndex u (if bitOf (fieldAt d 3 1) 0 then 4 else 3) (fieldAt d 2 1) = some x ∧ x.created = true ∧ slmOk u (fieldAt d 0x10 8) (8 * fieldAt d 8 4) = true ∧ readSlm (takeEpoch u).1 (fieldAt d 0x10 8) (8 * fieldAt d 8 4) = (w, some l) := ⟨0, line [(0, 3), (8, 1), (16, 128), (23, 0xFF)] ++ line [], List.replicate 8 0, { type := 3, id := 0, egrp := 1, spMask := 1, sizeGib := 1, flags := 0, param := 0 }, { rtype := 3, id := 0, created := true, centroids := [List.replicate 64 0], radius := [0], nmin := [0x7F7FFFFF#32] }, withCorpus [(0, line [(0, 3), (8, 1), (16, 128), (23, 0xFF)])] [(srcReg 0 0x18, 16), (srcReg 0 0x1C, 1)], (takeEpoch (withCorpus [(0, line [(0, 3), (8, 1), (16, 128), (23, 0xFF)])] [(srcReg 0 0x18, 16), (srcReg 0 0x1C, 1)])).1, withCorpus [(0, line [(0, 3), (8, 1), (16, 128), (23, 0xFF)])] [(srcReg 0 0x18, 16), (srcReg 0 0x1C, 1)], by decide +kernel⟩

theorem met_QueryRing_6 : ∃ (i : Nat) (d l : List Byte) (r : Region) (x y : Index) (u w s : State), nextQuery s u 4 i d r ∧ r.type = 3 ∧ createHeld s = false ∧ bitOf (fieldAt d 3 1) 0 = false ∧ x = (findIndex u 3 (fieldAt d 2 1)).getD { rtype := 3, id := fieldAt d 2 1 } ∧ (x.created && !x.entries.isEmpty) = false ∧ slmOk u (fieldAt d 0x10 8) (fieldAt d 8 4 * dimOf r.param * 4) = true ∧ readSlm (takeEpoch u).1 (fieldAt d 0x10 8) (fieldAt d 8 4 * dimOf r.param * 4) = (w, some l) ∧ badElement (vectorOf .fp32 l 0 (fieldAt d 8 4 * dimOf r.param)) = none ∧ y = { rtype := r.type, id := r.id, created := true, centroids := (List.range (fieldAt d 8 4)).map (fun c => (chunk (vectorOf .fp32 l 0 (fieldAt d 8 4 * dimOf r.param)) c (dimOf r.param)).map (fun e => toF32 .bf16 (narrow .bf16 0 0 e).1)), radius := List.replicate (fieldAt d 8 4) zero32, nmin := List.replicate (fieldAt d 8 4) 0x7F7FFFFF#32 } ∧ centroidBytes { s with search := { s.search with queries := s.search.queries ++ [{ parseQuery s i d with epoch := s.corpus.nextEpoch, pendingIndex := some y }] } } s.nv.layout + stagingBytes (settings s) + 64 * granule ≤ (settings s).stkWork * granule := ⟨0, line [(0, 4), (8, 1), (16, 128), (23, 0xFF)] ++ line [], List.replicate 256 0, { type := 3, id := 0, egrp := 1, spMask := 1, sizeGib := 1, flags := 0, param := 0 }, { rtype := 3, id := 0, created := true, centroids := [List.replicate 64 0], radius := [0], nmin := [0x7F7FFFFF#32] }, { rtype := 3, id := 0, created := true, centroids := [List.replicate 64 0], radius := [0], nmin := [0x7F7FFFFF#32] }, withCorpus [(0, line [(0, 4), (8, 1), (16, 128), (23, 0xFF)])] [(srcReg 0 0x18, 16), (srcReg 0 0x1C, 1)], (takeEpoch (withCorpus [(0, line [(0, 4), (8, 1), (16, 128), (23, 0xFF)])] [(srcReg 0 0x18, 16), (srcReg 0 0x1C, 1)])).1, withCorpus [(0, line [(0, 4), (8, 1), (16, 128), (23, 0xFF)])] [(srcReg 0 0x18, 16), (srcReg 0 0x1C, 1)], by decide +kernel⟩

theorem met_QueryRing_7 : ∃ (i : Nat) (q : Query) (r : Region) (x : Index) (u s : State), i < 65536 ∧ s.scan.jobs.find? (fun j => j.index == i && jobCommits j) = none ∧ s.search.queries.find? (fun q => q.index == i && !q.done && decide (2 ≤ q.op)) = some q ∧ findQuery s i = some q ∧ q.op = 2 ∧ findRegion s q.rtype q.region = some r ∧ regionReady s r = true ∧ findIndex s q.rtype q.region = some x ∧ enterEntries s r x q.pendingSlabs q.entered q.pendingEntries = (u, q.pendingEntries.length) := ⟨0, someQuery 2, { type := 3, id := 0, egrp := 1, spMask := 1, sizeGib := 1, flags := 0, param := 0 }, { rtype := 3, id := 0, created := true, centroids := [List.replicate 64 0], radius := [0], nmin := [0x7F7FFFFF#32] }, { withCorpus [] [(ftlReg 0 0, 2 ^ 31)] with search := { queries := [someQuery 2] } }, { withCorpus [] [(ftlReg 0 0, 2 ^ 31)] with search := { queries := [someQuery 2] } }, by decide +kernel⟩

theorem met_QueryRing_8 : ∃ (i : Nat) (q : Query) (s : State), i < 65536 ∧ 0 < s.build.sp ∧ windowOpen s = true ∧ s.power.recovery = false ∧ s.search.queries.find? (fun q => q.index == i && !q.done) = some q ∧ findQuery s i = some q ∧ q.op = 1 := ⟨0, someQuery 1, { withCorpus [] [] with search := { queries := [someQuery 1] } }, by decide +kernel⟩

theorem met_QueryRing_9 : ∃ (i : Nat) (s : State), i < 65536 ∧ 0 < s.build.sp ∧ windowOpen s = true ∧ s.power.recovery = false ∧ s.search.queries.find? (fun q => q.index == i && !q.done) = none ∧ ringWaits (fld s (srcReg 0 0x18) 16 0) (regNat s (srcReg 0 0x1C)) (regNat s (srcReg 0 0x20)) s.search.queries.length i = true := ⟨3, withRegs inService [(srcReg 0 0x18, 16), (srcReg 0 0x1C, 5)], by decide⟩

theorem met_QueryPasses_1 : ∃ (i : Nat) (q : Query) (r : Region) (x : Index) (s : State), i < 65536 ∧ findQuery s i = some q ∧ findRegion s q.rtype q.region = some r ∧ findIndex s q.rtype q.region = some x ∧ q.done = false ∧ q.op = 1 ∧ q.contexts.all (·.scored) = false := ⟨0, { someQuery 1 with contexts := [{ package := 0, clusters := [] }] }, { type := 3, id := 0, egrp := 1, spMask := 1, sizeGib := 1, flags := 0, param := 0 }, { rtype := 3, id := 0, created := true, centroids := [List.replicate 64 0], radius := [0], nmin := [0x7F7FFFFF#32] }, { withCorpus [] [] with search := { queries := [{ someQuery 1 with contexts := [{ package := 0, clusters := [] }] }] } }, by decide +kernel⟩

theorem met_QueryPasses_2 : ∃ (p rt id c : Nat) (q : Query) (r : Region) (x : Index) (s : State), p < 4 ∧ ((rt = 3 ∨ rt = 4)) ∧ id < 64 ∧ c < 65536 ∧ findRegion s rt id = some r ∧ findIndex s rt id = some x ∧ (oldestRequest (requests s p (engineOf s (homeChan r c)))).map (·.2) = some (rt, id, c) ∧ homePkg r c = p ∧ scansHeld s p = false ∧ s.scan.rebuilding.contains (rt, id) = false ∧ ((s.search.queries.filter (fun q => awaits q p rt id c)).mergeSort (fun a b => decide (askedBy a p ≤ askedBy b p))).take (fld s (srcReg p 4) 6 0) = [q] ∧ findQuery s q.index = some q ∧ x.slabs.all (fun b => b.cluster != c || b.vec.isSome || !slabUnread s r b.slab (slabHead + listFill x b.slab * entryLen r)) = true := ⟨0, 3, 0, 0, { someQuery 1 with contexts := [{ package := 0, clusters := [(0, 0)], scored := true }] }, { type := 3, id := 0, egrp := 1, spMask := 1, sizeGib := 1, flags := 0, param := 0 }, { rtype := 3, id := 0, created := true, centroids := [List.replicate 64 0], radius := [0], nmin := [0x7F7FFFFF#32] }, { withCorpus [] [(srcReg 0 4, 8)] with search := { queries := [{ someQuery 1 with contexts := [{ package := 0, clusters := [(0, 0)], scored := true }] }] } }, by decide +kernel⟩

theorem met_QueryPasses_3 : ∃ (i p : Nat) (bad : Bool) (q : Query) (r : Region) (x : Index) (c : Candidate) (s : State), i < 65536 ∧ p < 4 ∧ findQuery s i = some q ∧ findRegion s q.rtype q.region = some r ∧ findIndex s q.rtype q.region = some x ∧ q.done = false ∧ nextCandidate q p = some c ∧ (s.search.cache.contains (cacheKey r c) && !bad || (unitsLost s r [] (vectorUnits r x c)).isEmpty) = true := ⟨0, 0, false, { someQuery 1 with contexts := [{ package := 0, clusters := [], scored := true }], cands := [someCand] }, { type := 3, id := 0, egrp := 1, spMask := 1, sizeGib := 1, flags := 0, param := 0 }, { rtype := 3, id := 0, created := true, centroids := [List.replicate 64 0], radius := [0], nmin := [0x7F7FFFFF#32] }, someCand, { withCorpus [] [] with search := { queries := [{ someQuery 1 with contexts := [{ package := 0, clusters := [], scored := true }], cands := [someCand] }] } }, by decide +kernel⟩

theorem met_QueryPasses_4 : ∃ (i a b : Nat) (q : Query) (s : State), i < 65536 ∧ a < 4 ∧ b < 4 ∧ findQuery s i = some q := ⟨0, 0, 1, { someQuery 1 with contexts := [{ package := 0, clusters := [], threshold := some 5 }, { package := 1, clusters := [] }] }, { inService with search := { queries := [{ someQuery 1 with contexts := [{ package := 0, clusters := [], threshold := some 5 }, { package := 1, clusters := [] }] }] } }, by decide⟩

theorem met_QueryPasses_5 : ∃ (i p : Nat) (q : Query) (s : State), i < 65536 ∧ p < 4 ∧ findQuery s i = some q ∧ q.done = false ∧ q.contexts.any (fun c => c.package == p && !c.complete && contextDone q c) = true := ⟨0, 0, { someQuery 1 with contexts := [{ package := 0, clusters := [], scored := true }, { package := 1, clusters := [] }] }, { withCorpus [] [] with search := { queries := [{ someQuery 1 with contexts := [{ package := 0, clusters := [], scored := true }, { package := 1, clusters := [] }] }] } }, by decide +kernel⟩

theorem met_QueryPasses_6 : ∃ (i : Nat) (q : Query) (s : State), i < 65536 ∧ findQuery s i = some q ∧ q.done = false ∧ q.op = 1 ∧ expired s q.start q.deadline = true := ⟨0, { someQuery 1 with deadline := 9 }, { withCorpus [] [] with tb := 9, search := { queries := [{ someQuery 1 with deadline := 9 }] } }, by decide +kernel⟩

theorem met_PortsAndFlits_1 : ∃ (p : Nat) (s : State), p < 24 ∧ canTrain s p = true := ⟨0, withFabric [], by decide⟩

theorem met_PortsAndFlits_2 : ∃ (p : Nat) (s : State), p < 24 ∧ ((portState s p = 2 ∨ portState s p = 4)) := ⟨15, withRegs inService [(portReg 15 0, 2 ^ 30)], by decide⟩

theorem met_PortsAndFlits_3 : ∃ (x : Rx) (pool : Nat) (esc : List Nat) (s : State), x.port < 24 ∧ pool < 65536 ∧ linked s x.port = true ∧ (port s x.port).txQueue = [] ∧ (port s x.port).ctrlQueue = [] := ⟨{ port := 1 }, 65535, [33], withFabric upRegs, by decide⟩

theorem met_PortsAndFlits_4 : ∃ (p : Nat) (s : State), p < 24 ∧ linked s p = true := ⟨1, withFabric upRegs, by decide⟩

theorem met_PortsAndFlits_5 : ∃ (p ack cvc credits : Nat) (differs : Bool) (s : State), p < 24 ∧ linked s p = true ∧ (port s p).txQueue = [] ∧ (port s p).ctrlQueue = [] := ⟨1, 4095, 14, 3, true, withFabric upRegs, by decide⟩

theorem met_PortsAndFlits_6 : ∃ (x : Rx) (seq : Nat) (y : Port) (s : State), x.port < 24 ∧ linked s x.port = true ∧ y = takeAck (port (takeFlits s x 1 none) x.port) (seq + 4095) ∧ (y.txSeq + 4096 - seq % 4096) % 4096 = y.replay.length ∧ (port s x.port).txQueue = [] ∧ (port s x.port).ctrlQueue = [] := ⟨{ port := 1 }, 4, { rxSeq := 1, txSeq := 5, ackOwed := true, replay := [{ ftype := 5, seq := 4 }] }, { withFabric upRegs with fabric := { ports := [(1, { txSeq := 5, replay := [{ ftype := 5, seq := 3 }, { ftype := 5, seq := 4 }] })] } }, by decide⟩

theorem met_PortsAndFlits_7 : ∃ (x : Rx) (mask first : Nat) (s : State), x.port < 24 ∧ mask < 256 ∧ linked s x.port = true ∧ (port s x.port).mapsNext = [] ∧ (port s x.port).txQueue = [] ∧ (port s x.port).ctrlQueue = [] ∧ ((port s x.port).txSeq + 4096 - first % 4096) % 4096 < 2048 := ⟨{ port := 1 }, 0x7F, 0, withFabric upRegs, by decide⟩

theorem met_PortsAndFlits_8 : ∃ (x : Rx) (mask first : Nat) (s : State), x.port < 24 ∧ 0 < mask ∧ mask < 256 ∧ canTrain s x.port = true ∧ portState s x.port = 0 := ⟨{ port := 1 }, 0x7F, 0, withFabric [], by decide⟩

theorem met_LanesRetrainAndRetire_1 : ∃ (l : LaneId) (s : State), l.port < 24 ∧ l.lane < 8 ∧ portFitted s.build l.port = true ∧ laneWorks s l.port (laneKey l / 8) (laneKey l % 8) = true ∧ 2 ≤ portState s l.port ∧ withinWindow s 2 (l.port * 16 + laneKey l) = false := ⟨{ port := 1, transmit := false, lane := 7 }, withFabric upRegs, by decide⟩

theorem met_LanesRetrainAndRetire_2 : ∃ (l : LaneId) (s : State), l.port < 24 ∧ l.lane < 8 ∧ portFitted s.build l.port = true ∧ laneWorks s l.port (laneKey l / 8) (laneKey l % 8) = true ∧ 2 ≤ portState s l.port ∧ withinWindow s 2 (l.port * 16 + laneKey l) = true := ⟨{ port := 1, transmit := false, lane := 7 }, { withFabric ((GLB_FW_WINDOW 2, 1000) :: upRegs) with faults := { powered := 5, ages := [{ cls := 2, unit := 31, at_ := 4 }] } }, by decide⟩

theorem met_LanesRetrainAndRetire_3 : ∃ (l : LaneId) (n : Nat) (s : State), l.port < 24 ∧ l.lane < 8 ∧ portFitted s.build l.port = true ∧ n ≤ 64 := ⟨{ port := 1, transmit := false, lane := 7 }, 64, withFabric upRegs, by decide⟩

theorem met_LanesRetrainAndRetire_4 : ∃ (p : Nat) (s : State), p < 24 ∧ portFitted s.build p = true ∧ 2 ≤ portState s p ∧ 8 ≤ (port s p).replays ∧ 0 < laneCount s p 1 := ⟨1, { withFabric upRegs with fabric := { ports := [(1, { replays := 8 })] } }, by decide⟩

theorem met_LanesRetrainAndRetire_5 : ∃ (l : LaneId) (n : Nat) (r : FaultRec) (s : State), l.port < 24 ∧ l.lane < 8 ∧ (port s l.port).retrain.find? (fun y => y.1 == laneKey l) = some (laneKey l, n, r) := ⟨{ port := 1, transmit := true, lane := 2 }, 0, faultRec State.reset 2 1 1 18, { withFabric upRegs with fabric := { ports := [(1, { retrain := [(2, 0, faultRec State.reset 2 1 1 18)] })] } }, by decide⟩

theorem met_FabricTimeKeeps_1 : ∃ (p : Nat) (s : State), timeSource s = some p ∧ portUp s p = true := ⟨0, withFabric upRegs, by decide⟩

theorem met_FabricTimeKeeps_2 : ∃ (x : Rx) (a b : Nat) (s : State), x.port < 24 ∧ linked s x.port = true := ⟨{ port := 1 }, 5, 6, withFabric upRegs, by decide⟩

theorem met_FabricTimeKeeps_3 : ∃ (x : Rx) (a b c d : Nat) (s : State), x.port < 24 ∧ timeSource s = some x.port ∧ portUp s x.port = true ∧ 200 < ((b : Int) - a) + ((c : Int) - d) := ⟨{ port := 0 }, 0, 101, 100, 0, withFabric upRegs, by decide⟩

theorem met_FabricTimeKeeps_4 : ∃ (x : Rx) (a b c d : Nat) (s : State), x.port < 24 ∧ timeSource s = some x.port ∧ portUp s x.port = true ∧ ((b : Int) - a) + ((c : Int) - d) < -200 := ⟨{ port := 0 }, 500, 0, 0, 501, withFabric upRegs, by decide⟩

theorem met_FabricTimeKeeps_5 : ∃ (x : Rx) (a b c d : Nat) (s : State), x.port < 24 ∧ timeSource s = some x.port ∧ portUp s x.port = true ∧ (((b : Int) - a) + ((c : Int) - d)).natAbs ≤ 10 ∧ 2 ≤ s.fabric.lockRun := ⟨{ port := 0 }, 0, 5, 5, 0, { withFabric upRegs with fabric := { lockRun := 2 } }, by decide⟩

theorem met_FabricTimeKeeps_6 : ∃ (hi lo : Word) (s : State), timeSource s = none ∧ windowOpen s = true ∧ s.power.recovery = false := ⟨7, 9, inService, by decide⟩

theorem met_TreeMessages_1 : ∃ (x : Rx) (m : HelloMsg) (u s : State), x.port < 16 ∧ linked s x.port = true ∧ portRole s x.port ≠ 0 ∧ u = setFld (setPort (arrive s x) x.port { port (arrive s x) x.port with helloGot := some m, departed := false }) (portReg x.port 0x14) 12 0 m.moduleId := ⟨{ port := 4 }, { portRole := 2, moduleId := 9, fabricId := 7, armId := 0, trees := [] }, setFld (setPort (arrive (withFabric [(portReg 4 0, 2 ^ 29)]) { port := 4 }) 4 { port (arrive (withFabric [(portReg 4 0, 2 ^ 29)]) { port := 4 }) 4 with helloGot := some { portRole := 2, moduleId := 9, fabricId := 7, armId := 0, trees := [] }, departed := false }) (portReg 4 0x14) 12 0 9, withFabric [(portReg 4 0, 2 ^ 29)], by decide +kernel⟩

theorem met_TreeMessages_2 : ∃ (x : Rx) (m : HelloMsg) (s : State), 16 ≤ x.port ∧ x.port < 24 ∧ linked s x.port = true := ⟨{ port := 23 }, { portRole := 0, moduleId := 9, fabricId := 7, armId := 0, trees := [] }, withFabric [(portReg 23 0, 2 ^ 29)], by decide⟩

theorem met_TreeMessages_3 : ∃ (x : Rx) (q : Nat) (s : State), x.port < 16 ∧ q < 8192 ∧ linked s x.port = true ∧ ((portRole s x.port = 1 ∨ portRole s x.port = 2)) := ⟨{ port := 4 }, 9, withFabric upRegs, by decide⟩

theorem met_TreeMessages_4 : ∃ (x : Rx) (k n : Nat) (r : TreeRec) (s : State), x.port < 24 ∧ k < 16 ∧ treeOn s x.port k false = some r := ⟨{ port := 1 }, 0, 6, tree0, withFabric upRegs, by decide⟩

theorem met_TreeMessages_5 : ∃ (x : Rx) (k mode step base : Nat) (r : TreeRec) (s : State), x.port < 24 ∧ k < 16 ∧ treeOn s x.port k true = some r := ⟨{ port := 0 }, 0, 1, 0, 0, tree0, withFabric upRegs, by decide⟩

theorem met_TreeMessages_6 : ∃ (x : Rx) (k origin seg : Nat) (r : TreeRec) (s : State), x.port < 24 ∧ k < 16 ∧ portUp s x.port = true ∧ treeRec s k = some r ∧ (treePorts r).contains x.port = true ∧ treeState s k ≠ 4 := ⟨{ port := 1 }, 0, 9, 1, tree0, withFabric upRegs, by decide⟩

theorem met_TreeMessages_7 : ∃ (x : Rx) (k flag step : Nat) (r : TreeRec) (s : State), x.port < 24 ∧ k < 16 ∧ treeOn s x.port k false = some r := ⟨{ port := 3 }, 1, 1, 0, tree1, withFabric upRegs, by decide⟩

theorem met_TreePacketsAndSums_1 : ∃ (x : Rx) (p i : Nat) (k : Packet) (r : TreeRec) (s : State), p = x.port ∧ p < 24 ∧ portUp s p = true ∧ k.crcOk = true ∧ k.fabricId = (settings s).fabricId ∧ treeOn s p k.tree false = some r ∧ treeState s k.tree ≠ 0 ∧ treeState s k.tree ≠ 4 ∧ k.step = stepOf s k.tree ∧ inTree r k.seg = true ∧ raMode s k.tree = false ∧ (tree s k.tree).finished.contains k.seg = false ∧ inWin (tree s k.tree).base k.seg = true ∧ isBackup s r p = false ∧ i = positionOf s r p ∧ i < (segOf r (tree s k.tree) k.seg).positions.length ∧ goneBefore (tree s k.tree) i k.seg = false ∧ ((segOf r (tree s k.tree) k.seg).positions.getD i {}).dropped = false ∧ ((segOf r (tree s k.tree) k.seg).positions.getD i {}).taken = none := ⟨{ port := 1 }, 1, 1, somePacket 0 1, tree0, withFabric upRegs, by decide +kernel⟩

theorem met_TreePacketsAndSums_2 : ∃ (x : Rx) (k : Packet) (r : TreeRec) (s : State), x.port < 24 ∧ portUp s x.port = true ∧ k.crcOk = true ∧ k.fabricId = (settings s).fabricId ∧ treeOn s x.port k.tree false = some r ∧ treeState s k.tree ≠ 0 ∧ treeState s k.tree ≠ 4 ∧ k.step = stepOf s k.tree ∧ inTree r k.seg = true ∧ raMode s k.tree = true ∧ r.root = true ∧ (tree s k.tree).finished.contains k.seg = false ∧ inWin (tree s k.tree).base k.seg = true ∧ (segOf r (tree s k.tree) k.seg).raHeard.any (fun h => h.1 == k.position) = false := ⟨{ port := 3 }, somePacket 1 1, tree1, withFabric (upRegs ++ [(treeReg 1 0, 2 ^ 28 + 2 ^ 27)]), by decide +kernel⟩

theorem met_TreePacketsAndSums_3 : ∃ (x : Rx) (k : Packet) (r : TreeRec) (s : State), x.port < 24 ∧ portUp s x.port = true ∧ k.crcOk = true ∧ k.fabricId = (settings s).fabricId ∧ treeOn s x.port k.tree false = some r ∧ treeState s k.tree ≠ 0 ∧ treeState s k.tree ≠ 4 ∧ k.step = stepOf s k.tree ∧ inTree r k.seg = true ∧ raMode s k.tree = true ∧ r.root = false := ⟨{ port := 1 }, somePacket 0 1, tree0, withFabric (upRegs ++ [(treeReg 0 0, 2 ^ 28 + 2 ^ 27)]), by decide +kernel⟩

theorem met_TreePacketsAndSums_4 : ∃ (k g : Nat) (bad : Bool) (r : TreeRec) (s : State), k < 16 ∧ treeRec s k = some r ∧ ((treeState s k = 1 ∨ treeState s k = 2)) ∧ inTree r g = true ∧ inWin (tree s k).base g = true ∧ (tree s k).finished.contains g = false ∧ raMode s k = false ∧ s.nv.retiredAdders.contains (adderPort r) = false ∧ ((r.root = true ∨ maySend s r g = true)) ∧ (positionsOf (takeBackups s r g) r).all (resolved (takeBackups s r g) r g) = true ∧ (bad && withinWindow s 4 (adderPort r)) = false := ⟨1, 1, true, tree1, { withFabric upRegs with fabric := { trees := [(1, { absent := [(0, 0), (1, 0)] })] } }, by decide +kernel⟩

theorem met_TreePacketsAndSums_5 : ∃ (x : Rx) (p : Nat) (k : Packet) (r : TreeRec) (s : State), p = x.port ∧ p < 24 ∧ portUp s p = true ∧ k.crcOk = true ∧ k.fabricId = (settings s).fabricId ∧ treeOn s p k.tree true = some r ∧ treeState s k.tree ≠ 0 ∧ treeState s k.tree ≠ 4 ∧ k.step = stepOf s k.tree ∧ inTree r k.seg = true ∧ (tree s k.tree).params.contains k.seg = false ∧ (tree s k.tree).params.length + 1 < r.segCount := ⟨{ port := 0 }, 0, somePacket 0 1, tree0, withFabric upRegs, by decide +kernel⟩

theorem met_TreePacketsAndSums_6 : ∃ (x : Rx) (p : Nat) (k : Packet) (r : TreeRec) (s : State), p = x.port ∧ p < 24 ∧ portUp s p = true ∧ k.crcOk = true ∧ k.fabricId = (settings s).fabricId ∧ treeOn s p k.tree true = some r ∧ treeState s k.tree ≠ 0 ∧ treeState s k.tree ≠ 4 ∧ k.step = stepOf s k.tree ∧ inTree r k.seg = true ∧ (tree s k.tree).params.contains k.seg = false ∧ (tree s k.tree).params.length + 1 = r.segCount := ⟨{ port := 0 }, 0, somePacket 0 1, tree0, { withFabric upRegs with fabric := { trees := [(0, { params := [0], posted := [0, 1], holdAsked := true })] } }, by decide +kernel⟩

theorem met_TreePacketsAndSums_7 : ∃ (k g : Nat) (r : TreeRec) (s : State), k < 16 ∧ treeRec s k = some r ∧ segDue s r g = true ∧ raMode s k = false ∧ rbit s (treeReg k 0x10) 0 = false ∧ ((positionsOf (takeBackups s r g) r).filter (fun i => !resolved (takeBackups s r g) r g i)).any (fun i => ((segOf r (tree (takeBackups s r g) k) g).positions.getD i {}).backup.isNone) = true := ⟨0, 1, tree0, { withFabric ((treeReg 0 0xC, 9) :: upRegs) with fabric := { trees := [(0, { posted := [1], starts := [(1, some 0)] })] }, tb := 9 }, by decide +kernel⟩

theorem met_TreeAndPeerCommands_1 : ∃ (k n : Nat) (r : TreeRec) (s : State), k < 16 ∧ n < 2 ^ 32 ∧ windowOpen s = true ∧ s.power.recovery = false ∧ treeRec s k = some r ∧ r.segFirst ≤ regNat s (treeReg k 0x1C) ∧ regNat s (treeReg k 0x1C) + n ≤ r.segFirst + r.segCount := ⟨0, 2, tree0, withFabric upRegs, by decide⟩

theorem met_TreeAndPeerCommands_2 : ∃ (k : Nat) (r : TreeRec) (s : State), k < 16 ∧ windowOpen s = true ∧ s.power.recovery = false ∧ treeRec s k = some r ∧ treeState s k ≠ 4 := ⟨0, tree0, withFabric upRegs, by decide⟩

theorem met_TreeAndPeerCommands_3 : ∃ (k : Nat) (r : TreeRec) (s : State), k < 16 ∧ windowOpen s = true ∧ s.power.recovery = false ∧ treeRec s k = some r ∧ treeState s k = 4 ∧ (tree s k).abortedStep < stepOf s k := ⟨0, tree0, withFabric [(treeReg 0 0, 2 ^ 30), (treeReg 0 8, 1)], by decide⟩

theorem met_TreeAndPeerCommands_4 : ∃ (k : Nat) (r : TreeRec) (s : State), k < 16 ∧ windowOpen s = true ∧ s.power.recovery = false ∧ treeRec s k = some r ∧ treeState s k = 1 ∧ (tree s k).sent = false := ⟨0, tree0, withFabric upRegs, by decide⟩

theorem met_TreeAndPeerCommands_5 : ∃ (k : Nat) (r : TreeRec) (s : State), k < 16 ∧ windowOpen s = true ∧ s.power.recovery = false ∧ treeRec s k = some r ∧ treeState s k ≠ 3 ∧ ((treeState s k = 1 → (tree s k).sent = true)) := ⟨0, tree0, withFabric [(treeReg 0 0, 2 ^ 29)], by decide⟩

theorem met_TreeAndPeerCommands_6 : ∃ (k : Nat) (r : TreeRec) (s : State), k < 16 ∧ windowOpen s = true ∧ s.power.recovery = false ∧ treeRec s k = some r ∧ treeState s k = 3 := ⟨0, tree0, withFabric [(treeReg 0 0, 3 * 2 ^ 28)], by decide⟩

theorem met_TreeAndPeerCommands_7 : ∃ (p : Nat) (l : List Byte) (u s : State), p < 16 ∧ windowOpen s = true ∧ s.power.recovery = false ∧ rbit s FAB_PEER_STAT 30 = false ∧ portRole s p = 2 ∧ portUp s p = true ∧ regNat s FAB_PEER_LEN ≠ 0 ∧ mappedSlm (settings s) (nat64 s FAB_PEER_SRC) (regNat s FAB_PEER_LEN) = true ∧ readRange (setFld s FAB_PEER_CTRL 3 0 p) (nat64 s FAB_PEER_SRC) (regNat s FAB_PEER_LEN) = (u, some l) := ⟨4, List.replicate 64 0, setFld (withFabric (upRegs ++ [(FAB_PEER_LEN, 64)])) FAB_PEER_CTRL 3 0 4, withFabric (upRegs ++ [(FAB_PEER_LEN, 64)]), by decide +kernel⟩

theorem met_TreeAndPeerCommands_8 : ∃ (x : Rx) (p result n : Nat) (s : State), p = x.port ∧ p < 24 ∧ portUp s p = true ∧ rbit s FAB_PEER_STAT 30 = true ∧ s.fabric.peerPort = p ∧ ((result ≠ 0 ∨ s.fabric.peerSent ≤ s.fabric.peerAcked + n)) := ⟨{ port := 4 }, 4, 0, 64, { withFabric (upRegs ++ [(FAB_PEER_STAT, 2 ^ 30)]) with fabric := { peerPort := 4, peerSent := 64 } }, by decide⟩

theorem met_TreeAndPeerCommands_9 : ∃ (x : Rx) (p : Nat) (k : Packet) (s : State), p = x.port ∧ p < 24 ∧ portUp s p = true ∧ portRole s p = 2 ∧ k.crcOk = true ∧ k.fabricId = (settings s).fabricId ∧ k.dst + k.payload.length ≤ regNat s FAB_PEER_WIN_LEN * 4096 ∧ mappedSlm (settings s) (nat64 s FAB_PEER_WIN + k.dst) k.payload.length = true ∧ touchesCopy s (slmAddr (nat64 s FAB_PEER_WIN + k.dst)) k.payload.length = false ∧ (slmWrite (arrivePacket s x k 8) (nat64 s FAB_PEER_WIN + k.dst) k.payload).2 = true := ⟨{ port := 4 }, 4, somePacket 0 0, withFabric (upRegs ++ [(FAB_PEER_WIN_LEN, 1)]), by decide +kernel⟩

theorem met_StepSizeAndTagCommitTogether_1 : ∃ (k : Nat) (v : Word) (s : State), k < 16 ∧ windowOpen s = true ∧ s.power.recovery = false := ⟨15, 0x3A800000, inService, by decide⟩

theorem met_StepSizeAndTagCommitTogether_2 : ∃ (k : Nat) (n : Word) (s : State), k < 16 ∧ windowOpen s = true ∧ s.power.recovery = false := ⟨3, 900, withRegs inService [(updReg 3 0x8, 0x3A800000)], by decide⟩

theorem met_UpdateUnitCommands_1 : ∃ (n : Nat) (s : State), n < 16 ∧ windowOpen s = true ∧ s.power.recovery = false ∧ (progCheck s n ((List.range 32).map (fun w => regNat s (UPD_PSTAGE w)))).1 = 0 := ⟨5, withRegs inService [(UPD_PSTAGE 0, 2), (UPD_PSTAGE 4, 0xD0000000), (UPD_PSTAGE 5, 0xF0000000)], by decide +kernel⟩

theorem met_UpdateUnitCommands_2 : ∃ (n : Nat) (s : State), n < 16 ∧ windowOpen s = true ∧ s.power.recovery = false ∧ (progCheck s n ((List.range 32).map (fun w => regNat s (UPD_PSTAGE w)))).1 ≠ 0 := ⟨15, inService, by decide +kernel⟩

theorem met_UpdateUnitCommands_3 : ∃ (k g nf fl : Nat) (sum : List Word) (rest : List (Nat × List Word × Nat × Nat)) (r : TreeRec) (s : State), k < 16 ∧ treeRec s k = some r ∧ r.root = true ∧ treeState s k ≠ 0 ∧ treeState s k ≠ 4 ∧ (tree s k).sums = (g, sum, nf, fl) :: rest ∧ rbit s UPD_PROG_VALID r.updProg = true ∧ windowsOk s r (bitsOf (slotWord s r.updProg 0) 9 8) (bitOf (slotWord s r.updProg 0) 16) = true ∧ rbit s (updReg k 0) 27 = false ∧ rbit s (updReg k 0) 26 = false ∧ regNat s (updReg k 0xC) ≠ stepOf s k := ⟨1, 0, 0, 0, [], [], tree1, { withFabric (upRegs ++ [(UPD_PROG_VALID, 1), (UPD_SLOT 0 0, 2), (updReg 1 0x20, 4096), (updReg 1 0xC, 7)]) with fabric := { trees := [(1, { sums := [(0, [], 0, 0)] })] } }, by decide +kernel⟩

theorem met_UpdateUnitCommands_4 : ∃ (k g nf fl : Nat) (sum : List Word) (rest : List (Nat × List Word × Nat × Nat)) (r : TreeRec) (ms sts : List Byte) (u v w s : State), k < 16 ∧ treeRec s k = some r ∧ r.root = true ∧ treeState s k ≠ 0 ∧ treeState s k ≠ 4 ∧ (tree s k).sums = (g, sum, nf, fl) :: rest ∧ rbit s UPD_PROG_VALID r.updProg = true ∧ windowsOk s r (bitsOf (slotWord s r.updProg 0) 9 8) (bitOf (slotWord s r.updProg 0) 16) = true ∧ ((rbit s (updReg k 0) 27 = true ∨ regNat s (updReg k 0xC) = stepOf s k)) ∧ w = (if rbit s (updReg k 0) 27 then s else latchLr (if rbit s (updReg k 0) 26 then s else setFld s (updReg k 0) 7 0 0) k) ∧ readRange w (nat64 w (updReg k 0x20) + fld w (updReg k 0x4) 0 0 * (r.segCount * 8192) + (g - r.segFirst) * 8192) 8192 = (u, some ms) ∧ (if bitOf (slotWord s r.updProg 0) 16 then readRange u (nat64 u (updReg k 0x28) + fld w (updReg k 0x4) 0 0 * (r.segCount * 8192) + (g - r.segFirst) * 8192) 8192 else (u, some [])) = (v, some sts) := ⟨1, 0, 0, 0, [], [], tree1, List.replicate 8192 0, [], latchLr updReady 1, latchLr updReady 1, latchLr updReady 1, updReady, by set_option maxRecDepth 100000 in decide +kernel⟩

theorem met_UpdateUnitCommands_5 : ∃ (k g nf fl : Nat) (sum : List Word) (rest : List (Nat × List Word × Nat × Nat)) (r : TreeRec) (s : State), k < 16 ∧ treeRec s k = some r ∧ r.root = true ∧ treeState s k ≠ 0 ∧ treeState s k ≠ 4 ∧ (tree s k).sums = (g, sum, nf, fl) :: rest ∧ rbit s UPD_PROG_VALID r.updProg = true ∧ bitOf (slotWord s r.updProg 0) 16 = false ∧ (List.range 32).all (fun i => bitsOf (slotWord s r.updProg i) 31 28 != 0xE) = true ∧ nat64 s (updReg k 0x20) % 64 = 0 ∧ touchesCopy s (slmAddr (nat64 s (updReg k 0x20) + (1 - fld s (updReg k 0x4) 0 0) * (r.segCount * 8192) + (g - r.segFirst) * 8192)) 8192 = false ∧ acceptsWrite s (nat64 s (updReg k 0x20) + (1 - fld s (updReg k 0x4) 0 0) * (r.segCount * 8192) + (g - r.segFirst) * 8192) 8192 128 = true ∧ windowsOk s r (bitsOf (slotWord s r.updProg 0) 9 8) false = true ∧ rbit s (updReg k 0) 27 = true ∧ (tree s k).params.length + 1 < r.segCount ∧ (readRange s (nat64 s (updReg k 0x20) + fld s (updReg k 0x4) 0 0 * (r.segCount * 8192) + (g - r.segFirst) * 8192) 8192).2.isSome = true := ⟨1, 0, 0, 0, [], [], tree1, { withFabric (upRegs ++ [(UPD_PROG_VALID, 1), (UPD_SLOT 0 0, 2), (updReg 1 0x20, 4096), (updReg 1 0, 2 ^ 27)]) with fabric := { trees := [(1, { sums := [(0, [], 0, 0)] })] } }, by decide +kernel⟩

theorem met_UpdateUnitCommands_6 : ∃ (k g nf fl : Nat) (sum : List Word) (rest : List (Nat × List Word × Nat × Nat)) (r : TreeRec) (s : State), k < 16 ∧ treeRec s k = some r ∧ r.root = true ∧ treeState s k ≠ 0 ∧ treeState s k ≠ 4 ∧ (tree s k).sums = (g, sum, nf, fl) :: rest ∧ rbit s UPD_PROG_VALID r.updProg = false := ⟨1, 0, 0, 0, [], [], tree1, { withFabric upRegs with fabric := { trees := [(1, { sums := [(0, [], 0, 0)] })] } }, by decide +kernel⟩

theorem met_UpdateUnitCommands_7 : ∃ (k : Nat) (r : TreeRec) (s : State), k < 16 ∧ treeRec s k = some r ∧ treeState s k ≠ 0 ∧ treeState s k ≠ 4 ∧ rbit s (updReg k 0) 26 = true ∧ expired s (tree s k).lrWaitAt (regNat s (updReg k 0x18)) = true := ⟨1, tree1, { withFabric (upRegs ++ [(updReg 1 0, 2 ^ 26), (updReg 1 0x18, 5)]) with tb := 9, fabric := { trees := [(1, { sums := [(0, [], 0, 0)], lrWaitAt := 3 })] } }, by decide +kernel⟩

theorem met_UpdateUnitCommands_8 : ∃ (i : Nat) (s : State), i < 64 ∧ windowOpen s = true ∧ s.power.recovery = false := ⟨63, { inService with fabric := { stepLog := [(63, [1, 2, 3, 4, 5, 6, 7, 8, 9, 10, 11, 12, 13, 14, 15, 16])] } }, by decide⟩

theorem met_HostWritesReachFlash_1 : ∃ (p u e : Nat) (d : DirtyUnit) (s : State), p < 4 ∧ u < 2 ^ 32 ∧ alive s p = true ∧ placeFree s p u e = true ∧ exposed s p = false ∧ ((pkg s p).wbuf.filter (fun d => d.programmed.isNone)).find? (fun d => d.lunit == u) = some d := ⟨0, 8, 2 ^ 28 + 2, { lunit := 8, data := [(3, 4)] }, withFlash { recovery := 6, wbuf := [{ lunit := 8, data := [(3, 4)] }] } [], by decide +kernel⟩

theorem met_HostWritesReachFlash_2 : ∃ (p u e : Nat) (s : State), p < 4 ∧ u < 2 ^ 32 ∧ alive s p = true ∧ placeFree s p u e = true := ⟨0, 8, 2 ^ 28 + 2, withFlash { recovery := 6, wbuf := [{ lunit := 8, data := [(3, 4)] }] } [], by decide +kernel⟩

theorem met_HostWritesReachFlash_3 : ∃ (p u e o : Nat) (s : State), p < 4 ∧ alive s p = true ∧ (pkg s p).page = [{ type := 1, lunit := u, new := e, old := o }] ∧ (pkg s p).closing = false ∧ s.host.held = [] := ⟨0, 0, 2 ^ 28, entryUnmapped, withFlash { somePkg with map := [], page := [{ type := 1, lunit := 0, new := 2 ^ 28, old := entryUnmapped }], wbuf := [{ lunit := 0, data := [], programmed := some (2 ^ 28) }] } [], by decide +kernel⟩

theorem met_HostWritesReachFlash_4 : ∃ (p : Nat) (s : State), p < 4 := ⟨3, inService, by decide⟩

theorem met_HostWritesReachFlash_5 : ∃ (p : Nat) (s : State), p < 4 ∧ alive s p = true ∧ (pkg s p).closing = true ∧ (pkg s p).page = [{ type := 6, lunit := 0, clean := true }] ∧ (List.range s.build.sp).all (fun q => q == p || !(pkg s q).closing) = true ∧ s.power.owesFlush = false ∧ s.host.shst = 1 ∧ s.host.held = [] := ⟨0, { withFlash { somePkg with closing := true, page := [{ type := 6, lunit := 0, clean := true }] } [] with host := { State.reset.host with shst := 1 } }, by decide +kernel⟩

theorem met_HostWritesReachFlash_6 : ∃ (p k : Nat) (s : State), p < 4 ∧ alive s p = true ∧ exposed s p = false ∧ nextCast s p = some k := ⟨0, 0, withFlash { somePkg with casts := [(0, { changed := true })] } [], by decide +kernel⟩

theorem met_HostWritesReachFlash_7 : ∃ (p : Nat) (s : State), p < 4 ∧ p < s.build.sp ∧ windowOpen s = true ∧ s.power.recovery = false ∧ alive s p = true ∧ 50 ≤ fld s (ftlReg p 4) 7 0 ∧ fld s (ftlReg p 4) 7 0 ≤ 100 := ⟨0, withFlash { somePkg with wbuf := [{ lunit := 0, data := [] }] } [], by decide +kernel⟩

theorem met_HostWritesReachFlash_8 : ∃ (p : Nat) (s : State), p < 4 ∧ p < s.build.sp ∧ windowOpen s = true ∧ s.power.recovery = false ∧ alive s p = true ∧ 50 ≤ fld s (ftlReg p 4) 7 0 ∧ fld s (ftlReg p 4) 7 0 ≤ 100 := ⟨0, withFlash { somePkg with casts := [(0, { changed := true }), (3, {start := 2})] } [], by decide +kernel⟩

theorem met_HostWritesReachFlash_9 : ∃ (p : Nat) (s : State), p < 4 ∧ alive s p = true ∧ s.host.shst ≠ 2 := ⟨0, withFlash somePkg [], by decide +kernel⟩

theorem met_HostWritesReachFlash_10 : ∃ (p : Nat) (h : Held) (r : Region) (s : State), p < 4 ∧ alive s p = true ∧ s.host.held = [h] ∧ h.kind = kWrite ∧ h.nlb = 1 ∧ h.data.length = 4096 ∧ admits { s with host := { s.host with held := [] } } r h ∧ (blockHome s r h.slba).1 < s.packages.length ∧ (pkg s (blockHome s r h.slba).1).wbuf.any (fun d => d.lunit == (blockHome s r h.slba).2.1) = false := ⟨0, { tag := someTag, kind := kWrite, nsid := 1, slba := 5, nlb := 1, data := List.replicate 4096 3 }, someNs, { withFlash somePkg [] with host := { State.reset.host with held := [{ tag := someTag, kind := kWrite, nsid := 1, slba := 5, nlb := 1, data := List.replicate 4096 3 }] } }, ⟨by decide, by decide +kernel, rfl, rfl, rfl, List.length_replicate, by decide +kernel, by decide +kernel, by decide +kernel⟩⟩

theorem met_CollectionAndErase_1 : ∃ (p : Nat) (b : BlockId) (places : List Nat) (s : State), p < 4 ∧ blkOk b = true ∧ alive s p = true ∧ exposed s p = false ∧ (blk (pkg s p) (blkOf b)).state = 2 ∧ batchUnits (pkg s p) (blkOf b) ≠ [] ∧ (pkg s p).page.length + (batchUnits (pkg s p) (blkOf b)).length ≤ 1020 ∧ batchPlaces s p (blkOf b) (batchUnits (pkg s p) (blkOf b)) places = true ∧ gcSourceOk (pkg s p) (blkOf b) = true := ⟨0, { chan := 1, die := 0, block := 0 }, [2 ^ 28 * 3 + 2500], withFlash somePkg [], by decide +kernel⟩

theorem met_CollectionAndErase_2 : ∃ (p : Nat) (b : BlockId) (places : List Nat) (s : State), p < 4 ∧ blkOk b = true ∧ batchUnits (pkg s p) (blkOf b) ≠ [] ∧ gcSourceOk (pkg s p) (blkOf b) = false := ⟨0, { chan := 1, die := 0, block := 0 }, [2 ^ 28 * 3 + 2500], withFlash { somePkg with groups := [{ id := 0, half := 0, egrp := 0, slc := false, members := [62500] }, { id := 1, half := 0, egrp := 0, slc := false, members := [1] }], rebuildLeft := [1, 0] } [], by decide +kernel⟩

theorem met_CollectionAndErase_3 : ∃ (p g : Nat) (x : Group) (s : State), p < 4 ∧ alive s p = true ∧ (pkg s p).groups.find? (fun y => y.id == g) = some x ∧ groupReleased (pkg s p) x = true := ⟨0, 0, { id := 0, half := 0, egrp := 0, slc := false, members := (List.range 16).map (fun c => c * 62500), released := [62500] }, withFlash { recovery := 6, blocks := [(62500, { state := 3 })], groups := [{ id := 0, half := 0, egrp := 0, slc := false, members := (List.range 16).map (fun c => c * 62500), released := [62500] }] } [], by decide +kernel⟩

theorem met_CollectionAndErase_4 : ∃ (p : Nat) (b : BlockId) (s : State), p < 4 ∧ blkOk b = true ∧ alive s p = true ∧ (blk (pkg s p) (blkOf b)).state = 4 := ⟨0, { chan := 1, die := 0, block := 0 }, withFlash { somePkg with map := [], blocks := [(62500, { state := 4, erases := 7, reads := 3 })] } [], by decide +kernel⟩

theorem met_CollectionAndErase_5 : ∃ (p : Nat) (b : BlockId) (s : State), p < 4 ∧ blkOk b = true ∧ alive s p = true ∧ (blk (pkg s p) (blkOf b)).state = 4 := ⟨0, { chan := 1, die := 0, block := 0 }, withFlash { somePkg with map := [], blocks := [(62500, { state := 4, erases := 7, reads := 3 })] } [], by decide +kernel⟩

theorem met_CollectionAndErase_6 : ∃ (p : Nat) (b : BlockId) (s : State), p < 4 ∧ blkOk b = true ∧ alive s p = true ∧ (blk (pkg s p) (blkOf b)).state = 4 ∧ (blk (pkg s p) (blkOf b)).suspends < 16 := ⟨0, { chan := 1, die := 0, block := 0 }, withFlash { somePkg with map := [], blocks := [(62500, { state := 4, suspends := 15 })] } [], by decide +kernel⟩

theorem met_CollectionAndErase_7 : ∃ (p : Nat) (b : BlockId) (s : State), p < 4 ∧ b.chan < 32 ∧ b.die < 10 ∧ 16 ≤ (blk (pkg s p) (blkOf b)).suspends := ⟨0, { chan := 1, die := 0, block := 0 }, withFlash { somePkg with map := [], blocks := [(62500, { state := 4, suspends := 16 })] } [], by decide +kernel⟩

theorem met_CollectionAndErase_8 : ∃ (p g : Nat) (rest : List Nat) (s : State), p < 4 ∧ alive s p = true ∧ (pkg s p).rebuildLeft = g :: rest ∧ ((∀ y ∈ (pkg s p).groups, y.id = g → groupReleased (pkg s p) y = true)) := ⟨0, 4, [0], withFlash { somePkg with rebuildLeft := [4, 0], rebuildChan := some 2 } [], by decide +kernel⟩

theorem met_PackageRecovery_1 : ∃ (p : Nat) (s : State), p < 4 ∧ p < s.build.sp ∧ p < s.packages.length ∧ (pkg s p).recovery = 0 ∧ 4 ≤ s.power.core ∧ (pkg s p).closing = false ∧ (((pkg s p).flush = .none ∨ (pkg s p).flush = .done)) := ⟨0, withFlash { somePkg with recovery := 0, flush := .done } [], by decide +kernel⟩

theorem met_PackageRecovery_2 : ∃ (p : Nat) (s : State), p < 4 ∧ p < s.build.sp ∧ (pkg s p).recovery = 1 ∧ Sparse.wf ({} : Blk) (pkg s p).blocks = true := ⟨0, withFlash { somePkg with recovery := 1, blocks := [(62500, { state := 2, reads := 90, savedReads := 40 })], casts := [(0, { start := 1, changed := true })] } [], by decide +kernel⟩

theorem met_PackageRecovery_3 : ∃ (p : Nat) (s : State), p < 4 ∧ p < s.build.sp ∧ (pkg s p).recovery = 2 := ⟨0, withFlash { somePkg with recovery := 2, jseq := 12, journal := [{ wseq := 12, recs := [{ type := 1, lunit := 0, new := 2 ^ 28, old := entryUnmapped }] }] } [], by decide +kernel⟩

theorem met_PackageRecovery_4 : ∃ (p : Nat) (s : State), p < 4 ∧ p < s.build.sp ∧ (pkg s p).recovery = 3 ∧ (pkg s p).sealClean = false := ⟨0, withFlash { somePkg with recovery := 3, sealClean := false, dirtyList := [8, 0, 8], orphans := [(0, 2 ^ 28)] } [], by decide +kernel⟩

theorem met_PackageRecovery_5 : ∃ (p : Nat) (s : State), p < 4 ∧ p < s.build.sp ∧ (((pkg s p).recovery = 4 ∨ ((pkg s p).recovery = 3 ∧ (pkg s p).sealClean = true))) := ⟨0, withFlash { somePkg with recovery := 3, sealClean := true, map := [], blocks := [(62500, { state := 1, source := true })] } [], by decide +kernel⟩

theorem met_PackageRecovery_6 : ∃ (p ms : Nat) (s : State), p < 4 ∧ p < s.build.sp ∧ ms < 2 ^ 32 ∧ (pkg s p).recovery = 5 ∧ (pkg s p).recoveredLost = [] ∧ s.host.held = [] := ⟨3, 1200, { inService with packages := [{ recovery := 6 }, { recovery := 6 }, { recovery := 6 }, { recovery := 5 }] }, by decide +kernel⟩

theorem met_PackageRecovery_7 : ∃ (p ms : Nat) (s : State), p < 4 ∧ p < s.build.sp ∧ ms < 2 ^ 32 ∧ (pkg s p).recovery = 5 ∧ (pkg s p).recoveredLost.length < 2 ^ 32 ∧ lostRecs s p (pkg s p) ≠ [] ∧ s.nv.ledger.entries.length + 4 * (pkg s p).recoveredLost.length ≤ 65536 ∧ s.host.held = [] := ⟨0, 1200, withFlash { somePkg with recovery := 5, recoveredLost := [8, 9] } [], by decide +kernel⟩

theorem met_PackageRecovery_8 : ∃ (p l : Nat) (s : State), p < 4 ∧ alive s p = true := ⟨0, 0, withFlash somePkg [], by decide⟩

theorem met_PackageRecovery_9 : ∃ (p l : Nat) (s : State), p < 4 ∧ alive s p = true := ⟨0, 0, withFlash { somePkg with map := [(0, 5), (1, 6)] } [], by decide +kernel⟩

theorem met_MediaReadsAndChannels_1 : ∃ (p u key pk : Nat) (s : State), p < 4 ∧ u < 2 ^ 32 ∧ unitPlace s p u = some (key, pk) ∧ alive s p = true ∧ chanRetired s p (key / 62500) = false := ⟨0, 0, 62500, 2 ^ 28, withFlash somePkg [], by decide +kernel⟩

theorem met_MediaReadsAndChannels_2 : ∃ (p u key pk n e : Nat) (s : State), p < 4 ∧ u < 2 ^ 32 ∧ unitPlace s p u = some (key, pk) ∧ alive s p = true ∧ chanRetired s p (key / 62500) = false ∧ e < 4 := ⟨0, 0, 62500, 2 ^ 28, 2, 3, withFlash somePkg [], by decide +kernel⟩

theorem met_MediaReadsAndChannels_3 : ∃ (p u key pk : Nat) (s : State), p < 4 ∧ u < 2 ^ 32 ∧ unitPlace s p u = some (key, pk) ∧ alive s p = true ∧ chanRetired s p (key / 62500) = false := ⟨0, 0, 62500, 2 ^ 28, withFlash somePkg [], by decide +kernel⟩

theorem met_MediaReadsAndChannels_4 : ∃ (p u key pk : Nat) (n : NandUnit) (s : State), p < 4 ∧ u < 2 ^ 32 ∧ unitPlace s p u = some (key, pk) ∧ alive s p = true ∧ Sparse.get none (pkg s p).nand pk = some n ∧ n.lostMask = 0 ∧ (regionOf p n.lunit s.nv.layout 0).isSome = true ∧ s.nv.lossLog.entries.length ≤ 65532 := ⟨0, 0, 62500, 2 ^ 28, { lunit := 0, kind := 1, lostMask := 0, wseq := 5, srcSeq := 0, data := [(0, 7)] }, withFlash somePkg [], by decide +kernel⟩

theorem met_MediaReadsAndChannels_5 : ∃ (p : Nat) (b : BlockId) (s : State), p < 4 ∧ blkOk b = true ∧ alive s p = true ∧ (((blk (pkg s p) (blkOf b)).state = 1 ∨ (blk (pkg s p) (blkOf b)).state = 2)) ∧ chanRetired s p b.chan = false ∧ (blk (pkg s p) (blkOf b)).retention = false := ⟨0, { chan := 1, die := 0, block := 0 }, withFlash somePkg [], by decide +kernel⟩

theorem met_MediaReadsAndChannels_6 : ∃ (p c : Nat) (v : Word) (s : State), p < s.build.sp ∧ p < 4 ∧ windowOpen s = true ∧ s.power.recovery = false ∧ blkOk { chan := bitsOf v.toNat 28 24, die := bitsOf v.toNat 19 16, block := bitsOf v.toNat 12 0 } = true ∧ c = blkOf { chan := bitsOf v.toNat 28 24, die := bitsOf v.toNat 19 16, block := bitsOf v.toNat 12 0 } ∧ isOptBlk s p c = false ∧ (blk (pkg s p) c).state < 8 := ⟨0, 62500, 0x01000000, withFlash { somePkg with blocks := [(62500, { state := 2, erases := 9, reads := 4 })] } [], by decide +kernel⟩

theorem met_MediaReadsAndChannels_7 : ∃ (p : Nat) (st : ReadStage) (s : State), p < s.build.sp ∧ p < 4 ∧ windowOpen s = true ∧ s.power.recovery = false ∧ alive s p = true ∧ 2500 ≤ fld s (medReg p 0x68) 11 0 := ⟨0, .hard, withFlash somePkg [(medReg 0 0x68, 2500)], by decide +kernel⟩

theorem met_MediaReadsAndChannels_8 : ∃ (p c k : Nat) (s : State), p < s.build.sp ∧ p < 4 ∧ windowOpen s = true ∧ s.power.recovery = false ∧ alive s p = true ∧ blkOk { chan := bitsOf (regNat s (medReg p 0x64)) 28 24, die := bitsOf (regNat s (medReg p 0x64)) 19 16, block := bitsOf (regNat s (medReg p 0x64)) 12 0 } = true ∧ c = blkOf { chan := bitsOf (regNat s (medReg p 0x64)) 28 24, die := bitsOf (regNat s (medReg p 0x64)) 19 16, block := bitsOf (regNat s (medReg p 0x64)) 12 0 } ∧ chanRetired s p (c / 62500) = false ∧ fld s (medReg p 0x68) 11 0 < 625 ∧ (blk (pkg s p) c).state ≤ 3 ∧ k = pageKey c (fld s (medReg p 0x68) 11 0) ∧ (Sparse.get none (pkg s p).nand k).isSome = true ∧ mappedSlm (settings s) (nat64 s (medReg p 0x6C)) 16384 = true := ⟨0, 62500, 2 ^ 28, withFlash somePkg [(medReg 0 0x64, 2 ^ 24), (medReg 0 0x6C, 4096)], by decide +kernel⟩

theorem met_MediaReadsAndChannels_9 : ∃ (p c : Nat) (l : List Byte) (s : State), p < s.build.sp ∧ p < 4 ∧ l.length = 18592 ∧ windowOpen s = true ∧ s.power.recovery = false ∧ alive s p = true ∧ blkOk { chan := bitsOf (regNat s (medReg p 0x64)) 28 24, die := bitsOf (regNat s (medReg p 0x64)) 19 16, block := bitsOf (regNat s (medReg p 0x64)) 12 0 } = true ∧ c = blkOf { chan := bitsOf (regNat s (medReg p 0x64)) 28 24, die := bitsOf (regNat s (medReg p 0x64)) 19 16, block := bitsOf (regNat s (medReg p 0x64)) 12 0 } ∧ chanRetired s p (c / 62500) = false ∧ fld s (medReg p 0x68) 11 0 < 625 ∧ (blk (pkg s p) c).state ≤ 3 ∧ mappedSlm (settings s) (nat64 s (medReg p 0x6C)) 18592 = true := ⟨0, 62500, List.replicate 18592 9, withFlash somePkg [(medReg 0 0x64, 2 ^ 24), (medReg 0 0x6C, 4096)], ⟨by decide, by decide, List.length_replicate, by decide +kernel, by decide, by decide +kernel, by decide +kernel, by decide +kernel, by decide +kernel, by decide +kernel, by decide +kernel, by decide +kernel⟩⟩

theorem met_MediaReadsAndChannels_10 : ∃ (p c : Nat) (s : State), p < 4 ∧ c < 32 ∧ p < s.build.sp ∧ chanRetired s p c = false ∧ withinWindow s 3 (p * 32 + c) = false := ⟨0, 31, withFlash somePkg [], by decide +kernel⟩

theorem met_MediaReadsAndChannels_11 : ∃ (p c k : Nat) (s : State), p < 4 ∧ c < 32 ∧ p < s.build.sp ∧ ((k = 1 ∨ k = 3)) ∧ chanRetired s p c = false ∧ withinWindow s 3 (p * 32 + c) = false := ⟨0, 0, 3, withFlash somePkg [], by decide +kernel⟩

theorem met_ResetsLinkAndDoorbells_1 : ∃ (s : State), True := ⟨{ inService with host := { State.reset.host with enabled := true, ready := true, sqs := [{ id := 1, size := 16, cq := 1 }], cqs := [{ id := 1, size := 16, vector := 1 }] } }, trivial⟩

theorem met_ResetsLinkAndDoorbells_2 : ∃ (s : State), True := ⟨{ inService with host := { State.reset.host with enabled := true, ready := true, sqs := [{ id := 1, size := 16, cq := 1 }], cqs := [{ id := 1, size := 16, vector := 1 }] } }, trivial⟩

theorem met_ResetsLinkAndDoorbells_3 : ∃ (s : State), True := ⟨{ inService with host := { State.reset.host with enabled := true, ready := true, sqs := [{ id := 1, size := 16, cq := 1 }], cqs := [{ id := 1, size := 16, vector := 1 }] } }, trivial⟩

theorem met_ResetsLinkAndDoorbells_4 : ∃ (s : State), s.host.enabled = true := ⟨{ inService with host := { State.reset.host with enabled := true } }, by decide⟩

theorem met_ResetsLinkAndDoorbells_5 : ∃ (c : Bool) (s : State), s.power.configReady = true ∧ s.host.enabled = false := ⟨true, inService, by decide⟩

theorem met_ResetsLinkAndDoorbells_6 : ∃ (s : State), True := ⟨inService, trivial⟩

theorem met_ResetsLinkAndDoorbells_7 : ∃ (g w : Nat) (f : Bool) (c : Cqe) (s : State), ((g = 5 ∨ g = 6 ∨ g = 7)) ∧ ((w = 1 ∨ w = 2 ∨ w = 4 ∨ w = 8)) ∧ s.host.retraining = true ∧ s.host.held = [] ∧ s.host.waitingCqes = [c] ∧ canPostTo { s with host := { s.host with retraining := false } } c.tag.sq = true := ⟨7, 8, true, { tag := someTag, sct := 0, sc := 0, dnr := 0, dw0 := 3 }, { inService with host := { State.reset.host with retraining := true, waitingCqes := [{ tag := someTag, sct := 0, sc := 0, dnr := 0, dw0 := 3 }] } }, by decide⟩

theorem met_ResetsLinkAndDoorbells_8 : ∃ (g : CmdTag) (s : State), g.sq ≤ 256 ∧ g.cid < 65536 := ⟨someTag, inService, by decide⟩

theorem met_ResetsLinkAndDoorbells_9 : ∃ (g : CmdTag) (s : State), g.sq ≤ 256 ∧ g.cid < 65536 := ⟨someTag, inService, by decide⟩

theorem met_ResetsLinkAndDoorbells_10 : ∃ (g : CmdTag) (s : State), g.sq ≤ 256 ∧ g.cid < 65536 := ⟨someTag, inService, by decide⟩

theorem met_ResetsLinkAndDoorbells_11 : ∃ (q n : Nat) (x : SubQueue) (s : State), q ≤ 256 ∧ n < 4096 ∧ findSq s q = some x ∧ n < x.size := ⟨1, 15, { id := 1, size := 16, cq := 1 }, { inService with host := { State.reset.host with sqs := [{ id := 1, size := 16, cq := 1 }] } }, by decide⟩

theorem met_ResetsLinkAndDoorbells_12 : ∃ (q n : Nat) (c : CompQueue) (s : State), q ≤ 256 ∧ n < 4096 ∧ s.host.cqs.find? (fun y => y.id == q) = some c ∧ n < c.size ∧ s.host.waitingCqes = [] := ⟨1, 15, { id := 1, size := 16, vector := 1 }, { inService with host := { State.reset.host with cqs := [{ id := 1, size := 16, vector := 1 }] } }, by decide⟩

theorem met_ResetsLinkAndDoorbells_13 : ∃ (q n : Nat) (c : CompQueue) (w : Cqe) (s : State), q ≤ 256 ∧ n < 4096 ∧ s.host.cqs.find? (fun y => y.id == q) = some c ∧ n < c.size ∧ s.host.waitingCqes = [w] ∧ s.host.retraining = false ∧ cqOf s w.tag.sq = some c ∧ cqFull { c with head := n } = false := ⟨1, 1, { id := 1, size := 16, vector := 1, tail := 15 }, { tag := someTag, sct := 0, sc := 0, dnr := 0, dw0 := 3 }, { inService with host := { State.reset.host with sqs := [{ id := 1, size := 16, cq := 1 }], cqs := [{ id := 1, size := 16, vector := 1, tail := 15 }], waitingCqes := [{ tag := someTag, sct := 0, sc := 0, dnr := 0, dw0 := 3 }] } }, by decide⟩

theorem met_ResetsLinkAndDoorbells_14 : ∃ (g : CmdTag) (o n b c : Nat) (q : SubQueue) (s : State), g.sq ≤ 256 ∧ g.cid < 65536 ∧ o < 256 ∧ n < 2 ^ 32 ∧ s.host.enabled = true ∧ findSq s g.sq = some q ∧ q.fetched ≠ q.tail ∧ ((∀ y ∈ s.host.cqs, y.id = q.cq → cqFull y = false)) ∧ transfersHeld s = false ∧ s.host.ctxs.length < ctxLimit ∧ s.host.ctxs.any (fun x => x.tag == g) = false ∧ (if g.sq = 0 then adminOpcode s.power.recovery o else ioOpcode n o) = true := ⟨someTag, 2, 1, 0, 8, { id := 1, size := 16, cq := 1, tail := 3 }, { inService with host := { State.reset.host with enabled := true, sqs := [{ id := 1, size := 16, cq := 1, tail := 3 }], cqs := [{ id := 1, size := 16, vector := 1 }] } }, by decide⟩

theorem met_ResetsLinkAndDoorbells_15 : ∃ (g : CmdTag) (o n b c : Nat) (q : SubQueue) (s : State), g.sq ≤ 256 ∧ g.cid < 65536 ∧ o < 256 ∧ n < 2 ^ 32 ∧ s.host.enabled = true ∧ findSq s g.sq = some q ∧ q.fetched ≠ q.tail ∧ ((∀ y ∈ s.host.cqs, y.id = q.cq → cqFull y = false)) ∧ transfersHeld s = false ∧ s.host.ctxs.length < ctxLimit ∧ s.host.ctxs.any (fun x => x.tag == g) = false ∧ (if g.sq = 0 then adminOpcode s.power.recovery o else ioOpcode n o) = false := ⟨someTag, 0x1B, 1, 0, 8, { id := 1, size := 16, cq := 1, tail := 3 }, { inService with host := { State.reset.host with enabled := true, sqs := [{ id := 1, size := 16, cq := 1, tail := 3 }], cqs := [{ id := 1, size := 16, vector := 1 }] } }, by decide⟩

theorem met_AdminCommandsAnswer_1 : ∃ (g : CmdTag) (n : Nat) (s : State), g.sq ≤ 256 ∧ g.cid < 65536 ∧ n < 2 ^ 32 := ⟨{ sq := 0, cid := 5 }, 0, inService, by decide⟩

theorem met_AdminCommandsAnswer_2 : ∃ (g : CmdTag) (n : Nat) (r : Region) (s : State), g.sq ≤ 256 ∧ g.cid < 65536 ∧ n < 2 ^ 32 ∧ s.power.recovery = false ∧ nsRegion s n = some r ∧ r.egrp < 65536 ∧ r.sizeGib < 2 ^ 32 := ⟨{ sq := 0, cid := 5 }, 1, someNs, withFlash somePkg [], by decide⟩

theorem met_AdminCommandsAnswer_3 : ∃ (g : CmdTag) (f : Nat) (s : State), g.sq ≤ 256 ∧ g.cid < 65536 ∧ f < 256 ∧ s.power.recovery = false ∧ plainFeature f = true := ⟨{ sq := 0, cid := 5 }, 4, inService, by decide⟩

theorem met_AdminCommandsAnswer_4 : ∃ (g : CmdTag) (s : State), g.sq ≤ 256 ∧ g.cid < 65536 ∧ s.power.recovery = false := ⟨{ sq := 0, cid := 5 }, inService, by decide⟩

theorem met_AdminCommandsAnswer_5 : ∃ (g : CmdTag) (f v : Nat) (a : List (Nat × Nat)) (s : State), g.sq ≤ 256 ∧ g.cid < 65536 ∧ f < 256 ∧ v < 2 ^ 32 ∧ s.power.recovery = false ∧ plainFeature f = true := ⟨{ sq := 0, cid := 5 }, 4, 360, [], inService, by decide⟩

theorem met_AdminCommandsAnswer_6 : ∃ (g : CmdTag) (v : Nat) (a : List (Nat × Nat)) (s : State), g.sq ≤ 256 ∧ g.cid < 65536 ∧ v < 2 ^ 32 ∧ s.power.recovery = false ∧ v % 32 ≤ 2 ∧ psNow s ≤ 2 := ⟨{ sq := 0, cid := 5 }, 2, [], inService, by decide⟩

theorem met_AdminCommandsAnswer_7 : ∃ (g : CmdTag) (n : Nat) (s : State), g.sq ≤ 256 ∧ g.cid < 65536 ∧ n < 2 ^ 32 ∧ s.power.recovery = false := ⟨{ sq := 0, cid := 5 }, 0, withRegs inService [(ftlReg 3 0, 2 ^ 25)], by decide⟩

theorem met_AdminCommandsAnswer_8 : ∃ (g : CmdTag) (n : Nat) (s : State), g.sq ≤ 256 ∧ g.cid < 65536 ∧ n < 2 ^ 32 ∧ s.power.recovery = false := ⟨{ sq := 0, cid := 5 }, 0, inService, by decide⟩

theorem met_AdminCommandsAnswer_9 : ∃ (g : CmdTag) (q n v : Nat) (s : State), g.sq ≤ 256 ∧ g.cid < 65536 ∧ 1 ≤ q ∧ q ≤ 256 ∧ 2 ≤ n ∧ n ≤ 4096 ∧ v ≤ 256 ∧ s.power.recovery = false ∧ s.host.cqs.any (fun c => c.id == q) = false ∧ s.host.sqs.any (fun x => x.cq == q) = false := ⟨{ sq := 0, cid := 5 }, 256, 4096, 256, inService, by decide⟩

theorem met_AdminCommandsAnswer_10 : ∃ (g : CmdTag) (q n c : Nat) (s : State), g.sq ≤ 256 ∧ g.cid < 65536 ∧ 1 ≤ q ∧ q ≤ 256 ∧ 2 ≤ n ∧ n ≤ 4096 ∧ 1 ≤ c ∧ c ≤ 256 ∧ g.sq ≠ q ∧ s.power.recovery = false ∧ s.host.cqs.any (fun y => y.id == c) = true ∧ findSq s q = none := ⟨{ sq := 0, cid := 5 }, 256, 2, 1, { inService with host := { State.reset.host with cqs := [{ id := 1, size := 16, vector := 1 }] } }, by decide⟩

theorem met_AdminCommandsAnswer_11 : ∃ (g : CmdTag) (q : Nat) (s : State), g.sq ≤ 256 ∧ g.cid < 65536 ∧ 1 ≤ q ∧ q ≤ 256 ∧ g.sq ≠ q ∧ s.power.recovery = false ∧ (findSq s q).isSome = true ∧ s.host.held.all (fun h => h.tag.sq != q) = true := ⟨{ sq := 0, cid := 5 }, 1, { inService with host := { State.reset.host with sqs := [{ id := 1, size := 16, cq := 1 }] } }, by decide⟩

theorem met_AdminCommandsAnswer_12 : ∃ (g : CmdTag) (q : Nat) (s : State), g.sq ≤ 256 ∧ g.cid < 65536 ∧ 1 ≤ q ∧ q ≤ 256 ∧ s.power.recovery = false ∧ s.host.cqs.any (fun c => c.id == q) = true ∧ s.host.sqs.any (fun x => x.cq == q) = false := ⟨{ sq := 0, cid := 5 }, 1, { inService with host := { State.reset.host with cqs := [{ id := 1, size := 16, vector := 1 }] } }, by decide⟩

theorem met_AdminCommandsAnswer_13 : ∃ (g x : CmdTag) (s : State), g.sq ≤ 256 ∧ g.cid < 65536 ∧ x.sq ≤ 256 ∧ x.cid < 65536 ∧ s.power.recovery = false ∧ s.host.held.any (fun h => h.tag == x) = true ∧ s.host.ctxs.any (fun c => c.tag == x) = false := ⟨{ sq := 0, cid := 5 }, someTag, { inService with host := { State.reset.host with held := [{ tag := someTag, kind := kFlush, nsid := 1, slba := 0, nlb := 0 }] } }, by decide⟩

theorem met_AdminCommandsAnswer_14 : ∃ (g x : CmdTag) (s : State), g.sq ≤ 256 ∧ g.cid < 65536 ∧ x.sq ≤ 256 ∧ x.cid < 65536 ∧ s.power.recovery = false ∧ s.host.held.any (fun h => h.tag == x) = false ∧ (abortExecute s x).2 = false := ⟨{ sq := 0, cid := 5 }, someTag, inService, by decide⟩

theorem met_AdminCommandsAnswer_15 : ∃ (g : CmdTag) (s : State), g.sq ≤ 256 ∧ g.cid < 65536 ∧ s.power.recovery = false ∧ s.host.events = [] ∧ s.host.aers.length < 8 := ⟨{ sq := 0, cid := 5 }, inService, by decide⟩

theorem met_AdminCommandsAnswer_16 : ∃ (g : CmdTag) (e : Event) (es : List Event) (s : State), g.sq ≤ 256 ∧ g.cid < 65536 ∧ s.power.recovery = false ∧ s.host.events = e :: es := ⟨{ sq := 0, cid := 5 }, { type := 2, info := 0xC1, log := 0xC1 }, [], { inService with host := { State.reset.host with events := [{ type := 2, info := 0xC1, log := 0xC1 }] } }, by decide⟩

theorem met_AdminCommandsAnswer_17 : ∃ (g : CmdTag) (o : Nat) (l : List Byte) (s : State), g.sq ≤ 256 ∧ g.cid < 65536 ∧ o % 4096 = 0 ∧ l.length % 4 = 0 ∧ l ≠ [] ∧ l.length ≤ 2097152 ∧ o + l.length ≤ fwMax := ⟨{ sq := 0, cid := 5 }, 4096, [1, 2, 3, 4], inService, by decide⟩

theorem met_AdminCommandsAnswer_18 : ∃ (g : CmdTag) (n : Nat) (f : FwImage) (s : State), g.sq ≤ 256 ∧ g.cid < 65536 ∧ s.power.recovery = false ∧ ((n = 1 ∨ n = 2)) ∧ n ≠ s.nv.fwActive ∧ fwSlot s n = some f ∧ fwFails s f = none := ⟨{ sq := 0, cid := 5 }, 2, { series := 3, revision := 1, svn := 9, keyId := 0, revoke := 0, formOk := true, keyOk := true, digestOk := true, sigOk := true, digest := 0 }, { inService with nv := { inService.nv with fwActive := 1, fw2 := some { series := 3, revision := 1, svn := 9, keyId := 0, revoke := 0, formOk := true, keyOk := true, digestOk := true, sigOk := true, digest := 0 } } }, by decide +kernel⟩

theorem met_AdminCommandsAnswer_19 : ∃ (g : CmdTag) (n a c : Nat) (s : State), g.sq ≤ 256 ∧ g.cid < 65536 ∧ s.power.recovery = false ∧ ((n = 1 ∨ n = 2)) ∧ n ≠ s.nv.fwActive ∧ ((a = 0 ∨ a = 1 ∨ a = 3)) ∧ fwFails s (parseFw (Memory.bytes s.host.fwStage 0 s.host.fwStageLen)) = some c := ⟨{ sq := 0, cid := 5 }, 2, 1, 7, { inService with nv := { inService.nv with fwActive := 1 } }, by decide +kernel⟩

theorem met_AdminCommandsAnswer_20 : ∃ (g : CmdTag) (n e : Nat) (r : Region) (s : State), g.sq ≤ 256 ∧ g.cid < 65536 ∧ n < 2 ^ 32 ∧ e ≤ 1 ∧ s.power.recovery = false ∧ nsRegion s n = some r ∧ n ≠ 0xFFFFFFFF ∧ transfersHeld s = false ∧ allReady s = true ∧ ((s.host.crime = true → (packagesOf r.spMask).all (pkgReady s) = true)) := ⟨{ sq := 0, cid := 5 }, 1, 0, someNs, withFlash somePkg [], by decide +kernel⟩

theorem met_AdminCommandsAnswer_21 : ∃ (g : CmdTag) (k : Nat) (s : State), g.sq ≤ 256 ∧ g.cid < 65536 ∧ s.power.recovery = false ∧ ((k = 1 ∨ k = 2)) ∧ s.host.selfTest = 0 := ⟨{ sq := 0, cid := 5 }, 2, inService, by decide⟩

theorem met_NvmAndMemoryCommands_1 : ∃ (g : CmdTag) (n b k : Nat) (r : Region) (s : State), g.sq ≤ 256 ∧ g.cid < 65536 ∧ n < 2 ^ 32 ∧ b < 2 ^ 64 ∧ k ≤ mdtsBlocks ∧ s.host.held = [] ∧ admits s r { tag := g, kind := kRead, nsid := n, slba := b, nlb := k } ∧ firstLost s r b k = none := ⟨someTag, 1, 262143, 1, someNs, withFlash somePkg [], by decide +kernel⟩

theorem met_NvmAndMemoryCommands_2 : ∃ (g : CmdTag) (n b k x : Nat) (r : Region) (s : State), g.sq ≤ 256 ∧ g.cid < 65536 ∧ n < 2 ^ 32 ∧ b < 2 ^ 64 ∧ k ≤ mdtsBlocks ∧ s.host.held = [] ∧ admits s r { tag := g, kind := kRead, nsid := n, slba := b, nlb := k } ∧ firstLost s r b k = some x := ⟨someTag, 1, 3, 2, 4, someNs, withFlash { somePkg with map := [(0, 2 ^ 28), (1, entryLost)] } [], by decide +kernel⟩

theorem met_NvmAndMemoryCommands_3 : ∃ (g : CmdTag) (n b : Nat) (l : List Byte) (r : Region) (s : State), g.sq ≤ 256 ∧ g.cid < 65536 ∧ n < 2 ^ 32 ∧ b < 2 ^ 64 ∧ l.length % 4096 = 0 ∧ l.length / 4096 ≤ mdtsBlocks ∧ s.host.held = [] ∧ admits s r { tag := g, kind := kWrite, nsid := n, slba := b, nlb := l.length / 4096, data := l } := ⟨someTag, 1, 0, [], someNs, withFlash somePkg [], by decide +kernel⟩

theorem met_NvmAndMemoryCommands_4 : ∃ (g : CmdTag) (n b : Nat) (l : List Byte) (r : Region) (s : State), g.sq ≤ 256 ∧ g.cid < 65536 ∧ n < 2 ^ 32 ∧ b < 2 ^ 64 ∧ l.length = 4096 ∧ s.host.held = [] ∧ admits s r { tag := g, kind := kWrite, nsid := n, slba := b, nlb := l.length / 4096, data := l } ∧ (blockHome s r b).1 < s.packages.length ∧ (pkg s (blockHome s r b).1).wbuf.any (fun d => d.lunit == (blockHome s r b).2.1) = false := ⟨someTag, 1, 5, List.replicate 4096 3, someNs, withFlash somePkg [], ⟨by decide, by decide, by decide, by decide, List.length_replicate, rfl, by rw [List.length_replicate]; decide +kernel, by decide +kernel, by decide +kernel⟩⟩

theorem met_NvmAndMemoryCommands_5 : ∃ (g : CmdTag) (n : Nat) (s : State), g.sq ≤ 256 ∧ g.cid < 65536 ∧ n < 2 ^ 32 ∧ n ≠ 129 ∧ ((n = 130 ∨ n = 0xFFFFFFFF ∨ (nsRegion s n).isSome = true)) ∧ transfersHeld s = false ∧ (List.range s.build.sp).any (fun p => rbit s (ftlReg p 0) 28 && holdsDirty s p n) = false := ⟨someTag, 0xFFFFFFFF, withFlash somePkg [], by decide +kernel⟩

theorem met_NvmAndMemoryCommands_6 : ∃ (g : CmdTag) (n b : Nat) (r : Region) (s : State), g.sq ≤ 256 ∧ g.cid < 65536 ∧ n < 2 ^ 32 ∧ b < 2 ^ 64 ∧ s.host.held = [] ∧ admits s r { tag := g, kind := kZeroes, nsid := n, slba := b, nlb := 1 } ∧ (blockHome s r b).1 < s.packages.length ∧ (pkg s (blockHome s r b).1).wbuf.any (fun d => d.lunit == (blockHome s r b).2.1) = false := ⟨someTag, 1, 1, someNs, withFlash somePkg [], by decide +kernel⟩

theorem met_NvmAndMemoryCommands_7 : ∃ (g : CmdTag) (n b : Nat) (r : Region) (s : State), g.sq ≤ 256 ∧ g.cid < 65536 ∧ n < 2 ^ 32 ∧ b < 2 ^ 64 ∧ b % 4 = 0 ∧ s.host.held = [] ∧ admits s r { tag := g, kind := kDealloc, nsid := n, slba := b, nlb := 4 } ∧ (homeOf s r (b / 4)).1 < s.packages.length := ⟨someTag, 1, 0, someNs, withFlash somePkg [], by decide +kernel⟩

theorem met_NvmAndMemoryCommands_8 : ∃ (g : CmdTag) (n b : Nat) (r : Region) (s : State), g.sq ≤ 256 ∧ g.cid < 65536 ∧ n < 2 ^ 32 ∧ b % 4 = 0 ∧ s.host.held = [] ∧ admits s r { tag := g, kind := kDsm, nsid := n, slba := 0, nlb := 0, ranges := [(b, 4)] } ∧ (homeOf s r (b / 4)).1 < s.packages.length := ⟨someTag, 1, 0, someNs, withFlash somePkg [], by decide +kernel⟩

theorem met_NvmAndMemoryCommands_9 : ∃ (g : CmdTag) (a k : Nat) (l : List Byte) (u s : State), g.sq ≤ 256 ∧ g.cid < 65536 ∧ a < 2 ^ 64 ∧ k ≤ mdtsBlocks * 4096 ∧ selector a = 0xFF ∧ mappedSlm (settings s) (within a) k = true ∧ transfersHeld s = false ∧ readRange s (within a) k = (u, some l) := ⟨someTag, slmAddr 4096, 64, List.replicate 64 0, withFlash somePkg [], withFlash somePkg [], by decide +kernel⟩

theorem met_NvmAndMemoryCommands_10 : ∃ (g : CmdTag) (a : Nat) (l : List Byte) (s : State), g.sq ≤ 256 ∧ g.cid < 65536 ∧ a < 2 ^ 64 ∧ l.length ≤ mdtsBlocks * 4096 ∧ selector a = 0xFF ∧ mappedSlm (settings s) (within a) l.length = true ∧ transfersHeld s = false ∧ touchesCopy s a l.length = false ∧ (slmWrite s (within a) l).2 = true := ⟨someTag, slmAddr 4100, [1, 2, 3], withFlash somePkg [], by decide +kernel⟩

theorem met_NvmAndMemoryCommands_11 : ∃ (g : CmdTag) (n d : Nat) (x : List (Nat × Nat)) (l : List Byte) (r : Region) (s : State), g.sq ≤ 256 ∧ g.cid < 65536 ∧ n < 2 ^ 32 ∧ x.length ≤ 128 ∧ selector d = 0xFF ∧ mappedSlm (settings s) (within d) (sumNat (x.map (·.2)) * 4096) = true ∧ admits s r { tag := g, kind := kMemCopy, nsid := n, slba := 0, nlb := 0, ranges := x, dst := d } ∧ x.findSome? (fun y => firstLost s r y.1 y.2) = none ∧ l = x.foldl (fun l y => l ++ blocksBytes s r y.1 y.2) [] ∧ touchesCopy s (slmAddr (within d)) l.length = false ∧ (slmWrite s (within d) l).2 = true := ⟨someTag, 1, slmAddr 4096, [], [], someNs, withFlash somePkg [], by decide +kernel⟩

theorem met_PowerStatesAndManagement_1 : ∃ (k : Nat) (s : State), ((k = 3 ∨ k = 4)) ∧ rbit s HST_PS 4 = true ∧ (s.host.apst.getD (psNow s) (0, 0)).1 = k ∧ (s.host.apst.getD (psNow s) (0, 0)).2 ≠ 0 ∧ deviceIdle s = true ∧ rbit s HST_PS 3 = false ∧ s.host.exiting = false ∧ k ≠ psNow s ∧ ((k = 3 ∨ portsInUse s = false)) := ⟨4, { withRegs inService [(HST_PS, 16)] with host := { State.reset.host with apst := [(4, 100)] } }, by decide⟩

theorem met_PowerStatesAndManagement_2 : ∃ (s : State), rbit s HST_PS 3 = true ∧ s.host.psTarget < 8 ∧ s.host.wake = false ∧ s.host.held = [] := ⟨{ withRegs inService [(HST_PS, 8)] with host := { State.reset.host with psTarget := 4 } }, by decide⟩

theorem met_PowerStatesAndManagement_3 : ∃ (s : State), rbit s HST_PS 3 = true ∧ s.host.wake = true := ⟨{ withRegs inService [(HST_PS, 8)] with host := { State.reset.host with psTarget := 3, wake := true } }, by decide⟩

theorem met_PowerStatesAndManagement_4 : ∃ (s : State), s.host.exiting = true ∧ s.host.held = [] := ⟨{ withRegs inService [(HST_PS, 0x103)] with host := { State.reset.host with exiting := true } }, by decide⟩

theorem met_PowerStatesAndManagement_5 : ∃ (e : Nat) (s : State), 1 ≤ e ∧ e < 256 ∧ endpointUp s = true := ⟨255, inService, by decide⟩

theorem met_PowerStatesAndManagement_6 : ∃ (c : Bool) (s : State), endpointUp s = true := ⟨true, { inService with host := { State.reset.host with healthChange := true } }, by decide⟩

theorem met_PowerStatesAndManagement_7 : ∃ (c : Bool) (s : State), endpointUp s = true ∧ ((Machine.inService s = true ∨ s.power.recovery = true)) := ⟨true, inService, by decide⟩

theorem met_PowerStatesAndManagement_8 : ∃ (s : State), endpointUp s = true ∧ Machine.inService s = true := ⟨inService, by decide⟩

theorem met_PowerStatesAndManagement_9 : ∃ (s : State), endpointUp s = true ∧ Machine.inService s = true := ⟨inService, by decide⟩

theorem met_PowerStatesAndManagement_10 : ∃ (v : Nat) (s : State), 64 ≤ v ∧ v < 65536 ∧ endpointUp s = true ∧ Machine.inService s = true := ⟨64, inService, by decide⟩

theorem met_PowerStatesAndManagement_11 : ∃ (v : Nat) (s : State), 1 ≤ v ∧ v ≤ 3 ∧ endpointUp s = true ∧ Machine.inService s = true := ⟨3, inService, by decide⟩

theorem met_PowerStatesAndManagement_12 : ∃ (o n : Nat) (s : State), n ≤ 256 ∧ endpointUp s = true ∧ Machine.inService s = true := ⟨4, 256, inService, by decide⟩

theorem met_PowerStatesAndManagement_13 : ∃ (s : State), endpointUp s = true ∧ Machine.inService s = true ∧ s.power.perst = false ∧ s.power.restartPending = false := ⟨inService, by decide⟩

theorem met_AttestationRequests_1 : ∃ (v : Transport) (s : State), spdmUp s v = true := ⟨.doe, inService, by decide⟩

theorem met_AttestationRequests_2 : ∃ (v : Transport) (s : State), spdmUp s v = true ∧ (spdmOf s v).version = true := ⟨.mctp, { inService with sec := { mctp := { version := true } } }, by decide⟩

theorem met_AttestationRequests_3 : ∃ (v : Transport) (a h : Nat) (s : State), spdmUp s v = true ∧ (spdmOf s v).version = true ∧ (spdmOf s v).caps = true ∧ bitOf a 5 = true ∧ bitOf h 2 = true := ⟨.mctp, 0x60, 6, { inService with sec := { mctp := { version := true, caps := true } } }, by decide⟩

theorem met_AttestationRequests_4 : ∃ (v : Transport) (s : State), spdmUp s v = true ∧ negotiated (spdmOf s v) = true := ⟨.mctp, { inService with sec := { mctp := { version := true, caps := true, asym := 32, hash := 4 } } }, by decide⟩

theorem met_AttestationRequests_5 : ∃ (v : Transport) (s : State), spdmUp s v = true ∧ negotiated (spdmOf s v) = false := ⟨.mctp, inService, by decide⟩

theorem met_AttestationRequests_6 : ∃ (v : Transport) (o n : Nat) (s : State), n < 2 ^ 32 ∧ spdmUp s v = true ∧ negotiated (spdmOf s v) = true := ⟨.mctp, 0, 4096, { inService with sec := { mctp := { version := true, caps := true, asym := 32, hash := 4 } } }, by decide⟩

theorem met_AttestationRequests_7 : ∃ (v : Transport) (l : List Byte) (s : State), spdmUp s v = true ∧ negotiated (spdmOf s v) = true := ⟨.doe, [1, 2], { inService with sec := { doe := { version := true, caps := true, asym := 32, hash := 4 } } }, by decide⟩

theorem met_AttestationRequests_8 : ∃ (v : Transport) (i : Nat) (s : State), 1 ≤ i ∧ i ≤ 8 ∧ spdmUp s v = true ∧ negotiated (spdmOf s v) = true := ⟨.doe, 8, { inService with sec := { doe := { version := true, caps := true, asym := 32, hash := 4 } } }, by decide⟩

theorem met_AttestationRequests_9 : ∃ (v : Transport) (c : Nat) (s : State), spdmUp s v = true := ⟨.doe, 0xE4, inService, by decide⟩

end Sys2Proof.Tests
end

section
/-! PROOFS. Accesses of the control window that reach no register: the reserved ranges (R38) and the regions of units that the build does not
fit (R3). -/
namespace Sys2Proof.Machine

/-! ## Which accesses are served -/

/-- Outside recovery a reserved offset is refused and counted, whatever the access was to do there (R38). -/
theorem serve_reserved {s : State} {off : Nat} (size : Nat) (go : State → State) (hrec : s.power.recovery = false)
    (hfit : unfittedOffset s.build off = false) (hrow : regRow off = none) : serve s off size go = accErr s := by
  simp [serve, hrec, hfit, hrow]

/-- Outside recovery an access of an unfitted unit's region leaves the state, and is not counted (R3, R38). -/
theorem serve_unfitted {s : State} {off : Nat} (size : Nat) (go : State → State) (hrec : s.power.recovery = false)
    (hfit : unfittedOffset s.build off = true) : serve s off size go = s := by
  simp [serve, hrec, hfit]

/-- With the window open a write is served at its offset. -/
theorem busWriteSized_open {s : State} (off size v : Nat) (hopen : windowOpen s = true) :
    busWriteSized s off size v = serve s off size (writeServed off v) := if_pos hopen

/-- With the window open a read is served at its offset, and what is not served reads 0. -/
theorem busRead_open {s : State} (off size : Nat) (hopen : windowOpen s = true) :
    busRead s off size = serve { s with readData := 0 } off size (readServed off) := if_pos hopen

/-! ## The commands that make one access each -/

theorem exec_registerWrite_next {off size : Nat} (val : Word) (s : State) (hoff : off < 0x4000000) (hsize : size ≤ 64) :
    exec (.registerWrite off size val) s = .next (busWriteSized s off size val.toNat) :=
  if_pos (Bool.and_eq_true_iff.mpr ⟨decide_eq_true hoff, decide_eq_true hsize⟩)

theorem exec_rcCounterRead_next {off size : Nat} (s : State) (hoff : off < 0x4000000) (hsize : size ≤ 64) :
    exec (.rcCounterRead ⟨off, size⟩) s = .next (busRead s off size) :=
  if_pos (Bool.and_eq_true_iff.mpr ⟨decide_eq_true hoff, decide_eq_true hsize⟩)

theorem exec_lowWordRead_next {off size : Nat} (s : State) (hoff : off < 0x4000000) (hsize : size ≤ 64) :
    exec (.lowWordRead ⟨off, size⟩) s = .next (busRead s off size) :=
  if_pos (Bool.and_eq_true_iff.mpr ⟨decide_eq_true hoff, decide_eq_true hsize⟩)

/-! ## The accesses that reach no register -/

theorem busWriteSized_reserved {s : State} {off : Nat} (size v : Nat) (h : answers s off) (hrow : regRow off = none) :
    busWriteSized s off size v = accErr s := by
  obtain ⟨hopen, hrec, hfit⟩ := h
  rw [busWriteSized_open off size v hopen, serve_reserved size _ hrec hfit hrow]

theorem busRead_reserved {s : State} {off : Nat} (size : Nat) (h : answers s off) (hrow : regRow off = none) :
    busRead s off size = accErr { s with readData := 0 } := by
  obtain ⟨hopen, hrec, hfit⟩ := h
  rw [busRead_open off size hopen, serve_reserved (s := { s with readData := 0 }) size _ hrec hfit hrow]

theorem busWriteSized_unfitted {s : State} {off : Nat} (size v : Nat) (hopen : windowOpen s = true) (hrec : s.power.recovery = false)
    (hfit : unfittedOffset s.build off = true) : busWriteSized s off size v = s := by
  rw [busWriteSized_open off size v hopen, serve_unfitted size _ hrec hfit]

theorem busRead_unfitted {s : State} {off : Nat} (size : Nat) (hopen : windowOpen s = true) (hrec : s.power.recovery = false)
    (hfit : unfittedOffset s.build off = true) : busRead s off size = { s with readData := 0 } := by
  rw [busRead_open off size hopen, serve_unfitted (s := { s with readData := 0 }) size _ hrec hfit]

/-- Settles O23: each of the three commands makes one access, and `serve` counts a reserved offset and passes over an unfitted one. -/
theorem reservedRangesRefuse : Obligations.ReservedRangesRefuse := by
  intro off val s hoff hopen hrec
  have hsize : 4 ≤ 64 := by decide
  rw [exec_registerWrite_next val s hoff hsize, exec_rcCounterRead_next s hoff hsize, exec_lowWordRead_next s hoff hsize]
  constructor
  · intro hfit hrow
    have hans : answers s off := ⟨hopen, hrec, hfit⟩
    rw [busWriteSized_reserved 4 _ hans hrow, busRead_reserved 4 hans hrow]
    exact ⟨rfl, rfl, rfl⟩
  · intro hfit
    rw [busWriteSized_unfitted 4 _ hopen hrec hfit, busRead_unfitted 4 hopen hrec hfit]
    exact ⟨rfl, rfl, rfl⟩

end Sys2Proof.Machine
end

section
/-! PROOFS. The step size of a tree and its tag: the registers that a write of UPD_TREE_LR_PEND and one of UPD_TREE_LR_TAG set (R331). -/
namespace Sys2Proof.Machine

/-! ## The registers of a tree's UPD block -/

/-- Where the 16 trees have their blocks of UPD: above the unit's other registers, up to 0x61000. -/
theorem updReg_bounds (t k : Nat) : 0x60C00 ≤ updReg t k ∧ updReg t k < 0x61000 := by unfold updReg; omega

theorem updReg_ne_updReg (t : Nat) {j k : Nat} (h : j % 64 ≠ k % 64) : updReg t j ≠ updReg t k := by unfold updReg; omega

theorem updReg_ne_of_lt (t k : Nat) {off : Nat} (h : off < 0x60C00) : off ≠ updReg t k :=
  Nat.ne_of_lt (Nat.lt_of_lt_of_le h (updReg_bounds t k).1)

/-- Every build fits the update unit (R2, R3). -/
theorem unfittedOffset_updReg (b : Build) (t k : Nat) : unfittedOffset b (updReg t k) = false := by
  have := updReg_bounds t k
  simp [unfittedOffset]
  omega

theorem answers_updReg {s : State} (t k : Nat) (hopen : windowOpen s = true) (hrec : s.power.recovery = false) : answers s (updReg t k) :=
  ⟨hopen, hrec, unfittedOffset_updReg s.build t k⟩

theorem regRow_updReg_pend : ∀ t < 16, regRow (updReg t 0x8) = some { base := 0x60C08, stride := 64, count := 16, rw := allBits } := by decide

theorem regRow_updReg_tag : ∀ t < 16, regRow (updReg t 0xC) = some { base := 0x60C0C, stride := 64, count := 16, rw := allBits, acts := true } := by
  decide

/-- A register of a tree's UPD block reads what the device holds. -/
theorem regNow_updReg (s : State) (t k : Nat) : regNow s (updReg t k) = regNat s (updReg t k) := by
  obtain ⟨hlo, hhi⟩ := updReg_bounds t k
  have htree : undefinedTree s (updReg t k) = false := by simp [undefinedTree]; omega
  unfold regNow GLB_PANEL GLB_HOURS FAB_TIME FAB_TIME_SET
  rw [if_neg (by omega), if_neg (by omega), if_neg (by omega), if_neg (by omega), if_neg (by omega), if_neg (by simp [htree]),
    if_neg (by omega), if_neg (by omega)]

/-! ## Stores -/

/-- A register whose 32 bits are all RW takes the whole word that is written (R13). -/
theorem written_allBits {r : RegRow} (old v : Word) (hrw : r.rw = allBits) (hw1c : r.w1c = 0) : written r old v = v := by
  have hall : BitVec.ofNat 32 allBits = BitVec.allOnes 32 := by decide
  simp only [written, hrw, hw1c, hall, BitVec.not_allOnes, BitVec.and_zero, BitVec.zero_and, BitVec.zero_or, BitVec.and_allOnes]

theorem store_allBits {off : Nat} {r : RegRow} (s : State) (v : Nat) (hrow : regRow off = some r) (hrw : r.rw = allBits) (hw1c : r.w1c = 0) :
    store s off v = setNat s off v := by
  simp only [store, hrow, written_allBits _ _ hrw hw1c, setNat]

theorem reg_setNat_same (s : State) (off v : Nat) : reg (setNat s off v) off = BitVec.ofNat 32 v := reg_setReg_same s off _

theorem reg_setNat_other (s : State) {off off' : Nat} (v : Nat) (h : off ≠ off') : reg (setNat s off v) off' = reg s off' :=
  reg_setReg_other s _ h

theorem reg_setBit_other (s : State) {off off' : Nat} (i : Nat) (b : Bool) (h : off ≠ off') : reg (setBit s off i b) off' = reg s off' :=
  reg_setNat_other s _ h

theorem reg_bump_other (s : State) {off off' : Nat} (h : off ≠ off') : reg (bump s off) off' = reg s off' :=
  reg_setNat_other s _ h

/-! ## The write of the tag -/

/-- The one update in which a tree's pending step size and its tag become the committed ones (R331). -/
def commitLr (s : State) (t v : Nat) : State := setNat (setReg s (updReg t 0x10) (reg s (updReg t 0x8))) (updReg t 0xC) v

theorem reg_commitLr_lr (s : State) (t v : Nat) : reg (commitLr s t v) (updReg t 0x10) = reg s (updReg t 0x8) := by
  rw [commitLr, reg_setNat_other _ _ (updReg_ne_updReg t (by decide)), reg_setReg_same]

theorem reg_commitLr_tag (s : State) (t v : Nat) : reg (commitLr s t v) (updReg t 0xC) = BitVec.ofNat 32 v := reg_setNat_same _ _ _

theorem writeLrTag_eq (s : State) (t v : Nat) : writeLrTag s t v =
    if (tree (commitLr s t v) t).lrExpired = some ((commitLr s t v).tb, v) then bump (commitLr s t v) UPD_LATE_LR
    else if rbit (commitLr s t v) (updReg t 0) 26 = true ∧ v = stepOf (commitLr s t v) t then latchLr (commitLr s t v) t
    else commitLr s t v := rfl

/-- What a write of the tag does beside the commit: it counts a late one, or latches the step size that a segment waits for (R332, R333). -/
theorem writeLrTag_cases (s : State) (t v : Nat) :
    writeLrTag s t v = bump (commitLr s t v) UPD_LATE_LR ∨ writeLrTag s t v = latchLr (commitLr s t v) t ∨ writeLrTag s t v = commitLr s t v := by
  rw [writeLrTag_eq]
  split
  · exact .inl rfl
  · split
    · exact .inr (.inl rfl)
    · exact .inr (.inr rfl)

/-- Latching a step size sets UPD_TREE_STAT and UPD_TREE_LR_USED of the tree's block, and no other register of it (R332). -/
theorem reg_latchLr_updReg (s : State) (t : Nat) {k : Nat} (hstat : k % 64 ≠ 0) (hused : k % 64 ≠ 0x14) :
    reg (latchLr s t) (updReg t k) = reg s (updReg t k) := by
  have hne : updReg t 0 ≠ updReg t k := updReg_ne_updReg t hstat.symm
  rw [latchLr, reg_setBit_other _ _ _ (updReg_ne_of_lt t k (by decide)), reg_setBit_other _ _ _ hne, reg_setBit_other _ _ _ hne,
    reg_setReg_other _ _ (updReg_ne_updReg t hused.symm)]

/-- Beside the commit, a write of the tag leaves the tree's block but for its status and the latched step size. -/
theorem reg_writeLrTag_updReg (s : State) (t v : Nat) {k : Nat} (hstat : k % 64 ≠ 0) (hused : k % 64 ≠ 0x14) :
    reg (writeLrTag s t v) (updReg t k) = reg (commitLr s t v) (updReg t k) := by
  rcases writeLrTag_cases s t v with hlate | hlatch | hcommit
  · rw [hlate, reg_bump_other _ (updReg_ne_of_lt t k (by decide))]
  · rw [hlatch, reg_latchLr_updReg _ t hstat hused]
  · rw [hcommit]

/-! ## The two commands -/

theorem exec_lrTagCommit_next {k : Nat} (n : Word) (s : State) (hk : k < 16) :
    exec (.lrTagCommit k n) s = .next (busWrite s (updReg k 0xC) n.toNat) := if_pos (decide_eq_true hk)

/-- A served write of UPD_TREE_LR_PEND stores the whole word there and does nothing else (R331). -/
theorem busWriteSized_updReg_pend {s : State} {k : Nat} (v : Nat) (hk : k < 16) (hopen : windowOpen s = true) (hrec : s.power.recovery = false) :
    busWriteSized s (updReg k 0x8) 4 v = setNat s (updReg k 0x8) v := by
  have hrow := regRow_updReg_pend k hk
  rw [busWriteSized_served s _ v (answers_updReg k _ hopen hrec) (by unfold updReg; omega) (by rw [hrow]; rfl), writeServed_updReg,
    if_neg (by decide), if_neg (by decide), store_allBits s v hrow rfl rfl]

/-- A served write of UPD_TREE_LR_TAG is the tag write of its tree (R331). -/
theorem busWrite_updReg_tag {s : State} {k : Nat} (v : Nat) (hk : k < 16) (hopen : windowOpen s = true) (hrec : s.power.recovery = false) :
    busWrite s (updReg k 0xC) v = writeLrTag s k v := by
  have hrow := regRow_updReg_tag k hk
  rw [busWrite_served s _ v (answers_updReg k _ hopen hrec) (by unfold updReg; omega) (by rw [hrow]; rfl), writeServed_updReg,
    if_pos (by decide), Nat.mod_eq_of_lt hk]

/-- Settles O49: the write of LR_PEND is one store, apart from the committed registers; the write of the tag is the commit, and what it does
beside the commit is apart from them too. -/
theorem stepSizeAndTagCommitTogether : Obligations.StepSizeAndTagCommitTogether := by
  constructor
  · intro k v s hk hopen hrec
    have hoff : updReg k 0x8 < 0x4000000 := Nat.lt_trans (updReg_bounds k _).2 (by decide)
    refine ⟨_, exec_registerWrite_next v s hoff (by decide), ?_⟩
    rw [busWriteSized_updReg_pend v.toNat hk hopen hrec]
    refine ⟨?_, reg_setNat_other s _ (updReg_ne_updReg k (by decide)), reg_setNat_other s _ (updReg_ne_updReg k (by decide)),
      setReg_fabric s _ _⟩
    rw [reg_setNat_same, BitVec.ofNat_toNat, BitVec.setWidth_eq]
  · intro k n s hk hopen hrec
    refine ⟨_, exec_lrTagCommit_next n s hk, ?_⟩
    rw [busWrite_updReg_tag n.toNat hk hopen hrec]
    have hlr : reg (writeLrTag s k n.toNat) (updReg k 0x10) = reg s (updReg k 0x8) := by
      rw [reg_writeLrTag_updReg s k _ (by decide) (by decide), reg_commitLr_lr]
    have htag : reg (writeLrTag s k n.toNat) (updReg k 0xC) = n := by
      rw [reg_writeLrTag_updReg s k _ (by decide) (by decide), reg_commitLr_tag, BitVec.ofNat_toNat, BitVec.setWidth_eq]
    refine ⟨hlr, htag, ?_, ?_⟩
    · rw [regNow_updReg, regNat, hlr]
    · rw [regNow_updReg, regNat, htag]

end Sys2Proof.Machine
end
